-- ==== Sys2Proof/Word.lean ====
section
/-! DEFINITION. The word types of R2 and the tables in which State keeps sparse data. -/

namespace Sys2Proof

/-- A byte is 8 bits (R2). -/
abbrev Byte := BitVec 8
/-- A half is 16 bits (R2). -/
abbrev Half := BitVec 16
/-- A word is 32 bits (R2). -/
abbrev Word := BitVec 32
/-- A double is 64 bits (R2). -/
abbrev Dbl := BitVec 64

/-- Sparse data by key: strictly rising keys, and no entry equal to what an unlisted key reads as. -/
abbrev Tab (α : Type) := List (Nat × α)

end Sys2Proof
end

