-- ==== Sys2Proof/Machine/CsrMap.lean ====
section
/-! DEFINITION. The CSR map: for each number the fields that are not reserved, with their access, reset and
range (R4, R5 and the register tables of every chapter). -/

namespace Sys2Proof.Machine

/-- Access of a field (R4). `go` is a bit that starts an action and reads 0. -/
inductive CsrAcc where
  | ro | rw | w1c | go
  deriving DecidableEq, Repr

/-- The legal values of a field; a value outside becomes the nearest legal one where the chapter says so. -/
inductive CsrRange where
  | any
  | between (least most : Nat)
  /-- Block Watch (R141): 0, or 1,024 to 2^31 - 1. -/
  | watch
  /-- Window Words (R109): a power of two, rounded down. -/
  | pow2
  deriving DecidableEq, Repr

/-- A field: bits [hi:lo]. -/
structure CsrField where
  hi : Nat
  lo : Nat
  acc : CsrAcc
  reset : Nat
  range : CsrRange
  deriving DecidableEq, Repr

/-- A field open to every value, reset 0. -/
def csrRw (hi lo : Nat) : CsrField := ⟨hi, lo, .rw, 0, .any⟩
/-- A read-only field, reset 0. -/
def csrRo (hi lo : Nat) : CsrField := ⟨hi, lo, .ro, 0, .any⟩
/-- A GO bit. -/
def csrGo (bit : Nat) : CsrField := ⟨bit, bit, .go, 0, .any⟩

/-- Tenancy CSR 0x400 + 8n + k (R8, R94, R204). -/
def csrTenancy (k : Nat) : List CsrField :=
  match k with
  | 0 => [csrRw 55 0]
  | 1 => [csrRw 4 0]
  | 2 => [csrRw 55 0]
  | 3 => [⟨10, 0, .rw, 0, .between 0 1024⟩]
  | 4 => [csrRw 27 0]
  | 5 => [csrRw 55 0]
  | 6 => [⟨16, 0, .rw, 0, .between 0 65536⟩]
  | 7 => [csrRw 47 13, csrRw 0 0]
  | _ => []

/-- Tenancy CSR 0x4A0 + 8n + k (R362, R378). -/
def csrFaultBlock (k : Nat) : List CsrField :=
  match k with
  | 0 => [csrRw 63 63, csrRw 55 8, ⟨4, 0, .rw, 0, .between 4 16⟩]
  | 1 => [csrRw 63 63, csrRw 55 8, ⟨4, 0, .rw, 0, .between 4 16⟩]
  | 2 => [csrGo 63, csrRw 62 60, csrRw 23 0]
  | 3 => [csrRw 63 0]
  | 4 => [⟨63, 63, .w1c, 0, .any⟩, csrRw 31 0]
  | 5 => [csrRw 55 14, csrRw 0 0]
  | _ => []

/-- Domain CSR 0x3A8 + 8d + k (R332). -/
def csrDomain (k : Nat) : List CsrField :=
  match k with
  | 0 => [csrRw 63 62, csrRo 61 61, ⟨24, 16, .rw, 256, .between 1 256⟩, ⟨8, 2, .rw, 0, .between 0 64⟩]
  | 1 => [csrRw 47 6]
  | 2 => [csrRw 63 32, csrRo 31 0]
  | 3 => [⟨31, 16, .rw, 64, .between 1 65535⟩, csrRw 15 15, ⟨4, 0, .rw, 6, .between 6 20⟩]
  | 4 => [csrRw 63 32, csrRw 31 0]
  | _ => []

/-- Eight fields of one byte, bits [7] and [3:0] of each (R105), or sixteen of bits [3] and [1:0] (R332). -/
def csrLanes (step : Nat) (subs : List (Nat × Nat)) (n : Nat) : List CsrField :=
  (List.range n).flatMap fun i => subs.map fun p => csrRw (step * i + p.1) (step * i + p.2)

/-- CSRs of one number each: context scope, boot, privilege and the meeting (R49, R81, R90, R109, R305, R321,
R324). -/
def csrLow : List (Nat × List CsrField) :=
  [(0x010, [⟨4, 0, .w1c, 0, .any⟩]),
   (0x011, [csrRw 4 0]),
   (0x012, [csrRo 63 63, csrRo 7 0]),
   (0x013, [csrRw 63 0]),
   (0x014, [csrRo 32 32, csrRo 31 24, csrRo 23 16, csrRo 15 12, csrRo 11 7, csrRo 6 0]),
   (0x0F0, [csrRo 39 32, csrRw 31 0]),
   (0x0F1, [csrRo 63 63, csrRo 9 0]),
   (0x0F8, [csrRw 31 16, csrRw 15 0]),
   (0x0F9, [csrRw 15 0]),
   (0x300, [⟨15, 0, .rw, 1000, .between 64 64000⟩]),
   (0x301, [⟨7, 0, .rw, 128, .between 1 255⟩]),
   (0x302, [⟨13, 0, .rw, 0, .between 0 16000⟩]),
   (0x303, [⟨15, 0, .rw, 64, .any⟩]),
   (0x304, [⟨3, 0, .rw, 2, .between 1 15⟩]),
   (0x305, [⟨29, 0, .rw, 100000, .between 1000 1000000000⟩]),
   (0x306, [⟨7, 0, .rw, 192, .between 1 255⟩]),
   (0x307, [⟨30, 0, .rw, 262144, .between 1024 (2 ^ 30)⟩]),
   (0x308, [⟨14, 0, .rw, 512, .pow2⟩]),
   (0x310, [csrGo 63, csrRw 62 62, csrRw 61 61, csrRw 35 32, csrRw 27 0]),
   (0x311, [csrRo 63 11]),
   (0x312, [csrRo 63 32]),
   (0x313, [csrRo 55 0])]

/-- CSRs of the placement, the Share Table access and translation (R105, R141, R212, R215). -/
def csrMid : List (Nat × List CsrField) :=
  [(0x320, [⟨31, 0, .rw, 1048576, .watch⟩]),
   (0x321, [csrGo 0]),
   (0x322, [⟨15, 0, .ro, 1, .any⟩]),
   (0x323, [csrRw 47 28, csrRw 0 0]),
   (0x340, [csrRw 63 63, csrRw 7 0]),
   (0x349, [⟨15, 0, .rw, 0xFFFF, .any⟩]),
   (0x360, [csrRw 63 0]),
   (0x361, [csrRw 63 0]),
   (0x362, [csrRw 47 3]),
   (0x363, [csrRo 63 48, csrRw 47 32, csrRw 4 0]),
   (0x364, [csrGo 63, csrRo 62 62, csrRw 61 60, csrRw 3 0]),
   (0x365, [csrRw 55 16])]

/-- CSRs of the fabric, cohorts, race checker, faults, Proofs, counters and trace (R265, R314, R332, R358, R371,
R378, R394 to R396). -/
def csrHigh : List (Nat × List CsrField) :=
  [(0x370, [csrRw 47 12]),
   (0x371, [csrGo 63, csrRw 62 62, csrGo 61, csrRo 60 58, csrRo 9 0]),
   (0x372, [csrRw 13 0]),
   (0x373, [⟨7, 0, .ro, 1, .any⟩]),
   (0x374, [⟨12, 0, .rw, 4096, .between 256 4096⟩]),
   (0x375, [⟨31, 0, .rw, 100000, .between 1000 1000000000⟩]),
   (0x376, [⟨31, 16, .rw, 2048, .between 256 65535⟩, ⟨7, 0, .rw, 8, .between 1 255⟩]),
   (0x377, [⟨31, 0, .rw, 100000, .between 10000 1000000000⟩]),
   (0x378, [csrRw 47 6]),
   (0x379, [csrGo 63, csrRo 62 62, csrRo 9 0]),
   (0x37A, [csrRw 47 16]),
   (0x37B, [csrRw 47 16]),
   (0x390, [csrRw 47 32, csrRw 0 0]),
   (0x3A0, csrLanes 4 [(3, 3), (1, 0)] 16),
   (0x3A1, [csrRw 47 14, csrRw 4 0]),
   (0x3A2, [csrRw 47 26, csrRw 0 0]),
   (0x3D8, [csrRw 4 2, ⟨1, 0, .rw, 3, .any⟩]),
   (0x3D9, [⟨31, 0, .rw, 1000000, .any⟩]),
   (0x3DA, [csrRw 47 22, csrRw 4 1, csrRw 0 0]),
   (0x3DB, [csrGo 63, csrRw 62 62, csrRw 23 16, csrRw 15 8]),
   (0x3DC, [csrGo 63, csrRw 7 0]),
   (0x3F0, [csrRw 47 16, csrRw 0 0]),
   (0x3F1, [⟨30, 0, .rw, 2 ^ 30, .between (2 ^ 20) (2 ^ 30)⟩]),
   (0x3F2, [csrRw 63 63, csrRw 62 62, csrRw 61 54, csrRw 53 50, csrGo 49, csrRw 47 40, csrRo 31 0]),
   (0x3F3, [csrRw 47 12, ⟨4, 0, .rw, 10, .between 10 24⟩]),
   (0x3F4, [csrRw 47 16, csrRw 0 0]),
   (0x3F5, [csrRo 47 32, csrRo 15 0]),
   (0x3F6, [⟨47, 32, .rw, 3800, .any⟩, ⟨15, 0, .rw, 1520, .any⟩])]

/-- The fields of the entry for `num`, none where the list has no entry. -/
def csrFind (num : Nat) : List (Nat × List CsrField) → List CsrField
  | [] => []
  | (n, fs) :: rest => if n = num then fs else csrFind num rest

/-- The fields of CSR `num` that are not reserved; no field for a number that no table lists. DEDUCED (log entry 56). -/
def csrFields (num : Nat) : List CsrField :=
  if 0x400 ≤ num ∧ num < 0x480 then csrTenancy ((num - 0x400) % 8)
  else if 0x480 ≤ num ∧ num < 0x490 then [csrRw 55 4, csrRw 0 0]
  else if 0x4A0 ≤ num ∧ num < 0x520 then csrFaultBlock ((num - 0x4A0) % 8)
  else if 0x3A8 ≤ num ∧ num < 0x3C8 then csrDomain ((num - 0x3A8) % 8)
  else if 0x341 ≤ num ∧ num < 0x349 then csrLanes 8 [(7, 7), (3, 0)] 8
  else csrFind num (if num < 0x320 then csrLow else if num < 0x370 then csrMid else csrHigh)

/-- Whether a CSR table of the manual lists `num` (R155). -/
def csrListed (num : BitVec 12) : Bool := !(csrFields num.toNat).isEmpty

end Sys2Proof.Machine
end

