-- ==== Sys2Proof/Syntax.lean ====
section
/-! DEFINITION. The operations and events of the part (spec/opcode_table.json), one constructor of
`Instr` per row, with the plain data they carry. -/

namespace Sys2Proof

/-- Fire modes, encoded 00 to 11 (R60, R118). -/
inductive FireMode | always | any | onTrue | onFalse
  deriving DecidableEq, Repr

/-- Type field IT of the integer families (R149). -/
inductive IntTy | i32 | n32 | i64 | n64
  deriving DecidableEq, Repr

/-- Type field RT of the raw families (R149). -/
inductive RawTy | w | h | b | d
  deriving DecidableEq, Repr

/-- Type field FT of the float and tapered families (R149). -/
inductive FloatTy | t16 | t32 | bf16 | f32
  deriving DecidableEq, Repr

/-- Type field AT of the reductions (R149). -/
inductive AccTy | i32 | i64 | t32 | f32
  deriving DecidableEq, Repr

/-- The types of the special functions (R182). -/
inductive SpTy | t16 | bf16
  deriving DecidableEq, Repr

/-- The types an `amo` encodes (R153). -/
inductive AmoTy | i32 | n32 | i64 | f32 | t16
  deriving DecidableEq, Repr

/-- The type codes 0x1 to 0xE (R27). -/
inductive Ty | i8 | i16 | i32 | i64 | n8 | n16 | n32 | n64 | t8 | t16 | t32 | d8 | bf16 | f32
  deriving DecidableEq, Repr

/-- The expected-scale field EX (R150). -/
inductive Ex | pass | scaled | unscaled
  deriving DecidableEq, Repr

/-- The ORD field of `amo` and `cas` (R153). -/
inductive Ord | plain | acq | rel | acqRel
  deriving DecidableEq, Repr

/-- The five scopes, from the narrowest (R153, R287). -/
inductive Scope | ctx | press | group | device | system
  deriving DecidableEq, Repr

/-- The level of a fence (R153, R234). -/
inductive Level | order | acc | vis
  deriving DecidableEq, Repr

/-- The aperture field of `cvta` and `isap` (R152, R237). -/
inductive Ap | glob | lf | grp | dev
  deriving DecidableEq, Repr

/-- The ports a, b, p and c, coded 0 to 3 (R148). -/
inductive Port | a | b | p | c
  deriving DecidableEq, Repr

/-- Element widths (R116, R161). -/
inductive Width | w32 | w16 | w8 | w64
  deriving DecidableEq, Repr

/-- The host windows whose plain register writes have no row of their own (R68). -/
inductive Window | w0 | w2
  deriving DecidableEq, Repr

/-- A target field: bits [8:2] the instruction index, [1:0] the port; 0x1FF means none (R148). -/
abbrev Target := BitVec 9

/-- A token in flight or waiting (R116). Its context names TAG and PL. `vals` holds LEN + 1 elements,
zero-extended; a null holds that many zeros and an EOS token holds its bound. `head` is the first
element of the token as its source sent it (R183), and `span` the count of elements that it had there, which its pieces keep (R173,
R225). `src` and `born` name the instruction and the
firing that sent it (R119, R397), `came` is when it arrived. A token that waits in the overflow table holds `spill`: whether in
the shared part or in its context's reservation (R122). -/
structure Token where
  inst : Nat
  port : Port
  iter : Nat
  vals : List Dbl
  nul : Bool
  eos : Bool
  scaled : Bool
  sb : BitVec 5
  ew : Width
  standing : Bool
  head : Dbl
  span : Nat
  src : Nat
  born : Nat
  came : Nat
  spill : Option Bool
  deriving DecidableEq, Repr

/-- A flit (R271). `payload` holds the LEN + 1 bytes in use. -/
structure Flit where
  resp : Bool
  hop : BitVec 2
  kind : BitVec 5
  dst : BitVec 14
  src : BitVec 14
  xtag : BitVec 12
  idx : BitVec 9
  payload : List Byte
  seq : BitVec 24
  crc : Word
  deriving DecidableEq, Repr

/-- The operations and events of the part, one constructor per row of the table. Rows with words carry
the fields of their encoding; the unit events carry what the outside or a unit supplies. -/
inductive Instr where
  /-- ADD_INT (R165): Integer add of ports a and b, wrapping modulo 2^w. -/
  | addInt (f : FireMode) (t u : Target) (ty : IntTy)
  /-- SUB_INT (R165): Integer subtract of port b from port a, wrapping modulo 2^w. -/
  | subInt (f : FireMode) (t u : Target) (ty : IntTy)
  /-- ADD_CLAMP (R165): Integer add clamped to the type range, setting SA when it clamps. -/
  | addClamp (f : FireMode) (t u : Target) (ty : IntTy)
  /-- SUB_CLAMP (R165): Integer subtract clamped to the type range, setting SA when it clamps. -/
  | subClamp (f : FireMode) (t u : Target) (ty : IntTy)
  /-- MIN_INT (R165): Delivers the smaller of two integers. -/
  | minInt (f : FireMode) (t u : Target) (ty : IntTy)
  /-- MAX_INT (R165): Delivers the larger of two integers. -/
  | maxInt (f : FireMode) (t u : Target) (ty : IntTy)
  /-- ABS_INT (R165): Signed integer absolute value modulo 2^w, on .i32 or .i64 only. -/
  | absInt (f : FireMode) (t u : Target) (wide : Bool)
  /-- MUL_INT (R165): Integer multiply, keeping the low w bits. -/
  | mulInt (f : FireMode) (t u : Target) (ty : IntTy)
  /-- MULH (R165): Delivers the high half of the exact integer product. -/
  | mulh (f : FireMode) (t u : Target) (ty : IntTy)
  /-- DIV (R165): Integer division truncating towards zero, setting DZ on a zero divisor. -/
  | div (f : FireMode) (t u : Target) (ty : IntTy)
  /-- REM (R165): Integer remainder with the sign of the dividend, setting DZ on a zero divisor. -/
  | rem (f : FireMode) (t u : Target) (ty : IntTy)
  /-- MUL_CLAMP (R165): Integer multiply clamped to the type range, setting SA when it clamps. -/
  | mulClamp (f : FireMode) (t u : Target) (ty : IntTy)
  /-- AND (R167): Bitwise and of two raw values. -/
  | and (f : FireMode) (t u : Target) (r : RawTy)
  /-- OR (R167): Bitwise or of two raw values. -/
  | or (f : FireMode) (t u : Target) (r : RawTy)
  /-- XOR (R167): Bitwise exclusive or of two raw values. -/
  | xor (f : FireMode) (t u : Target) (r : RawTy)
  /-- ANDN (R167): Bitwise x and not y. -/
  | andn (f : FireMode) (t u : Target) (r : RawTy)
  /-- ORN (R167): Bitwise x or not y. -/
  | orn (f : FireMode) (t u : Target) (r : RawTy)
  /-- XNOR (R167): Bitwise not of x xor y. -/
  | xnor (f : FireMode) (t u : Target) (r : RawTy)
  /-- SHL (R167): Shift left by y mod w. -/
  | shl (f : FireMode) (t u : Target) (r : RawTy)
  /-- SHR (R167): Logical shift right by y mod w. -/
  | shr (f : FireMode) (t u : Target) (r : RawTy)
  /-- SAR (R167): Arithmetic shift right by y mod w. -/
  | sar (f : FireMode) (t u : Target) (r : RawTy)
  /-- ROTL (R167): Rotate left by y mod w. -/
  | rotl (f : FireMode) (t u : Target) (r : RawTy)
  /-- POPC (R167): Counts the one bits of x. -/
  | popc (f : FireMode) (t u : Target) (r : RawTy)
  /-- CLZ (R167): Counts the leading zero bits of x. -/
  | clz (f : FireMode) (t u : Target) (r : RawTy)
  /-- CTZ (R167): Counts the trailing zero bits of x. -/
  | ctz (f : FireMode) (t u : Target) (r : RawTy)
  /-- BREV (R167): Reverses the bit order of x. -/
  | brev (f : FireMode) (t u : Target) (r : RawTy)
  /-- CMP_EQ (R168): Integer compare for equality, delivering 32-bit 1 or 0. -/
  | cmpEq (f : FireMode) (t u : Target) (ty : IntTy)
  /-- CMP_NE (R168): Integer compare for inequality. -/
  | cmpNe (f : FireMode) (t u : Target) (ty : IntTy)
  /-- CMP_LT (R168): Integer compare less than. -/
  | cmpLt (f : FireMode) (t u : Target) (ty : IntTy)
  /-- CMP_LE (R168): Integer compare less or equal. -/
  | cmpLe (f : FireMode) (t u : Target) (ty : IntTy)
  /-- CMP_GT (R168): Integer compare greater than. -/
  | cmpGt (f : FireMode) (t u : Target) (ty : IntTy)
  /-- CMP_GE (R168): Integer compare greater or equal. -/
  | cmpGe (f : FireMode) (t u : Target) (ty : IntTy)
  /-- CMP_EQ_FLOAT (R178): Float or tapered compare for equality. -/
  | cmpEqFloat (f : FireMode) (t u : Target) (y : FloatTy)
  /-- CMP_NE_FLOAT (R178): Float or tapered compare for inequality. -/
  | cmpNeFloat (f : FireMode) (t u : Target) (y : FloatTy)
  /-- CMP_LT_FLOAT (R178): Float or tapered compare less than. -/
  | cmpLtFloat (f : FireMode) (t u : Target) (y : FloatTy)
  /-- CMP_LE_FLOAT (R178): Float or tapered compare less or equal. -/
  | cmpLeFloat (f : FireMode) (t u : Target) (y : FloatTy)
  /-- CMP_GT_FLOAT (R178): Float or tapered compare greater than. -/
  | cmpGtFloat (f : FireMode) (t u : Target) (y : FloatTy)
  /-- CMP_GE_FLOAT (R178): Float or tapered compare greater or equal. -/
  | cmpGeFloat (f : FireMode) (t u : Target) (y : FloatTy)
  /-- SEL (R169): Selects port a when the selector on port c is nonzero, else port b. -/
  | sel (f : FireMode) (t u : Target) (r : RawTy)
  /-- ADDI (R170): Adds a signed 14-bit immediate to a 32-bit integer. -/
  | addi (f : FireMode) (t : Target) (k : BitVec 14)
  /-- ANDI (R170): Bitwise and with a zero-extended immediate. -/
  | andi (f : FireMode) (t : Target) (k : BitVec 14)
  /-- ORI (R170): Bitwise or with a zero-extended immediate. -/
  | ori (f : FireMode) (t : Target) (k : BitVec 14)
  /-- XORI (R170): Bitwise exclusive or with a zero-extended immediate. -/
  | xori (f : FireMode) (t : Target) (k : BitVec 14)
  /-- SHLI (R170): Shift left by an immediate amount 0 to 31. -/
  | shli (f : FireMode) (t : Target) (k : BitVec 5)
  /-- SHRI (R170): Logical shift right by an immediate amount. -/
  | shri (f : FireMode) (t : Target) (k : BitVec 5)
  /-- SARI (R170): Arithmetic shift right by an immediate amount. -/
  | sari (f : FireMode) (t : Target) (k : BitVec 5)
  /-- MOVI (R170): Delivers a sign-extended 12-bit immediate; fires at block start in mode always. -/
  | movi (f : FireMode) (t : Target) (k : BitVec 12)
  /-- MOVHI (R170): Shifts its input left by 12 and appends 12 immediate bits. -/
  | movhi (f : FireMode) (t : Target) (k : BitVec 12)
  /-- CMPI_EQ (R170): Compares its input with a signed immediate for equality. -/
  | cmpiEq (f : FireMode) (t : Target) (k : BitVec 12)
  /-- CMPI_LT (R170): Signed compare of its input below a signed immediate. -/
  | cmpiLt (f : FireMode) (t : Target) (k : BitVec 12)
  /-- ADD_FLOAT (R176): Float or tapered add, rounded once. -/
  | addFloat (f : FireMode) (t u : Target) (x : Ex) (y : FloatTy)
  /-- SUB_FLOAT (R176): Float or tapered subtract, rounded once. -/
  | subFloat (f : FireMode) (t u : Target) (x : Ex) (y : FloatTy)
  /-- MUL_FLOAT (R176): Float or tapered multiply, rounded once. -/
  | mulFloat (f : FireMode) (t u : Target) (x : Ex) (y : FloatTy)
  /-- FMA (R176): Fused multiply-add x*y+z rounded once. -/
  | fma (f : FireMode) (t u : Target) (x : Ex) (y : FloatTy)
  /-- FMS (R176): Fused multiply-subtract x*y-z rounded once. -/
  | fms (f : FireMode) (t u : Target) (x : Ex) (y : FloatTy)
  /-- MIN_FLOAT (R177): Float or tapered minimum under the orders of R36 and R39. -/
  | minFloat (f : FireMode) (t u : Target) (y : FloatTy)
  /-- MAX_FLOAT (R177): Float or tapered maximum under the orders of R36 and R39. -/
  | maxFloat (f : FireMode) (t u : Target) (y : FloatTy)
  /-- ABS_FLOAT (R177): Float or tapered absolute value. -/
  | absFloat (f : FireMode) (t u : Target) (y : FloatTy)
  /-- NEG_FLOAT (R177): Float or tapered negation. -/
  | negFloat (f : FireMode) (t u : Target) (y : FloatTy)
  /-- CVT (R179): Converts between type classes by the matrix of R44. -/
  | cvt (f : FireMode) (dst src : Ty) (t : Target) (x : Ex)
  /-- EXP2 (R182): Correctly rounded 2^x on .t16 or .bf16. -/
  | exp2 (f : FireMode) (t u : Target) (y : SpTy)
  /-- LOG2 (R182): Correctly rounded base-2 logarithm. -/
  | log2 (f : FireMode) (t u : Target) (y : SpTy)
  /-- RCP (R182): Correctly rounded reciprocal. -/
  | rcp (f : FireMode) (t u : Target) (y : SpTy)
  /-- RSQRT (R182): Correctly rounded reciprocal square root. -/
  | rsqrt (f : FireMode) (t u : Target) (y : SpTy)
  /-- SIGM (R182): Correctly rounded logistic sigmoid. -/
  | sigm (f : FireMode) (t u : Target) (y : SpTy)
  /-- TANH (R182): Correctly rounded hyperbolic tangent. -/
  | tanh (f : FireMode) (t u : Target) (y : SpTy)
  /-- SCALE_APPLY (R181): Multiplies a scaled value by 2^k and marks it unscaled. -/
  | scaleApply (f : FireMode) (t u : Target) (y : FloatTy)
  /-- SCALE_STRIP (R181): Divides an unscaled value by 2^k and marks it scaled. -/
  | scaleStrip (f : FireMode) (t u : Target) (y : FloatTy)
  /-- PERM (R183): Permutes the elements of a run by an index run. -/
  | perm (f : FireMode) (t u : Target) (r : RawTy)
  /-- BCAST (R183): Broadcasts the first element of a token over its range. -/
  | bcast (f : FireMode) (t u : Target) (r : RawTy)
  /-- RED_ADD (R184): Sums a stream in ascending iteration and delivers at EOS. -/
  | redAdd (f : FireMode) (t u : Target) (a : AccTy)
  /-- RED_MAX (R184): Maximum of a stream, delivered at EOS. -/
  | redMax (f : FireMode) (t u : Target) (a : AccTy)
  /-- RED_MIN (R184): Minimum of a stream, delivered at EOS. -/
  | redMin (f : FireMode) (t u : Target) (a : AccTy)
  /-- SCAN_ADD (R184): Running sum of a stream in ascending iteration. -/
  | scanAdd (f : FireMode) (t u : Target) (a : AccTy)
  /-- RPACK (R186): Regroups a stream into runs of 32 iterations. -/
  | rpack (f : FireMode) (t u : Target) (r : RawTy)
  /-- TURN (R187): Transposes a stream in groups of 1,024 iterations through a turn buffer. -/
  | turn (f : FireMode) (t u : Target) (r : RawTy)
  /-- MOV_FULL (R171): Copies its token to up to two targets. -/
  | movFull (f : FireMode) (t u : Target)
  /-- NULL_FULL (R171): Delivers a null token to up to two targets. -/
  | nullFull (f : FireMode) (t u : Target)
  /-- MOV_COMPACT (R193): Compact copy of a token to one target. -/
  | movCompact (f : FireMode) (t : Target)
  /-- NULL_COMPACT (R193): Compact delivery of a null to one target. -/
  | nullCompact (f : FireMode) (t : Target)
  /-- NOT (R193): Compact bitwise not of a 32-bit value. -/
  | not (f : FireMode) (t : Target)
  /-- NEG (R193): Compact 32-bit integer negation. -/
  | neg (f : FireMode) (t : Target)
  /-- INC (R193): Compact 32-bit increment. -/
  | inc (f : FireMode) (t : Target)
  /-- DEC (R193): Compact 32-bit decrement. -/
  | dec (f : FireMode) (t : Target)
  /-- ISZ (R193): Compact test for zero delivering 1 or 0. -/
  | isz (f : FireMode) (t : Target)
  /-- NZ (R193): Compact test for nonzero delivering 1 or 0. -/
  | nz (f : FireMode) (t : Target)
  /-- RDG (R172): Delivers the value of a G register fixed at the previous commit. -/
  | rdg (f : FireMode) (g : BitVec 8) (t : Target)
  /-- WRG (R173): Counts a G register write that takes effect at commit. -/
  | wrg (f : FireMode) (g : BitVec 8)
  /-- ITER (R174): Emits the iteration runs and EOS of a resident loop. -/
  | iter (f : FireMode) (t : Target)
  /-- LFLD (R189): Loads from the context's Lane File window. -/
  | lfld (f : FireMode) (t u : Target) (r : RawTy)
  /-- LFST (R189): Stores into the context's Lane File window. -/
  | lfst (f : FireMode) (r : RawTy)
  /-- LFLD_V (R189): Vector Lane File load across lanes. -/
  | lfldV (f : FireMode) (t u : Target) (r : RawTy)
  /-- LFST_V (R189): Vector Lane File store across lanes. -/
  | lfstV (f : FireMode) (r : RawTy)
  /-- LFSWP (R189): Indivisibly writes Lane File bytes and delivers the bytes replaced. -/
  | lfswp (f : FireMode) (t u : Target) (r : RawTy)
  /-- LD (R228): Loads through a base register plus an index, optionally with acquire. -/
  | ld (f : FireMode) (l : BitVec 5) (t : Target) (b : BitVec 4) (y : Ty) (acq : Bool)
  /-- LD_V (R228): Loads a window of 32 consecutive elements. -/
  | ldV (f : FireMode) (l : BitVec 5) (t : Target) (b : BitVec 4) (y : Ty) (acq : Bool)
  /-- ST (R229): Stores at base plus offset and delivers its LSID, optionally as release. -/
  | st (f : FireMode) (l : BitVec 5) (b : BitVec 4) (y : Ty) (rel : Bool) (k : BitVec 9)
  /-- ST_V (R229): Stores a window of 32 elements and delivers its LSID once. -/
  | stV (f : FireMode) (l : BitVec 5) (b : BitVec 4) (y : Ty) (rel : Bool) (k : BitVec 9)
  /-- AMO_ADD (R231): Atomic add delivering the old value. -/
  | amoAdd (f : FireMode) (l : BitVec 5) (t : Target) (y : AmoTy) (o : Ord) (sys : Bool)
  /-- AMO_AND (R231): Atomic bitwise and delivering the old value. -/
  | amoAnd (f : FireMode) (l : BitVec 5) (t : Target) (y : AmoTy) (o : Ord) (sys : Bool)
  /-- AMO_OR (R231): Atomic bitwise or delivering the old value. -/
  | amoOr (f : FireMode) (l : BitVec 5) (t : Target) (y : AmoTy) (o : Ord) (sys : Bool)
  /-- AMO_XOR (R231): Atomic bitwise exclusive or delivering the old value. -/
  | amoXor (f : FireMode) (l : BitVec 5) (t : Target) (y : AmoTy) (o : Ord) (sys : Bool)
  /-- AMO_MIN (R231): Atomic minimum delivering the old value. -/
  | amoMin (f : FireMode) (l : BitVec 5) (t : Target) (y : AmoTy) (o : Ord) (sys : Bool)
  /-- AMO_MAX (R231): Atomic maximum delivering the old value. -/
  | amoMax (f : FireMode) (l : BitVec 5) (t : Target) (y : AmoTy) (o : Ord) (sys : Bool)
  /-- AMO_XCHG (R231): Atomic exchange delivering the old value. -/
  | amoXchg (f : FireMode) (l : BitVec 5) (t : Target) (y : AmoTy) (o : Ord) (sys : Bool)
  /-- CAS (R232): Atomic compare-and-swap delivering the old value. -/
  | cas (f : FireMode) (l : BitVec 5) (t : Target) (wide : Bool) (o : Ord) (sys : Bool)
  /-- FENCE (R234): Waits for earlier accesses to be performed at its scope and level. -/
  | fence (f : FireMode) (l : BitVec 5) (t : Target) (scope : Scope) (level : Level)
  /-- QFENCE (R235): Waits until earlier operations of the named engine queues are performed. -/
  | qfence (f : FireMode) (t : Target) (mask : BitVec 8)
  /-- BSET (R236): Sets a base register at commit. -/
  | bset (f : FireMode) (n : BitVec 4)
  /-- BADD (R236): Adds to a base register at commit. -/
  | badd (f : FireMode) (n : BitVec 4)
  /-- BGET (R236): Delivers a base register as fixed at the previous commit. -/
  | bget (f : FireMode) (n : BitVec 4) (t : Target)
  /-- CVTA (R237): Rewrites a generic address into a target aperture form. -/
  | cvta (f : FireMode) (t : Target) (ap : Ap)
  /-- ISAP (R237): Tests whether an address lies in a given aperture. -/
  | isap (f : FireMode) (t : Target) (ap : Ap)
  /-- TILE_FILL (R239): Moves an Empty tile slot to Filling for the context. -/
  | tileFill (f : FireMode) (tid : BitVec 10) (t : Target)
  /-- TILE_READY (R239): Moves a Filling slot to Ready after its writes are performed. -/
  | tileReady (f : FireMode) (tid : BitVec 10) (t : Target)
  /-- TILE_DRAIN (R239): Moves a Ready slot to Draining and queues its write to memory. -/
  | tileDrain (f : FireMode) (tid : BitVec 10) (t : Target)
  /-- TILE_FREE (R239): Moves a Ready slot to Empty. -/
  | tileFree (f : FireMode) (tid : BitVec 10) (t : Target)
  /-- TILE_STAT (R239): Delivers the Tile Table entry of a slot. -/
  | tileStat (f : FireMode) (t : Target)
  /-- RING_DEF (R241): Defines a tile ring of the context. -/
  | ringDef (f : FireMode) (tid : BitVec 10) (t : Target)
  /-- MX_DEF (R243): Queues a standing matrix operation on a matrix unit. -/
  | mxDef (f : FireMode) (tid : BitVec 10) (t : Target) (unit : Bool)
  /-- MX_UNBIND (R248): Unbinds the context's matrix operation after its current firing. -/
  | mxUnbind (f : FireMode) (t : Target) (unit : Bool)
  /-- GV_AFF (R249): Configures an affine Graver pattern. -/
  | gvAff (f : FireMode) (tid : BitVec 10) (t : Target) (g : BitVec 2)
  /-- GV_IND (R249): Configures an indirect Graver pattern fed by an index stream. -/
  | gvInd (f : FireMode) (tid : BitVec 10) (t : Target) (g : BitVec 2)
  /-- GV_GO (R249): Runs the Graver configuration most recently made by the context. -/
  | gvGo (f : FireMode) (t : Target) (g : BitVec 2)
  /-- CP_GO (R254): Queues a local copy of 64 to 65,536 bytes. -/
  | cpGo (f : FireMode) (n : BitVec 10) (t : Target)
  /-- CP_REM (R255): Queues a copy to a remote destination over the fabric. -/
  | cpRem (f : FireMode) (n : BitVec 10) (t : Target)
  /-- ENG_CMD (R256): Marks a point in one engine queue and delivers its value when reached. -/
  | engCmd (f : FireMode) (t : Target) (q : BitVec 3)
  /-- PLATE_LD (R257): Loads a plate image into a Group and delivers the result. -/
  | plateLd (f : FireMode) (t u : Target)
  /-- PLATE_EV (R258): Marks a plate for eviction from a Group. -/
  | plateEv (f : FireMode) (t u : Target)
  /-- PLATE_Q (R259): Delivers the status of a plate in a Group. -/
  | plateQ (f : FireMode) (t u : Target)
  /-- EMIT (R307): Copies a stimulus into the held area for release at retirement. -/
  | emit (f : FireMode) (t u : Target)
  /-- EMIT_T (R307): Releases and sends a stimulus at once. -/
  | emitT (f : FireMode) (t u : Target)
  /-- EMIT_X (R307): Holds a stimulus for a host sink ring until retirement. -/
  | emitX (f : FireMode) (t u : Target)
  /-- SPAWN (R309): Starts one child context per argument element. -/
  | spawn (f : FireMode) (t : Target) (k : BitVec 14)
  /-- REST (R311): Writes members' state heads back at commit through queue CP. -/
  | rest (f : FireMode)
  /-- BIND (R313): Rebinds an agent to a plate at its home Walker. -/
  | bind (f : FireMode) (t u : Target)
  /-- HINT (R313): Writes an agent's hint fields at its home Walker. -/
  | hint (f : FireMode) (t u : Target)
  /-- AQ (R313): Queries an agent's Meeting Store entry, optionally clearing age or block. -/
  | aq (f : FireMode) (t u : Target)
  /-- JOIN (R315): Adds an agent to a cohort, creating it if dissolved. -/
  | join (f : FireMode) (t u : Target)
  /-- LEAVE (R315): Removes an agent from a cohort. -/
  | leave (f : FireMode) (t u : Target)
  /-- CBAR (R316): Records agents' arrivals in a cohort barrier round. -/
  | cbar (f : FireMode) (t u : Target)
  /-- CQ (R318): Delivers the status of a cohort. -/
  | cq (f : FireMode) (t u : Target)
  /-- CRED_ADD_I32 (R316): Contributes to a cohort integer sum reduction. -/
  | credAddI32 (f : FireMode) (t u : Target)
  /-- CRED_ADD_F32 (R316): Contributes to a cohort float sum reduction. -/
  | credAddF32 (f : FireMode) (t u : Target)
  /-- CRED_MAX_I32 (R316): Contributes to a cohort integer maximum. -/
  | credMaxI32 (f : FireMode) (t u : Target)
  /-- CRED_MAX_F32 (R316): Contributes to a cohort float maximum. -/
  | credMaxF32 (f : FireMode) (t u : Target)
  /-- CRED_MIN_I32 (R316): Contributes to a cohort integer minimum. -/
  | credMinI32 (f : FireMode) (t u : Target)
  /-- CRED_MIN_F32 (R316): Contributes to a cohort float minimum. -/
  | credMinF32 (f : FireMode) (t u : Target)
  /-- LEASE_REQ (R319): Requests k wavelengths towards a neighbour from the lease arbiter. -/
  | leaseReq (f : FireMode) (t u : Target)
  /-- LEASE_GIVE (R319): Returns k live wavelengths to RETIRING. -/
  | leaseGive (f : FireMode) (t u : Target)
  /-- LEASE_REV (R319): Supervisor revocation of k live wavelengths. -/
  | leaseRev (f : FireMode) (t u : Target)
  /-- LEASE_Q (R319): Delivers the lease status towards a neighbour. -/
  | leaseQ (f : FireMode) (t u : Target)
  /-- EXIT (R191): Fires an exit that selects the successor block or ends the step. -/
  | exit (f : FireMode) (e : BitVec 3) (off : BitVec 20)
  /-- EXIT_I (R192): Fires an exit to a successor address taken from port a. -/
  | exitI (f : FireMode) (e : BitVec 3)
  /-- TRAP (R320): Diverts the block entry's commit into the tenancy trap block. -/
  | trap (f : FireMode) (n : BitVec 8)
  /-- TRET (R320): Diverts a later commit back to the saved trap return. -/
  | tret (f : FireMode)
  /-- MFS (R322): Reads a CSR. -/
  | mfs (f : FireMode) (t : Target) (csr : BitVec 12)
  /-- MTS (R322): Writes a CSR under its access codes. -/
  | mts (f : FireMode) (csr : BitVec 12)
  /-- NOP (R324): Does nothing and consumes its predicate. -/
  | nop (f : FireMode)
  /-- BRK (R396): Stops the context precisely when its tenancy's BRK bit is set. -/
  | brk (f : FireMode) (k : BitVec 10)
  /-- TRMK (R324): Passes its token on and writes a trace mark record. -/
  | trmk (f : FireMode) (t : Target) (k : BitVec 10)
  /-- STYLUS (R397): Starts a critical-path walk ending at this firing. -/
  | stylus (f : FireMode) (k : BitVec 10)
  /-- CTR_RD (R393): Delivers the total of an event counter. -/
  | ctrRd (f : FireMode) (t : Target) (e : BitVec 10)
  /-- CTR_CLR (R394): Clears the live count and total of an event counter. -/
  | ctrClr (f : FireMode) (e : BitVec 10)
  /-- PREEMPT (R325): Starts a marker drain of a named context. -/
  | preempt (f : FireMode)
  /-- ABORT (R326): Ends the step without retirement, returning or quarantining head stimuli. -/
  | abort (f : FireMode) (q : Bool)
  /-- REGISTER_WRITE (R4): Write to a register that has no row of its own, under its access codes and range clamping. -/
  | registerWrite (win : Window) (func link off : Nat) (v : Dbl)
  /-- SELF_TEST_DONE (R77): A function's self-test finishes and sets its Ready or Failed bit. -/
  | selfTestDone (bit : Nat) (passed : Bool)
  /-- PRESS_POWER_UP (R79): The Wake Sequencer starts powering up the next Press after 500 ns. -/
  | pressPowerUp (press : Nat)
  /-- MATRIX_RAMP_DONE (R79): Both matrix units of a Press finish ramping and the Press becomes ready. -/
  | matrixRampDone (press : Nat)
  /-- W4_WRITE (R69): Host write through window W4, merged or checked at the base die. -/
  | w4Write (func link addr : Nat) (bytes : List Byte)
  /-- W4_READ (R69): Host read through window W4 with check-word verification. -/
  | w4Read (func link addr n : Nat)
  /-- PORT_BINDING_WRITE (R70): Write of an ingress port binding double 0 starts a new stream. -/
  | portBindingWrite (link port : Nat) (v : Dbl)
  /-- PROD_WRITE (R71): Host PROD write publishes ingress port slots by copying them. -/
  | prodWrite (func link port : Nat) (v : Dbl)
  /-- INGRESS_ACCEPT (R71): The port stamps, checks and accepts a copied slot once a Group and Walker are ready. -/
  | ingressAccept (port : Nat)
  /-- EGRESS_DRAIN (R76): A waiting egress stimulus is delivered once its sink ring has room. -/
  | egressDrain (ten ring : Nat)
  /-- KEY_SLOT_WRITE (R82): Write to a Plate Key Table slot, discarded once the table is locked; slot k by way of link l
is number 8l + k (R84). -/
  | keySlotWrite (slot off : Nat) (v : Dbl)
  /-- STIMULUS_ARRIVAL (R85): The home Walker takes a stimulus, forwarding, queueing or promoting for it. -/
  | stimulusArrival (walker : Nat)
  /-- QUEUE_REFILL (R91): Walker copies the next HBM queue slot into the on-chip queue. -/
  | queueRefill (ten agent : Nat)
  /-- DEMOTION (R91): After the Demote Delay, the entry's stimuli go back to HBM and the agent sleeps. -/
  | demotion (ten agent : Nat)
  /-- ENTRY_MOVE (R93): An overdue entry moves to its new meeting place once way and slots are reserved. -/
  | entryMove (ten agent : Nat)
  /-- PLATE_LOAD_START (R94): A waiting plate load starts when budget and tile slots allow. -/
  | plateLoadStart (group load : Nat)
  /-- PLATE_LOAD_COMPLETE (R24): A plate load finishes its checks and sets presence or fails. -/
  | plateLoadComplete (group load : Nat)
  /-- IMPRESSION_GATHER (R100): Each cycle the Scheduler adds the highest-ranked ready entry to an impression. -/
  | impressionGather (group : Nat)
  /-- BATCH_WINDOW_EXPIRY (R101): The Batch Window of an open impression expires and it closes. -/
  | batchWindowExpiry (group imp : Nat)
  /-- ADMISSION (R102): A closed impression is admitted to a Press when a tag and window are free. -/
  | admission (group : Nat)
  /-- SHARE_TABLE_SWAP (R105): A Press copies the Share Table shadow into its live table at the wrap. -/
  | shareTableSwap (press : Nat)
  /-- SPAWN_STARVE (R107): Spawn Starve Cycles elapse without a freed spawn tag and the oldest spawner faults. -/
  | spawnStarve (press : Nat)
  /-- CARD_DEAL (R108): A Group Scheduler deals a chunk of card records as stimuli. -/
  | cardDeal (group : Nat)
  /-- BLOCK_FETCH (R123): The Sequencer's fetch of a block image completes. -/
  | blockFetch (ctx : Nat)
  /-- REGION_ACQUIRE (R125): A context takes a free placement region it waited for. -/
  | regionAcquire (ctx : Nat)
  /-- MAPPER_PLACE (R124): The Mapper finishes checking, placing and routing a block. -/
  | mapperPlace (ctx : Nat)
  /-- CONFIG_PACKET_COMPLETE (R126): A PE's configuration packet completes and it starts acting on the block. -/
  | configPacketComplete (ctx inst : Nat)
  /-- TOKEN_ARRIVAL (R120): A token arrives at a port and is matched, fired or left waiting. -/
  | tokenArrival (ctx : Nat) (tok : Token)
  /-- ITER_EMIT (R132): iter emits its next run once enough frames are free. -/
  | iterEmit (ctx inst : Nat)
  /-- COMMIT (R129): A block commits, writing G registers and selecting its successor. -/
  | commit (ctx : Nat)
  /-- BLOCK_WATCH_EXPIRY (R140): Block Watch expires without a commit and the context faults. -/
  | blockWatchExpiry (ctx : Nat)
  /-- PAGE_WALK_COMPLETE (R207): A table walk finishes, filling TLBs or faulting. -/
  | pageWalkComplete (acc : Nat)
  /-- ACCESS_PERFORMED (R288): A memory access is performed at its ordering point and replies. -/
  | accessPerformed (acc : Nat)
  /-- MIGRATION_COMPLETE (R214): Migration rewrites the PTE, invalidates TLBs and reports 0x108. -/
  | migrationComplete (ten va : Nat)
  /-- TILE_DRAIN_COMPLETE (R240): The drain engine writes the last byte and the slot becomes Empty. -/
  | tileDrainComplete (op : Nat)
  /-- ENGINE_OP_START (R220): An engine takes the next operation from its queue. -/
  | engineOpStart (press queue : Nat)
  /-- MX_CONFIGURE (R243): A standing matrix operation reads its descriptor and binds the unit. -/
  | mxConfigure (press unit : Nat)
  /-- MX_FIRING (R246): A standing matrix operation fires when all its parties are present. -/
  | mxFiring (press unit : Nat)
  /-- EPILOGUE_WRITE (R247): A staged output tile is written to its slot. -/
  | epilogueWrite (press unit : Nat)
  /-- GRAVER_STREAM (R252): A running Graver loads or stores its next elements. -/
  | graverStream (op : Nat)
  /-- COPY_COMPLETE (R254): A local copy writes its last byte and delivers L. -/
  | copyComplete (op : Nat)
  /-- ENG_CMD_DELIVER (R256): An eng.cmd marker is reached in its queue and delivers. -/
  | engCmdDeliver (op : Nat)
  /-- PLATE_EVICTION_COMPLETE (R258): A marked plate's use count reaches zero and its slots empty. -/
  | plateEvictionComplete (group ten num : Nat)
  /-- SPAWN_START (R309): A spawn element starts a child once a spawn tag is free. -/
  | spawnStart (press : Nat)
  /-- AGENT_OP_AT_WALKER (R313): The home Walker applies a bind, hint or aq. -/
  | agentOpAtWalker (walker : Nat)
  /-- RETIREMENT (R390): A step retires once children, engines and write-backs are done. -/
  | retirement (stp : Nat)
  /-- DISPOSITION_RESUME (R368): Disposition GO with ACT resume thaws the named frozen context. -/
  | dispositionResume (ten seq : Nat)
  /-- DISPOSITION_ABORT (R368): Disposition GO with ACT abort ends the named context's step. -/
  | dispositionAbort (ten seq : Nat) (qmask : Dbl)
  /-- DRAIN_CUT_COMPLETE (R372): A marker drain completes and the context is saved into a Proof. -/
  | drainCutComplete (ctx : Nat)
  /-- PROOF_RESTORE (R374): A Proof is restored once a tag, region and window are free. -/
  | proofRestore (slot : Nat)
  /-- SHARD_WATCH_EXPIRY (R378): An object stalls for Shard Watch and is reported with 0x387. -/
  | shardWatchExpiry (kind obj : Nat)
  /-- DOMAIN_MODE_ENABLE (R332): Enabling a race domain sets BUSY and clears its metadata. -/
  | domainModeEnable (dom : Nat)
  /-- METADATA_CLEAR_DONE (R332): The domain's metadata is invalidated and BUSY clears. -/
  | metadataClearDone (dom : Nat)
  /-- SLOT_SWEEP (R337): A slot with an exhausted floor is swept and returned to service. -/
  | slotSweep (dom slot : Nat)
  /-- DISTRIBUTION_REPORT (R284): A chain device's report arrives and DONE and RES are written. -/
  | distributionReport (dev res : Nat)
  /-- WAVELENGTH_LOCKED (R267): Granted wavelengths lock at both ends and join the stripe. -/
  | wavelengthLocked (j : Nat)
  /-- WAVELENGTH_DARK (R269): A retiring wavelength's last word is received and it goes dark. -/
  | wavelengthDark (j : Nat)
  /-- LIGHT_RESTORED (R267): A failed wavelength has light for 1 ms and returns to DARK. -/
  | lightRestored (j : Nat)
  /-- WRITE (R273): A WRITE flit is received and its data accepted at the target. -/
  | write (nbr : Nat) (flit : Flit)
  /-- DATA (R273): A DATA flit of a transfer is received. -/
  | data (nbr : Nat) (flit : Flit)
  /-- LOADREQ (R280): A remote load request is performed at the target. -/
  | loadreq (nbr : Nat) (flit : Flit)
  /-- LOADRSP (R280): A remote load response returns the bytes read. -/
  | loadrsp (nbr : Nat) (flit : Flit)
  /-- AMOREQ (R280): A remote atomic is performed at the target or refused. -/
  | amoreq (nbr : Nat) (flit : Flit)
  /-- AMORSP (R280): A remote atomic response returns the old value. -/
  | amorsp (nbr : Nat) (flit : Flit)
  /-- ACK (R273): An acc or vis acknowledgement arrives for a transfer. -/
  | ack (nbr : Nat) (flit : Flit)
  /-- NAK (R281): A negative acknowledgement makes the issuer fault. -/
  | nak (nbr : Nat) (flit : Flit)
  /-- STIM (R280): A stimulus from a peer device arrives. -/
  | stim (nbr : Nat) (flit : Flit)
  /-- PLATE (R284): A plate distribution chunk header arrives and is stored and forwarded. -/
  | plate (nbr : Nat) (flit : Flit)
  /-- LINKCTL (R277): A link control flit updates ACKSEQ and credits. -/
  | linkctl (nbr : Nat) (flit : Flit)
  /-- RESTRIPE (R274): A restripe exchange switches the link to a new epoch. -/
  | restripe (nbr : Nat) (flit : Flit)
  /-- LEASE (R268): A lease ask, grant or lit-count report arrives on the pilot. -/
  | lease (nbr : Nat) (flit : Flit)
  /-- DRAIN (R282): A drain marker arrives on the pilot during reconfiguration. -/
  | drain (nbr : Nat) (flit : Flit)
  /-- FLIT_TRANSIT (R279): A flit for another device is forwarded or discarded. -/
  | flitTransit (nbr : Nat) (flit : Flit)
  /-- LOSS_OF_LIGHT (R278): Light stays below threshold for 128 ns and the link restripes or goes down. -/
  | lossOfLight (nbr : Nat) (lost : Dbl) (els : Option Nat)
  /-- REALIGN_COMPLETE (R278): Lane skew realignment ends and replay begins. -/
  | realignComplete (nbr : Nat)
  /-- COUNTER_SWEEP (R393): The Burnisher sweeps a live counter into its total. -/
  | counterSweep (ctx event : Nat)
  /-- MONITOR_LIMIT_CROSS (R394): Power or temperature rises above its limit and an event is sent. -/
  | monitorLimitCross (power temp : BitVec 16)
  /-- RESERVED_TYPE_FLIT (R272): A flit of a reserved type, or a pilot-only flit on another wavelength, arrives and is discarded and counted. -/
  | reservedTypeFlit (nbr : Nat) (pilot : Bool) (flit : Flit)
  /-- RESET_BOOT (R80): Reset makes the boot ROM verify the firmware signature before anything starts. -/
  | resetBoot
  /-- KEY_TABLE_LOCK (R82): Locks the Plate Key Table until reset. -/
  | keyTableLock
  /-- ATTESTATION_REQUEST (R83): Starts building a signed attestation report for a nonce. -/
  | attestationRequest
  /-- ATTESTATION_COMPLETE (R83): The attestation report is complete and the status reads 2. -/
  | attestationComplete
  /-- PROMOTION_RETRY (R88): A held promotion is retried when a way of its set frees. -/
  | promotionRetry
  /-- PROBE (R90): Probe Key GO starts a probe of a Meeting Store entry. -/
  | probe
  /-- PROBE_CLEAR (R99): A probe with CLR clears the entry's AGE and OD. -/
  | probeClear
  /-- PROBE_UNBLOCK (R103): A probe with UNB clears the entry's BL. -/
  | probeUnblock
  /-- PROBE_RESULT (R90): The probe result is written with DONE set within 1 µs. -/
  | probeResult
  /-- AGE_TICK (R97): At each Age Tick boundary waiting entries age and may become overdue. -/
  | ageTick
  /-- PLACEMENT_CACHE_FLUSH (R141): Empties every Placement Cache. -/
  | placementCacheFlush
  /-- TLB_INVALIDATE_PAGE (R212): Invalidates the translations of one page. -/
  | tlbInvalidatePage
  /-- TLB_INVALIDATE_TENANCY (R212): Invalidates every translation of one tenancy. -/
  | tlbInvalidateTenancy
  /-- TLB_INVALIDATE_ALL (R212): Invalidates every translation. -/
  | tlbInvalidateAll
  /-- TLB_INVALIDATE_DONE (R212): An invalidation completes and DONE sets. -/
  | tlbInvalidateDone
  /-- TILE_WAIT_SATISFIED (R218): An instruction waiting for a tile state proceeds when it arrives. -/
  | tileWaitSatisfied
  /-- FENCE_COMPLETE (R234): A fence's waits are met and it delivers. -/
  | fenceComplete
  /-- QFENCE_COMPLETE (R235): A qfence's named operations are performed and it delivers. -/
  | qfenceComplete
  /-- COHORT_OP_AT_HOME (R315): A cohort operation is applied at the cohort's home device. -/
  | cohortOpAtHome
  /-- FAULT_RING_FLUSH (R363): A waiting fault record is written once the ring has room. -/
  | faultRingFlush
  /-- QUARANTINE_FLUSH (R363): A held refused stimulus is written once the quarantine queue has room. -/
  | quarantineFlush
  /-- PREEMPT_REQUEST (R371): Pre-empt Request GO starts a marker drain of a context. -/
  | preemptRequest
  /-- PROOF_RELEASE (R374): Releases the hold on a Proof slot. -/
  | proofRelease
  /-- ACTOR_SLOT_ACQUIRE (R336): A context takes a free actor slot it waited for. -/
  | actorSlotAcquire
  /-- RACE_BUDGET_INTERVAL (R344): A 1 µs interval ends and the race record budget renews. -/
  | raceBudgetInterval
  /-- FABRIC_LOAD (R265): Fabric Control GO with MODE 0 checks the image and lights the pilots. -/
  | fabricLoad
  /-- FABRIC_RECONFIGURE (R282): Fabric Control GO with MODE 1 drains affected neighbours. -/
  | fabricReconfigure
  /-- FABRIC_RESUME (R282): Fabric Control RESUME relocks with the new image. -/
  | fabricResume
  /-- PILOTS_LOCKED (R265): Every pilot has locked and STATE becomes running. -/
  | pilotsLocked
  /-- RECONF_DRAIN_DONE (R282): Affected neighbours have drained and the fabric goes dark. -/
  | reconfDrainDone
  /-- DISTRIBUTION_START (R284): Distribution Control GO checks the descriptor and sends the first chunk. -/
  | distributionStart
  /-- LEASE_ARBITRATE (R268): The lease arbiter serves pending requests oldest first. -/
  | leaseArbitrate
  /-- LEASE_AGE_EXPIRY (R270): A request pends past Lease Age Limit and rebalancing may revoke. -/
  | leaseAgeExpiry
  /-- REPLAY_TIMEOUT (R276): No ACKSEQ advance arrives for RTO and the sender replays. -/
  | replayTimeout
  /-- LINKCTL_BEACON (R276): 256 ns pass and the receiver sends a LINKCTL beacon. -/
  | linkctlBeacon
  /-- REMOTE_TIMEOUT (R281): A remote request gets no response within RMT. -/
  | remoteTimeout
  /-- TRACE_RESTART (R395): Trace Control GO clears COUNT and restarts the buffer. -/
  | traceRestart
  /-- EVENT_RING_FLUSH (R76): Up to 64 records kept for an event ring that was full or disabled are written once the ring has room or is enabled. -/
  | eventRingFlush
  deriving DecidableEq, Repr

end Sys2Proof
end

