-- ==== Sys2Proof/WellFormed.lean ====
section
/-! DEFINITION. Which instructions are well formed: the limits that the spec puts on an instruction's own fields,
whatever block holds it (R43, R44, R153, R155, R187), and the ranges of what an event names (R1). -/

namespace Sys2Proof

/-- Integer types (R27). -/
def Ty.isInt : Ty → Bool
  | .i8 | .i16 | .i32 | .i64 | .n8 | .n16 | .n32 | .n64 => true
  | .t8 | .t16 | .t32 | .d8 | .bf16 | .f32 => false

/-- Conversions that R43 and R44 give: none to D8, none from D8 to an integer. -/
def cvtLegal (dst src : Ty) : Bool := dst != .d8 && !(src == .d8 && dst.isInt)

/-- Types that and, or and xor accept in memory (R155). -/
def AmoTy.logical : AmoTy → Bool
  | .i32 | .n32 | .i64 => true
  | .f32 | .t16 => false

/-- A level beyond order is legal at system scope only (R155). -/
def fenceLegal (scope : Scope) (level : Level) : Bool := level == .order || scope == .system

/-- Bytes of a window that holds registers (R66). -/
def Window.bytes : Window → Nat
  | .w0 => 16 * 2 ^ 20
  | .w2 => 8 * 2 ^ 20
/-- Whether a request of `n` bytes at an offset of W4 is one that a host link carries: within the largest size of the window, of at most
4,096 bytes (R66), and within 4 KiB, as PCI Express has it. PRESUMED (log entry 192). -/
def requestOk (addr n : Nat) : Bool := decide (0 < n ∧ addr % 4096 + n ≤ 4096 ∧ addr + n ≤ 2 ^ 39)

/-- The instructions that have words; the others are events of the outside or of a unit. -/
def Instr.hasWord : Instr → Bool
  | .registerWrite .. | .resetBoot | .selfTestDone .. | .pressPowerUp .. | .matrixRampDone .. | .w4Write .. | .w4Read ..
  | .portBindingWrite .. | .prodWrite .. | .ingressAccept .. | .egressDrain .. | .keySlotWrite .. | .keyTableLock
  | .attestationRequest | .attestationComplete | .stimulusArrival .. | .promotionRetry | .queueRefill ..
  | .demotion .. | .entryMove .. | .plateLoadStart .. | .plateLoadComplete .. | .probe | .probeClear | .probeUnblock
  | .probeResult | .ageTick | .impressionGather .. | .batchWindowExpiry .. | .admission .. | .shareTableSwap ..
  | .spawnStarve .. | .cardDeal .. | .blockFetch .. | .regionAcquire .. | .mapperPlace .. | .configPacketComplete ..
  | .tokenArrival .. | .iterEmit .. | .commit .. | .blockWatchExpiry .. | .placementCacheFlush | .pageWalkComplete ..
  | .accessPerformed .. | .migrationComplete .. | .tlbInvalidatePage | .tlbInvalidateTenancy | .tlbInvalidateAll
  | .tlbInvalidateDone | .tileWaitSatisfied | .tileDrainComplete .. | .engineOpStart .. | .mxConfigure ..
  | .mxFiring .. | .epilogueWrite .. | .graverStream .. | .copyComplete .. | .fenceComplete | .qfenceComplete
  | .engCmdDeliver .. | .plateEvictionComplete .. | .spawnStart .. | .agentOpAtWalker .. | .cohortOpAtHome
  | .retirement .. | .dispositionResume .. | .dispositionAbort .. | .faultRingFlush | .quarantineFlush
  | .preemptRequest | .drainCutComplete .. | .proofRelease | .proofRestore .. | .shardWatchExpiry ..
  | .domainModeEnable .. | .metadataClearDone .. | .actorSlotAcquire | .slotSweep .. | .raceBudgetInterval
  | .fabricLoad | .fabricReconfigure | .fabricResume | .pilotsLocked | .reconfDrainDone | .distributionStart
  | .distributionReport .. | .leaseArbitrate | .wavelengthLocked .. | .wavelengthDark .. | .lightRestored ..
  | .leaseAgeExpiry | .write .. | .data .. | .loadreq .. | .loadrsp .. | .amoreq .. | .amorsp .. | .ack .. | .nak ..
  | .stim .. | .plate .. | .linkctl .. | .restripe .. | .lease .. | .drain .. | .flitTransit .. | .replayTimeout
  | .linkctlBeacon | .lossOfLight .. | .realignComplete .. | .remoteTimeout | .counterSweep .. | .traceRestart
  | .monitorLimitCross .. | .eventRingFlush | .reservedTypeFlit .. => false
  | _ => true

/-- An instruction whose own fields are legal; the block that holds it has limits of its own (R148, R154 to
R156). Of an event: what it names exists (R1, R66, R68). -/
def Instr.wf : Instr → Bool
  | .cvt _ dst src _ _ => cvtLegal dst src
  | .amoAnd _ _ _ y _ _ | .amoOr _ _ _ y _ _ | .amoXor _ _ _ y _ _ => y.logical
  | .fence _ _ _ scope level => fenceLegal scope level
  | .mfs _ _ csr | .mts _ csr => Machine.csrListed csr
  | .turn _ _ _ y => y != .d
  | .exit _ e _ => decide (e.toNat < 7)
  | .registerWrite win func link off _ => decide (func ≤ 16 ∧ link < 2 ∧ off % 8 = 0 ∧ off < win.bytes)
  | .selfTestDone bit _ => decide (bit < 390)
  | .pressPowerUp press | .matrixRampDone press | .shareTableSwap press | .spawnStarve press
  | .spawnStart press => decide (press < 256)
  | .w4Write func link addr bytes => decide (func ≤ 16 ∧ link < 2) && requestOk addr bytes.length
  | .w4Read func link addr n => decide (func ≤ 16 ∧ link < 2) && requestOk addr n
  | .portBindingWrite link port _ => decide (link < 2 ∧ port < 4096)
  | .prodWrite func link port _ => decide (func ≤ 16 ∧ link < 2 ∧ port < 4096)
  | .ingressAccept port => decide (port < 4096)
  | .keySlotWrite slot off _ => decide (slot < 16 ∧ off % 8 = 0 ∧ off < 128)
  | .stimulusArrival walker | .agentOpAtWalker walker => decide (walker < 8)
  | .impressionGather group | .admission group | .cardDeal group | .plateLoadStart group _
  | .plateLoadComplete group _ | .batchWindowExpiry group _ | .plateEvictionComplete group _ _ => decide (group < 32)
  | .engineOpStart press queue => decide (press < 256 ∧ queue < 8)
  | .mxConfigure press unit | .mxFiring press unit | .epilogueWrite press unit => decide (press < 256 ∧ unit < 2)
  | .tokenArrival _ tok => decide (0 < tok.vals.length ∧ tok.vals.length ≤ 32)
  | .write _ flit | .data _ flit | .loadreq _ flit | .loadrsp _ flit | .amoreq _ flit | .amorsp _ flit | .ack _ flit
  | .nak _ flit | .stim _ flit | .plate _ flit | .linkctl _ flit | .restripe _ flit | .lease _ flit | .drain _ flit
  | .flitTransit _ flit | .reservedTypeFlit _ _ flit => decide (0 < flit.payload.length ∧ flit.payload.length ≤ 128)
  | .lossOfLight _ _ els => els.all (· < 64)
  | _ => true

end Sys2Proof
end

