-- ==== Sys2Proof/Decode.lean ====
section
/-! DEFINITION. The decoder (R145 to R155): what instruction a word of a block body is, or the cause under which the
Mapper rejects it. After it the encoder, written from the same layouts. -/

namespace Sys2Proof

/-- A cause code: 10 bits (R31). -/
abbrev Cause := BitVec 10

/-- Illegal or reserved primary opcode (R154, check 3). -/
def badOpcode : Cause := 0x001
/-- Reserved sub-operation, EX or TYPE code (R154, check 4). -/
def badSubop : Cause := 0x002
/-- Reserved compact code (R154, check 5). -/
def badCompact : Cause := 0x003
/-- Nonzero reserved field, or a target on a sink (R154, check 6). -/
def badReserved : Cause := 0x004
/-- Illegal operand (R154, check 7; R155). -/
def badOperand : Cause := 0x009

/-- No target (R148). -/
def noTarget : Target := 0x1FF

/-! Codes of the operand fields, both ways. -/

/-- Fire mode codes (R146). -/
def FireMode.enc : FireMode → BitVec 2
  | .always => 0
  | .any => 1
  | .onTrue => 2
  | .onFalse => 3
/-- Fire mode codes (R146). -/
def FireMode.dec (x : BitVec 2) : FireMode :=
  match x.toNat with
  | 0 => .always
  | 1 => .any
  | 2 => .onTrue
  | _ => .onFalse

/-- Type field IT (R149). -/
def IntTy.enc : IntTy → BitVec 2
  | .i32 => 0
  | .n32 => 1
  | .i64 => 2
  | .n64 => 3
/-- Type field IT (R149). -/
def IntTy.dec (x : BitVec 2) : IntTy :=
  match x.toNat with
  | 0 => .i32
  | 1 => .n32
  | 2 => .i64
  | _ => .n64

/-- Type field RT (R149). -/
def RawTy.enc : RawTy → BitVec 2
  | .w => 0
  | .h => 1
  | .b => 2
  | .d => 3
/-- Type field RT (R149). -/
def RawTy.dec (x : BitVec 2) : RawTy :=
  match x.toNat with
  | 0 => .w
  | 1 => .h
  | 2 => .b
  | _ => .d

/-- Type field FT (R149). -/
def FloatTy.enc : FloatTy → BitVec 2
  | .t16 => 0
  | .t32 => 1
  | .bf16 => 2
  | .f32 => 3
/-- Type field FT (R149). -/
def FloatTy.dec (x : BitVec 2) : FloatTy :=
  match x.toNat with
  | 0 => .t16
  | 1 => .t32
  | 2 => .bf16
  | _ => .f32

/-- Type field AT (R149). -/
def AccTy.enc : AccTy → BitVec 2
  | .i32 => 0
  | .i64 => 1
  | .t32 => 2
  | .f32 => 3
/-- Type field AT (R149). -/
def AccTy.dec (x : BitVec 2) : AccTy :=
  match x.toNat with
  | 0 => .i32
  | 1 => .i64
  | 2 => .t32
  | _ => .f32

/-- Type bit of opcode 0x15 (R151). -/
def SpTy.enc : SpTy → BitVec 1
  | .t16 => 0
  | .bf16 => 1
/-- Type bit of opcode 0x15 (R151). -/
def SpTy.dec (x : BitVec 1) : SpTy :=
  match x.toNat with
  | 0 => .t16
  | _ => .bf16

/-- Expected-scale field EX (R150). -/
def Ex.enc : Ex → BitVec 2
  | .pass => 0
  | .scaled => 1
  | .unscaled => 2
/-- Expected-scale field EX (R150). No value for a reserved code. -/
def Ex.dec (x : BitVec 2) : Option Ex :=
  match x.toNat with
  | 0 => some .pass
  | 1 => some .scaled
  | 2 => some .unscaled
  | _ => none

/-- Type codes (R27). -/
def Ty.enc : Ty → BitVec 4
  | .i8 => 1
  | .i16 => 2
  | .i32 => 3
  | .i64 => 4
  | .n8 => 5
  | .n16 => 6
  | .n32 => 7
  | .n64 => 8
  | .t8 => 9
  | .t16 => 10
  | .t32 => 11
  | .d8 => 12
  | .bf16 => 13
  | .f32 => 14
/-- Type codes (R27). No value for a reserved code. -/
def Ty.dec (x : BitVec 4) : Option Ty :=
  match x.toNat with
  | 1 => some .i8
  | 2 => some .i16
  | 3 => some .i32
  | 4 => some .i64
  | 5 => some .n8
  | 6 => some .n16
  | 7 => some .n32
  | 8 => some .n64
  | 9 => some .t8
  | 10 => some .t16
  | 11 => some .t32
  | 12 => some .d8
  | 13 => some .bf16
  | 14 => some .f32
  | _ => none

/-- Type codes of `amo` (R153). -/
def AmoTy.enc : AmoTy → BitVec 3
  | .i32 => 0
  | .n32 => 1
  | .i64 => 2
  | .f32 => 3
  | .t16 => 4
/-- Type codes of `amo` (R153). No value for a reserved code. -/
def AmoTy.dec (x : BitVec 3) : Option AmoTy :=
  match x.toNat with
  | 0 => some .i32
  | 1 => some .n32
  | 2 => some .i64
  | 3 => some .f32
  | 4 => some .t16
  | _ => none

/-- ORD codes (R153). -/
def Ord.enc : Ord → BitVec 2
  | .plain => 0
  | .acq => 1
  | .rel => 2
  | .acqRel => 3
/-- ORD codes (R153). -/
def Ord.dec (x : BitVec 2) : Ord :=
  match x.toNat with
  | 0 => .plain
  | 1 => .acq
  | 2 => .rel
  | _ => .acqRel

/-- Scope codes of `fence` (R153). -/
def Scope.enc : Scope → BitVec 3
  | .ctx => 0
  | .press => 1
  | .group => 2
  | .device => 3
  | .system => 4
/-- Scope codes of `fence` (R153). No value for a reserved code. -/
def Scope.dec (x : BitVec 3) : Option Scope :=
  match x.toNat with
  | 0 => some .ctx
  | 1 => some .press
  | 2 => some .group
  | 3 => some .device
  | 4 => some .system
  | _ => none

/-- Level codes of `fence` (R153). -/
def Level.enc : Level → BitVec 2
  | .order => 0
  | .acc => 1
  | .vis => 2
/-- Level codes of `fence` (R153). No value for a reserved code. -/
def Level.dec (x : BitVec 2) : Option Level :=
  match x.toNat with
  | 0 => some .order
  | 1 => some .acc
  | 2 => some .vis
  | _ => none

/-- Aperture codes of `cvta` and `isap` (R152). -/
def Ap.enc : Ap → BitVec 3
  | .glob => 0
  | .lf => 1
  | .grp => 2
  | .dev => 3
/-- Aperture codes of `cvta` and `isap` (R152). No value for a reserved code. -/
def Ap.dec (x : BitVec 3) : Option Ap :=
  match x.toNat with
  | 0 => some .glob
  | 1 => some .lf
  | 2 => some .grp
  | 3 => some .dev
  | _ => none

/-- A field that must be zero. -/
def zeroField {n : Nat} (x : BitVec n) (i : Except Cause Instr) : Except Cause Instr :=
  if x = 0 then i else .error badReserved

/-- A sink's target field, which must hold 0x1FF (R148). -/
def sinkField (t : Target) (i : Except Cause Instr) : Except Cause Instr :=
  if t = noTarget then i else .error badReserved

/-- An instruction whose operand must be legal (R155). -/
def legalOperand (i : Instr) : Except Cause Instr := if i.wf then .ok i else .error badOperand

/-- An EX field (R150). -/
def exField (x : BitVec 2) (i : Ex → Instr) : Except Cause Instr :=
  match Ex.dec x with
  | some e => .ok (i e)
  | none => .error badSubop

/-- Format A (R146, R151): targets `t` and `u`, sub-operation XOP. -/
def decodeA (op : Nat) (f : FireMode) (t u : Target) (x : BitVec 5) : Except Cause Instr :=
  let o := (x.extractLsb' 2 3).toNat
  let y := x.extractLsb' 0 2
  let ex := x.extractLsb' 2 2
  match op with
  | 0x01 =>
    match o with
    | 0 => .ok (.addInt f t u (IntTy.dec y))
    | 1 => .ok (.subInt f t u (IntTy.dec y))
    | 2 => .ok (.addClamp f t u (IntTy.dec y))
    | 3 => .ok (.subClamp f t u (IntTy.dec y))
    | 4 => .ok (.minInt f t u (IntTy.dec y))
    | 5 => .ok (.maxInt f t u (IntTy.dec y))
    | 6 => if y.getLsbD 0 then .error badSubop else .ok (.absInt f t u (y.getLsbD 1))
    | _ => .error badSubop
  | 0x02 =>
    match o with
    | 0 => .ok (.and f t u (RawTy.dec y))
    | 1 => .ok (.or f t u (RawTy.dec y))
    | 2 => .ok (.xor f t u (RawTy.dec y))
    | 3 => .ok (.andn f t u (RawTy.dec y))
    | 4 => .ok (.orn f t u (RawTy.dec y))
    | 5 => .ok (.xnor f t u (RawTy.dec y))
    | _ => .error badSubop
  | 0x03 =>
    match o with
    | 0 => .ok (.shl f t u (RawTy.dec y))
    | 1 => .ok (.shr f t u (RawTy.dec y))
    | 2 => .ok (.sar f t u (RawTy.dec y))
    | 3 => .ok (.rotl f t u (RawTy.dec y))
    | 4 => .ok (.popc f t u (RawTy.dec y))
    | 5 => .ok (.clz f t u (RawTy.dec y))
    | 6 => .ok (.ctz f t u (RawTy.dec y))
    | 7 => .ok (.brev f t u (RawTy.dec y))
    | _ => .error badSubop
  | 0x04 =>
    match o with
    | 0 => .ok (.mulInt f t u (IntTy.dec y))
    | 1 => .ok (.mulh f t u (IntTy.dec y))
    | 2 => .ok (.div f t u (IntTy.dec y))
    | 3 => .ok (.rem f t u (IntTy.dec y))
    | 4 => .ok (.mulClamp f t u (IntTy.dec y))
    | _ => .error badSubop
  | 0x05 =>
    match o with
    | 0 => .ok (.cmpEq f t u (IntTy.dec y))
    | 1 => .ok (.cmpNe f t u (IntTy.dec y))
    | 2 => .ok (.cmpLt f t u (IntTy.dec y))
    | 3 => .ok (.cmpLe f t u (IntTy.dec y))
    | 4 => .ok (.cmpGt f t u (IntTy.dec y))
    | 5 => .ok (.cmpGe f t u (IntTy.dec y))
    | _ => .error badSubop
  | 0x06 =>
    match o with
    | 0 => .ok (.cmpEqFloat f t u (FloatTy.dec y))
    | 1 => .ok (.cmpNeFloat f t u (FloatTy.dec y))
    | 2 => .ok (.cmpLtFloat f t u (FloatTy.dec y))
    | 3 => .ok (.cmpLeFloat f t u (FloatTy.dec y))
    | 4 => .ok (.cmpGtFloat f t u (FloatTy.dec y))
    | 5 => .ok (.cmpGeFloat f t u (FloatTy.dec y))
    | _ => .error badSubop
  | 0x07 =>
    match o with
    | 0 => .ok (.sel f t u (RawTy.dec y))
    | _ => .error badSubop
  | 0x10 =>
    exField ex fun e => if x.getLsbD 4 then .subFloat f t u e (FloatTy.dec y) else .addFloat f t u e (FloatTy.dec y)
  | 0x11 => if x.getLsbD 4 then .error badSubop else exField ex fun e => .mulFloat f t u e (FloatTy.dec y)
  | 0x12 => exField ex fun e => if x.getLsbD 4 then .fms f t u e (FloatTy.dec y) else .fma f t u e (FloatTy.dec y)
  | 0x13 =>
    match o with
    | 0 => .ok (.minFloat f t u (FloatTy.dec y))
    | 1 => .ok (.maxFloat f t u (FloatTy.dec y))
    | 2 => .ok (.absFloat f t u (FloatTy.dec y))
    | 3 => .ok (.negFloat f t u (FloatTy.dec y))
    | _ => .error badSubop
  | 0x15 =>
    let s := SpTy.dec (x.extractLsb' 1 1)
    let z := x.extractLsb' 0 1
    match o with
    | 0 => zeroField z (.ok (.exp2 f t u s))
    | 1 => zeroField z (.ok (.log2 f t u s))
    | 2 => zeroField z (.ok (.rcp f t u s))
    | 3 => zeroField z (.ok (.rsqrt f t u s))
    | 4 => zeroField z (.ok (.sigm f t u s))
    | 5 => zeroField z (.ok (.tanh f t u s))
    | _ => .error badSubop
  | 0x16 =>
    zeroField ex (.ok (if x.getLsbD 4 then .scaleStrip f t u (FloatTy.dec y) else .scaleApply f t u (FloatTy.dec y)))
  | 0x17 =>
    match o with
    | 0 => .ok (.perm f t u (RawTy.dec y))
    | 1 => .ok (.bcast f t u (RawTy.dec y))
    | 2 => .ok (.redAdd f t u (AccTy.dec y))
    | 3 => .ok (.redMax f t u (AccTy.dec y))
    | 4 => .ok (.redMin f t u (AccTy.dec y))
    | 5 => .ok (.scanAdd f t u (AccTy.dec y))
    | 6 => .ok (.rpack f t u (RawTy.dec y))
    | _ => if RawTy.dec y = .d then .error badSubop else .ok (.turn f t u (RawTy.dec y))
  | 0x18 =>
    match x.toNat with
    | 0 => .ok (.movFull f t u)
    | 1 => .ok (.nullFull f t u)
    | _ => .error badSubop
  | 0x1C =>
    match o with
    | 0 => .ok (.lfld f t u (RawTy.dec y))
    | _ => .error badSubop
  | 0x1D =>
    match o with
    | 0 => sinkField t (sinkField u (.ok (.lfst f (RawTy.dec y))))
    | _ => .error badSubop
  | 0x1E =>
    match o with
    | 0 => .ok (.lfldV f t u (RawTy.dec y))
    | 1 => sinkField t (sinkField u (.ok (.lfstV f (RawTy.dec y))))
    | _ => .error badSubop
  | 0x1F =>
    match o with
    | 0 => .ok (.lfswp f t u (RawTy.dec y))
    | _ => .error badSubop
  | 0x2E =>
    match x.toNat with
    | 0 => .ok (.plateLd f t u)
    | 1 => .ok (.plateEv f t u)
    | 2 => .ok (.plateQ f t u)
    | _ => .error badSubop
  | 0x30 =>
    match x.toNat with
    | 0 => .ok (.emit f t u)
    | 1 => .ok (.emitT f t u)
    | 2 => .ok (.emitX f t u)
    | _ => .error badSubop
  | 0x32 =>
    match x.toNat with
    | 0 => sinkField t (sinkField u (.ok (.rest f)))
    | _ => .error badSubop
  | 0x33 =>
    match x.toNat with
    | 0 => .ok (.bind f t u)
    | 1 => .ok (.hint f t u)
    | 2 => .ok (.aq f t u)
    | _ => .error badSubop
  | 0x34 =>
    match x.toNat with
    | 0 => .ok (.join f t u)
    | 1 => .ok (.leave f t u)
    | 2 => .ok (.cbar f t u)
    | 3 => .ok (.cq f t u)
    | 8 => .ok (.credAddI32 f t u)
    | 9 => .ok (.credAddF32 f t u)
    | 10 => .ok (.credMaxI32 f t u)
    | 11 => .ok (.credMaxF32 f t u)
    | 12 => .ok (.credMinI32 f t u)
    | 13 => .ok (.credMinF32 f t u)
    | _ => .error badSubop
  | 0x35 =>
    match x.toNat with
    | 0 => .ok (.leaseReq f t u)
    | 1 => .ok (.leaseGive f t u)
    | 2 => .ok (.leaseRev f t u)
    | 3 => .ok (.leaseQ f t u)
    | _ => .error badSubop
  | _ => .error badOpcode

/-- Format I (R146, R151, R152): target and IMM14. -/
def decodeI (op : Nat) (f : FireMode) (t : Target) (k : BitVec 14) : Except Cause Instr :=
  match op with
  | 0x08 => .ok (.addi f t k)
  | 0x09 => .ok (.andi f t k)
  | 0x0A => .ok (.ori f t k)
  | 0x0B => .ok (.xori f t k)
  | 0x0C => zeroField (k.extractLsb' 5 9) (.ok (.shli f t (k.extractLsb' 0 5)))
  | 0x0D => zeroField (k.extractLsb' 5 9) (.ok (.shri f t (k.extractLsb' 0 5)))
  | 0x0E => zeroField (k.extractLsb' 5 9) (.ok (.sari f t (k.extractLsb' 0 5)))
  | 0x0F =>
    match (k.extractLsb' 12 2).toNat with
    | 0 => .ok (.movi f t (k.extractLsb' 0 12))
    | 1 => .ok (.movhi f t (k.extractLsb' 0 12))
    | 2 => .ok (.cmpiEq f t (k.extractLsb' 0 12))
    | _ => .ok (.cmpiLt f t (k.extractLsb' 0 12))
  | 0x1B => zeroField k (.ok (.iter f t))
  | 0x31 => .ok (.spawn f t k)
  | 0x3C =>
    zeroField (k.extractLsb' 8 5) (sinkField t
      (if k.getLsbD 13 then zeroField (k.extractLsb' 0 8) (.ok (.tret f)) else .ok (.trap f (k.extractLsb' 0 8))))
  | 0x3D =>
    match (k.extractLsb' 12 2).toNat with
    | 0 => legalOperand (.mfs f t (k.extractLsb' 0 12))
    | 1 => sinkField t (legalOperand (.mts f (k.extractLsb' 0 12)))
    | _ => .error badSubop
  | 0x3E =>
    let n := k.extractLsb' 0 10
    match (k.extractLsb' 10 4).toNat with
    | 0 => zeroField n (sinkField t (.ok (.nop f)))
    | 1 => sinkField t (.ok (.brk f n))
    | 2 => .ok (.trmk f t n)
    | 3 => sinkField t (.ok (.stylus f n))
    | 4 => .ok (.ctrRd f t n)
    | 5 => sinkField t (.ok (.ctrClr f n))
    | 6 => zeroField n (sinkField t (.ok (.preempt f)))
    | 7 => zeroField (n.extractLsb' 1 9) (sinkField t (.ok (.abort f (n.getLsbD 0))))
    | _ => .error badSubop
  | _ => .error badOpcode

/-- An `amo` of a type code (R153). -/
def amoField (y : BitVec 3) (i : AmoTy → Instr) : Except Cause Instr :=
  match AmoTy.dec y with
  | some y => legalOperand (i y)
  | none => .error badSubop

/-- A TYPE field (R153). -/
def tyField (y : BitVec 4) (i : Ty → Instr) : Except Cause Instr :=
  match Ty.dec y with
  | some y => .ok (i y)
  | none => .error badSubop

/-- A `fence`: a level code that is not listed, then the zero field, then the scope and its level (R153, R155). -/
def fenceField (scope : BitVec 3) (level : BitVec 2) (z : BitVec 3) (i : Scope → Level → Instr) :
    Except Cause Instr :=
  match Level.dec level with
  | some level =>
    zeroField z (match Scope.dec scope with
      | some scope => legalOperand (i scope level)
      | none => .error badOperand)
  | none => .error badSubop

/-- Format M (R146, R153): LSID and the 18 bits below it. -/
def decodeM (op : Nat) (f : FireMode) (l : BitVec 5) (m : BitVec 18) : Except Cause Instr :=
  let t := m.extractLsb' 9 9
  let o := Ord.dec (m.extractLsb' 1 2)
  match op with
  | 0x20 => tyField (m.extractLsb' 1 4) fun y => .ld f l t (m.extractLsb' 5 4) y (m.getLsbD 0)
  | 0x21 => tyField (m.extractLsb' 1 4) fun y => .ldV f l t (m.extractLsb' 5 4) y (m.getLsbD 0)
  | 0x22 => tyField (m.extractLsb' 10 4) fun y => .st f l (m.extractLsb' 14 4) y (m.getLsbD 9) (m.extractLsb' 0 9)
  | 0x23 => tyField (m.extractLsb' 10 4) fun y => .stV f l (m.extractLsb' 14 4) y (m.getLsbD 9) (m.extractLsb' 0 9)
  | 0x24 =>
    let y := m.extractLsb' 3 3
    match (m.extractLsb' 6 3).toNat with
    | 0 => amoField y fun y => .amoAdd f l t y o (m.getLsbD 0)
    | 1 => amoField y fun y => .amoAnd f l t y o (m.getLsbD 0)
    | 2 => amoField y fun y => .amoOr f l t y o (m.getLsbD 0)
    | 3 => amoField y fun y => .amoXor f l t y o (m.getLsbD 0)
    | 4 => amoField y fun y => .amoMin f l t y o (m.getLsbD 0)
    | 5 => amoField y fun y => .amoMax f l t y o (m.getLsbD 0)
    | 6 => amoField y fun y => .amoXchg f l t y o (m.getLsbD 0)
    | _ => .error badSubop
  | 0x25 =>
    zeroField (m.extractLsb' 0 5) (.ok (.cas f l t (m.getLsbD 8) (Ord.dec (m.extractLsb' 6 2)) (m.getLsbD 5)))
  | 0x26 =>
    if m.getLsbD 8 then zeroField l (.ok (.qfence f t (m.extractLsb' 0 8)))
    else fenceField (m.extractLsb' 5 3) (m.extractLsb' 3 2) (m.extractLsb' 0 3) fun s v => .fence f l t s v
  | _ => .error badOpcode

/-- Format B (R146, R151): EXIT and OFF20. -/
def decodeB (op : Nat) (f : FireMode) (e : BitVec 3) (o : BitVec 20) : Except Cause Instr :=
  match op with
  | 0x38 => legalOperand (.exit f e o)
  | 0x39 => zeroField o (legalOperand (.exitI f e))
  | _ => .error badOpcode

/-- An aperture field (R152, R155). -/
def apField (p : BitVec 3) (i : Ap → Instr) : Except Cause Instr :=
  match Ap.dec p with
  | some p => .ok (i p)
  | none => .error badOperand

/-- A `cvt` of type codes (R152, R155, R180). -/
def cvtField (d s : BitVec 4) (i : Ty → Ty → Instr) : Except Cause Instr :=
  match Ty.dec d, Ty.dec s with
  | some d, some s => legalOperand (i d s)
  | _, _ => .error badOperand

/-- Format G (R146, R151, R152): GREG, target and XOP6. -/
def decodeG (op : Nat) (f : FireMode) (g : BitVec 8) (t : Target) (x : BitVec 6) : Except Cause Instr :=
  match op with
  | 0x14 =>
    match Ex.dec (x.extractLsb' 4 2) with
    | some e => zeroField (x.extractLsb' 0 4) (cvtField (g.extractLsb' 4 4) (g.extractLsb' 0 4) fun d s => .cvt f d s t e)
    | none => .error badSubop
  | 0x19 => zeroField x (.ok (.rdg f g t))
  | 0x1A => zeroField x (sinkField t (.ok (.wrg f g)))
  | 0x27 =>
    let n := g.extractLsb' 0 4
    let p := x.extractLsb' 0 3
    let z := g.extractLsb' 4 4
    match (x.extractLsb' 3 3).toNat with
    | 0 => zeroField z (zeroField p (sinkField t (.ok (.bset f n))))
    | 1 => zeroField z (zeroField p (sinkField t (.ok (.badd f n))))
    | 2 => zeroField z (zeroField p (.ok (.bget f n t)))
    | 3 => zeroField z (zeroField n (apField p fun p => .cvta f t p))
    | 4 => zeroField z (zeroField n (apField p fun p => .isap f t p))
    | _ => .error badSubop
  | _ => .error badOpcode

/-- Format E (R146, R151): TID, target and XOP4. -/
def decodeE (op : Nat) (f : FireMode) (i : BitVec 10) (t : Target) (x : BitVec 4) : Except Cause Instr :=
  match op with
  | 0x28 =>
    match x.toNat with
    | 0 => .ok (.tileFill f i t)
    | 1 => .ok (.tileReady f i t)
    | 2 => .ok (.tileDrain f i t)
    | 3 => .ok (.tileFree f i t)
    | 4 => zeroField i (.ok (.tileStat f t))
    | _ => .error badSubop
  | 0x29 =>
    match x.toNat with
    | 0 => .ok (.ringDef f i t)
    | _ => .error badSubop
  | 0x2A =>
    match (x.extractLsb' 0 3).toNat with
    | 0 => .ok (.mxDef f i t (x.getLsbD 3))
    | 1 => zeroField i (.ok (.mxUnbind f t (x.getLsbD 3)))
    | _ => .error badSubop
  | 0x2B =>
    match (x.extractLsb' 0 2).toNat with
    | 0 => .ok (.gvAff f i t (x.extractLsb' 2 2))
    | 1 => .ok (.gvInd f i t (x.extractLsb' 2 2))
    | 2 => zeroField i (.ok (.gvGo f t (x.extractLsb' 2 2)))
    | _ => .error badSubop
  | 0x2C => zeroField (x.extractLsb' 1 3) (.ok (if x.getLsbD 0 then .cpRem f i t else .cpGo f i t))
  | 0x2D => zeroField (x.extractLsb' 3 1) (zeroField i (.ok (.engCmd f t (x.extractLsb' 0 3))))
  | _ => .error badOpcode

/-- A compact instruction (R147, R193). -/
def decodeCompact (h : BitVec 15) : Except Cause Instr :=
  let f := FireMode.dec (h.extractLsb' 0 2)
  let t := h.extractLsb' 2 9
  match (h.extractLsb' 11 4).toNat with
  | 0 => .ok (.movCompact f t)
  | 1 => .ok (.nullCompact f t)
  | 2 => .ok (.not f t)
  | 3 => .ok (.neg f t)
  | 4 => .ok (.inc f t)
  | 5 => .ok (.dec f t)
  | 6 => .ok (.isz f t)
  | 7 => .ok (.nz f t)
  | _ => .error badCompact

/-- The six formats (R146). -/
inductive Format where
  | a | i | m | b | g | e
  deriving DecidableEq, Repr

/-- The format of a primary opcode; none where the opcode is illegal or reserved (R151). -/
def formatOf (op : Nat) : Option Format :=
  match op with
  | 0x01 | 0x02 | 0x03 | 0x04 | 0x05 | 0x06 | 0x07 | 0x10 | 0x11 | 0x12 | 0x13 | 0x15 | 0x16 | 0x17 | 0x18 | 0x1C | 0x1D
  | 0x1E | 0x1F | 0x2E | 0x30 | 0x32 | 0x33 | 0x34 | 0x35 => some .a
  | 0x08 | 0x09 | 0x0A | 0x0B | 0x0C | 0x0D | 0x0E | 0x0F | 0x1B | 0x31 | 0x3C | 0x3D | 0x3E => some .i
  | 0x20 | 0x21 | 0x22 | 0x23 | 0x24 | 0x25 | 0x26 => some .m
  | 0x38 | 0x39 => some .b
  | 0x14 | 0x19 | 0x1A | 0x27 => some .g
  | 0x28 | 0x29 | 0x2A | 0x2B | 0x2C | 0x2D => some .e
  | _ => none

/-- A 32-bit instruction (R146): bit 31 is 0. -/
def decodeFull (w : Word) : Except Cause Instr :=
  let op := (w.extractLsb' 25 6).toNat
  let f := FireMode.dec (w.extractLsb' 23 2)
  match formatOf op with
  | some .a => decodeA op f (w.extractLsb' 14 9) (w.extractLsb' 5 9) (w.extractLsb' 0 5)
  | some .i => decodeI op f (w.extractLsb' 14 9) (w.extractLsb' 0 14)
  | some .m => decodeM op f (w.extractLsb' 18 5) (w.extractLsb' 0 18)
  | some .b => decodeB op f (w.extractLsb' 20 3) (w.extractLsb' 0 20)
  | some .g => decodeG op f (w.extractLsb' 15 8) (w.extractLsb' 6 9) (w.extractLsb' 0 6)
  | some .e => decodeE op f (w.extractLsb' 13 10) (w.extractLsb' 4 9) (w.extractLsb' 0 4)
  | none => .error badOpcode

/-- One instruction of a block body: a 32-bit word, or a pair word that holds one compact instruction (R145, R147). `bodySplit` makes a
pair of two into two such words. DESIGN CHOICE (log entry 180). -/
def decodeInstr (w : Word) : Except Cause Instr :=
  if w.getLsbD 31 then
    match decodeCompact (w.extractLsb' 16 15) with
    | .ok i => zeroField (w.extractLsb' 0 16) (.ok i)
    | .error c => .error c
  else decodeFull w

/-- The instructions that a body word yields, in order, each as a word of its own (R145). -/
def bodySplit (w : Word) : List Word :=
  if w.getLsbD 31 && w.getLsbD 15 then
    [(1#1 ++ w.extractLsb' 16 15 ++ 0#16 : BitVec 32), (1#1 ++ w.extractLsb' 0 15 ++ 0#16 : BitVec 32)]
  else [w]

/-- The instruction a body yields first from the word `w`, numbered as the opcode table numbers it. -/
def decodeTableWord (nbits w : Nat) : Option Instr :=
  match bodySplit (BitVec.ofNat 32 (w % 2 ^ nbits)) with
  | v :: _ =>
    match decodeInstr v with
    | .ok i => some i
    | .error _ => none
  | [] => none

/-! The encoder. -/

/-- A word of Format A. -/
def fmtA (op : BitVec 6) (f : FireMode) (t u : Target) (x : BitVec 5) : Word :=
  0#1 ++ op ++ f.enc ++ t ++ u ++ x
/-- A word of Format I. -/
def fmtI (op : BitVec 6) (f : FireMode) (t : Target) (k : BitVec 14) : Word := 0#1 ++ op ++ f.enc ++ t ++ k
/-- A word of Format M. -/
def fmtM (op : BitVec 6) (f : FireMode) (l : BitVec 5) (m : BitVec 18) : Word := 0#1 ++ op ++ f.enc ++ l ++ m
/-- A word of Format B. -/
def fmtB (op : BitVec 6) (f : FireMode) (e : BitVec 3) (o : BitVec 20) : Word := 0#1 ++ op ++ f.enc ++ e ++ o
/-- A word of Format G. -/
def fmtG (op : BitVec 6) (f : FireMode) (g : BitVec 8) (t : Target) (x : BitVec 6) : Word :=
  0#1 ++ op ++ f.enc ++ g ++ t ++ x
/-- A word of Format E. -/
def fmtE (op : BitVec 6) (f : FireMode) (i : BitVec 10) (t : Target) (x : BitVec 4) : Word :=
  0#1 ++ op ++ f.enc ++ i ++ t ++ x
/-- A pair word that holds one compact instruction. -/
def fmtC (op : BitVec 4) (f : FireMode) (t : Target) : Word := 1#1 ++ op ++ t ++ f.enc ++ 0#16
/-- The bit of a Bool. -/
def bitOf (b : Bool) : BitVec 1 := BitVec.ofBool b
/-- The low 18 bits of a load. -/
def memLd (t : Target) (b : BitVec 4) (y : Ty) (acq : Bool) : BitVec 18 := t ++ b ++ y.enc ++ bitOf acq
/-- The low 18 bits of a store. -/
def memSt (b : BitVec 4) (y : Ty) (rel : Bool) (k : BitVec 9) : BitVec 18 := b ++ y.enc ++ bitOf rel ++ k
/-- The low 18 bits of an `amo`. -/
def memAmo (t : Target) (o : BitVec 3) (y : AmoTy) (r : Ord) (sys : Bool) : BitVec 18 :=
  t ++ o ++ y.enc ++ r.enc ++ bitOf sys

/-- The word of an instruction; of an event, which has none, the illegal word 0. -/
def encode : Instr → Word
  | .addInt f t u y => fmtA 0x01 f t u (0#3 ++ y.enc)
  | .subInt f t u y => fmtA 0x01 f t u (1#3 ++ y.enc)
  | .addClamp f t u y => fmtA 0x01 f t u (2#3 ++ y.enc)
  | .subClamp f t u y => fmtA 0x01 f t u (3#3 ++ y.enc)
  | .minInt f t u y => fmtA 0x01 f t u (4#3 ++ y.enc)
  | .maxInt f t u y => fmtA 0x01 f t u (5#3 ++ y.enc)
  | .absInt f t u wide => fmtA 0x01 f t u (6#3 ++ bitOf wide ++ 0#1)
  | .and f t u y => fmtA 0x02 f t u (0#3 ++ y.enc)
  | .or f t u y => fmtA 0x02 f t u (1#3 ++ y.enc)
  | .xor f t u y => fmtA 0x02 f t u (2#3 ++ y.enc)
  | .andn f t u y => fmtA 0x02 f t u (3#3 ++ y.enc)
  | .orn f t u y => fmtA 0x02 f t u (4#3 ++ y.enc)
  | .xnor f t u y => fmtA 0x02 f t u (5#3 ++ y.enc)
  | .shl f t u y => fmtA 0x03 f t u (0#3 ++ y.enc)
  | .shr f t u y => fmtA 0x03 f t u (1#3 ++ y.enc)
  | .sar f t u y => fmtA 0x03 f t u (2#3 ++ y.enc)
  | .rotl f t u y => fmtA 0x03 f t u (3#3 ++ y.enc)
  | .popc f t u y => fmtA 0x03 f t u (4#3 ++ y.enc)
  | .clz f t u y => fmtA 0x03 f t u (5#3 ++ y.enc)
  | .ctz f t u y => fmtA 0x03 f t u (6#3 ++ y.enc)
  | .brev f t u y => fmtA 0x03 f t u (7#3 ++ y.enc)
  | .mulInt f t u y => fmtA 0x04 f t u (0#3 ++ y.enc)
  | .mulh f t u y => fmtA 0x04 f t u (1#3 ++ y.enc)
  | .div f t u y => fmtA 0x04 f t u (2#3 ++ y.enc)
  | .rem f t u y => fmtA 0x04 f t u (3#3 ++ y.enc)
  | .mulClamp f t u y => fmtA 0x04 f t u (4#3 ++ y.enc)
  | .cmpEq f t u y => fmtA 0x05 f t u (0#3 ++ y.enc)
  | .cmpNe f t u y => fmtA 0x05 f t u (1#3 ++ y.enc)
  | .cmpLt f t u y => fmtA 0x05 f t u (2#3 ++ y.enc)
  | .cmpLe f t u y => fmtA 0x05 f t u (3#3 ++ y.enc)
  | .cmpGt f t u y => fmtA 0x05 f t u (4#3 ++ y.enc)
  | .cmpGe f t u y => fmtA 0x05 f t u (5#3 ++ y.enc)
  | .cmpEqFloat f t u y => fmtA 0x06 f t u (0#3 ++ y.enc)
  | .cmpNeFloat f t u y => fmtA 0x06 f t u (1#3 ++ y.enc)
  | .cmpLtFloat f t u y => fmtA 0x06 f t u (2#3 ++ y.enc)
  | .cmpLeFloat f t u y => fmtA 0x06 f t u (3#3 ++ y.enc)
  | .cmpGtFloat f t u y => fmtA 0x06 f t u (4#3 ++ y.enc)
  | .cmpGeFloat f t u y => fmtA 0x06 f t u (5#3 ++ y.enc)
  | .sel f t u y => fmtA 0x07 f t u (0#3 ++ y.enc)
  | .addi f t k => fmtI 0x08 f t k
  | .andi f t k => fmtI 0x09 f t k
  | .ori f t k => fmtI 0x0A f t k
  | .xori f t k => fmtI 0x0B f t k
  | .shli f t k => fmtI 0x0C f t (0#9 ++ k)
  | .shri f t k => fmtI 0x0D f t (0#9 ++ k)
  | .sari f t k => fmtI 0x0E f t (0#9 ++ k)
  | .movi f t k => fmtI 0x0F f t (0#2 ++ k)
  | .movhi f t k => fmtI 0x0F f t (1#2 ++ k)
  | .cmpiEq f t k => fmtI 0x0F f t (2#2 ++ k)
  | .cmpiLt f t k => fmtI 0x0F f t (3#2 ++ k)
  | .addFloat f t u x y => fmtA 0x10 f t u (0#1 ++ x.enc ++ y.enc)
  | .subFloat f t u x y => fmtA 0x10 f t u (1#1 ++ x.enc ++ y.enc)
  | .mulFloat f t u x y => fmtA 0x11 f t u (0#1 ++ x.enc ++ y.enc)
  | .fma f t u x y => fmtA 0x12 f t u (0#1 ++ x.enc ++ y.enc)
  | .fms f t u x y => fmtA 0x12 f t u (1#1 ++ x.enc ++ y.enc)
  | .minFloat f t u y => fmtA 0x13 f t u (0#3 ++ y.enc)
  | .maxFloat f t u y => fmtA 0x13 f t u (1#3 ++ y.enc)
  | .absFloat f t u y => fmtA 0x13 f t u (2#3 ++ y.enc)
  | .negFloat f t u y => fmtA 0x13 f t u (3#3 ++ y.enc)
  | .cvt f d s t x => fmtG 0x14 f (d.enc ++ s.enc) t (x.enc ++ 0#4)
  | .exp2 f t u y => fmtA 0x15 f t u (0#3 ++ y.enc ++ 0#1)
  | .log2 f t u y => fmtA 0x15 f t u (1#3 ++ y.enc ++ 0#1)
  | .rcp f t u y => fmtA 0x15 f t u (2#3 ++ y.enc ++ 0#1)
  | .rsqrt f t u y => fmtA 0x15 f t u (3#3 ++ y.enc ++ 0#1)
  | .sigm f t u y => fmtA 0x15 f t u (4#3 ++ y.enc ++ 0#1)
  | .tanh f t u y => fmtA 0x15 f t u (5#3 ++ y.enc ++ 0#1)
  | .scaleApply f t u y => fmtA 0x16 f t u (0#1 ++ 0#2 ++ y.enc)
  | .scaleStrip f t u y => fmtA 0x16 f t u (1#1 ++ 0#2 ++ y.enc)
  | .perm f t u y => fmtA 0x17 f t u (0#3 ++ y.enc)
  | .bcast f t u y => fmtA 0x17 f t u (1#3 ++ y.enc)
  | .redAdd f t u y => fmtA 0x17 f t u (2#3 ++ y.enc)
  | .redMax f t u y => fmtA 0x17 f t u (3#3 ++ y.enc)
  | .redMin f t u y => fmtA 0x17 f t u (4#3 ++ y.enc)
  | .scanAdd f t u y => fmtA 0x17 f t u (5#3 ++ y.enc)
  | .rpack f t u y => fmtA 0x17 f t u (6#3 ++ y.enc)
  | .turn f t u y => fmtA 0x17 f t u (7#3 ++ y.enc)
  | .movFull f t u => fmtA 0x18 f t u 0
  | .nullFull f t u => fmtA 0x18 f t u 1
  | .movCompact f t => fmtC 0 f t
  | .nullCompact f t => fmtC 1 f t
  | .not f t => fmtC 2 f t
  | .neg f t => fmtC 3 f t
  | .inc f t => fmtC 4 f t
  | .dec f t => fmtC 5 f t
  | .isz f t => fmtC 6 f t
  | .nz f t => fmtC 7 f t
  | .rdg f g t => fmtG 0x19 f g t 0
  | .wrg f g => fmtG 0x1A f g noTarget 0
  | .iter f t => fmtI 0x1B f t 0
  | .lfld f t u r => fmtA 0x1C f t u (0#3 ++ r.enc)
  | .lfst f r => fmtA 0x1D f noTarget noTarget (0#3 ++ r.enc)
  | .lfldV f t u r => fmtA 0x1E f t u (0#3 ++ r.enc)
  | .lfstV f r => fmtA 0x1E f noTarget noTarget (1#3 ++ r.enc)
  | .lfswp f t u r => fmtA 0x1F f t u (0#3 ++ r.enc)
  | .ld f l t b y acq => fmtM 0x20 f l (memLd t b y acq)
  | .ldV f l t b y acq => fmtM 0x21 f l (memLd t b y acq)
  | .st f l b y rel k => fmtM 0x22 f l (memSt b y rel k)
  | .stV f l b y rel k => fmtM 0x23 f l (memSt b y rel k)
  | .amoAdd f l t y o sys => fmtM 0x24 f l (memAmo t 0 y o sys)
  | .amoAnd f l t y o sys => fmtM 0x24 f l (memAmo t 1 y o sys)
  | .amoOr f l t y o sys => fmtM 0x24 f l (memAmo t 2 y o sys)
  | .amoXor f l t y o sys => fmtM 0x24 f l (memAmo t 3 y o sys)
  | .amoMin f l t y o sys => fmtM 0x24 f l (memAmo t 4 y o sys)
  | .amoMax f l t y o sys => fmtM 0x24 f l (memAmo t 5 y o sys)
  | .amoXchg f l t y o sys => fmtM 0x24 f l (memAmo t 6 y o sys)
  | .cas f l t wide o sys => fmtM 0x25 f l (t ++ bitOf wide ++ o.enc ++ bitOf sys ++ 0#5)
  | .fence f l t s v => fmtM 0x26 f l (t ++ 0#1 ++ s.enc ++ v.enc ++ 0#3)
  | .qfence f t m => fmtM 0x26 f 0 (t ++ 1#1 ++ m)
  | .bset f n => fmtG 0x27 f (0#4 ++ n) noTarget (0#3 ++ 0#3)
  | .badd f n => fmtG 0x27 f (0#4 ++ n) noTarget (1#3 ++ 0#3)
  | .bget f n t => fmtG 0x27 f (0#4 ++ n) t (2#3 ++ 0#3)
  | .cvta f t p => fmtG 0x27 f (0#4 ++ 0#4) t (3#3 ++ p.enc)
  | .isap f t p => fmtG 0x27 f (0#4 ++ 0#4) t (4#3 ++ p.enc)
  | .tileFill f i t => fmtE 0x28 f i t 0
  | .tileReady f i t => fmtE 0x28 f i t 1
  | .tileDrain f i t => fmtE 0x28 f i t 2
  | .tileFree f i t => fmtE 0x28 f i t 3
  | .tileStat f t => fmtE 0x28 f 0 t 4
  | .ringDef f i t => fmtE 0x29 f i t 0
  | .mxDef f i t m => fmtE 0x2A f i t (bitOf m ++ 0#3)
  | .mxUnbind f t m => fmtE 0x2A f 0 t (bitOf m ++ 1#3)
  | .gvAff f i t g => fmtE 0x2B f i t (g ++ 0#2)
  | .gvInd f i t g => fmtE 0x2B f i t (g ++ 1#2)
  | .gvGo f t g => fmtE 0x2B f 0 t (g ++ 2#2)
  | .cpGo f n t => fmtE 0x2C f n t 0
  | .cpRem f n t => fmtE 0x2C f n t 1
  | .engCmd f t q => fmtE 0x2D f 0 t (0#1 ++ q)
  | .plateLd f t u => fmtA 0x2E f t u 0
  | .plateEv f t u => fmtA 0x2E f t u 1
  | .plateQ f t u => fmtA 0x2E f t u 2
  | .emit f t u => fmtA 0x30 f t u 0
  | .emitT f t u => fmtA 0x30 f t u 1
  | .emitX f t u => fmtA 0x30 f t u 2
  | .spawn f t k => fmtI 0x31 f t k
  | .rest f => fmtA 0x32 f noTarget noTarget 0
  | .bind f t u => fmtA 0x33 f t u 0
  | .hint f t u => fmtA 0x33 f t u 1
  | .aq f t u => fmtA 0x33 f t u 2
  | .join f t u => fmtA 0x34 f t u 0
  | .leave f t u => fmtA 0x34 f t u 1
  | .cbar f t u => fmtA 0x34 f t u 2
  | .cq f t u => fmtA 0x34 f t u 3
  | .credAddI32 f t u => fmtA 0x34 f t u 8
  | .credAddF32 f t u => fmtA 0x34 f t u 9
  | .credMaxI32 f t u => fmtA 0x34 f t u 10
  | .credMaxF32 f t u => fmtA 0x34 f t u 11
  | .credMinI32 f t u => fmtA 0x34 f t u 12
  | .credMinF32 f t u => fmtA 0x34 f t u 13
  | .leaseReq f t u => fmtA 0x35 f t u 0
  | .leaseGive f t u => fmtA 0x35 f t u 1
  | .leaseRev f t u => fmtA 0x35 f t u 2
  | .leaseQ f t u => fmtA 0x35 f t u 3
  | .exit f e o => fmtB 0x38 f e o
  | .exitI f e => fmtB 0x39 f e 0
  | .trap f n => fmtI 0x3C f noTarget (0#1 ++ 0#5 ++ n)
  | .tret f => fmtI 0x3C f noTarget (1#1 ++ 0#5 ++ 0#8)
  | .mfs f t c => fmtI 0x3D f t (0#2 ++ c)
  | .mts f c => fmtI 0x3D f noTarget (1#2 ++ c)
  | .nop f => fmtI 0x3E f noTarget (0#4 ++ 0#10)
  | .brk f k => fmtI 0x3E f noTarget (1#4 ++ k)
  | .trmk f t k => fmtI 0x3E f t (2#4 ++ k)
  | .stylus f k => fmtI 0x3E f noTarget (3#4 ++ k)
  | .ctrRd f t k => fmtI 0x3E f t (4#4 ++ k)
  | .ctrClr f k => fmtI 0x3E f noTarget (5#4 ++ k)
  | .preempt f => fmtI 0x3E f noTarget (6#4 ++ 0#10)
  | .abort f q => fmtI 0x3E f noTarget (7#4 ++ 0#9 ++ bitOf q)
  | _ => 0

end Sys2Proof
end

