-- ==== Sys2Proof/Config.lean ====
section
/-! DEFINITION. What one implementation fixes (R1) and the free values: constants with no body, of which no
proof can know the value. -/

namespace Sys2Proof.Config

/-- Presses of the device (R1). -/
def presses : Nat := 256
/-- Press Groups of the device (R1). -/
def groups : Nat := 32
/-- Presses of one Press Group (R1). -/
def pressesPerGroup : Nat := 8
/-- Tile slots of a Group (R1, R216). -/
def tileSlots : Nat := 1024
/-- Bytes of a tile slot (R1, R216). -/
def tileBytes : Nat := 16384
/-- Bytes of local HBM: 8 stacks of 48 GiB (R1). -/
def hbmBytes : Nat := 384 * 2 ^ 30
/-- Bytes of one HBM stack (R1). -/
def stackBytes : Nat := 48 * 2 ^ 30
/-- Words per lane of a Press's Lane File (R1). -/
def laneWords : Nat := 16384
/-- Stimulus-buffer slots of a Group (R86). -/
def stimulusSlots : Nat := 4096
/-- Operations an engine queue holds (R220). -/
def queueDepth : Nat := 32
/-- Ring entries of a Press (R241). -/
def ringEntries : Nat := 64
/-- Open impressions a Group keeps (R100). -/
def openImpressions : Nat := 16
/-- Placement Cache entries of a Group (R124). -/
def placementEntries : Nat := 4096
/-- TLB entries of a Press and of a Group (R210). -/
def pressTlb : Nat := 256
/-- TLB entries of a Group (R210). -/
def groupTlb : Nat := 8192
/-- Stimuli a step's held area takes (R308). -/
def heldArea : Nat := 64

/-- Whether the boot ROM finds the firmware image valid (R80); the image and the fused key are not part of the specification. Free. DESIGN
CHOICE (log entry 13). -/
opaque firmwareVerifies : Bool
/-- Whether the function of a Function Ready bit passes its self-test (R77): free, as its outcome is not part of the specification. DESIGN
CHOICE (log entry 13). -/
opaque selfTestPasses : Nat → Bool
/-- The firmware digest of the attestation report (R83). Free. DESIGN CHOICE (log entry 13). -/
opaque firmwareDigest : Nat → Byte
/-- The 16-byte device serial of the attestation report (R83). Free. DESIGN CHOICE (log entry 13). -/
opaque deviceSerial : Nat → Byte
/-- The private identity key of the device (R83), not part of the specification. Free. DESIGN CHOICE (log entry 13). -/
opaque identityKey : Nat
/-- The secret number of a signature over a report's first 176 bytes, and those taken after it where one gives no signature (R83). Free.
DESIGN CHOICE (log entry 13). -/
opaque signNonce : List Byte → Nat → Nat
/-- The set, modulo 16, of its cluster's matching store in which a token waits, by the token's key in the layout of R116: the hash of keys
to sets is not part of the specification (R114, R121). Free. DESIGN CHOICE (log entry 9). -/
opaque matchSet : Nat → Nat
/-- Which of the PEs that are still free the Mapper gives to an instruction of a block image, modulo their number (R115, R124). Free. DESIGN
CHOICE (log entry 107). -/
opaque peChoice : List Word → Nat → Nat
/-- The bytes with which the device keeps the engine and Graver state in a Proof: their layout is its own (R373). Free, one value for each
drain. DESIGN CHOICE (log entry 14). -/
opaque proofEngineState : Nat → List Byte

end Sys2Proof.Config
end

