-- ==== Sys2Proof/Machine/State.lean ====
section
/-! DEFINITION. The state of one module as plain data, and the module right after reset. Each field cites the
rule that gives it; a field of the model's own says so. -/

namespace Sys2Proof.Machine

/-- Bytes by address, in the canonical form of `Tab`. -/
abbrev Mem := Tab Byte

/-- Why the model itself stops. A fault of the specification is not one of these: it freezes a context and is a
next state. -/
inductive Fault where
  /-- Raised by a meaning that is asked to act while no firing is in hand. `step` never does so. Safe. -/
  | noFiring
  deriving DecidableEq, Repr

/-- Why the model gives an operation no meaning. -/
inductive Refusal where
  /-- Raised by an arm of `exec` that has no meaning yet. Safe. -/
  | notModelled (mnemonic : String)
  /-- Raised by `step` when the word placed at a firing's PE is not an instruction; the Mapper places no such
  word (R154). Safe. -/
  | notAnInstruction
  deriving DecidableEq, Repr

/-- One matched range that an instruction acts on (R118, R120), with the operand pieces that cover it. `eos` is
the bound of an end-of-stream that the node now handles (R136). `waive` is the cause that a resumed firing is not
checked against (R367); `done` and `part` keep the elements already performed before a fault (R211, R228). -/
structure Firing where
  ctx : Nat
  inst : Nat
  iter : Nat
  len : Nat
  a : Option Token
  b : Option Token
  c : Option Token
  p : Option Token
  eos : Option Nat
  last : Port
  wait : Nat
  waive : Option (BitVec 10)
  done : Nat
  part : List Dbl
  born : Nat
  deriving DecidableEq, Repr

/-- Where the result of a request is delivered: the instruction, its iteration and targets, and the sideband bits
of its inputs (R163). `runs` are the ranges on which it fired, from `iter` on, and `standing` says that its result is a standing
token (R118, R175). -/
structure Reply where
  ctx : Nat
  inst : Nat
  iter : Nat
  runs : List (Nat × Nat)
  standing : Bool
  targets : List Target
  sb : BitVec 5
  born : Nat
  deriving DecidableEq, Repr

/-- A work item not yet done: an event of a unit, or a firing at a PE. -/
inductive Work where
  | event (i : Instr)
  | fire (f : Firing)
  deriving DecidableEq, Repr

/-- What a work item is to the others of its cycle, where the spec says what comes first (R142, R190, R217, R220, R261, R303, R322, R329, R346):
a firing of an instruction, an `mts`, tokens at an instruction and its packet, a commit and a preemption, bytes loaded, bytes stored
with the rank of who stores, a look at Tile Table states, an operation entering a Press's queues, an impression gathered and a plate
marked, a lease given and light lost, an acquire and a sweep of slots, a stimulus taken and a demotion, a register write of the host. -/
inductive Meet where
  | fires (ctx inst : Nat)
  | clears (ctx : Nat)
  | eos (ctx inst : Nat)
  | token (ctx inst : Nat)
  | packet (ctx inst : Nat)
  | commits (ctx : Nat)
  | preempts
  | loads (bytes : Option (List (Nat × Nat × Nat)))
  | stores (rank : Nat) (bytes : Option (List (Nat × Nat × Nat)))
  | slots (group : Nat)
  | enters (press : Nat)
  | gathers (group : Nat)
  | marks (group : Nat)
  | gives
  | darkens
  | acquires
  | sweeps
  | offers
  | demotes
  | host
  deriving DecidableEq, Repr

/-- One choice of the schedule (model): after `dt` ns the work item `idx` moves next, or the outside event `ext`
happens. -/
structure Pick where
  dt : Nat
  idx : Nat
  ext : Option Instr
  deriving DecidableEq, Repr

/-- A stimulus on its way (R17), with the emitting actor's release record for the race checker (R338) and the
card it was dealt from (R22). -/
structure Stim where
  bytes : List Byte
  clock : Option (Nat × Nat × Nat)
  card : Option Nat
  deriving DecidableEq, Repr

/-- What a home Walker is asked to apply to an agent (R313). -/
inductive AgentOp where
  | bind (plate : Nat)
  | hint (hv pin : Bool) (hg : Nat)
  | query (clr unb : Bool)
  deriving DecidableEq, Repr

/-- What waits at a home Walker, with its class of R85: 1 host, 2 step, 3 peer, 4 the device itself, and within host ingress its place
`rank` by link and port. `peer` is the device and transfer tag of one that came over the fabric and is to be acknowledged (R273). -/
structure Arrival where
  cls : Nat
  rank : Nat
  order : Nat
  ten : Nat
  agent : Nat
  stim : Option Stim
  op : Option (AgentOp × Reply)
  ack : Option Reply
  peer : Option (Nat × Nat)
  deriving DecidableEq, Repr

/-- An agent that is asleep with stimuli in its HBM queue while the home Walker keeps its QTAIL: its promotion is held for a way
(R88), or could not be made (R400). `record` is the VA of its record. -/
structure Promotion where
  ten : Nat
  agent : Nat
  record : Nat
  qtail : Word
  held : Bool
  deriving DecidableEq, Repr

/-- What the bytes of a stimulus in an HBM queue slot do not say: the queue count, the release record and the card (R22, R338). -/
structure SlotNote where
  ten : Nat
  agent : Nat
  count : Word
  clock : Option (Nat × Nat × Nat)
  card : Option Nat
  deriving DecidableEq, Repr

/-- A Tile Table entry (R216). -/
structure Tile where
  state : BitVec 2
  ten : BitVec 4
  tid : BitVec 10
  pl : Bool
  off : Bool
  oinst : BitVec 7
  oiter : BitVec 16
  osb : BitVec 5
  otag : BitVec 8
  deriving DecidableEq, Repr

/-- A plate directory entry: type code, rows - 1, columns - 1, scale base, block-scale flag (R23). -/
structure DirEntry where
  ty : Byte
  rows : Byte
  cols : Byte
  scale : Byte
  block : Bool
  deriving DecidableEq, Repr

/-- A plate present in a Group (R25, R258, R259). -/
structure Plate where
  ten : Nat
  num : Nat
  slots : List Nat
  dir : List DirEntry
  uses : Nat
  marked : Bool
  matched : Nat
  evictors : List Reply
  deriving DecidableEq, Repr

/-- A Plate Key Table slot (R82). -/
structure KeySlot where
  bytes : Mem
  valid : Bool
  deriving DecidableEq, Repr

/-- A plate load that waits or runs (R24, R94, R257). `wanted` holds the agents whose entries asked for it; `head` the header and
directory read at its start, `keys` the Plate Key Table as it was then, and `key` the key taken from it (R82). An `image` of 2^60 or above is a local PA: a distributed image, whose
publishers in `reports` are told the result (R284). -/
structure Load where
  id : Nat
  ten : Nat
  num : Nat
  image : Nat
  running : Bool
  overdue : Bool
  retried : Bool
  slots : List Nat
  tiles : Nat
  head : List Byte
  keys : Tab KeySlot
  key : Nat × Nat
  wanted : List Nat
  replies : List Reply
  evictors : List Reply
  reports : List Nat
  startedAt : Nat
  deriving DecidableEq, Repr

/-- A Meeting Store entry with the record fields it keeps (R10, R89, R90). `agedTo` is the count of Age Tick
boundaries up to which it has aged (R97, R99), `stuck` says that a refill failed (R400), `lacksSince` when it began to lack a party with the Demote Delay of that time (R91, R110), `moveTo` a new meeting place (R93). -/
structure Entry where
  ten : Nat
  agent : Nat
  record : Nat
  ch : Nat
  pin : Bool
  hv : Bool
  hg : Nat
  plate : Nat
  routine : Nat
  sbase : Nat
  headsz : Nat
  qlog2 : Nat
  qbase : Nat
  qhead : Word
  qtail : Word
  steps : Nat
  queue : List Stim
  hq : Bool
  blocked : Bool
  stuck : Bool
  inFlight : Bool
  imp : Option Nat
  waiting : Bool
  age : Nat
  overdue : Bool
  agedTo : Nat
  seq : Word
  lacksSince : Option (Nat × Nat)
  moveTo : Option Nat
  deriving DecidableEq, Repr

/-- An impression not yet admitted (R100, R101). `due` is when its Batch Window ends, `words` the Window Words that it was formed
for (R110). -/
structure Imp where
  id : Nat
  ten : Nat
  plate : Nat
  routine : Nat
  ch : Nat
  headsz : Nat
  members : List Nat
  opened : Nat
  due : Nat
  closed : Bool
  words : Nat
  deriving DecidableEq, Repr

/-- A line of a remote-cached page that a Group holds (R213, R302). -/
structure Line where
  peer : Nat
  pa : Nat
  bytes : List Byte
  deriving DecidableEq, Repr

/-- A TLB entry for one (tenancy, page) (R210), with the migration count of a Group's entry (R214). -/
structure TlbEntry where
  ten : Nat
  va : Nat
  size : Nat
  pte : Dbl
  pteAddr : Nat
  count : Nat
  deriving DecidableEq, Repr

/-- A placed block of the Placement Cache: image and grid revision (R124). -/
structure Placed where
  image : List Word
  grev : Nat
  deriving DecidableEq, Repr

/-- A Press Group (R89 to R103, R124, R210, R213, R216). -/
structure Group where
  nextSeq : Word
  entries : List Entry
  imps : List Imp
  tiles : Tab Tile
  plates : List Plate
  loads : List Load
  cache : List Placed
  tlb : List TlbEntry
  lines : List Line
  deriving DecidableEq, Repr

/-- A tile ring of a context (R219, R241). -/
structure Ring where
  first : Nat
  len : Nat
  prod : Nat
  cons : Nat
  drains : Nat
  tid : Nat
  deriving DecidableEq, Repr

/-- A Graver descriptor as read at configuration, with the TDT entry it walks (R29, R250). -/
structure GvConfig where
  store : Bool
  ringed : Bool
  ring : Nat
  indirect : Bool
  ndim : Nat
  run : Nat
  start : List Nat
  cnt : List Nat
  step : List Int
  tid : Nat
  tdt : List Dbl
  total : Nat
  queries : List Dbl
  deriving DecidableEq, Repr

/-- A matrix descriptor as read at configuration (R244), with its vectors and scale base (R53). -/
structure MxConfig where
  path : Nat
  fromRing : Bool
  aring : Nat
  bring : Nat
  cring : Nat
  kt : Nat
  rows : Nat
  btile : Nat
  count : Nat
  otype : Nat
  fn : Nat
  bias : List Word
  scale : List Word
  base : Int
  tid : Nat
  tdt : List Dbl
  deriving DecidableEq, Repr

/-- An output tile waiting in staging (R247): its slot, bytes, sideband bits and member of the order. -/
structure Staged where
  slot : Nat
  bytes : List Byte
  sb : BitVec 5
  own : BitVec 5
  checked : Bool
  deriving DecidableEq, Repr

/-- What an engine operation does. A run of a Graver takes its configuration as it starts (R249); `store` says which way it goes. -/
inductive EngKind where
  | matrix (desc : Nat) (unit : Nat)
  | graverConfig (desc : Nat) (indirect : Bool)
  | graverRun (store : Bool) (cfg : Option GvConfig) (start : Nat)
  | copy (dst src len : Nat)
  | remoteCopy (dst src len : Nat)
  | drain (slot : Nat) (ring : Option Nat) (di : Nat)
  | restWrite (dst : Nat) (bytes : List Byte)
  | marker (v : Dbl)
  deriving DecidableEq, Repr

/-- An operation of an engine queue (R220). `pos` is its progress: granules, elements or bytes; `stalled` says that it waits for a
translation; `block` and `word` are those of its instruction (R262). -/
structure EngOp where
  id : Nat
  ctx : Nat
  queue : Nat
  tid : Nat
  kind : EngKind
  reply : Reply
  started : Bool
  held : Bool
  waive : Option (BitVec 10)
  pos : Nat
  data : List Byte
  stream : List Token
  closed : Option Nat
  ringed : Nat
  stalled : Bool
  block : Nat
  word : Word
  deriving DecidableEq, Repr

/-- A matrix unit's bound operation (R243, R247, R248). -/
structure MxBound where
  op : EngOp
  cfg : MxConfig
  fired : Nat
  written : Nat
  staging : List Staged
  unbinding : Bool
  unbinders : List Reply
  deriving DecidableEq, Repr

/-- A Press (R105, R106, R114, R125, R220). `shareAt` is the cycle in which its shadow table was last written, `starved` the ns of waiting
spawns counted up to `starveSince` (R107). -/
structure Press where
  queues : Tab (List EngOp)
  running : List EngOp
  units : Tab MxBound
  regions : Tab (List Word)
  regionUse : Tab Nat
  shareLive : Tab Dbl
  shareShadow : Tab Dbl
  shareAt : Nat
  tlb : List TlbEntry
  turns : Tab Nat
  spawns : List (Firing × Nat)
  starved : Nat
  starveSince : Nat
  stylus : Nat
  deriving DecidableEq, Repr

/-- A member of an impression: its agent, head stimulus and state base (R30, R102). -/
structure Member where
  agent : Nat
  stim : Stim
  sbase : Nat
  deriving DecidableEq, Repr

/-- A stimulus in the held area: the packet and the device it is for, or the sink ring (R306, R308). -/
structure Held where
  stim : Stim
  dev : Nat
  sink : Option Nat
  deriving DecidableEq, Repr

/-- A step in flight: what its contexts share (R30, R102, R309). -/
structure StepRec where
  ten : Nat
  group : Nat
  press : Nat
  plate : Nat
  headsz : Nat
  words : Nat
  members : List Member
  window : Mem
  held : List Held
  root : Nat
  retiring : Bool
  admittedAt : Nat
  deriving DecidableEq, Repr

/-- Where a context stands with its block (R123 to R129). -/
inductive Phase where
  | fetching
  | wantsRegion
  | placing
  | configuring
  | running
  | ending
  deriving DecidableEq, Repr

/-- What a trap or `tret` firing asks of the commit (R320); `tretAny` after a resume, without the check of TRA (R321, R367). -/
inductive Divert where
  | trap (n : BitVec 8)
  | tret
  | tretAny
  deriving DecidableEq, Repr

/-- A fired exit: its instruction, number, and destination header VA or none for the end of the step (R129). -/
structure ExitFired where
  inst : Nat
  num : Nat
  dest : Option Nat
  deriving DecidableEq, Repr

/-- One element that `rpack` or `turn` keeps: its value if it is not null, its bits and scale state. -/
structure Cell where
  val : Option Dbl
  sb : BitVec 5
  scaled : Bool
  deriving DecidableEq, Repr

/-- A stream's progress at a reduction, scan, `rpack` or `turn` (R184, R186, R187): the count of iterations combined or
delivered from S0 on, the accumulator and whether it is one element alone, the tokens that are not due yet, and by offset from S0 what is kept. -/
structure Stream where
  taken : Nat
  acc : Option Dbl
  bare : Bool
  scaled : Option Bool
  sb : BitVec 5
  late : List Firing
  buffer : Tab Cell
  deriving DecidableEq, Repr

/-- One firing as the Stylus sees it (R397): where its last token came from. -/
structure Note where
  born : Nat
  inst : Nat
  iter : Nat
  last : Port
  parent : Nat
  wait : Nat
  root : Bool
  deriving DecidableEq, Repr

/-- Where a started page walk, an access or a fault happened: the record's extra fields (R364). -/
structure FaultInfo where
  member : Nat
  iter : Nat
  inst : Nat
  word : Word
  sb : BitVec 5
  engine : Option Nat
  tid : Nat
  ntok : Nat
  addr : Dbl
  aux : Dbl
  items : List Dbl
  block : Nat
  deriving DecidableEq, Repr

/-- A frozen context's stop (R359): the cause, the record's SEQ and what is done once at resume. -/
structure Frozen where
  cause : BitVec 10
  seq : Nat
  again : Option Work
  since : Nat
  deriving DecidableEq, Repr

/-- A CLASS 00 record (R366 to R369): its context, its VA once written, its bytes, and whether it has been disposed of. -/
structure FaultRec where
  ctx : Nat
  va : Nat
  bytes : List Byte
  done : Bool
  deriving DecidableEq, Repr

/-- A context's part in race checking (R336, R338). -/
structure Actor where
  dom : Nat
  slot : Nat
  deriving DecidableEq, Repr

/-- A context (R30, R49, R106, R127 to R130, R321). `waiting` holds its waiting tokens and standing tokens, `owed` by
instruction the requests whose reply token has not arrived (R128), `eosHeld` the EOS that waits behind them, `undo` the bytes that its stores replaced, by place and LSID (R224), `gathered`
what each `st.v` has acted on (R229), `iterNext` the `iter` at work and how
many iterations it has emitted with which bits (R132, R163), `watch` the Block Watch limit of the block, 0 for none (R140). In a Proof its tag is 256 plus the
slot and its engine operations are kept in queues 8 to 15 of its Press; `refreeze` is the freeze that it keeps there, and `begun` are the
PEs that had started when it was saved, while it is being restored (R372, R374). -/
structure Ctx where
  press : Nat
  tag : Nat
  spawned : Bool
  parent : Option Reply
  stp : Nat
  ten : Nat
  group : Nat
  n : Nat
  g : Tab Word
  b : Tab Dbl
  esum : BitVec 5
  eenable : BitVec 5
  th : Bool
  tnum : BitVec 8
  tra : Dbl
  phase : Phase
  block : Nat
  image : List Word
  region : Option Nat
  configured : List Nat
  startedAt : Nat
  watch : Nat
  entry : Nat
  waiting : List Token
  bounds : List (Nat × Port × Nat)
  eosDone : List Nat
  streams : Tab Stream
  lsids : BitVec 32
  gws : List (Nat × Nat × Option Word)
  exits : List ExitFired
  bsets : List (Nat × Nat × Dbl)
  badds : List (Nat × Dbl)
  rests : List Nat
  divert : Option Divert
  acted : Tab (List Nat)
  undo : List (Nat × Nat × Byte)
  gathered : Tab (List Nat)
  walkSince : Option Nat
  iterNext : Option (Nat × Nat × BitVec 5)
  frozen : Option Frozen
  refreeze : Option Frozen
  begun : List Nat
  parked : List Work
  owed : Tab Nat
  eosHeld : List (Nat × Nat × List Target)
  rings : Tab Ring
  graver : Tab GvConfig
  actor : Option Actor
  drain : Option Bool
  counts : Tab Nat
  totals : Tab Nat
  notes : List Note
  lastTraced : Nat
  deriving DecidableEq, Repr

/-- The kinds of access of the memory model (R224, R345). -/
inductive AccKind where
  | load | store
  | amo (op : BitVec 3) (ty : AmoTy)
  | cas (wide : Bool)
  deriving DecidableEq, Repr

/-- Where an access is performed (R200, R213, R288). -/
inductive Place where
  | hbm (pa : Nat)
  | lane (off : Nat)
  | tile (group slot off : Nat)
  | payload (member off : Nat)
  | remote (peer pa : Nat) (cached : Bool)
  deriving DecidableEq, Repr

/-- A memory access of a PE that has not been performed (R224, R288). `parts` are its translated parts in
ascending address: place, bytes, page kind and checked flag (R211, R292). `sent` says that its remote parts have been requested,
`got` holds what has come of them: by part, and by 16 plus its number the line of a remote-cached page. `twin` is the firing of the second
element where two are one access of 16 bytes (R291). -/
structure Access where
  id : Nat
  fire : Nat
  ctx : Nat
  inst : Nat
  elem : Nat
  iter : Nat
  entry : Nat
  lsid : Nat
  block : Nat
  word : Word
  kind : AccKind
  addr : Dbl
  size : Nat
  val : Dbl
  val2 : Dbl
  acq : Bool
  rel : Bool
  sys : Bool
  parts : List (Place × Nat × BitVec 2 × Bool)
  walked : Bool
  sent : Bool
  got : List (Nat × List Byte)
  waive : Option (BitVec 10)
  held : Bool
  twin : Option Nat
  deriving DecidableEq, Repr

/-- A memory instruction's firing whose accesses are in the Press memory queue (R228, R229): accesses not yet accepted and not yet
performed, the LSID it delivers, the results by element and its own bits. -/
structure MemFire where
  id : Nat
  firing : Firing
  reply : Reply
  ty : Ty
  ew : Width
  toAccept : Nat
  left : Nat
  lsid : Option Nat
  vec : Bool
  results : Tab Dbl
  own : BitVec 5
  deriving DecidableEq, Repr

/-- A `fence` that waits (R234), with the engine operations it waits for; `waive` says that its release is not made (R337). -/
structure FenceRec where
  id : Nat
  reply : Reply
  entry : Nat
  lsid : Nat
  scope : Scope
  level : Level
  ops : List Nat
  waive : Bool
  deriving DecidableEq, Repr

/-- A `qfence` that waits for operations (R235): each with the matrix firings it waits for. -/
structure QFenceRec where
  id : Nat
  reply : Reply
  ops : List (Nat × Nat)
  deriving DecidableEq, Repr

/-- What an outstanding transfer over the fabric carries (R273, R280). A line fill is `stale` once the Group has dropped its copies: what
answers it is no copy any more (R213, R302). -/
inductive XferKind where
  | store (acc : Nat)
  | load (acc : Nat)
  | lineFill (acc line : Nat) (stale : Bool)
  | atomic (acc : Nat)
  | copy (op : Nat)
  | emitNow (reply : Reply) (firing : Firing)
  | heldStim (ten : Nat) (stim : Stim)
  | cohort (op : Nat)
  | unitRead (owner : Nat)
  | unitWrite (owner : Nat)
  deriving DecidableEq, Repr

/-- An outstanding transfer (R273, R281). `entry` and `lsid` are the position of a PE access; of a unit's read or write `entry` is the
PA, and of a unit's write `need` is the tenancy. -/
structure Xfer where
  xtag : Nat
  peer : Nat
  ctx : Nat
  kind : XferKind
  entry : Nat
  lsid : Nat
  acc : Bool
  vis : Bool
  need : Nat
  sentAt : Nat
  deriving DecidableEq, Repr

/-- A transfer being received (R272, R273). -/
structure InXfer where
  nbr : Nat
  src : Nat
  xtag : Nat
  pa : Nat
  total : Nat
  flags : Word
  got : List Byte
  started : Nat
  deriving DecidableEq, Repr

/-- A card on the device's list (R22, R108). -/
structure Card where
  id : Nat
  ten : Nat
  ch : Nat
  routine : Nat
  count : Nat
  rsize : Nat
  array : Nat
  next : Nat
  live : Nat
  stim : Stim
  deriving DecidableEq, Repr

/-- A cohort's open round: its operation (2 for a barrier, else the `cred` XOP) and its arrivals (R316). -/
structure Round where
  xop : Nat
  arrived : List (Nat × Word × BitVec 5)
  deriving DecidableEq, Repr

/-- A cohort of this home (R314, R315). A member is a device number and an agent. -/
structure Cohort where
  ten : Nat
  ch : Nat
  gen : BitVec 16
  members : List (Nat × Nat)
  round : Option Round
  deriving DecidableEq, Repr

/-- A cohort operation on its way to its home (R315, R316): with a transfer tag plus 1 in `xtag` while it is at another device, or came
from one. `waive` is the cause that it is not checked against (R367). -/
structure CohortOp where
  id : Nat
  dev : Nat
  ten : Nat
  xop : Nat
  agents : List Nat
  vals : List Word
  sb : BitVec 5
  coh : Nat
  ch : Nat
  reply : Option Reply
  firing : Option Firing
  waive : Option (BitVec 10)
  xtag : Nat
  deriving DecidableEq, Repr

/-- The states of a wavelength (R267). -/
inductive Wave where
  | dark | locking | live | retiring | failed
  deriving DecidableEq, Repr

/-- A pending lease request (R268): the wavelengths it still owes, those asked of the peer now, whether it waits for a lit count to
fall, and whether the first answer has come. -/
structure LeaseReq where
  id : Nat
  reply : Reply
  firing : Firing
  nbr : Nat
  owes : Nat
  asked : BitVec 64
  stale : Bool
  answered : Bool
  since : Nat
  deriving DecidableEq, Repr

/-- A give or revoke whose wavelengths are not all RETIRING (R269); one of the arbiter's own replies to none (R270). -/
structure Retire where
  nbr : Nat
  reply : Option Reply
  waves : List Nat
  deriving DecidableEq, Repr

/-- A flit that waits to be dealt (R277): one in transit takes the receive buffer `came`, a neighbour and virtual channel, until then. -/
structure Outgoing where
  flit : Flit
  came : Option (Nat × Nat)
  deriving DecidableEq, Repr

/-- A flit as it leaves (R274): the wavelength on which each of its 36 words travels. -/
structure SentFlit where
  nbr : Nat
  flit : Flit
  waves : List Nat
  deriving DecidableEq, Repr

/-- One end of a link to a neighbour (R274, R276 to R278, R282). `freedIn` is FREED as the peer reports it, `freedOut` what this end has
released. `words` are the words dealt in the epoch. `stopped` holds dealing during a restripe and `held` during a reconfiguration; `lost`
are wavelengths whose loss is not yet taken out of the stripe, by loss, with the ELS that reported it; `asked` is the restripe that this end has started: the live mask asked for, the ELS that reported, and the lost
wavelengths. `grow` are the wavelengths granted to this end, `locked` those of them that have locked. DESIGN CHOICE (log entry 160). -/
structure Link where
  seq : BitVec 24
  acked : BitVec 24
  expect : BitVec 24
  replay : List Flit
  waiting : List Outgoing
  sent : Tab (BitVec 16)
  freedIn : Tab (BitVec 16)
  freedOut : Tab (BitVec 16)
  replays : Nat
  lastAck : Nat
  epoch : Nat
  words : Nat
  down : Bool
  stopped : Bool
  held : Bool
  drained : Bool
  live : BitVec 64
  lost : List (BitVec 64 × Option Nat)
  grow : BitVec 64
  locked : BitVec 64
  asked : Option (BitVec 64 × Option Nat × BitVec 64)
  beacon : Nat
  discards : Nat
  deriving DecidableEq, Repr

/-- The Fabric Image in use (R264): Circuit Map words, Neighbour doubles, Route words, each by index. -/
structure Fabric where
  circuit : Tab Word
  nbrs : Tab Dbl
  routes : Tab Word
  deriving DecidableEq, Repr

/-- A stimulus that a PROD write has published (R71): the copied bytes, the link, and the transfer tags of the same link's earlier W4 writes
at peers, which it acquires (R72). -/
structure Published where
  bytes : List Byte
  link : Nat
  tags : List Nat
  deriving DecidableEq, Repr

/-- An ingress port (R70, R71, R73). `fetching` are the routines whose first blocks it has asked for and that are not placed yet, in
their order. -/
structure InPort where
  b0 : Dbl
  b1 : Dbl
  slots : Mem
  prod : Word
  cons : Word
  refused : Word
  routine : Option Nat
  fetching : List Nat
  published : List Published
  deriving DecidableEq, Repr

/-- A host ring's registers and the link it was last written through (R74, R75). -/
structure HostRing where
  base : Dbl
  ctl : Dbl
  ptr : Dbl
  shadow : Dbl
  link : Nat
  deriving DecidableEq, Repr

/-- An actor slot of the race checker: its occupant's clock, standing and Press, and the last occupants as agent, first clock, final
clock and tenancy (R336 to R339). -/
structure SlotRec where
  ctx : Option Nat
  vc : Tab Nat
  floor : Nat
  ef : Bool
  scope : Nat
  pending : List (Nat × Nat × Nat)
  degraded : List Nat
  sweeping : Bool
  press : Nat
  history : List (Nat × Nat × Nat × Nat)
  deriving DecidableEq, Repr

/-- What waits for a tile, ring, queue or slot as a party (R218, R220, R241). -/
structure Waiter where
  id : Nat
  firing : Firing
  deriving DecidableEq, Repr

/-- A Proof slot in use (R371 to R374): its context, the tag and window words that it had, and whether it is held. What the Proof
saves stays in the context, its step and its Press, where nothing acts on it. -/
structure Proof where
  ctx : Nat
  tag : Nat
  words : Nat
  hold : Bool
  deriving DecidableEq, Repr

/-- A plate distribution by this device (R284): the descriptor and image PAs, chunks in all, the next chunk, whether one is on its way,
tenancy and plate; and the entries of the chain with what each device has reported. -/
structure Dist where
  desc : Nat
  src : Nat
  chunks : Nat
  next : Nat
  sent : Bool
  ten : Nat
  num : Nat
  chain : List (Nat × Option Nat)
  deriving DecidableEq, Repr

/-- An object that the Shard Watch looks at (R378): 0 a tile slot in Filling (1024 g + slot), 1 an incoming transfer (4096 source +
tag), 2 an engine operation that waits on withheld data (its identifier); when it last made progress, and whether its present stall is
reported. -/
structure Shard where
  kind : Nat
  obj : Nat
  since : Nat
  told : Bool
  deriving DecidableEq, Repr

/-- A record that waits for its ring (R76, R363): its 128 bytes. -/
abbrev RecordBytes := List Byte

/-- Something the host observes: a write to its memory on a link under a PASID and an MSI-X message of a function's vector on a link
(R66, R75), a read's answer or its Completer Abort (R69). -/
inductive HostOut where
  | write (link pasid addr : Nat) (bytes : List Byte)
  | msix (func vec link : Nat)
  | read (bytes : List Byte)
  | abort
  deriving DecidableEq, Repr

/-- A page migration under way (R214). -/
structure Migration where
  ten : Nat
  va : Nat
  pteAddr : Nat
  peer : Nat
  oldFrame : Nat
  newFrame : Nat
  deriving DecidableEq, Repr

/-- The state of the module. DESIGN CHOICE (log entry 2). -/
structure State where
  /-- Work items not yet done (model; R119, R128). -/
  queue : List Work
  /-- The schedule: which item or outside event moves next (model). -/
  script : List Pick
  /-- The firing in hand (model). -/
  cur : Option Firing
  /-- Counter of the free values (model). -/
  freeCount : Nat
  /-- Source of fresh identifiers (model). -/
  nextId : Nat
  /-- Device clock in ns (R97, R345). -/
  now : Nat
  /-- What has moved, and when: the items of one cycle are ordered by it (model; R142). -/
  meets : List (Nat × Meet)
  /-- Age Tick boundaries passed up to the last change of the Age Tick, and the time of that change (R97, R110). -/
  tickBase : Nat
  tickAt : Nat
  /-- The Lend mask in use up to the first wrap after its register was last written, and the cycle of that write (R105). -/
  lendLive : BitVec 16
  lendAt : Nat
  /-- Local HBM (R199). -/
  hbm : Mem
  /-- Tile slots of all Groups: byte o of slot k of Group g at 2^24 g + 2^14 k + o (R200). -/
  sram : Mem
  /-- Host memory as the device reaches it: the byte at address a under PASID p stands at 2^64 p + a (R66, R75). -/
  hostMem : Mem
  /-- Granules whose check word does not match: 2 x granule for HBM, 2 x granule + 1 for SRAM (R376). -/
  spoiled : List Nat
  /-- The CSR file (R68). -/
  csrs : Tab Dbl
  /-- Function Ready (R77). -/
  ready : BitVec 512
  /-- Function Failed (R77). -/
  failed : BitVec 512
  /-- Presses whose matrix units have ramped (R79). -/
  ramped : List Nat
  /-- When the Wake Sequencer last began to power up a Press (R79). -/
  wakeAt : Nat
  /-- Plate Key Table (R82). -/
  keys : Tab KeySlot
  keyLock : Bool
  /-- Attestation: the nonce from byte 0, the report from byte 0x100, the nonce that the request took from byte 0x1000; and the status
  double (R83). -/
  attest : Mem
  attestStatus : Dbl
  /-- W4BASE of each function (R68). -/
  w4base : Tab Dbl
  /-- The W4 read in progress of a function on a link: its address and length (R69). -/
  hostReading : Tab (Nat × Nat)
  ports : Tab InPort
  /-- Sink ring j of tenancy t at 8t + j, event ring f at 128 + f (R74). -/
  rings : Tab HostRing
  /-- Stimuli waiting for a sink ring (R76). -/
  egress : Tab (List Stim)
  /-- Records waiting for an event ring (R76). -/
  eventWait : Tab (List RecordBytes)
  /-- Records waiting for a tenancy's fault ring (R363). -/
  faultWait : Tab (List RecordBytes)
  /-- Refused stimuli held for a tenancy's quarantine queue, with their records and whether those are at the event ring (R363). -/
  quarWait : Tab (List (Stim × RecordBytes × Bool))
  /-- Next record SEQ of each tenancy (R364). -/
  faultSeq : Tab Nat
  /-- Records of frozen contexts by tenancy and SEQ, at 2^24 t + SEQ (R367). -/
  records : Tab FaultRec
  hostOut : List HostOut
  arrivals : Tab (List Arrival)
  promotions : List Promotion
  /-- By queue slot what the bytes in HBM do not hold (R22, R338). -/
  slotNotes : List SlotNote
  /-- Stimuli for other devices that wait for a transfer tag: tenancy, device and stimulus (R308). -/
  unsent : List (Nat × Nat × Stim)
  groups : Tab Group
  presses : Tab Press
  steps : Tab StepRec
  ctxs : Tab Ctx
  accesses : List Access
  /-- Stores at peers that are acknowledged *acc* and not yet *vis* (R234, R285). -/
  settling : List Access
  memFires : List MemFire
  fences : List FenceRec
  qfences : List QFenceRec
  waiters : List Waiter
  cards : List Card
  cohorts : Tab Cohort
  cohortOps : List CohortOp
  proofs : Tab Proof
  /-- Contexts that wait for an actor slot (R336). -/
  slotWait : List Nat
  /-- Actor slots: slot s of domain d at 256 d + s (R336). -/
  slots : Tab SlotRec
  /-- Use order of the ways of a metadata set (R335). -/
  ways : Tab (List Nat)
  /-- Race records written in an interval of 1 us, by domain, and which interval that is (R344). -/
  raceBudget : Tab Nat
  raceMicro : Nat
  migrations : List Migration
  invalidating : Option (BitVec 2 × Nat × Nat)
  fabric : Option Fabric
  /-- The image of a reconfiguration under way (R282). -/
  nextFabric : Option Fabric
  waves : Tab Wave
  links : Tab Link
  leases : List LeaseReq
  retires : List Retire
  xfers : List Xfer
  /-- Bytes read from a peer for a unit of the device that waits for them: owner, peer, PA and bytes (R213). -/
  remoteBuf : List (Nat × Nat × Nat × List Byte)
  /-- Requests to a peer that failed for such a unit: owner, cause, AUX and PA (R281). -/
  remoteBad : List (Nat × Nat × Nat × Nat)
  inXfers : List InXfer
  /-- What the Shard Watch looks at (R378). -/
  shards : List Shard
  /-- Flits sent, in order (R272). -/
  sentFlits : List SentFlit
  /-- The plate distribution under way (R284). -/
  dist : Option Dist
  /-- Chunks of a plate on their way through this device (R284): what each is kept under, its number, and the bytes of its PLATE flits. -/
  chunks : List (Nat × Nat × List Byte)
  /-- The distributions whose chain has stopped at this device (R284): publisher, plate number and tenancy as one number. -/
  chainStopped : List Nat
  /-- Live device counts of events 0x200 on (R392). -/
  devCounts : Tab Nat
  /-- Cycle of the last trace record (R395). -/
  traceLast : Option Nat
  deriving DecidableEq, Repr

/-- What stands in `frozen` of a context that a drain has stopped: no record has this SEQ (R372). -/
def drainStop : Frozen := { cause := 0x3C5, seq := 2 ^ 24, again := none, since := 0 }

/-- An empty Press Group. -/
def Group.empty : Group :=
  { nextSeq := 0, entries := [], imps := [], tiles := [], plates := [], loads := [], cache := [], tlb := [],
    lines := [] }

/-- A Press with nothing admitted; a Share Table double not listed reads as R105 resets it. -/
def Press.empty : Press :=
  { queues := [], running := [], units := [], regions := [], regionUse := [], shareLive := [], shareShadow := [],
    shareAt := 0, tlb := [], turns := [], spawns := [], starved := 0, starveSince := 0, stylus := 0 }

/-- The module right after reset: nothing is listed anywhere, so every register reads its reset value, and the
boot ROM is about to check the firmware (R80). -/
def State.reset : State :=
  { queue := [.event .resetBoot], script := [], cur := none, freeCount := 0, nextId := 1, now := 0, meets := [],
    tickBase := 0, tickAt := 0, lendLive := 0xFFFF, lendAt := 0,
    hbm := [], sram := [], hostMem := [], spoiled := [], csrs := [], ready := 0, failed := 0, ramped := [], wakeAt := 0,
    keys := [], keyLock := false, attest := [], attestStatus := 0, w4base := [], hostReading := [], ports := [], rings := [],
    egress := [], eventWait := [], faultWait := [], quarWait := [], faultSeq := [], records := [], hostOut := [],
    arrivals := [], promotions := [], slotNotes := [], unsent := [], groups := [], presses := [], steps := [], ctxs := [], accesses := [], settling := [],
    memFires := [], fences := [], qfences := [], waiters := [], cards := [], cohorts := [], cohortOps := [],
    proofs := [], slotWait := [], slots := [], ways := [], raceBudget := [], raceMicro := 0, migrations := [],
    invalidating := none, fabric := none, nextFabric := none, waves := [], links := [], leases := [],
    retires := [], xfers := [], remoteBuf := [], remoteBad := [], inXfers := [], shards := [], sentFlits := [], dist := none, chunks := [], chainStopped := [], devCounts := [],
    traceLast := none }

end Sys2Proof.Machine
end

