-- ==== Sys2Proof/Machine/Table.lean ====
section
/-! DEFINITION. The operations on sparse tables and on memory bytes: one canonical form, strictly rising keys and no
entry equal to what an unlisted key reads as. -/

namespace Sys2Proof.Machine

/-- The entry at `k`, if one is listed. -/
def tabFind {α : Type} (t : Tab α) (k : Nat) : Option α :=
  match t with
  | [] => none
  | (j, v) :: r => if j = k then some v else tabFind r k

/-- What `k` reads as; `d` says what an unlisted key reads as. -/
def tabGet {α : Type} (d : Nat → α) (t : Tab α) (k : Nat) : α := (tabFind t k).getD (d k)

/-- `t` with `k` listed as `v`. -/
def tabPut {α : Type} (t : Tab α) (k : Nat) (v : α) : Tab α :=
  match t with
  | [] => [(k, v)]
  | (j, w) :: r => if k < j then (k, v) :: (j, w) :: r else if j = k then (k, v) :: r else (j, w) :: tabPut r k v

/-- `t` without an entry at `k`. -/
def tabDrop {α : Type} (t : Tab α) (k : Nat) : Tab α :=
  match t with
  | [] => []
  | (j, w) :: r => if j = k then r else (j, w) :: tabDrop r k

/-- `t` with `k` reading as `v`: listed only where it differs from what an unlisted key reads as. -/
def tabSet {α : Type} [DecidableEq α] (d : Nat → α) (t : Tab α) (k : Nat) (v : α) : Tab α :=
  if v = d k then tabDrop t k else tabPut t k v

/-- `t` with the entry at `k`, if one is listed, changed by `f`. -/
def tabUpdate {α : Type} (t : Tab α) (k : Nat) (f : α → α) : Tab α :=
  match t with
  | [] => []
  | (j, w) :: r => if j = k then (j, f w) :: r else (j, w) :: tabUpdate r k f

/-- The canonical form: every key exceeds `lo` and the keys rise. -/
def tabSorted {α : Type} (lo : Option Nat) (t : Tab α) : Bool :=
  match t with
  | [] => true
  | (j, _) :: r => (match lo with | none => true | some l => decide (l < j)) && tabSorted (some j) r

/-- A byte of memory; a byte that nothing has written reads 0 (DESIGN CHOICE, log entry 3). -/
def memByte (m : Tab Byte) (a : Nat) : Byte := tabGet (fun _ => 0) m a

/-- The `n` bytes from `a`. -/
def memRead (m : Tab Byte) (a n : Nat) : List Byte :=
  let near := m.filter fun e => decide (a ≤ e.1) && decide (e.1 < a + n)
  (List.range n).map fun i => memByte near (a + i)

/-- The listed entries of a run of bytes from `a`. -/
def memRun (a : Nat) (bs : List Byte) : Tab Byte :=
  match bs with
  | [] => []
  | b :: r => if b = 0 then memRun (a + 1) r else (a, b) :: memRun (a + 1) r

/-- `m` with the bytes `bs` from `a`. -/
def memWrite (m : Tab Byte) (a : Nat) (bs : List Byte) : Tab Byte :=
  m.filter (fun e => decide (e.1 < a)) ++ memRun a bs ++ m.filter (fun e => decide (a + bs.length ≤ e.1))

/-- Memory in its canonical form: rising addresses, and no entry that reads as an unlisted byte does. -/
def memWf (m : Tab Byte) : Bool := tabSorted none m && m.all fun e => e.2 != 0

/-- A number's low `n` bytes, the least significant first (R2). -/
def leBytes (n v : Nat) : List Byte :=
  match n with
  | 0 => []
  | n + 1 => BitVec.ofNat 8 v :: leBytes n (v / 256)

/-- The number of bytes stored least significant first (R2). -/
def leNat (bs : List Byte) : Nat :=
  match bs with
  | [] => 0
  | b :: r => b.toNat + 256 * leNat r

/-- Bits [hi:lo] of a number. -/
def bitsOf (v hi lo : Nat) : Nat := v / 2 ^ lo % 2 ^ (hi + 1 - lo)

/-- A number of `w` bits read as two's complement. -/
def signed (w v : Nat) : Int := if v % 2 ^ w < 2 ^ (w - 1) then (v % 2 ^ w : Nat) else (v % 2 ^ w : Nat) - (2 ^ w : Nat)

/-- An integer modulo 2^w. -/
def wrap (w : Nat) (v : Int) : Nat := (v % (2 ^ w : Nat)).toNat

end Sys2Proof.Machine
end

