-- ==== Sys2Proof/Machine/Base.lean ====
section
/-! DEFINITION. Reading and writing the parts of State: tables of contexts, steps, Groups and Presses, the work queue, the
CSR file, and bytes of HBM and Group SRAM with their check words. -/

namespace Sys2Proof.Machine

/-- The next state. -/
abbrev Next := Host.Outcome State Fault Refusal

/-- Context `c`, if it exists. -/
def ctxAt (s : State) (c : Nat) : Option Ctx := tabFind s.ctxs c
/-- `s` with context `c`. -/
def setCtx (s : State) (c : Nat) (v : Ctx) : State := { s with ctxs := tabPut s.ctxs c v }
/-- `s` with context `c` changed. -/
def modCtx (s : State) (c : Nat) (f : Ctx → Ctx) : State := { s with ctxs := tabUpdate s.ctxs c f }
/-- `s` without context `c`. -/
def dropCtx (s : State) (c : Nat) : State := { s with ctxs := tabDrop s.ctxs c }
/-- Group `g`. -/
def groupAt (s : State) (g : Nat) : Group := tabGet (fun _ => Group.empty) s.groups g
/-- `s` with Group `g`. -/
def setGroup (s : State) (g : Nat) (v : Group) : State := { s with groups := tabSet (fun _ => Group.empty) s.groups g v }
/-- `s` with Group `g` changed. -/
def modGroup (s : State) (g : Nat) (f : Group → Group) : State := setGroup s g (f (groupAt s g))
/-- Press `p`. -/
def pressAt (s : State) (p : Nat) : Press := tabGet (fun _ => Press.empty) s.presses p
/-- `s` with Press `p`. -/
def setPress (s : State) (p : Nat) (v : Press) : State := { s with presses := tabSet (fun _ => Press.empty) s.presses p v }
/-- `s` with Press `p` changed. -/
def modPress (s : State) (p : Nat) (f : Press → Press) : State := setPress s p (f (pressAt s p))
/-- Step `i`, if it is in flight. -/
def stepAt (s : State) (i : Nat) : Option StepRec := tabFind s.steps i
/-- `s` with step `i` changed. -/
def modStep (s : State) (i : Nat) (f : StepRec → StepRec) : State := { s with steps := tabUpdate s.steps i f }

/-- `s` with a work item behind all others. -/
def pushWork (s : State) (w : Work) : State := { s with queue := s.queue ++ [w] }
/-- `s` with an event behind all other work. -/
def pushEv (s : State) (i : Instr) : State := pushWork s (.event i)
/-- `s` with several events behind all other work. -/
def pushEvs (s : State) (is : List Instr) : State := { s with queue := s.queue ++ is.map .event }
/-- `s` with its source of fresh identifiers advanced; the fresh one is `s.nextId`. -/
def bumpId (s : State) : State := { s with nextId := s.nextId + 1 }
/-- An event that a unit awaits only once: it is added unless it waits already. -/
def pushEvOnce (s : State) (i : Instr) : State := if s.queue.contains (.event i) then s else pushEv s i

/-- Whether bit `i` of Function Ready is set (R77). -/
def readyBit (s : State) (i : Nat) : Bool := s.ready.getLsbD i
/-- Ready bit of a Press. -/
def pressReady (s : State) (p : Nat) : Bool := readyBit s p
/-- Ready bit of a Group. -/
def groupReady (s : State) (g : Nat) : Bool := readyBit s (256 + g)
/-- Ready bit of a Portfolio Walker. -/
def walkerReady (s : State) (w : Nat) : Bool := readyBit s (382 + w)
/-- The Groups whose Ready bit is set, ascending. -/
def readyGroups (s : State) : List Nat := (List.range Config.groups).filter (groupReady s)

/-- Bytes b at bits [hi:lo] of a double. -/
def putBits (v : Nat) (hi lo x : Nat) : Nat := v - bitsOf v hi lo * 2 ^ lo + x % 2 ^ (hi + 1 - lo) * 2 ^ lo

/-- What a CSR holds at reset: each field at its reset value (R4). -/
def csrReset (num : Nat) : Dbl :=
  BitVec.ofNat 64 ((csrFields num).foldl (fun v f => putBits v f.hi f.lo f.reset) 0)
/-- A CSR of the file; those of the context scope stand in the context. -/
def csrGet (s : State) (num : Nat) : Dbl := tabGet csrReset s.csrs num
/-- Bits [hi:lo] of a CSR. -/
def csrBits (s : State) (num hi lo : Nat) : Nat := bitsOf (csrGet s num).toNat hi lo
/-- `s` with a CSR holding `v`. -/
def csrSet (s : State) (num : Nat) (v : Dbl) : State := { s with csrs := tabSet csrReset s.csrs num v }
/-- `s` with bits [hi:lo] of a CSR set by the device. -/
def csrPoke (s : State) (num hi lo x : Nat) : State :=
  csrSet s num (BitVec.ofNat 64 (putBits (csrGet s num).toNat hi lo x))
/-- Tenancy CSR 0x400 + 8n + k. -/
def tenCsr (s : State) (n k hi lo : Nat) : Nat := csrBits s (0x400 + 8 * n + k) hi lo
/-- This device's number (R265). -/
def deviceNumber (s : State) : Nat := csrBits s 0x372 13 0

/-- The nearest legal value of a field. -/
def csrLegal (r : CsrRange) (v : Nat) : Nat :=
  match r with
  | .any => v
  | .between least most => if v < least then least else if most < v then most else v
  | .watch => if v = 0 then 0 else if v < 1024 then 1024 else if 2 ^ 31 - 1 < v then 2 ^ 31 - 1 else v
  | .pow2 => if v < 64 then 64 else if 16384 ≤ v then 16384 else 2 ^ Nat.log2 v

/-- One field after a write of `new` over `old` (R4). -/
def csrField (f : CsrField) (old new : Nat) : Nat :=
  let o := bitsOf old f.hi f.lo
  let n := bitsOf new f.hi f.lo
  match f.acc with
  | .ro => o
  | .rw => csrLegal f.range n
  | .w1c => o - (o &&& n)
  | .go => 0

/-- A CSR after a write, field by field; reserved bits stay zero (R4, R5). -/
def csrWritten (num : Nat) (old new : Dbl) : Dbl :=
  BitVec.ofNat 64 ((csrFields num).foldl (fun v f => putBits v f.hi f.lo (csrField f old.toNat new.toNat)) 0)

/-- The Age Tick boundaries that have passed: whole multiples of the Age Tick since it was last written, and those before (R97, R110). -/
def ageBoundaries (s : State) : Nat :=
  let tick := csrBits s 0x300 15 0
  s.tickBase + (s.now / tick - s.tickAt / tick)
/-- A write of the Age Tick is about to come: what has passed is kept (R110). -/
def ageSettle (s : State) : State := { s with tickBase := ageBoundaries s, tickAt := s.now }

/-- Bytes of HBM from a local PA. -/
def hbmRead (s : State) (pa n : Nat) : List Byte := memRead s.hbm pa n
/-- `s` with bytes of HBM written. -/
def hbmWrite (s : State) (pa : Nat) (bs : List Byte) : State := { s with hbm := memWrite s.hbm pa bs }
/-- A double of HBM. -/
def hbmDbl (s : State) (pa : Nat) : Nat := leNat (hbmRead s pa 8)
/-- `s` with a double of HBM written. -/
def hbmPutDbl (s : State) (pa v : Nat) : State := hbmWrite s pa (leBytes 8 v)
/-- Where byte `o` of slot `k` of Group `g` stands in `sram`. -/
def slotAddr (g k o : Nat) : Nat := 2 ^ 24 * g + 2 ^ 14 * k + o
/-- Bytes of a tile slot. -/
def slotRead (s : State) (g k o n : Nat) : List Byte := memRead s.sram (slotAddr g k o) n
/-- Every item of `xs` that `p` takes changed by `f`. -/
def mapWhere {α : Type} (p : α → Bool) (f : α → α) (xs : List α) : List α := xs.map fun x => if p x then f x else x

/-- An object makes progress, which the Shard Watch counts from (R378). DEDUCED (log entry 136). -/
def touchShard (s : State) (kind obj : Nat) : State :=
  { s with shards := mapWhere (fun h => h.kind == kind && h.obj == obj) (fun h => { h with since := s.now, told := false }) s.shards }
/-- The Shard Watch looks at an object from now on (R378). -/
def watchShard (s : State) (kind obj : Nat) : State :=
  pushEvOnce { s with shards := (s.shards.filter fun h => !(h.kind == kind && h.obj == obj)) ++
    [{ kind := kind, obj := obj, since := s.now, told := false }] } (.shardWatchExpiry kind obj)
/-- `s` with bytes of a tile slot written. -/
def slotWrite (s : State) (g k o : Nat) (bs : List Byte) : State :=
  touchShard { s with sram := memWrite s.sram (slotAddr g k o) bs } 0 (1024 * g + k)
/-- The 64-byte granules that `n` bytes from `a` touch. -/
def granules (a n : Nat) : List Nat := if n = 0 then [] else (List.range ((a + n - 1) / 64 - a / 64 + 1)).map (a / 64 + ·)
/-- The first granule of HBM under `n` bytes from `pa` whose check word does not match, as its PA (R376). DESIGN CHOICE (log entry 4). -/
def hbmBad (s : State) (pa n : Nat) : Option Nat :=
  ((granules pa n).find? fun g => s.spoiled.contains (2 * g)).map (64 * ·)
/-- The same of Group SRAM, as the offset in `sram`. -/
def sramBad (s : State) (a n : Nat) : Option Nat :=
  ((granules a n).find? fun g => s.spoiled.contains (2 * g + 1)).map (64 * ·)
/-- The granules wholly under `n` bytes from `a`, whose check words a write makes anew (R376). -/
def wholeGranules (a n : Nat) : List Nat := (granules a n).filter fun g => decide (a ≤ 64 * g) && decide (64 * g + 64 ≤ a + n)
/-- `s` with the check words made anew that a write of `n` bytes of HBM makes. -/
def hbmFresh (s : State) (pa n : Nat) : State :=
  if s.spoiled.isEmpty then s
  else { s with spoiled := s.spoiled.filter fun x => !((wholeGranules pa n).any fun g => x == 2 * g) }
/-- `s` with the check words of a tile slot made anew that a write of `n` bytes of SRAM makes. -/
def sramFresh (s : State) (a n : Nat) : State :=
  if s.spoiled.isEmpty then s
  else { s with spoiled := s.spoiled.filter fun x => !((wholeGranules a n).any fun g => x == 2 * g + 1) }

/-- Cycles of the 1.9 GHz clock at a device time in ns (R1). DESIGN CHOICE (log entry 5). -/
def cyclesOf (ns : Nat) : Nat := ns * 19 / 10
/-- The present cycle. -/
def cycleNow (s : State) : Nat := cyclesOf s.now

/-- Bytes of `n` bits' width. -/
def widthBytes : Width → Nat
  | .w32 => 4
  | .w16 => 2
  | .w8 => 1
  | .w64 => 8
/-- Bits of a width. -/
def widthBits (w : Width) : Nat := 8 * widthBytes w
/-- The EW code (R116). -/
def widthCode : Width → Nat
  | .w32 => 0
  | .w16 => 1
  | .w8 => 2
  | .w64 => 3
/-- The width of a type (R161). -/
def tyWidth : Ty → Width
  | .i8 | .n8 | .t8 | .d8 => .w8
  | .i16 | .n16 | .t16 | .bf16 => .w16
  | .i32 | .n32 | .t32 | .f32 => .w32
  | .i64 | .n64 => .w64
/-- The width of a raw type. -/
def rawWidth : RawTy → Width
  | .w => .w32
  | .h => .w16
  | .b => .w8
  | .d => .w64
/-- A port's code (R148). -/
def portCode : Port → Nat
  | .a => 0
  | .b => 1
  | .p => 2
  | .c => 3
/-- The port of a code. -/
def portOf (n : Nat) : Port :=
  match n % 4 with
  | 0 => .a
  | 1 => .b
  | 2 => .p
  | _ => .c

/-- The matrix of `xs` without the first item that `p` takes. -/
def dropFirst {α : Type} (p : α → Bool) (xs : List α) : List α :=
  match xs with
  | [] => []
  | x :: r => if p x then r else x :: dropFirst p r


end Sys2Proof.Machine
end

