-- ==== Sys2Proof/Machine/Crypto.lean ====
section
/-! DEFINITION. The check word CRC-32C, SHA-256 and the ECDSA P-256 verification that R18, R24, R83 and R271 name. -/

namespace Sys2Proof.Machine

/-- One bit of CRC-32C, reflected polynomial 0x82F63B78. -/
def crcBits (n c : Nat) : Nat :=
  match n with
  | 0 => c
  | n + 1 => crcBits n (if c % 2 = 1 then (c >>> 1) ^^^ 0x82F63B78 else c >>> 1)

/-- CRC-32C over the bytes of a list, from a running value. -/
def crcRun (c : Nat) (bs : List Byte) : Nat :=
  match bs with
  | [] => c
  | b :: r => crcRun (crcBits 8 (c ^^^ b.toNat)) r

/-- CRC-32C of a list of bytes (R1). -/
def crc32c (bs : List Byte) : Nat := crcRun 0xFFFFFFFF bs ^^^ 0xFFFFFFFF

/-- The number of bytes stored most significant first. -/
def beNat (bs : List Byte) : Nat := bs.foldl (fun v b => 256 * v + b.toNat) 0

/-- The low `n` bytes of a number, the most significant first. -/
def beBytes (n v : Nat) : List Byte := (leBytes n v).reverse

/-- A number of `n` words of 32 bits as a list, the highest word first. -/
def wordsHigh (n v : Nat) : List Nat := (List.range n).map fun i => (v >>> (32 * (n - 1 - i))) % 2 ^ 32

/-- The round constants of SHA-256: 16 words in each number. -/
def shaK : List Nat :=
  wordsHigh 16 0x428a2f9871374491b5c0fbcfe9b5dba53956c25b59f111f1923f82a4ab1c5ed5d807aa9812835b01243185be550c7dc372be5d7480deb1fe9bdc06a7c19bf174 ++
  wordsHigh 16 0xe49b69c1efbe47860fc19dc6240ca1cc2de92c6f4a7484aa5cb0a9dc76f988da983e5152a831c66db00327c8bf597fc7c6e00bf3d5a7914706ca635114292967 ++
  wordsHigh 16 0x27b70a852e1b21384d2c6dfc53380d13650a7354766a0abb81c2c92e92722c85a2bfe8a1a81a664bc24b8b70c76c51a3d192e819d6990624f40e3585106aa070 ++
  wordsHigh 16 0x19a4c1161e376c082748774c34b0bcb5391c0cb34ed8aa4a5b9cca4f682e6ff3748f82ee78a5636f84c878148cc7020890befffaa4506cebbef9a3f7c67178f2

/-- The initial hash value of SHA-256. -/
def shaStart : List Nat := wordsHigh 8 0x6a09e667bb67ae853c6ef372a54ff53a510e527f9b05688c1f83d9ab5be0cd19

/-- The exclusive or of the rotations of a 32-bit number to the right by the counts `ns`: both copies of the number stand side by side,
and the window of 32 bits moves over them. -/
def spin (ns : List Nat) (v : Nat) : Nat := ns.foldr (fun n acc => ((v * 4294967297) >>> n) % 4294967296 ^^^ acc) 0

/-- The message schedule, newest word first, grown by `n` words. -/
def shaGrow (n : Nat) (w : List Nat) : List Nat :=
  match n with
  | 0 => w
  | n + 1 =>
    let old := w.getD 14 0
    let late := w.getD 1 0
    shaGrow n ((w.getD 15 0 + w.getD 6 0 + (spin [7, 18] old ^^^ old / 8) + (spin [17, 19] late ^^^ late / 1024)) % 4294967296 :: w)

/-- One round of SHA-256 on its eight working variables, with a round constant and a word of the schedule: `e` chooses bit by bit between
`f` and `g`, and the majority of `a`, `b` and `c` is taken. -/
def shaRound (h : List Nat) (kw : Nat × Nat) : List Nat :=
  match h with
  | [a, b, c, d, e, f, g, i] =>
    let u := kw.1 + kw.2 + i + (g ^^^ (e &&& (f ^^^ g))) + spin [6, 11, 25] e
    [(u + spin [2, 13, 22] a + (a &&& b ||| c &&& (a ||| b))) % 4294967296, a, b, c, (u + d) % 4294967296, e, f, g]
  | _ => h

/-- A list cut into pieces of `k` items; `n` bounds the number of pieces. -/
def chunksOf {α : Type} (k n : Nat) (xs : List α) : List (List α) :=
  match n with
  | 0 => []
  | n + 1 => if xs.isEmpty then [] else xs.take k :: chunksOf k n (xs.drop k)

/-- One block of SHA-256. -/
def shaBlock (h : List Nat) (b : List Byte) : List Nat :=
  let w := (shaGrow 48 ((chunksOf 4 16 b).map beNat).reverse).reverse
  let r := (List.zip shaK w).foldl shaRound h
  (List.zip h r).map fun p => (p.1 + p.2) % 2 ^ 32

/-- SHA-256 of a list of bytes: 32 bytes. -/
def sha256 (bs : List Byte) : List Byte :=
  let n := bs.length
  let pad := (119 - n % 64) % 64
  let msg := bs ++ [0x80] ++ List.replicate pad 0 ++ beBytes 8 (8 * n)
  ((chunksOf 64 (msg.length / 64) msg).foldl shaBlock shaStart).flatMap (beBytes 4)

/-- The prime of P-256. -/
def p256P : Nat := 0xffffffff00000001000000000000000000000000ffffffffffffffffffffffff
/-- The order of P-256. -/
def p256N : Nat := 0xffffffff00000000ffffffffffffffffbce6faada7179e84f3b9cac2fc632551
/-- The base point of P-256. -/
def p256G : Nat × Nat :=
  (0x6b17d1f2e12c4247f8bce6e563a440f277037d812deb33a0f4a13945d898c296,
   0x4fe342e2fe1a7f9b8ee7eb4a7c0f9e162bce33576b315ececbb6406837bf51f5)

/-- b^e modulo m, by the low `n` bits of e. -/
def powMod (m n b e : Nat) : Nat :=
  match n with
  | 0 => 1
  | n + 1 => let r := powMod m n (b * b % m) (e / 2); if e % 2 = 1 then r * b % m else r

/-- The inverse modulo a prime of 256 bits. -/
def invMod (m x : Nat) : Nat := powMod m 256 (x % m) (m - 2)

/-- A difference modulo m. -/
def subMod (m x y : Nat) : Nat := (x + (m - y % m)) % m

/-- Addition of points of P-256; none is the point at infinity. -/
def p256Add (a b : Option (Nat × Nat)) : Option (Nat × Nat) :=
  match a, b with
  | none, q => q
  | q, none => q
  | some (x, y), some (u, v) =>
    let m := p256P
    if x % m = u % m ∧ (y + v) % m = 0 then none
    else
      let l :=
        if x % m = u % m then (3 * x * x + (m - 3)) * invMod m (2 * y) % m
        else subMod m v y * invMod m (subMod m u x) % m
      let w := subMod m (l * l) (x + u)
      some (w, subMod m (l * subMod m x w) y)

/-- k times a point, by the low `n` bits of k. -/
def p256Mul (n k : Nat) (p : Option (Nat × Nat)) : Option (Nat × Nat) :=
  match n with
  | 0 => none
  | n + 1 =>
    let r := p256Mul n (k / 2) (p256Add p p)
    if k % 2 = 1 then p256Add p r else r

/-- Whether (r, s) is an ECDSA P-256 signature, under the key (x, y), of a 32-byte digest. DEDUCED (log entry 25). -/
def ecdsaVerify (digest : List Byte) (r s x y : Nat) : Bool :=
  if r = 0 ∨ s = 0 ∨ p256N ≤ r ∨ p256N ≤ s then false
  else
    let w := invMod p256N s
    let u := beNat digest * w % p256N
    let v := r * w % p256N
    match p256Add (p256Mul 256 u (some p256G)) (p256Mul 256 v (some (x, y))) with
    | none => false
    | some (q, _) => q % p256N == r
/-- An ECDSA P-256 signature (r, s) of a 32-byte digest with a private key and a secret number; none where the number gives none (R83). -/
def ecdsaSign (digest : List Byte) (key secret : Nat) : Option (Nat × Nat) :=
  let d := key % (p256N - 1) + 1
  let k := secret % (p256N - 1) + 1
  match p256Mul 256 k (some p256G) with
  | none => none
  | some (x, _) =>
    let r := x % p256N
    let s := invMod p256N k * (beNat digest + r * d) % p256N
    if r = 0 ∨ s = 0 then none else some (r, s)

end Sys2Proof.Machine
end

