-- ==== Sys2Proof/Machine/Records.lean ====
section
/-! DEFINITION. Records in the layout of R364, the host rings of R74 to R76, and the events that units report to the
event rings. -/

namespace Sys2Proof.Machine

/-- The fields of a record (R364). `sp` to `items` hold what the layout gives at their places. -/
structure Rec where
  cause : Nat
  ten : Nat
  cls : Nat
  press : Nat
  tag : Nat
  sp : Bool
  n : Nat
  seq : Nat
  agent : Nat
  member : Nat
  iter : Nat
  inst : Nat
  pecol : Nat
  perow : Nat
  block : Nat
  word : Nat
  sb : Nat
  engine : Option Nat
  tid : Nat
  ntok : Nat
  addr : Nat
  aux : Nat
  items : List Nat
  deriving DecidableEq, Repr

/-- A record of class 01 with a cause and every other field zero, INST 0xFF (R364). -/
def recOf (cause : Nat) : Rec :=
  { cause := cause, ten := 0, cls := 1, press := 0, tag := 0, sp := false, n := 0, seq := 0, agent := 0, member := 0, iter := 0,
    inst := 0xFF, pecol := 0, perow := 0, block := 0, word := 0, sb := 0, engine := none, tid := 0, ntok := 0, addr := 0,
    aux := 0, items := [] }

/-- The smaller of a count and 8,191, the most that NTOK holds. -/
def ntokSat (n : Nat) : Nat := if n < 8192 then n else 8191

/-- The sixteen doubles of a record (R364). -/
def recDoubles (r : Rec) : List Nat :=
  let b2 := fun (b : Bool) => if b then 1 else 0
  let d0 := r.cause % 1024 * 2 ^ 54 + r.ten % 16 * 2 ^ 50 + r.cls % 4 * 2 ^ 48 + r.press % 256 * 2 ^ 40 + r.tag % 256 * 2 ^ 32 +
    b2 r.sp * 2 ^ 31 + r.n % 128 * 2 ^ 24 + r.seq % 2 ^ 24
  let d1 := r.agent % 2 ^ 28 * 2 ^ 36 + r.member % 64 * 2 ^ 30 + r.iter % 65536 * 2 ^ 14 + r.inst % 256 * 2 ^ 6
  let d2 := r.pecol % 16 * 2 ^ 60 + r.perow % 16 * 2 ^ 56 + r.block % 2 ^ 56
  let d3 := r.word % 2 ^ 32 * 2 ^ 32 + r.sb % 32 * 2 ^ 27 + b2 r.engine.isSome * 2 ^ 26 + r.engine.getD 0 % 8 * 2 ^ 23 +
    r.tid % 1024 * 2 ^ 13 + ntokSat r.ntok
  [d0, d1, d2, d3, r.addr % 2 ^ 64, r.aux % 2 ^ 64, 0, 0] ++ (List.range 8).map fun i => r.items.getD i 0 % 2 ^ 64

/-- The 128 bytes of a record. -/
def recBytes (r : Rec) : List Byte := (recDoubles r).flatMap (leBytes 8)

/-- A host ring as reset leaves it (R74). -/
def hostRingReset : HostRing := { base := 0, ctl := 0, ptr := 0, shadow := 0, link := 0 }
/-- Ring `k`: sink ring j of tenancy t at 8t + j, event ring f at 128 + f. -/
def ringAt (s : State) (k : Nat) : HostRing := tabGet (fun _ => hostRingReset) s.rings k
/-- `s` with ring `k`. -/
def setRing (s : State) (k : Nat) (r : HostRing) : State := { s with rings := tabSet (fun _ => hostRingReset) s.rings k r }
/-- The function a ring belongs to: 0 the PF, n + 1 VFn. -/
def ringFunc (k : Nat) : Nat := if k < 128 then k / 8 + 1 else k - 128
/-- Entries written (PROD). -/
def ringProd (r : HostRing) : Nat := bitsOf r.ptr.toNat 31 0
/-- Entries taken (CONS). -/
def ringCons (r : HostRing) : Nat := bitsOf r.ptr.toNat 63 32
/-- 2^SLOG2, by its stored value. -/
def ringSize (r : HostRing) : Nat :=
  let l := bitsOf r.ctl.toNat 31 27
  2 ^ (if l < 4 then 4 else if 16 < l then 16 else l)
/-- Whether a ring is in use and not full (R76). -/
def ringRoom (r : HostRing) : Bool :=
  bitsOf r.ctl.toNat 63 63 == 1 && (ringProd r + 2 ^ 32 - ringCons r) % 2 ^ 32 != ringSize r

/-- `s` with an observation of the host. DESIGN CHOICE (log entry 177). -/
def hostSees (s : State) (o : HostOut) : State := { s with hostOut := s.hostOut ++ [o] }
/-- `s` with a posted write through a link in the address space of a PASID (R66, R75): each PASID has host addresses of its own. -/
def hostPut (s : State) (link pasid a : Nat) (bs : List Byte) : State :=
  hostSees { s with hostMem := memWrite s.hostMem (pasid * 2 ^ 64 + a) bs } (.write link pasid a bs)
/-- The PASID of a ring's writes (R74). -/
def ringPasid (r : HostRing) : Nat := bitsOf r.ctl.toNat 51 32
/-- How a record whose AUX has another use names a host link and a function: in AUX [57:52] (R84). DESIGN CHOICE (log entry 166). -/
def hostAux (link func : Nat) : Nat := (link + 2 * func) * 2 ^ 52

/-- Delivery of an entry of `size` bytes to ring `k`: entry, PROD, SHADOW, MSI-X (R75), on the link that the ring was last written through.
`force` signals whatever IEN. The write to SHADOW is of 8 bytes. DESIGN CHOICE (log entry 193). -/
def ringDeliver (s : State) (k size : Nat) (bs : List Byte) (force : Bool) : State :=
  let r := ringAt s k
  let p := ringProd r
  let q := (p + 1) % 2 ^ 32
  let base := bitsOf r.base.toNat 63 8 * 256
  let s1 := hostPut s r.link (ringPasid r) (base + size * (p % ringSize r)) bs
  let s2 := setRing s1 k { r with ptr := BitVec.ofNat 64 (putBits r.ptr.toNat 31 0 q) }
  let sh := bitsOf r.shadow.toNat 63 3 * 8
  let s3 := if sh = 0 then s2 else hostPut s2 r.link (ringPasid r) sh (leBytes 8 q)
  if force || bitsOf r.ctl.toNat 62 62 == 1 then hostSees s3 (.msix (ringFunc k) (bitsOf r.ctl.toNat 9 0) r.link) else s3

/-- Records waiting for the event ring of function `f`. -/
def eventQueue (s : State) (f : Nat) : List RecordBytes := tabGet (fun _ => []) s.eventWait f
/-- `s` with them. -/
def setEventQueue (s : State) (f : Nat) (q : List RecordBytes) : State :=
  { s with eventWait := tabSet (fun _ => []) s.eventWait f q }

/-- A record to the event ring of function `f`: written if the ring has room and nothing waits before it, else kept up to
64, else lost (R76). -/
def eventPut (s : State) (f : Nat) (bs : RecordBytes) (force : Bool) : State :=
  let q := eventQueue s f
  if q.isEmpty && ringRoom (ringAt s (128 + f)) then ringDeliver s (128 + f) 128 bs force
  else
    let s1 :=
      if q.length < 64 then setEventQueue s f (q ++ [bs])
      else
        let lost := csrBits s 0x0F0 31 0
        let s2 := csrPoke (csrPoke s 0x0F0 39 32 f) 0x0F0 31 0 (if lost + 1 < 2 ^ 32 then lost + 1 else lost)
        hostSees s2 (.msix 0 0 (ringAt s2 128).link)
    if force then hostSees s1 (.msix f (bitsOf (ringAt s (128 + f)).ctl.toNat 9 0) (ringAt s (128 + f)).link) else s1

/-- A record to the event ring of function `f`. -/
def eventSend (s : State) (f : Nat) (r : Rec) : State := eventPut s f (recBytes r) false
/-- The owner under which a host access waits for a peer. -/
def hostOwner (func link : Nat) : Nat := 2 ^ 59 + 2 * func + link
/-- A host access refused (R69). DEDUCED (log entry 52). -/
def w4Refused (s : State) (func link at' : Nat) : State :=
  eventSend s func { recOf 0x3D3 with ten := func - 1, addr := at', aux := link + 2 * func }
/-- A record to the PF event ring. -/
def pfEvent (s : State) (r : Rec) : State := eventSend s 0 r

/-- The waiting records that the event ring of `f` now takes; `n` bounds their number. -/
def eventFlush (n : Nat) (s : State) (f : Nat) : State :=
  match n with
  | 0 => s
  | n + 1 =>
    match eventQueue s f with
    | [] => s
    | bs :: q =>
      if ringRoom (ringAt s (128 + f)) then eventFlush n (ringDeliver (setEventQueue s f q) (128 + f) 128 bs false) f else s

/-- A count of the device's own events (R392): gauges keep the larger value, others stop at 2^32 - 1; while the Counter Area
is valid a live count is to be swept, some time after (R393). DEDUCED (log entry 181). -/
def devCount (s : State) (e k : Nat) : State :=
  let old := tabGet (fun _ => 0) s.devCounts e
  let new := if e = 0x203 ∨ e = 0x204 then (if old < k then k else old) else old + k
  let s1 := { s with devCounts := tabSet (fun _ => 0) s.devCounts e (if new < 2 ^ 32 then new else 2 ^ 32 - 1) }
  if csrBits s 0x3F0 0 0 = 1 then pushEvOnce s1 (.counterSweep 0 e) else s1

end Sys2Proof.Machine
end

