-- ==== Sys2Proof/Machine/Link.lean ====
section
/-! DEFINITION. Flits and links: the layout of R271, sending with SEQ, replay buffer and allowances (R276, R277), receiving,
routes (R279), wavelengths and the events of R388. -/

namespace Sys2Proof.Machine

/-- The first `n` bytes of a list, zeros behind its end. -/
def padTo (n : Nat) (bs : List Byte) : List Byte := bs.take n ++ List.replicate (n - bs.length) 0

/-- The header double of a flit (R271). -/
def flitHeader (f : Flit) : Nat :=
  (if f.resp then 1 else 0) * 2 ^ 63 + f.hop.toNat * 2 ^ 61 + f.kind.toNat * 2 ^ 56 + f.dst.toNat * 2 ^ 42 +
    f.src.toNat * 2 ^ 28 + (f.payload.length - 1) % 128 * 2 ^ 21 + f.xtag.toNat * 2 ^ 9 + f.idx.toNat

/-- The CRC of a flit: header, payload and trailer bytes 4 to 7 (R271). -/
def flitCrc (f : Flit) : Word :=
  BitVec.ofNat 32 (crc32c (leBytes 8 (flitHeader f) ++ padTo 128 f.payload ++ leBytes 4 f.seq.toNat))

/-- The 144 bytes of a flit (R271). -/
def flitBytes (f : Flit) : List Byte :=
  leBytes 8 (flitHeader f) ++ padTo 128 f.payload ++ leBytes 4 f.crc.toNat ++ leBytes 4 f.seq.toNat

/-- The virtual channel of a flit (R271). -/
def flitVc (f : Flit) : Nat := (if f.resp then 4 else 0) + f.hop.toNat

/-- A flit of this device on its first hop, not yet numbered. -/
def mkFlit (s : State) (resp : Bool) (kind dst xtag idx : Nat) (payload : List Byte) : Flit :=
  { resp := resp, hop := 0, kind := BitVec.ofNat 5 kind, dst := BitVec.ofNat 14 dst, src := BitVec.ofNat 14 (deviceNumber s),
    xtag := BitVec.ofNat 12 xtag, idx := BitVec.ofNat 9 idx, payload := payload, seq := 0, crc := 0 }

/-- A little-endian number inside a payload. -/
def payNat (f : Flit) (o n : Nat) : Nat := leNat ((f.payload.drop o).take n)

/-- A link as the load of the fabric leaves it. -/
def linkReset : Link :=
  { seq := 0, acked := 0, expect := 0, replay := [], waiting := [], sent := [], freedIn := [], freedOut := [], replays := 0,
    lastAck := 0, epoch := 0, words := 0, down := false, stopped := false, held := false, drained := false, live := 0, lost := [], grow := 0, locked := 0,
    asked := none, beacon := 0, discards := 0 }
/-- The link to neighbour `n`. -/
def linkAt (s : State) (n : Nat) : Link := tabGet (fun _ => linkReset) s.links n
/-- `s` with a link. -/
def setLink (s : State) (n : Nat) (l : Link) : State := { s with links := tabSet (fun _ => linkReset) s.links n l }
/-- `s` with a link changed. -/
def modLink (s : State) (n : Nat) (f : Link → Link) : State := setLink s n (f (linkAt s n))

/-- The Circuit Map word of wavelength `j` in an image. -/
def mapWord (f : Fabric) (j : Nat) : Nat := (tabGet (fun _ => 0) f.circuit j).toNat
/-- The Neighbour Table double of neighbour `n`. -/
def nbrDbl (f : Fabric) (n : Nat) : Nat := (tabGet (fun _ => 0) f.nbrs n).toNat
/-- The Route Table word of device `d`. -/
def routeWord (f : Fabric) (d : Nat) : Nat := (tabGet (fun _ => 0) f.routes d).toNat

/-- Whether neighbour `n` is present (R264). -/
def nbrValid (f : Fabric) (n : Nat) : Bool := bitsOf (nbrDbl f n) 63 63 == 1
/-- The device at the other end (R264). -/
def nbrPeer (f : Fabric) (n : Nat) : Nat := bitsOf (nbrDbl f n) 55 42
/-- Its configured share (R264). -/
def nbrShare (f : Fabric) (n : Nat) : Nat := bitsOf (nbrDbl f n) 7 0
/-- The wavelengths of neighbour `n`, ascending; the k-th is bit k of its masks (R264). -/
def nbrWaves (f : Fabric) (n : Nat) : List Nat :=
  (f.circuit.filter fun e => bitsOf e.2.toNat 31 31 == 1 && bitsOf e.2.toNat 7 0 == n).map (·.1)
/-- The pilot of neighbour `n` (R264). -/
def nbrPilot (f : Fabric) (n : Nat) : Option Nat := (nbrWaves f n).find? fun j => bitsOf (mapWord f j) 30 30 == 1

/-- The fabric in use, or one with no entry. -/
def fabricOf (s : State) : Fabric := s.fabric.getD { circuit := [], nbrs := [], routes := [] }
/-- Whether a neighbour is valid in the fabric in use. -/
def nbrLive (s : State) (n : Nat) : Bool := nbrValid (fabricOf s) n
/-- The neighbour that route entry `d` names (R279). -/
def routeOf (s : State) (d : Nat) : Option Nat :=
  let w := routeWord (fabricOf s) d
  if bitsOf w 31 31 = 1 then some (bitsOf w 7 0) else none

/-- The state of wavelength `j`; one not listed is DARK (R267). -/
def waveAt (s : State) (j : Nat) : Wave := tabGet (fun _ => .dark) s.waves j
/-- `s` with the state of a wavelength. -/
def setWave (s : State) (j : Nat) (w : Wave) : State := { s with waves := tabSet (fun _ => .dark) s.waves j w }
/-- `s` with the states of several wavelengths. -/
def setWaves (s : State) (js : List Nat) (w : Wave) : State := js.foldl (fun s j => setWave s j w) s
/-- Wavelengths that count against Lit Budget (R267). -/
def litCount (s : State) : Nat :=
  (s.waves.filter fun e => e.2 == .locking || e.2 == .live || e.2 == .retiring).length
/-- The mask of a neighbour's wavelengths that `p` takes. -/
def waveMask (f : Fabric) (n : Nat) (p : Nat → Bool) : BitVec 64 :=
  BitVec.ofNat 64 ((nbrWaves f n).zipIdx.foldl (fun v e => if p e.1 then v + 2 ^ e.2 else v) 0)
/-- The wavelengths of a neighbour that a mask names. -/
def maskWaves (f : Fabric) (n : Nat) (m : BitVec 64) : List Nat :=
  ((nbrWaves f n).zipIdx.filter fun e => m.getLsbD e.2).map (·.1)
/-- The one bits of a mask. -/
def maskCount (m : BitVec 64) : Nat := ((List.range 64).filter fun i => m.getLsbD i).length

/-- The allowance of a virtual channel (R277). -/
def allowance (l : Link) (vc : Nat) : BitVec 16 :=
  512 + tabGet (fun _ => 0) l.freedIn vc - tabGet (fun _ => 0) l.sent vc

/-- Live wavelengths other than the pilot (R274). -/
def dataWaves (s : State) (n : Nat) : List Nat :=
  let f := fabricOf s
  (maskWaves f n (linkAt s n).live).filter fun j => nbrPilot f n != some j

/-- The wavelengths over which a link deals, ascending: the live ones, or the pilot where no data wavelength is LIVE (R274). Pilot-only flits
leave at once, ahead of the flits that wait. -/
def stripeOn (s : State) (n : Nat) : List Nat :=
  match dataWaves s n, nbrPilot (fabricOf s) n with
  | [], some j => [j]
  | l, _ => l
/-- The wavelengths of the 36 words of a flit whose first word is word `k` of the epoch (R274). -/
def wordWaves (on : List Nat) (k : Nat) : List Nat := (List.range 36).map fun i => on.getD ((k + i) % on.length) 0
/-- Flits leave on a link, one after another (R274). -/
def flitsLeave (s : State) (n : Nat) (fs : List Flit) : State :=
  fs.foldl (fun s f =>
    modLink { s with sentFlits := s.sentFlits ++ [{ nbr := n, flit := f, waves := wordWaves (stripeOn s n) (linkAt s n).words }] } n
      fun l => { l with words := l.words + 36 }) s

/-- Whether the pilot of a link is dark: its end waits for the load or the relock of the fabric (R265, R282). -/
def pilotDark (s : State) (n : Nat) : Bool := (linkAt s n).held && csrBits s 0x371 60 58 != 2
/-- A pilot-only flit: no VC, no SEQ, no replay (R272). -/
def sendPilot (s : State) (n kind : Nat) (payload : List Byte) : State :=
  let f := mkFlit s false kind (nbrPeer (fabricOf s) n) 0 0 payload
  if pilotDark s n then s
  else { s with sentFlits := s.sentFlits ++ [{ nbr := n, flit := { f with crc := flitCrc f },
                                               waves := List.replicate 36 ((nbrPilot (fabricOf s) n).getD 0) }] }

/-- LINKCTL: ACKSEQ and the FREED counts (R272, R276). -/
def sendLinkctl (s : State) (n : Nat) : State :=
  let l := linkAt s n
  let fr := (List.range 8).flatMap fun v => leBytes 2 (tabGet (fun _ => 0) l.freedOut v).toNat
  let s1 := sendPilot s n 0x10 (leBytes 8 l.expect.toNat ++ fr)
  modLink s1 n fun l => { l with beacon := s.now }
/-- A receive buffer is released, and the neighbour told (R276, R277). -/
def bufferFreed (s : State) (came : Option (Nat × Nat)) : State :=
  match came with
  | none => s
  | some (n, v) =>
    if (linkAt s n).down then s
    else sendLinkctl (modLink s n fun l => { l with freedOut := tabSet (fun _ => 0) l.freedOut v (tabGet (fun _ => 0) l.freedOut v + 1) }) n
/-- The receive buffers of a neighbour's channel that flits in transit take (R277). -/
def buffersTaken (s : State) (n v : Nat) : Nat :=
  s.links.foldl (fun k e => k + (e.2.waiting.filter fun o => o.came == some (n, v)).length) 0
/-- What had come from a neighbour takes no buffer of its link any more. -/
def buffersForgotten (s : State) (n : Nat) : State :=
  let free := fun (o : Outgoing) => if o.came.map (·.1) == some n then { o with came := none } else o
  { s with links := s.links.map fun e => (e.1, { e.2 with waiting := e.2.waiting.map free }) }

/-- `s` with the time at which a request's flit went out. -/
def markSent (s : State) (f : Flit) : State :=
  if f.resp || f.src.toNat != deviceNumber s then s
  else { s with xfers := mapWhere (fun x => x.xtag == f.xtag.toNat && x.peer == f.dst.toNat) (fun x => { x with sentAt := s.now + 1 }) s.xfers }

/-- A flit numbered, put in the replay buffer and sent (R276). -/
def dealFlit (s : State) (n : Nat) (f : Flit) : State :=
  let l := linkAt s n
  let g := { f with seq := l.seq }
  let g := { g with crc := flitCrc g }
  let l1 := { l with seq := l.seq + 1, replay := l.replay ++ [g],
                     sent := tabSet (fun _ => 0) l.sent (flitVc f) (tabGet (fun _ => 0) l.sent (flitVc f) + 1),
                     lastAck := if l.replay.isEmpty then s.now else l.lastAck }
  pushEvOnce (markSent (flitsLeave (setLink s n l1) n [g]) f) .replayTimeout

/-- Waiting flits dealt in order; one waits while its channel has no allowance, an earlier flit of its channel waits, or the
replay buffer is full (R276, R277). One that came from another neighbour frees its buffer there. -/
def pumpOver (s : State) (n : Nat) (kept todo : List Outgoing) : State × List Outgoing :=
  match todo with
  | [] => (s, kept)
  | o :: r =>
    let l := linkAt s n
    let v := flitVc o.flit
    let waits := kept.any (fun k => flitVc k.flit == v) || allowance l v == 0 || decide (4096 ≤ l.replay.length)
    if waits then pumpOver s n (kept ++ [o]) r else pumpOver (bufferFreed (dealFlit s n o.flit) o.came) n kept r

/-- What a link may send now is sent. -/
def linkPump (s : State) (n : Nat) : State :=
  let l := linkAt s n
  if l.down || l.stopped || l.held then s
  else
    let r := pumpOver s n [] l.waiting
    modLink r.1 n fun l => { l with waiting := r.2 }

/-- A flit joins the traffic to a neighbour, with the receive buffer that it takes. -/
def sendFrom (s : State) (n : Nat) (f : Flit) (came : Option (Nat × Nat)) : State :=
  linkPump (modLink s n fun l => { l with waiting := l.waiting ++ [{ flit := f, came := came }] }) n
/-- A flit of this device joins it. -/
def sendFlit (s : State) (n : Nat) (f : Flit) : State := sendFrom s n f none
/-- Several flits of this device join it. -/
def sendFlits (s : State) (n : Nat) (fs : List Flit) : State :=
  linkPump (modLink s n fun l => { l with waiting := l.waiting ++ fs.map fun f => { flit := f, came := none } }) n

/-- The link towards device `d`, if a valid route and its first hop are up (R279, R281). -/
def linkTo (s : State) (d : Nat) : Option Nat :=
  match routeOf s d with
  | none => none
  | some n => if nbrLive s n && !(linkAt s n).down then some n else none

/-- The lowest transfer tag not in use; none when all 4,096 are. -/
def freeXtag (s : State) : Option Nat :=
  (List.range (s.xfers.length + s.cohortOps.length + 1)).find? fun x =>
    decide (x < 4096) && !(s.xfers.any fun t => t.xtag == x) && !(s.cohortOps.any fun o => o.xtag == x + 1)

/-- The flits of a write of `bs` at `pa` of device `d`: inline up to 112 bytes, else followed by DATA flits (R272). -/
def writeFlits (s : State) (d xtag pa flags : Nat) (bs : List Byte) : List Flit :=
  let head := leBytes 8 pa ++ leBytes 4 bs.length ++ leBytes 4 flags
  if bs.length ≤ 112 then [mkFlit s false 0x01 d xtag 0 (head ++ bs)]
  else mkFlit s false 0x01 d xtag 0 head ::
    ((chunksOf 128 bs.length bs).zipIdx.map fun c => mkFlit s false 0x02 d xtag c.2 c.1)

/-- The flits of a stimulus to device `d` (R272). -/
def stimFlits (s : State) (d xtag : Nat) (bs : List Byte) : List Flit :=
  (chunksOf 128 bs.length bs).zipIdx.map fun c => mkFlit s false 0x09 d xtag c.2 c.1

/-- An answer to a request flit, back to its source by this device's routes; dropped where there is none. -/
def sendAnswer (s : State) (req : Flit) (kind : Nat) (payload : List Byte) : State :=
  let f := mkFlit s true kind req.src.toNat req.xtag.toNat 0 payload
  match routeOf s req.src.toNat with
  | none => s
  | some n => if (linkAt s n).down then s else sendFlit s n f
/-- ACK: 0 acc, 1 vis (R273). -/
def sendAck (s : State) (req : Flit) (vis : Bool) : State := sendAnswer s req 0x07 (leBytes 4 (if vis then 1 else 0))
/-- NAK with a cause and this device's FREV (R272). One for a response flit says so at [0x08]: its source has no transfer of that tag. DESIGN
CHOICE (log entry 197). -/
def sendNak (s : State) (req : Flit) (cause : Nat) : State :=
  sendAnswer s req 0x08 (leBytes 4 cause ++ leBytes 4 (csrBits s 0x373 7 0) ++ (if req.resp then leBytes 8 1 else []))
/-- A flit discarded in transit: an event and NAK 0x300, and its receive buffer is free (R279). -/
def discardFlit (s : State) (f : Flit) (came : Option (Nat × Nat)) : State :=
  bufferFreed (sendNak (pfEvent s { recOf 0x320 with addr := f.dst.toNat, aux := f.src.toNat }) f 0x300) came

/-- A link event (R388). -/
def linkRec (s : State) (cause n e l : Nat) (els : Option Nat) (lost live : BitVec 64) : Rec :=
  let f := fabricOf s
  let ev := match els with
    | none => 0
    | some k => 2 ^ 25 + k % 64 * 2 ^ 19
  let fibres := match els with
    | none => 0
    | some k => 0xFFFF * 2 ^ (16 * (k / 16 % 4))
  { recOf cause with inst := 0, ntok := 4, addr := nbrPeer f n * 2 ^ 42 + n, aux := e % 2 ^ 24 * 2 ^ 40 + l % 256 * 2 ^ 32 + ev,
                     items := [lost.toNat, live.toNat, fibres, (nbrWaves f n).headD 0] }

/-- A link goes down: its traffic ends under R281, flits in transit are discarded (R279), cause 0x332 is reported (R276, R278). -/
def linkDown (s : State) (n : Nat) (lost : BitVec 64) (els : Option Nat) : State :=
  let l := linkAt s n
  if l.down then s
  else
    let s1 := l.waiting.foldl (fun s o => markSent s o.flit) s
    let s2 := buffersForgotten (setLink s1 n { l with down := true, stopped := false, waiting := [], replay := [], asked := none, lost := [] }) n
    let s3 := (l.waiting.filter fun o => o.flit.src.toNat != deviceNumber s).foldl (fun s o => discardFlit s o.flit o.came) s2
    pfEvent s3 (linkRec s3 0x332 n l.expect.toNat 0 els lost (l.live &&& ~~~lost))

/-- What is unacknowledged is sent again, from the oldest (R276); after the limit, or while replay is not armed, the link is
down. -/
def linkReplay (s : State) (n : Nat) : State :=
  let l := linkAt s n
  if l.replay.isEmpty then s
  else if csrBits s 0x3D8 1 1 = 0 ∨ csrBits s 0x376 7 0 ≤ l.replays then linkDown s n 0 none
  else
    let s1 := setLink s n { l with replays := l.replays + 1, lastAck := s.now }
    let s2 := l.replay.foldl markSent (flitsLeave s1 n l.replay)
    pushEvOnce (devCount s2 0x206 l.replay.length) .replayTimeout

/-- An ACKSEQ: the flits before it leave the replay buffer (R276). -/
def linkAcked (l : Link) (now : Nat) (ack : BitVec 24) : Link :=
  let adv := (ack - l.acked).toNat
  if adv = 0 ∨ l.replay.length < adv then l
  else { l with acked := ack, replay := l.replay.drop adv, replays := 0, lastAck := now }

/-- A flit of a virtual channel is taken: CRC and SEQ must be as expected, and a buffer of its channel free; it is acknowledged, and frees its
buffer at once where it is for this device (R276, R277). DESIGN CHOICE (log entry 57). -/
def linkTake (s : State) (n : Nat) (f : Flit) : Option State :=
  let l := linkAt s n
  let v := flitVc f
  if !nbrLive s n || l.down || flitCrc f != f.crc || f.seq != l.expect || decide (512 ≤ buffersTaken s n v) then none
  else
    let k : BitVec 16 := if f.dst.toNat = deviceNumber s then 1 else 0
    let l1 := { l with expect := l.expect + 1, freedOut := tabSet (fun _ => 0) l.freedOut v (tabGet (fun _ => 0) l.freedOut v + k) }
    some (sendLinkctl (setLink s n l1) n)

/-- A pilot-only flit is taken if its CRC holds. -/
def pilotOk (s : State) (n : Nat) (f : Flit) : Bool := nbrLive s n && !(linkAt s n).down && flitCrc f == f.crc

/-- A flit for another device: forwarded by this device's own route, else discarded (R279). -/
def forwardFlit (s : State) (f : Flit) (came : Option (Nat × Nat)) : State :=
  match linkTo s f.dst.toNat with
  | some n => if f.hop = 3 then discardFlit s f came else sendFrom s n { f with hop := f.hop + 1 } came
  | none => discardFlit s f came

/-- A flit of a virtual channel arrives: discarded, forwarded, or given to `k` at its destination. -/
def receiveFlit (s : State) (n : Nat) (f : Flit) (k : State → State) : State :=
  match linkTake s n f with
  | none => s
  | some s1 => if f.dst.toNat = deviceNumber s then k s1 else forwardFlit s1 f (some (n, flitVc f))

end Sys2Proof.Machine
end

