-- ==== Sys2Proof/Machine/Translate.lean ====
section
/-! DEFINITION. Translation (R203 to R210), and reads and writes of a tenancy's memory by units of the device, local or at a
peer (R213, R280). -/

namespace Sys2Proof.Machine

/-- What an access wants of a page (R208). -/
inductive Way where
  | read | write | exec | atomic
  deriving DecidableEq, Repr

/-- The end of a table walk: a PTE with its address and its page's bytes, a failure with its AUX, or a table on a stack that is
not ready (R78). -/
inductive Walked where
  | found (pte at' size : Nat)
  | bad (cause aux : Nat)
  | wait
  deriving DecidableEq, Repr

/-- The result of a unit's access: done, failed with cause, AUX and address, or not yet possible. -/
inductive Got (α : Type) where
  | ok (v : α)
  | bad (cause aux addr : Nat)
  | wait
  deriving DecidableEq, Repr

/-- Whether the HBM stack that holds a local PA is ready (R78); stacks lie one after another (DEDUCED, log entry 10). -/
def stackReady (s : State) (pa : Nat) : Bool := readyBit s (288 + pa / Config.stackBytes)

/-- AUX of a translation cause (R365): table level, and the PA of the entry. -/
def walkAux (level : Nat) (at' : Nat) : Nat := level * 2 ^ 62 + 2 ^ 61 + at' % 2 ^ 48
/-- AUX of an integrity cause (R365): boundary and granule. -/
def checkAux (boundary pa : Nat) : Nat := boundary * 2 ^ 48 + pa % 2 ^ 48

/-- The checks of a PTE by itself (R206, R207). -/
def pteBad (s : State) (pte size : Nat) : Option Nat :=
  let mode := bitsOf pte 57 56
  let peer := bitsOf pte 54 41
  let frame := bitsOf pte 31 0
  if bitsOf pte 63 63 = 0 then some 0x100
  else if bitsOf pte 35 32 ≠ 0 ∨ bitsOf pte 59 58 = 3 ∨ frame % (size / 65536) ≠ 0 ∨ (mode = 0 ∧ peer ≠ 0) ∨
      (mode ≠ 0 ∧ peer = deviceNumber s) ∨ (mode = 3 ∧ size ≠ 65536) then some 0x104
  else if mode = 0 ∧ Config.hbmBytes < frame * 65536 + size then some 0x105
  else none

/-- A PTE table of `n` entries at `base`: level, index and page size are given (R203). -/
def walkPte (s : State) (base level index size : Nat) : Walked :=
  let e := base + 8 * index
  if !stackReady s e then .wait
  else match hbmBad s e 8 with
    | some g => .bad 0x383 (checkAux 0 g)
    | none =>
      let v := hbmDbl s e
      match pteBad s v size with
      | some c => .bad c (walkAux level e)
      | none => .found v e size

/-- The walk from the table of level `n` at `base`, for n from 3 to 0 (R203 to R207). -/
def walkFrom (s : State) (va : Nat) (n base : Nat) : Walked :=
  match n with
  | 0 => walkPte s base 0 (bitsOf va 25 16) 65536
  | n + 1 =>
    let lo := 26 + 10 * n
    let e := base + 8 * bitsOf va (lo + 9) lo
    if !stackReady s e then .wait
    else match hbmBad s e 8 with
      | some g => .bad 0x383 (checkAux 0 g)
      | none =>
        let v := hbmDbl s e
        let ps := bitsOf v 55 54
        let next := bitsOf v 34 0 * 8192
        if bitsOf v 63 63 = 0 then .bad 0x100 (walkAux (n + 1) e)
        else if bitsOf v 62 56 ≠ 0 ∨ bitsOf v 53 35 ≠ 0 ∨ ps = 3 ∨ (ps = 1 ∧ n ≠ 0) ∨ (ps = 2 ∧ n ≠ 1) then
          .bad 0x104 (walkAux (n + 1) e)
        else if Config.hbmBytes ≤ next then .bad 0x105 (walkAux (n + 1) e)
        else if ps = 1 then walkPte s next 0 (bitsOf va 25 21) (2 ^ 21)
        else if ps = 2 then walkPte s next 1 (bitsOf va 35 30) (2 ^ 30)
        else walkFrom s va n next

/-- The walk of a VA of tenancy `ten` (R203 to R207). -/
def walk (s : State) (ten va : Nat) : Walked :=
  let root := tenCsr s ten 7 47 13 * 8192
  if tenCsr s ten 7 0 0 = 0 then .bad 0x100 (3 * 2 ^ 62)
  else if Config.hbmBytes ≤ root then .bad 0x105 (walkAux 3 root)
  else walkFrom s va 3 root

/-- The permission checks of an access (R208). -/
def pteDenies (pte : Nat) (w : Way) : Option Nat :=
  let rd := bitsOf pte 62 62 == 1
  let wr := bitsOf pte 61 61 == 1
  let deny := match w with
    | .read => if rd then none else some 0x101
    | .write => if wr then none else some 0x102
    | .exec => if bitsOf pte 60 60 == 1 then none else some 0x103
    | .atomic => if rd then (if wr then none else some 0x102) else some 0x101
  match deny with
  | some c => some c
  | none => if bitsOf pte 57 56 = 2 ∧ bitsOf pte 59 58 = 0 then some 0x119 else none

/-- The bits an access through a PTE sets in it: A, and D for a write (R209). -/
def pteMarks (w : Way) : Nat :=
  match w with
  | .read | .exec => 2 ^ 37
  | .write | .atomic => 2 ^ 37 + 2 ^ 36

/-- A and D set in the PTE in memory and in the TLB entries that hold it (R209). -/
def markPte (s : State) (at' pte : Nat) (w : Way) : State :=
  if pte &&& pteMarks w = pteMarks w then s else hbmPutDbl s at' (hbmDbl s at' ||| pteMarks w)

/-- The TLB entry of (tenancy, page) for a VA (R210). -/
def tlbFind (tlb : List TlbEntry) (ten va : Nat) : Option TlbEntry :=
  tlb.find? fun e => e.ten == ten && e.va == va / e.size * e.size
/-- A TLB with an entry added, the oldest dropped at the capacity. -/
def tlbAdd (cap : Nat) (tlb : List TlbEntry) (e : TlbEntry) : List TlbEntry :=
  let r := tlb.filter fun x => !(x.ten == e.ten && x.va == e.va && x.size == e.size)
  (if r.length < cap then r else r.drop 1) ++ [e]
/-- A TLB with the marks of an access in its entry. -/
def tlbMark (tlb : List TlbEntry) (ten va : Nat) (w : Way) : List TlbEntry :=
  mapWhere (fun e => e.ten == ten && e.va == va / e.size * e.size)
    (fun e => { e with pte := e.pte ||| BitVec.ofNat 64 (pteMarks w) }) tlb

/-- A translation found for a VA in the TLBs of a Press and its Group (R210). DEDUCED (log entry 17). -/
def tlbLook (s : State) (press group ten va : Nat) : Option TlbEntry :=
  match tlbFind (pressAt s press).tlb ten va with
  | some e => some e
  | none => tlbFind (groupAt s group).tlb ten va

/-- Both TLBs filled with a translation; none while an invalidation runs (R212). -/
def tlbFill (s : State) (press group ten va pte at' size : Nat) : State :=
  if s.invalidating.isSome then s
  else
    let e : TlbEntry := { ten := ten, va := va / size * size, size := size, pte := BitVec.ofNat 64 pte, pteAddr := at', count := 0 }
    let s1 := modPress s press fun p => { p with tlb := tlbAdd Config.pressTlb p.tlb e }
    if (tlbFind (groupAt s group).tlb ten va).isSome then s1
    else modGroup s1 group fun g => { g with tlb := tlbAdd Config.groupTlb g.tlb e }

/-- A local PA, or a PA of a peer with its mode. -/
structure Spot where
  pa : Nat
  mode : Nat
  peer : Nat
  kind : Nat
  checked : Bool
  pte : Nat
  pteAddr : Nat
  size : Nat
  deriving DecidableEq, Repr

/-- Where a PTE sends a VA (R206). -/
def spotOf (pte at' size va : Nat) : Spot :=
  { pa := bitsOf pte 31 0 * 65536 + va % size, mode := bitsOf pte 57 56, peer := bitsOf pte 54 41, kind := bitsOf pte 59 58,
    checked := bitsOf pte 55 55 == 1, pte := pte, pteAddr := at', size := size }

/-- The parts of `n` bytes from a VA, cut at 64 KiB boundaries; `k` bounds their number. -/
def vaParts (k va n : Nat) : List (Nat × Nat) :=
  match k with
  | 0 => []
  | k + 1 =>
    if n = 0 then []
    else
      let m := min n (65536 - va % 65536)
      (va % 2 ^ 56, m) :: vaParts k (va + m) (n - m)
/-- The parts of `n` bytes from a VA. -/
def partsOf (va n : Nat) : List (Nat × Nat) := vaParts (n / 65536 + 2) va n

/-- Who makes an access: a Press with its TLB, or a unit that walks. -/
abbrev Via := Option (Nat × Nat)

/-- Whether the page of a VA is being migrated, so that accesses to it wait (R214). -/
def migrating (s : State) (ten va : Nat) : Bool := s.migrations.any fun m => m.ten == ten && m.va == va / 65536 * 65536

/-- One part translated and checked, nothing marked yet; while EN is 0 every access fails, translated before or not (R204). -/
def spotFind (s : State) (via : Via) (ten va : Nat) (w : Way) : Got Spot :=
  let hit := match via with
    | none => none
    | some (p, g) => tlbLook s p g ten va
  let r := match hit with
    | some e => if tenCsr s ten 7 0 0 = 0 then Walked.bad 0x100 (3 * 2 ^ 62) else .found e.pte.toNat e.pteAddr e.size
    | none => walk s ten va
  match r with
  | .wait => .wait
  | .bad c aux => .bad c aux va
  | .found pte at' size =>
    match pteDenies pte w with
    | some c => .bad c (walkAux (if size = 2 ^ 30 then 1 else 0) at') va
    | none => if migrating s ten va then .wait else .ok (spotOf pte at' size va)

/-- Every part translated and checked, the first failure first. -/
def spotsFind (s : State) (via : Via) (ten : Nat) (w : Way) (ps : List (Nat × Nat)) : Got (List (Spot × Nat × Nat)) :=
  match ps with
  | [] => .ok []
  | (va, n) :: r =>
    match spotFind s via ten va w with
    | .wait => .wait
    | .bad c aux a => .bad c aux a
    | .ok p =>
      match spotsFind s via ten w r with
      | .wait => .wait
      | .bad c aux a => .bad c aux a
      | .ok l => .ok ((p, va, n) :: l)

/-- The marks and TLB fills of parts that have passed. -/
def spotsMark (s : State) (via : Via) (ten : Nat) (w : Way) (l : List (Spot × Nat × Nat)) : State :=
  l.foldl (fun s x =>
    let s1 := markPte s x.1.pteAddr x.1.pte w
    match via with
    | none => s1
    | some (p, g) =>
      let s2 := if (tlbFind (pressAt s1 p).tlb ten x.2.1).isSome then s1
        else tlbFill s1 p g ten x.2.1 x.1.pte x.1.pteAddr x.1.size
      let s3 := modPress s2 p fun q => { q with tlb := tlbMark q.tlb ten x.2.1 w }
      modGroup s3 g fun q => { q with tlb := tlbMark q.tlb ten x.2.1 w }) s

/-- `s` with a new outstanding transfer, whose answer is awaited (R281). -/
def addXfer (s : State) (xtag peer ctx : Nat) (k : XferKind) (entry lsid need : Nat) : State :=
  pushEvOnce { s with xfers := s.xfers ++ [{ xtag := xtag, peer := peer, ctx := ctx, kind := k, entry := entry, lsid := lsid,
                                             acc := false, vis := false, need := need, sentAt := 0 }] } .remoteTimeout

/-- Bytes at a peer asked for by a unit: those that have come, else LOADREQs of up to 128 bytes each (R213, R280). -/
def remoteRead (k : Nat) (s : State) (owner peer pa n : Nat) : State × Got (List Byte) :=
  match k with
  | 0 => (s, .wait)
  | k + 1 =>
    if n = 0 then (s, .ok [])
    else
      let m := min n (128 - pa % 128)
      match s.remoteBuf.find? fun e => e.1 == owner && e.2.1 == peer && e.2.2.1 == pa && e.2.2.2.length == m with
      | some e =>
        match remoteRead k s owner peer (pa + m) (n - m) with
        | (s1, .ok bs) => (s1, .ok (e.2.2.2 ++ bs))
        | r => r
      | none =>
        match linkTo s peer with
        | none => (s, .bad 0x300 peer pa)
        | some l =>
          if s.xfers.any fun x => x.kind == .unitRead owner then (s, .wait)
          else match freeXtag s with
            | none => (s, .wait)
            | some x =>
              let f := mkFlit s false 0x03 peer x 0 (leBytes 8 pa ++ leBytes 4 m ++ leBytes 4 0)
              (sendFlit (addXfer s x peer 0 (.unitRead owner) pa m 0) l f, .wait)

/-- Drops what a unit had read from peers. -/
def dropRemote (s : State) (owner : Nat) : State :=
  if s.remoteBuf.isEmpty then s else { s with remoteBuf := s.remoteBuf.filter fun e => e.1 != owner }

/-- The bytes of one translated part: local HBM with its check words verified (R376), or a peer. -/
def spotRead (s : State) (owner : Nat) (p : Spot) (va n : Nat) : State × Got (List Byte) :=
  if p.mode = 0 then
    if !stackReady s p.pa then (s, .wait)
    else match hbmBad s p.pa n with
      | some g => (s, .bad 0x383 (checkAux 0 g) va)
      | none => (s, .ok (hbmRead s p.pa n))
  else remoteRead (n / 64 + 2) s owner p.peer p.pa n

/-- The bytes of all parts, in order. -/
def spotsRead (s : State) (owner : Nat) (l : List (Spot × Nat × Nat)) : State × Got (List Byte) :=
  match l with
  | [] => (s, .ok [])
  | (p, va, n) :: r =>
    match spotRead s owner p va n with
    | (s1, .ok bs) =>
      match spotsRead s1 owner r with
      | (s2, .ok cs) => (s2, .ok (bs ++ cs))
      | q => q
    | q => q

/-- The failure of a unit's remote read, if one has come back. -/
def remoteFail (s : State) (owner : Nat) : Option (Nat × Nat × Nat) := (s.remoteBad.find? fun e => e.1 == owner).map (·.2)
/-- `s` without it. -/
def dropFail (s : State) (owner : Nat) : State :=
  if s.remoteBad.isEmpty then s else { s with remoteBad := s.remoteBad.filter fun e => e.1 != owner }

/-- A read of a tenancy's memory by a unit; `owner` names it among those that wait for a peer. What has come from a peer is kept. -/
def vaKeep (s : State) (via : Via) (owner ten : Nat) (w : Way) (va n : Nat) : State × Got (List Byte) :=
  match remoteFail s owner with
  | some (c, aux, pa) => (dropRemote (dropFail s owner) owner, .bad c aux pa)
  | none =>
    match spotsFind s via ten w (partsOf va n) with
    | .wait => (s, .wait)
    | .bad c aux a => (s, .bad c aux a)
    | .ok l => spotsRead (spotsMark s via ten w l) owner l

/-- The same, nothing kept once it is done. -/
def vaRead (s : State) (via : Via) (owner ten : Nat) (w : Way) (va n : Nat) : State × Got (List Byte) :=
  match vaKeep s via owner ten w va n with
  | (s1, .wait) => (s1, .wait)
  | (s1, r) => (dropRemote s1 owner, r)

/-- The fills in flight of some lines of remote-cached pages, asked for by contexts of a Group: what answers them is no copy (R213, R302). -/
def staleFills (s : State) (g : Nat) (hit : Nat → Nat → Bool) : State :=
  if s.xfers.isEmpty then s
  else { s with xfers := s.xfers.map fun t => match t.kind with
    | .lineFill a l _ =>
      if hit t.peer l && (match ctxAt s t.ctx with
        | none => false
        | some x => x.group == g) then { t with kind := .lineFill a l true } else t
    | _ => t }
/-- The Group's copies of remote lines dropped by a system-scope acquire (R213). -/
def dropLines (s : State) (g : Nat) : State :=
  let s1 := staleFills s g fun _ _ => true
  if (groupAt s1 g).lines.isEmpty then s1 else modGroup s1 g fun q => { q with lines := [] }
/-- The copies under some bytes of a peer dropped (R213, R302). -/
def dropLinesOf (s : State) (g peer pa n : Nat) : State :=
  let under := fun (p l : Nat) => p == peer && (granules pa n).any fun k => l == 64 * k
  let s1 := staleFills s g under
  if (groupAt s1 g).lines.isEmpty then s1
  else modGroup s1 g fun q => { q with lines := q.lines.filter fun l => !under l.peer l.pa }

/-- The owner under which an engine operation waits for a peer. -/
def opOwner (id : Nat) : Nat := 2 ^ 46 + id
/-- A write at a peer by a unit (R280), of a tenancy, and of context `c` where it is an engine's; the copies of a Group that writes go
(R213). -/
def remoteWrite (s : State) (via : Via) (c owner ten peer pa kind : Nat) (bs : List Byte) : State × Got Unit :=
  match linkTo s peer with
  | none => (s, .bad 0x300 peer pa)
  | some l =>
    match freeXtag s with
    | none => (s, .wait)
    | some x =>
      let s1 := match via with
        | none => s
        | some (_, g) => dropLinesOf s g peer pa bs.length
      (sendFlits (addXfer s1 x peer c (.unitWrite owner) pa 0 ten) l (writeFlits s peer x pa kind bs), .ok ())

/-- Whether every part of a write can be made now: its stack ready, or its peer reachable with a transfer tag for it, `n` tags being free. -/
def spotsCan (s : State) (n : Nat) (l : List (Spot × Nat × Nat)) : Got Unit :=
  match l with
  | [] => .ok ()
  | (p, _, _) :: r =>
    if p.mode = 0 then if stackReady s p.pa then spotsCan s n r else .wait
    else if (linkTo s p.peer).isNone then .bad 0x300 p.peer p.pa
    else match n with
      | 0 => .wait
      | n + 1 => spotsCan s n r
/-- Transfer tags not in use (R280). -/
def tagsFree (s : State) : Nat := 4096 - (s.xfers.length + (s.cohortOps.filter fun o => decide (0 < o.xtag)).length)
/-- The bytes of every part written. -/
def spotsWrite (s : State) (via : Via) (c owner ten : Nat) (bs : List Byte) (l : List (Spot × Nat × Nat)) : State × Got Unit :=
  match l with
  | [] => (s, .ok ())
  | (p, _, n) :: r =>
    if p.mode = 0 then
      if !stackReady s p.pa then (s, .wait)
      else spotsWrite (hbmFresh (hbmWrite s p.pa (bs.take n)) p.pa n) via c owner ten (bs.drop n) r
    else match remoteWrite s via c owner ten p.peer p.pa p.kind (bs.take n) with
      | (s1, .ok _) => spotsWrite s1 via c owner ten (bs.drop n) r
      | (s1, .bad k aux pa) => (s1, .bad k aux pa)
      | (s1, .wait) => (s1, .wait)

/-- A write to a tenancy's memory by a unit: all of it, or nothing. -/
def vaWrite (s : State) (via : Via) (c owner ten va : Nat) (bs : List Byte) : State × Got Unit :=
  match spotsFind s via ten .write (partsOf va bs.length) with
  | .wait => (s, .wait)
  | .bad k aux a => (s, .bad k aux a)
  | .ok l => match spotsCan s (tagsFree s) l with
    | .ok _ => spotsWrite (spotsMark s via ten .write l) via c owner ten bs l
    | q => (s, q)

/-- A read by a unit that walks. DESIGN CHOICE (log entry 20). -/
def unitRead (s : State) (owner ten va n : Nat) : State × Got (List Byte) := vaRead s none owner ten .read va n
/-- A write by a unit that walks. -/
def unitWrite (s : State) (owner ten va : Nat) (bs : List Byte) : State × Got Unit := vaWrite s none 0 owner ten va bs

end Sys2Proof.Machine
end

