-- ==== Sys2Proof/Machine/Block.lean ====
section
/-! DEFINITION. Block images (R144, R145), what the opcode map says of each instruction (R118, R148, R151), and tokens in their
64-bit layout (R116). -/

namespace Sys2Proof.Machine

/-- The fire mode of an instruction (R118); an event has none. -/
def fireMode : Instr → FireMode
  | .addInt f _ _ _ | .subInt f _ _ _ | .addClamp f _ _ _ | .subClamp f _ _ _ | .minInt f _ _ _ | .maxInt f _ _ _
  | .absInt f _ _ _ | .mulInt f _ _ _ | .mulh f _ _ _ | .div f _ _ _ | .rem f _ _ _ | .mulClamp f _ _ _ | .and f _ _ _
  | .or f _ _ _ | .xor f _ _ _ | .andn f _ _ _ | .orn f _ _ _ | .xnor f _ _ _ | .shl f _ _ _ | .shr f _ _ _
  | .sar f _ _ _ | .rotl f _ _ _ | .popc f _ _ _ | .clz f _ _ _ | .ctz f _ _ _ | .brev f _ _ _ | .cmpEq f _ _ _
  | .cmpNe f _ _ _ | .cmpLt f _ _ _ | .cmpLe f _ _ _ | .cmpGt f _ _ _ | .cmpGe f _ _ _ | .cmpEqFloat f _ _ _
  | .cmpNeFloat f _ _ _ | .cmpLtFloat f _ _ _ | .cmpLeFloat f _ _ _ | .cmpGtFloat f _ _ _ | .cmpGeFloat f _ _ _
  | .sel f _ _ _ | .addi f _ _ | .andi f _ _ | .ori f _ _ | .xori f _ _ | .shli f _ _ | .shri f _ _ | .sari f _ _
  | .movi f _ _ | .movhi f _ _ | .cmpiEq f _ _ | .cmpiLt f _ _ | .addFloat f _ _ _ _ | .subFloat f _ _ _ _
  | .mulFloat f _ _ _ _ | .fma f _ _ _ _ | .fms f _ _ _ _ | .minFloat f _ _ _ | .maxFloat f _ _ _ | .absFloat f _ _ _
  | .negFloat f _ _ _ | .cvt f _ _ _ _ | .exp2 f _ _ _ | .log2 f _ _ _ | .rcp f _ _ _ | .rsqrt f _ _ _ | .sigm f _ _ _
  | .tanh f _ _ _ | .scaleApply f _ _ _ | .scaleStrip f _ _ _ | .perm f _ _ _ | .bcast f _ _ _ | .redAdd f _ _ _
  | .redMax f _ _ _ | .redMin f _ _ _ | .scanAdd f _ _ _ | .rpack f _ _ _ | .turn f _ _ _ | .movFull f _ _
  | .nullFull f _ _ | .movCompact f _ | .nullCompact f _ | .not f _ | .neg f _ | .inc f _ | .dec f _ | .isz f _
  | .nz f _ | .rdg f _ _ | .wrg f _ | .iter f _ | .lfld f _ _ _ | .lfst f _ | .lfldV f _ _ _ | .lfstV f _
  | .lfswp f _ _ _ | .ld f _ _ _ _ _ | .ldV f _ _ _ _ _ | .st f _ _ _ _ _ | .stV f _ _ _ _ _ | .amoAdd f _ _ _ _ _
  | .amoAnd f _ _ _ _ _ | .amoOr f _ _ _ _ _ | .amoXor f _ _ _ _ _ | .amoMin f _ _ _ _ _ | .amoMax f _ _ _ _ _
  | .amoXchg f _ _ _ _ _ | .cas f _ _ _ _ _ | .fence f _ _ _ _ | .qfence f _ _ | .bset f _ | .badd f _ | .bget f _ _
  | .cvta f _ _ | .isap f _ _ | .tileFill f _ _ | .tileReady f _ _ | .tileDrain f _ _ | .tileFree f _ _ | .tileStat f _
  | .ringDef f _ _ | .mxDef f _ _ _ | .mxUnbind f _ _ | .gvAff f _ _ _ | .gvInd f _ _ _ | .gvGo f _ _ | .cpGo f _ _
  | .cpRem f _ _ | .engCmd f _ _ | .plateLd f _ _ | .plateEv f _ _ | .plateQ f _ _ | .emit f _ _ | .emitT f _ _
  | .emitX f _ _ | .spawn f _ _ | .rest f | .bind f _ _ | .hint f _ _ | .aq f _ _ | .join f _ _ | .leave f _ _
  | .cbar f _ _ | .cq f _ _ | .credAddI32 f _ _ | .credAddF32 f _ _ | .credMaxI32 f _ _ | .credMaxF32 f _ _
  | .credMinI32 f _ _ | .credMinF32 f _ _ | .leaseReq f _ _ | .leaseGive f _ _ | .leaseRev f _ _ | .leaseQ f _ _
  | .exit f _ _ | .exitI f _ | .trap f _ | .tret f | .mfs f _ _ | .mts f _ | .nop f | .brk f _ | .trmk f _ _
  | .stylus f _ | .ctrRd f _ _ | .ctrClr f _ | .preempt f | .abort f _ => f
  | _ => .always

/-- The value ports of an instruction (R151). -/
def valuePorts : Instr → List Port
  | .addInt _ _ _ _ | .subInt _ _ _ _ | .addClamp _ _ _ _ | .subClamp _ _ _ _ | .minInt _ _ _ _ | .maxInt _ _ _ _
  | .mulInt _ _ _ _ | .mulh _ _ _ _ | .div _ _ _ _ | .rem _ _ _ _ | .mulClamp _ _ _ _ | .and _ _ _ _ | .or _ _ _ _
  | .xor _ _ _ _ | .andn _ _ _ _ | .orn _ _ _ _ | .xnor _ _ _ _ | .shl _ _ _ _ | .shr _ _ _ _ | .sar _ _ _ _
  | .rotl _ _ _ _ | .cmpEq _ _ _ _ | .cmpNe _ _ _ _ | .cmpLt _ _ _ _ | .cmpLe _ _ _ _ | .cmpGt _ _ _ _ | .cmpGe _ _ _ _
  | .cmpEqFloat _ _ _ _ | .cmpNeFloat _ _ _ _ | .cmpLtFloat _ _ _ _ | .cmpLeFloat _ _ _ _ | .cmpGtFloat _ _ _ _
  | .cmpGeFloat _ _ _ _ | .addFloat _ _ _ _ _ | .subFloat _ _ _ _ _ | .mulFloat _ _ _ _ _ | .minFloat _ _ _ _
  | .maxFloat _ _ _ _ | .scaleApply _ _ _ _ | .scaleStrip _ _ _ _ | .perm _ _ _ _ | .lfst _ _ | .lfstV _ _
  | .lfswp _ _ _ _ | .amoAdd _ _ _ _ _ _ | .amoAnd _ _ _ _ _ _ | .amoOr _ _ _ _ _ _ | .amoXor _ _ _ _ _ _
  | .amoMin _ _ _ _ _ _ | .amoMax _ _ _ _ _ _ | .amoXchg _ _ _ _ _ _ | .gvInd _ _ _ _ | .cpGo _ _ _ | .cpRem _ _ _
  | .emit _ _ _ | .emitT _ _ _ | .emitX _ _ _ | .bind _ _ _ | .credAddI32 _ _ _ | .credAddF32 _ _ _ | .credMaxI32 _ _ _
  | .credMaxF32 _ _ _ | .credMinI32 _ _ _ | .credMinF32 _ _ _ => [.a, .b]
  | .sel _ _ _ _ | .fma _ _ _ _ _ | .fms _ _ _ _ _ | .cas _ _ _ _ _ _ => [.a, .b, .c]
  | .absInt _ _ _ _ | .popc _ _ _ _ | .clz _ _ _ _ | .ctz _ _ _ _ | .brev _ _ _ _ | .addi _ _ _ | .andi _ _ _
  | .ori _ _ _ | .xori _ _ _ | .shli _ _ _ | .shri _ _ _ | .sari _ _ _ | .movhi _ _ _ | .cmpiEq _ _ _ | .cmpiLt _ _ _
  | .absFloat _ _ _ _ | .negFloat _ _ _ _ | .cvt _ _ _ _ _ | .exp2 _ _ _ _ | .log2 _ _ _ _ | .rcp _ _ _ _
  | .rsqrt _ _ _ _ | .sigm _ _ _ _ | .tanh _ _ _ _ | .bcast _ _ _ _ | .redAdd _ _ _ _ | .redMax _ _ _ _
  | .redMin _ _ _ _ | .scanAdd _ _ _ _ | .rpack _ _ _ _ | .turn _ _ _ _ | .movFull _ _ _ | .movCompact _ _ | .not _ _
  | .neg _ _ | .inc _ _ | .dec _ _ | .isz _ _ | .nz _ _ | .wrg _ _ | .lfld _ _ _ _ | .lfldV _ _ _ _ | .ld _ _ _ _ _ _
  | .ldV _ _ _ _ _ _ | .st _ _ _ _ _ _ | .stV _ _ _ _ _ _ | .bset _ _ | .badd _ _ | .cvta _ _ _ | .isap _ _ _
  | .tileFill _ _ _ | .tileReady _ _ _ | .tileDrain _ _ _ | .tileFree _ _ _ | .tileStat _ _ | .ringDef _ _ _
  | .mxDef _ _ _ _ | .gvAff _ _ _ _ | .gvGo _ _ _ | .engCmd _ _ _ | .plateLd _ _ _ | .plateEv _ _ _ | .plateQ _ _ _
  | .spawn _ _ _ | .hint _ _ _ | .aq _ _ _ | .join _ _ _ | .leave _ _ _ | .cbar _ _ _ | .cq _ _ _ | .leaseReq _ _ _
  | .leaseGive _ _ _ | .leaseRev _ _ _ | .leaseQ _ _ _ | .exitI _ _ | .mts _ _ | .trmk _ _ _ | .preempt _ => [.a]
  | _ => []

/-- The target fields of an instruction, those that name none among them (R148). -/
def targetFields : Instr → List Target
  | .addInt _ t u _ | .subInt _ t u _ | .addClamp _ t u _ | .subClamp _ t u _ | .minInt _ t u _ | .maxInt _ t u _
  | .absInt _ t u _ | .mulInt _ t u _ | .mulh _ t u _ | .div _ t u _ | .rem _ t u _ | .mulClamp _ t u _ | .and _ t u _
  | .or _ t u _ | .xor _ t u _ | .andn _ t u _ | .orn _ t u _ | .xnor _ t u _ | .shl _ t u _ | .shr _ t u _
  | .sar _ t u _ | .rotl _ t u _ | .popc _ t u _ | .clz _ t u _ | .ctz _ t u _ | .brev _ t u _ | .cmpEq _ t u _
  | .cmpNe _ t u _ | .cmpLt _ t u _ | .cmpLe _ t u _ | .cmpGt _ t u _ | .cmpGe _ t u _ | .cmpEqFloat _ t u _
  | .cmpNeFloat _ t u _ | .cmpLtFloat _ t u _ | .cmpLeFloat _ t u _ | .cmpGtFloat _ t u _ | .cmpGeFloat _ t u _
  | .sel _ t u _ | .addFloat _ t u _ _ | .subFloat _ t u _ _ | .mulFloat _ t u _ _ | .fma _ t u _ _ | .fms _ t u _ _
  | .minFloat _ t u _ | .maxFloat _ t u _ | .absFloat _ t u _ | .negFloat _ t u _ | .exp2 _ t u _ | .log2 _ t u _
  | .rcp _ t u _ | .rsqrt _ t u _ | .sigm _ t u _ | .tanh _ t u _ | .scaleApply _ t u _ | .scaleStrip _ t u _
  | .perm _ t u _ | .bcast _ t u _ | .redAdd _ t u _ | .redMax _ t u _ | .redMin _ t u _ | .scanAdd _ t u _
  | .rpack _ t u _ | .turn _ t u _ | .movFull _ t u | .nullFull _ t u | .lfld _ t u _ | .lfldV _ t u _ | .lfswp _ t u _
  | .plateLd _ t u | .plateEv _ t u | .plateQ _ t u | .emit _ t u | .emitT _ t u | .emitX _ t u | .bind _ t u
  | .hint _ t u | .aq _ t u | .join _ t u | .leave _ t u | .cbar _ t u | .cq _ t u | .credAddI32 _ t u
  | .credAddF32 _ t u | .credMaxI32 _ t u | .credMaxF32 _ t u | .credMinI32 _ t u | .credMinF32 _ t u | .leaseReq _ t u
  | .leaseGive _ t u | .leaseRev _ t u | .leaseQ _ t u => [t, u]
  | .addi _ t _ | .andi _ t _ | .ori _ t _ | .xori _ t _ | .shli _ t _ | .shri _ t _ | .sari _ t _ | .movi _ t _
  | .movhi _ t _ | .cmpiEq _ t _ | .cmpiLt _ t _ | .cvt _ _ _ t _ | .movCompact _ t | .nullCompact _ t | .not _ t
  | .neg _ t | .inc _ t | .dec _ t | .isz _ t | .nz _ t | .rdg _ _ t | .iter _ t | .ld _ _ t _ _ _ | .ldV _ _ t _ _ _
  | .amoAdd _ _ t _ _ _ | .amoAnd _ _ t _ _ _ | .amoOr _ _ t _ _ _ | .amoXor _ _ t _ _ _ | .amoMin _ _ t _ _ _
  | .amoMax _ _ t _ _ _ | .amoXchg _ _ t _ _ _ | .cas _ _ t _ _ _ | .fence _ _ t _ _ | .qfence _ t _ | .bget _ _ t
  | .cvta _ t _ | .isap _ t _ | .tileFill _ _ t | .tileReady _ _ t | .tileDrain _ _ t | .tileFree _ _ t | .tileStat _ t
  | .ringDef _ _ t | .mxDef _ _ t _ | .mxUnbind _ t _ | .gvAff _ _ t _ | .gvInd _ _ t _ | .gvGo _ t _ | .cpGo _ _ t
  | .cpRem _ _ t | .engCmd _ t _ | .spawn _ t _ | .mfs _ t _ | .trmk _ t _ | .ctrRd _ t _ => [t]
  | _ => []

/-- The LSID of a memory instruction (R153). -/
def lsidOf : Instr → Option Nat
  | .ld _ l _ _ _ _ | .ldV _ l _ _ _ _ | .st _ l _ _ _ _ | .stV _ l _ _ _ _ | .amoAdd _ l _ _ _ _ | .amoAnd _ l _ _ _ _
  | .amoOr _ l _ _ _ _ | .amoXor _ l _ _ _ _ | .amoMin _ l _ _ _ _ | .amoMax _ l _ _ _ _ | .amoXchg _ l _ _ _ _
  | .cas _ l _ _ _ _ | .fence _ l _ _ _ => some l.toNat
  | _ => none

/-- The store class (R153). -/
def storeClass : Instr → Bool
  | .st _ _ _ _ _ _ | .stV _ _ _ _ _ _ | .amoAdd _ _ _ _ _ _ | .amoAnd _ _ _ _ _ _ | .amoOr _ _ _ _ _ _
  | .amoXor _ _ _ _ _ _ | .amoMin _ _ _ _ _ _ | .amoMax _ _ _ _ _ _ | .amoXchg _ _ _ _ _ _ | .cas _ _ _ _ _ _ => true
  | _ => false

/-- The targets an instruction names. -/
def targetsOf (i : Instr) : List Target := (targetFields i).filter fun t => t != noTarget
/-- The required ports: the value ports, and p unless the mode is always (R118). -/
def requiredPorts (i : Instr) : List Port := valuePorts i ++ (if fireMode i = .always then [] else [.p])

/-- Header word 0 of an image. -/
def blkWord0 (img : List Word) : Nat := (img.getD 0 0).toNat
/-- Instructions declared (ICNT + 1). -/
def blkCount (img : List Word) : Nat := bitsOf (blkWord0 img) 27 21 + 1
/-- Body words (BWC). -/
def blkWords (img : List Word) : Nat := bitsOf (blkWord0 img) 20 13
/-- Declared exits. -/
def blkExits (img : List Word) : Nat := bitsOf (blkWord0 img) 12 10
/-- Declared G writes. -/
def blkWrites (img : List Word) : Nat := bitsOf (blkWord0 img) 9 4
/-- Flag L: a resident loop. -/
def blkLoop (img : List Word) : Bool := bitsOf (blkWord0 img) 3 3 == 1
/-- Flag P: phase tables. -/
def blkPhased (img : List Word) : Bool := bitsOf (blkWord0 img) 2 2 == 1
/-- Flag S: a spawn target. -/
def blkSpawn (img : List Word) : Bool := bitsOf (blkWord0 img) 1 1 == 1
/-- The store mask. -/
def blkMask (img : List Word) : BitVec 32 := img.getD 1 0
/-- The word offset of the loop descriptor. -/
def blkLoopAt (img : List Word) : Nat := 4 * (img.getD 2 0).toNat
/-- The instruction words in index order; a half of a pair stands as a pair word of its own (R145). -/
def blkInstrs (img : List Word) : List Word := ((img.drop 4).take (blkWords img)).flatMap bodySplit
/-- The word of instruction `i`. -/
def blkWordAt (img : List Word) (i : Nat) : Word := (blkInstrs img).getD i 0
/-- A word of the loop descriptor (R131). -/
def loopWord (img : List Word) (k : Nat) : Nat := (img.getD (blkLoopAt img + k) 0).toNat
/-- BASE of the loop. -/
def loopBase (img : List Word) : Nat := bitsOf (loopWord img 0) 31 16
/-- TRIPS of the loop. -/
def loopTrips (img : List Word) : Nat := bitsOf (loopWord img 0) 15 0
/-- Frames in flight. -/
def loopFrames (img : List Word) : Nat := bitsOf (loopWord img 1) 10 5 + 1
/-- Run length of iter. -/
def loopRun (img : List Word) : Nat := bitsOf (loopWord img 1) 4 0 + 1
/-- Phase tables. -/
def phaseCount (img : List Word) : Nat := bitsOf (loopWord img 2) 31 24
/-- Word `j` of phase table `k` (R133). -/
def phaseWord (img : List Word) (k j : Nat) : Nat :=
  (img.getD (blkLoopAt img + 4 * bitsOf (loopWord img 2) 15 0 + 12 * k + j) 0).toNat
/-- The phase table of an instruction. -/
def phaseOf (img : List Word) (inst : Nat) : Option Nat :=
  if blkLoop img && blkPhased img then
    (List.range (phaseCount img)).find? fun k => bitsOf (phaseWord img k 0) 31 25 == inst
  else none
/-- The entry of a phase table whose interval holds `q`, and what is left of the interval from q on. -/
def phasePick (img : List Word) (k e n q : Nat) : Word × Nat :=
  let rep := bitsOf (phaseWord img k (5 + 2 * e)) 15 0 + 1
  match n with
  | 0 => (BitVec.ofNat 32 (phaseWord img k (4 + 2 * e)), rep - q)
  | n + 1 => if q < rep then (BitVec.ofNat 32 (phaseWord img k (4 + 2 * e)), rep - q) else phasePick img k (e + 1) n (q - rep)
/-- The word that instruction `inst` applies to iteration `i`, and how many iterations from i on use it (R134). -/
def wordFor (img : List Word) (inst i : Nat) : Word × Nat :=
  match phaseOf img inst with
  | none => (blkWordAt img inst, 65536)
  | some k =>
    let n := bitsOf (phaseWord img k 0) 24 23
    let sum := ((List.range (n + 1)).map fun e => bitsOf (phaseWord img k (5 + 2 * e)) 15 0 + 1).foldl (· + ·) 0
    phasePick img k 0 n ((i + 65536 - loopBase img) % 65536 % sum)

/-- The instruction at an index of a context's block, as its body has it. -/
def instrAt (img : List Word) (i : Nat) : Option Instr :=
  match decodeInstr (blkWordAt img i) with
  | .ok x => some x
  | .error _ => none

/-- The plane of a placement region; regions 0 to 3 are plane r / 2 of half r mod 2 (DEDUCED, log entry 11). -/
def regionPlane (r : Nat) : Nat := r / 2 % 2
/-- The PEs of a region, as 16 x column + row, that the Mapper gives to the first `n` instructions of an image, the latest first, and those
that are still free: one PE holds one instruction (R114, R115). -/
def pesGiven (img : List Word) (n : Nat) : List Nat × List Nat :=
  match n with
  | 0 => ([], List.range 128)
  | n + 1 =>
    let l := pesGiven img n
    let pe := l.2.getD (Config.peChoice img n % l.2.length) 0
    (pe :: l.1, l.2.filter (· != pe))
/-- The PE of an instruction. -/
def pePlace (img : List Word) (inst : Nat) : Nat := (pesGiven img (inst + 1)).1.headD 0
/-- The PE column of an instruction of a placed block. -/
def peColumn (img : List Word) (region inst : Nat) : Nat := pePlace img inst / 16 + 8 * (region % 2)
/-- Its PE row. -/
def peRow (img : List Word) (inst : Nat) : Nat := pePlace img inst % 16
/-- The PE cluster of an instruction in its Press: a square of two columns and two rows (R114). -/
def peCluster (img : List Word) (region inst : Nat) : Nat := 8 * (peRow img inst / 2) + peColumn img region inst / 2

/-- The sideband bits as R116 orders them: NR in bit 4 to DZ in bit 0. -/
def sbField (b : BitVec 5) : Nat := b.toNat
/-- A token in the layout of R116; a standing token shows ITER 0xFFFF and LEN 31 (R175). -/
def tokenDouble (tag plane : Nat) (frozen : Bool) (t : Token) : Nat :=
  let bit := fun (b : Bool) (k : Nat) => if b then 2 ^ k else 0
  tag % 256 * 2 ^ 56 + plane * 2 ^ 55 + (if t.standing then 0xFFFF else t.iter % 65536) * 2 ^ 39 +
    (if t.standing then 31 else (t.vals.length - 1) % 32) * 2 ^ 34 + t.inst % 128 * 2 ^ 27 +
    portCode t.port * 2 ^ 25 + bit t.nul 24 + bit t.eos 23 + bit t.scaled 22 + sbField t.sb * 2 ^ 17 + widthCode t.ew * 2 ^ 15 +
    bit frozen 14

end Sys2Proof.Machine
end

