-- ==== Sys2Proof/Machine/Ops.lean ====
section
/-! DEFINITION. The operations that the meanings share: stimuli and their way to a Walker (R17 to R20, R85), quarantine and
fault rings (R363), taking a fault (R359 to R369) and the return from one, and trap entry and return (R320). -/

namespace Sys2Proof.Machine

/-- Word `k` of a stimulus. -/
def stimWord (bs : List Byte) (k : Nat) : Nat := leNat ((bs.drop (4 * k)).take 4)
/-- Double at payload offset `o`. -/
def stimDbl (bs : List Byte) (o : Nat) : Nat := leNat ((bs.drop (16 + o)).take 8)
/-- LEN. -/
def stimLen (bs : List Byte) : Nat := bitsOf (stimWord bs 0) 31 28
/-- CH. -/
def stimCh (bs : List Byte) : Nat := bitsOf (stimWord bs 0) 27 25
/-- KIND. -/
def stimKind (bs : List Byte) : Nat := bitsOf (stimWord bs 0) 24 17
/-- NSUCC. -/
def stimSucc (bs : List Byte) : Nat := bitsOf (stimWord bs 0) 16 14
/-- TEN. -/
def stimTen (bs : List Byte) : Nat := bitsOf (stimWord bs 0) 13 10
/-- The O bit. -/
def stimO (bs : List Byte) : Bool := bitsOf (stimWord bs 0) 9 9 == 1
/-- The target agent. -/
def stimAgent (bs : List Byte) : Nat := bitsOf (stimWord bs 1) 27 0
/-- The source code: 0 host, 1 step, 2 peer device, 3 the device itself. -/
def stimSource (bs : List Byte) : Nat := bitsOf (stimWord bs 2) 17 16
/-- The routine VA that overrides the record's, with O = 1. -/
def stimRoutine (bs : List Byte) : Nat := stimDbl bs 0 % 2 ^ 56
/-- The payload length (R17); negative lengths read 0. -/
def stimPayload (bs : List Byte) : Nat := (stimLen bs + 1) * 16 - 16 - 8 * stimSucc bs
/-- Successor handle `k`. -/
def stimHandle (bs : List Byte) (k : Nat) : Nat := leNat ((bs.drop ((stimLen bs + 1) * 16 - 8 * stimSucc bs + 8 * k)).take 8)

/-- The check word of a stimulus (R18). -/
def stimCheck (bs : List Byte) : Nat := crc32c (bs.take 12 ++ leBytes 4 0 ++ bs.drop 16)
/-- A stimulus with its check word written at its entry point (R18). -/
def stimStamp (bs : List Byte) : List Byte := bs.take 12 ++ leBytes 4 (stimCheck bs) ++ bs.drop 16
/-- Whether the check word holds. -/
def stimOk (bs : List Byte) : Bool := stimWord bs 3 == stimCheck bs
/-- Header words 0 to 2 of a stimulus, the check word still zero. -/
def stimHead (len ch kind succ ten : Nat) (o : Bool) (agent dev source : Nat) : List Byte :=
  leBytes 4 (len * 2 ^ 28 + ch % 8 * 2 ^ 25 + kind % 256 * 2 ^ 17 + succ * 2 ^ 14 + ten % 16 * 2 ^ 10 + (if o then 512 else 0)) ++
  leBytes 4 (agent % 2 ^ 28) ++ leBytes 4 (dev % 2 ^ 14 * 2 ^ 18 + source % 4 * 2 ^ 16) ++ leBytes 4 0

/-- Whether a stimulus is malformed (R19). Bits [63:56] of the routine VA of O = 1 must be zero too, as they are no part of a VA, and a reserved
KIND is refused with source 11 too (a completion whose handle names one). DESIGN CHOICE (log entry 185). -/
def stimBad (bs : List Byte) : Bool :=
  let total := (stimLen bs + 1) * 16
  stimLen bs == 0 || decide (4 < stimSucc bs) || decide (total < 16 + 8 * stimSucc bs) || decide (bs.length < total) ||
    bitsOf (stimWord bs 0) 8 0 != 0 || bitsOf (stimWord bs 1) 31 28 != 0 || bitsOf (stimWord bs 2) 15 0 != 0 ||
    ((List.range (stimSucc bs)).any fun k => bitsOf (stimHandle bs k) 9 0 != 0) ||
    (stimO bs && (decide (stimPayload bs < 8) || stimDbl bs 0 % 16 != 0 || decide (2 ^ 56 ≤ stimDbl bs 0))) ||
    (decide (0xF1 ≤ stimKind bs) && (stimSource bs != 3 || decide (0xF5 ≤ stimKind bs)))

/-- The hash of (tenancy, agent) (R12). -/
def agentHash (ten agent : Nat) : Nat := (ten * 2 ^ 28 + agent) * 0x9E3779B1 % 2 ^ 32
/-- The home Walker: number h[2:0], or the next that has not failed (R85). -/
def homeWalker (s : State) (ten agent : Nat) : Nat :=
  let w := agentHash ten agent % 8
  (((List.range 8).map fun k => (w + k) % 8).find? fun v => !s.failed.getLsbD (382 + v)).getD w

/-- Whether an arrival goes before another that has come in the same cycle: by class, and in host ingress by link and port (R85). -/
def arrivesBefore (a x : Arrival) : Bool :=
  x.order == a.order && (decide (a.cls < x.cls) || (a.cls == x.cls && decide (a.rank < x.rank)))
/-- An arrival put behind those of its cycle that go before it (R85). DEDUCED (log entry 53). -/
def arrivalInsert (a : Arrival) (l : List Arrival) : List Arrival :=
  (l.takeWhile fun x => !arrivesBefore a x) ++ [a] ++ l.dropWhile fun x => !arrivesBefore a x

/-- An arrival at the home Walker of its agent (R85). -/
def walkerTakes (s : State) (a : Arrival) : State :=
  let w := homeWalker s a.ten a.agent
  let s1 := { s with arrivals := tabSet (fun _ => []) s.arrivals w (arrivalInsert a (tabGet (fun _ => []) s.arrivals w)) }
  pushEv s1 (if a.op.isSome then .agentOpAtWalker w else .stimulusArrival w)
/-- What reaches the home Walker of an agent from this device or its host. -/
def walkerPut (s : State) (cls ten agent : Nat) (stim : Option Stim) (op : Option (AgentOp × Reply)) (ack : Option Reply) : State :=
  walkerTakes s { cls := cls, rank := 0, order := cycleNow s, ten := ten, agent := agent, stim := stim, op := op, ack := ack, peer := none }

/-- A stimulus made by the device itself, to an agent of this device (R85). -/
def deviceStim (s : State) (bs : List Byte) (card : Option Nat) : State :=
  walkerPut s 4 (stimTen bs) (stimAgent bs) (some { bytes := stimStamp bs, clock := none, card := card }) none none

/-- A ring of tenancy memory: `k` 0 the fault ring, 1 the quarantine queue; its EN, control block VA and entries (R362). -/
def memRing (s : State) (ten k : Nat) : Bool × Nat × Nat :=
  let c := 0x4A0 + 8 * ten + k
  let l := csrBits s c 4 0
  (csrBits s c 63 63 == 1, csrBits s c 55 8 * 256, 2 ^ (if l < 4 then 4 else if 16 < l then 16 else l))

/-- An entry written to such a ring, then PROD (R363): its place and VA, none where the ring is full or not enabled. -/
def memRingPut (s : State) (ten k : Nat) (bs : List Byte) : State × Got (Option (Nat × Nat)) :=
  let r := memRing s ten k
  let owner := 2 ^ 40 + 2 * ten + k
  if !r.1 then (s, .ok none)
  else match unitRead s owner ten r.2.1 16 with
    | (s1, .bad c aux a) => (s1, .bad c aux a)
    | (s1, .wait) => (s1, .wait)
    | (s1, .ok d) =>
      let prod := leNat (d.take 8)
      let cons := leNat (d.drop 8)
      if (prod + 2 ^ 64 - cons) % 2 ^ 64 = r.2.2 then (s1, .ok none)
      else
        let va := r.2.1 + 0x100 + bs.length * (prod % r.2.2)
        match unitWrite s1 owner ten va bs with
        | (s2, .bad c aux a) => (s2, .bad c aux a)
        | (s2, .wait) => (s2, .wait)
        | (s2, .ok _) =>
          match unitWrite s2 owner ten r.2.1 (leBytes 8 ((prod + 1) % 2 ^ 64)) with
          | (s3, .bad c aux a) => (s3, .bad c aux a)
          | (s3, .wait) => (s3, .wait)
          | (s3, .ok _) => (s3, .ok (some (prod, va)))

/-- Double `k` of a record. -/
def recDbl (bs : List Byte) (k : Nat) : Nat := leNat ((bs.drop (8 * k)).take 8)
/-- A record with another cause, class and AUX. -/
def recAs (bs : List Byte) (cause cls aux : Nat) : List Byte :=
  leBytes 8 (putBits (putBits (recDbl bs 0) 63 54 cause) 49 48 cls) ++ (bs.drop 8).take 32 ++ leBytes 8 aux ++ bs.drop 48

/-- SUNAV of a tenancy (R362). -/
def stewardOut (s : State) (ten : Nat) : Bool := csrBits s (0x4A4 + 8 * ten) 63 63 == 1

/-- Escalation: the record with CLASS 10 and cause 0x3C0 to the event ring of the tenancy's function, its vector signalled
whatever IEN, and SUNAV set (R369). -/
def escalate (s : State) (ten : Nat) (bs : List Byte) : State :=
  let s1 := eventPut s (ten + 1) (recAs bs 0x3C0 2 (bitsOf (recDbl bs 0) 63 54)) true
  csrPoke s1 (0x4A4 + 8 * ten) 63 63 1

/-- The fault stimulus to the steward (R366). -/
def stewardStim (s : State) (ten : Nat) (bs : List Byte) (va : Nat) : State :=
  deviceStim s (stimHead 2 0 0xF4 0 ten false (tenCsr s ten 4 27 0) (deviceNumber s) 3 ++ leBytes 8 va ++
    leBytes 8 (bitsOf (recDbl bs 0) 63 54 * 2 ^ 54 + bitsOf (recDbl bs 0) 23 0) ++ leBytes 16 0) none

/-- After a record stands in its ring: a CLASS 00 record gets its VA and the fault stimulus is sent (R366). -/
def recordWritten (s : State) (ten : Nat) (bs : List Byte) (va : Nat) : State :=
  if bitsOf (recDbl bs 0) 49 48 = 0 then
    let s1 := { s with records := tabUpdate s.records (2 ^ 24 * ten + bitsOf (recDbl bs 0) 23 0) fun r => { r with va := va } }
    if stewardOut s1 ten then s1 else stewardStim s1 ten bs va
  else s

/-- Records waiting for the fault ring of a tenancy. -/
def faultQueue (s : State) (ten : Nat) : List RecordBytes := tabGet (fun _ => []) s.faultWait ten
/-- `s` with them. -/
def setFaultQueue (s : State) (ten : Nat) (q : List RecordBytes) : State :=
  { s with faultWait := tabSet (fun _ => []) s.faultWait ten q }

/-- A record that could not be written (R363). -/
def recordFailed (s : State) (ten : Nat) (bs : List Byte) : State :=
  eventPut s (ten + 1) (recAs bs 0x3C1 (bitsOf (recDbl bs 0) 49 48) (bitsOf (recDbl bs 0) 63 54)) false

/-- A record to the fault ring: written, kept in order up to 64, or lost and counted (R363). -/
def faultPut (s : State) (ten : Nat) (bs : RecordBytes) : State :=
  let keep := fun (s : State) =>
    if (faultQueue s ten).length < 64 then pushEvOnce (setFaultQueue s ten (faultQueue s ten ++ [bs])) .faultRingFlush
    else
      let lost := csrBits s (0x4A4 + 8 * ten) 31 0
      let s1 := csrPoke s (0x4A4 + 8 * ten) 31 0 (if lost + 1 < 2 ^ 32 then lost + 1 else lost)
      eventPut s1 (ten + 1) (recAs bs 0x3C2 (bitsOf (recDbl bs 0) 49 48) 0) false
  if !(faultQueue s ten).isEmpty then keep s
  else match memRingPut s ten 0 bs with
    | (s1, .ok none) => keep s1
    | (s1, .wait) => keep s1
    | (s1, .bad _ _ _) => recordFailed s1 ten bs
    | (s1, .ok (some (_, va))) => recordWritten s1 ten bs va

/-- The waiting records that a fault ring now takes; `n` bounds their number. -/
def faultFlush (n : Nat) (s : State) (ten : Nat) : State :=
  match n with
  | 0 => s
  | n + 1 =>
    match faultQueue s ten with
    | [] => s
    | bs :: q =>
      match memRingPut s ten 0 bs with
      | (s1, .ok none) => s1
      | (s1, .wait) => s1
      | (s1, .bad _ _ _) => faultFlush n (recordFailed (setFaultQueue s1 ten q) ten bs) ten
      | (s1, .ok (some (_, va))) => faultFlush n (recordWritten (setFaultQueue s1 ten q) ten bs va) ten

/-- The next record sequence number of a tenancy (R364). DESIGN CHOICE (log entry 7). -/
def recSeq (s : State) (ten : Nat) : Nat := tabGet (fun _ => 0) s.faultSeq ten
/-- `s` with it used. -/
def bumpSeq (s : State) (ten : Nat) : State :=
  { s with faultSeq := tabSet (fun _ => 0) s.faultSeq ten ((recSeq s ten + 1) % 2 ^ 24) }

/-- A record of the tenancy's fault ring that freezes nothing (CLASS 01). -/
def tenRecord (s : State) (r : Rec) : State := faultPut (bumpSeq s r.ten) r.ten (recBytes { r with seq := recSeq s r.ten })

/-- Stimuli held for the quarantine queue of a tenancy. -/
def quarQueue (s : State) (ten : Nat) : List (Stim × RecordBytes × Bool) := tabGet (fun _ => []) s.quarWait ten
/-- `s` with them. -/
def setQuarQueue (s : State) (ten : Nat) (q : List (Stim × RecordBytes × Bool)) : State :=
  { s with quarWait := tabSet (fun _ => []) s.quarWait ten q }

/-- The causes whose records carry in AUX [31:0] the place of their stimulus (R365). -/
def namesPlace (cause : Nat) : Bool :=
  (decide (0x210 ≤ cause) && decide (cause ≤ 0x216)) || (decide (0x3D0 ≤ cause) && decide (cause ≤ 0x3D2)) || cause == 0x245 ||
    cause == 0x3C7
/-- A record that says at which PROD its stimulus was placed: in AUX [31:0] (R365), or for causes 0x300 to 0x303 in ADDR where that
carries no address (R308). A refusal of R31 that names no other object has as its object the packet itself, at its place `va` in the
quarantine queue. DEDUCED (log entry 186). -/
def withPlace (bs : List Byte) (prod va : Nat) : List Byte :=
  let cause := bitsOf (recDbl bs 0) 63 54
  let addr := if 0x210 ≤ cause ∧ cause ≤ 0x216 ∧ recDbl bs 4 = 0 then va else recDbl bs 4
  if namesPlace cause then bs.take 32 ++ leBytes 8 addr ++ leBytes 8 (putBits (recDbl bs 5) 31 0 prod) ++ bs.drop 48
  else if 0x300 ≤ cause ∧ cause ≤ 0x303 ∧ recDbl bs 4 = 0 then bs.take 32 ++ leBytes 8 prod ++ bs.drop 40
  else bs
/-- The record of a quarantined stimulus put in the fault ring (R365). -/
def quarRecord (s : State) (ten : Nat) (bs : List Byte) (prod va : Nat) : State :=
  faultPut (bumpSeq s ten) ten (withPlace (leBytes 8 (putBits (recDbl bs 0) 23 0 (recSeq s ten)) ++ bs.drop 8) prod va)
/-- The record of a quarantine entry that could not be written; the stimulus is held (R363). DEDUCED (log entry 201). -/
def quarFailed (s : State) (ten : Nat) (bs : List Byte) : State :=
  eventPut s (ten + 1) (recAs bs 0x3C1 (bitsOf (recDbl bs 0) 49 48) (1024 + bitsOf (recDbl bs 0) 63 54)) false

/-- A refused stimulus to the quarantine queue with its record (R21, R363). A refused fault stimulus escalates (R369). -/
def quarantine (s : State) (st : Stim) (r : Rec) : State :=
  let ten := r.ten
  let bs := recBytes r
  let stew := stimKind st.bytes == 0xF4 && stimSource st.bytes == 3 && (r.cause == 0x210 || r.cause == 0x211 || r.cause == 0x213) &&
    !stewardOut s ten
  let s0 :=
    if stew then
      match tabFind s.records (2 ^ 24 * ten + stimDbl st.bytes 8 % 2 ^ 24) with
      | some f => escalate s ten f.bytes
      | none => s
    else s
  let hold := fun (s : State) (told : Bool) =>
    pushEvOnce (setQuarQueue s ten (quarQueue s ten ++ [(st, bs, told)])) .quarantineFlush
  if !(quarQueue s0 ten).isEmpty then hold s0 false
  else match memRingPut s0 ten 1 (padTo 256 st.bytes) with
    | (s1, .ok none) =>
      let s2 := hold s1 false
      if (memRing s1 ten 1).1 then eventSend s2 (ten + 1) { recOf 0x3C3 with ten := ten } else s2
    | (s1, .wait) => hold s1 false
    | (s1, .bad _ _ _) => hold (quarFailed s1 ten bs) true
    | (s1, .ok (some (prod, va))) => quarRecord s1 ten bs (prod % 2 ^ 32) va

/-- The held stimuli that a quarantine queue now takes; `n` bounds their number. -/
def quarFlush (n : Nat) (s : State) (ten : Nat) : State :=
  match n with
  | 0 => s
  | n + 1 =>
    match quarQueue s ten with
    | [] => s
    | (st, bs, told) :: q =>
      match memRingPut s ten 1 (padTo 256 st.bytes) with
      | (s1, .ok none) => s1
      | (s1, .wait) => s1
      | (s1, .bad _ _ _) => if told then s1 else setQuarQueue (quarFailed s1 ten bs) ten ((st, bs, true) :: q)
      | (s1, .ok (some (prod, va))) =>
        let s2 := setQuarQueue s1 ten q
        quarFlush n (if told then s2 else quarRecord s2 ten bs (prod % 2 ^ 32) va) ten

/-- A fault with nothing to say but its cause. -/
def noInfo : FaultInfo :=
  { member := 0, iter := 0, inst := 0xFF, word := 0, sb := 0, engine := none, tid := 0, ntok := 0, addr := 0, aux := 0, items := [],
    block := 0 }
/-- A fault with an address and AUX. -/
def infoAt (addr aux : Nat) : FaultInfo := { noInfo with addr := BitVec.ofNat 64 addr, aux := BitVec.ofNat 64 aux }

/-- The causes whose records list no tokens (R365). -/
def listsNone (cause : Nat) : Bool :=
  cause == 0x041 || (decide (0x100 ≤ cause) && decide (cause ≤ 0x105)) || (decide (0x300 ≤ cause) && decide (cause ≤ 0x303)) ||
    (decide (0x380 ≤ cause) && decide (cause ≤ 0x387))

/-- The head stimulus and agent of member `m` of a step. -/
def memberAt (s : State) (stp m : Nat) : Option Member :=
  match stepAt s stp with
  | none => none
  | some r => (r.members.drop m).head?

/-- The tokens that wait in a context, those that are not due yet at a stream among them (R121, R184). -/
def ctxWaiting (x : Ctx) : List Token := x.waiting ++ x.streams.flatMap fun e => e.2.late.filterMap (·.a)

/-- The record of a fault of a context (R364, R365). -/
def faultRecord (s : State) (x : Ctx) (cause seq : Nat) (i : FaultInfo) : Rec :=
  let here := (ctxWaiting x).filter fun t => t.inst == i.inst
  let list := i.items.isEmpty && i.engine.isNone && !listsNone cause && decide (i.inst < 128)
  let plane := match x.region with
    | some r => regionPlane r
    | none => 0
  let placed := i.engine.isNone && decide (i.inst < 128) && x.region.isSome
  { cause := cause, ten := x.ten, cls := 0, press := x.press, tag := x.tag, sp := x.spawned, n := x.n, seq := seq,
    agent := match memberAt s x.stp 0 with
      | some m => m.agent
      | none => 0
    member := i.member, iter := i.iter, inst := i.inst,
    pecol := if placed then peColumn x.image (x.region.getD 0) i.inst else 0,
    perow := if placed then peRow x.image i.inst else 0,
    block := if i.block = 0 then x.block else i.block,
    word := if i.word = 0 && decide (i.inst < 128) then (blkWordAt x.image i.inst).toNat else i.word.toNat,
    sb := i.sb.toNat, engine := i.engine, tid := i.tid,
    ntok := if list then here.length else i.ntok,
    addr := i.addr.toNat, aux := i.aux.toNat,
    items := if list then (here.take 8).map (tokenDouble x.tag plane true) else i.items.map (·.toNat) }

/-- Whether an impression holds a member whose head stimulus is a fault stimulus (R369). -/
def servesFault (s : State) (stp : Nat) : Bool :=
  match stepAt s stp with
  | none => false
  | some r => r.members.any fun m => stimKind m.stim.bytes == 0xF4

/-- Work of a frozen context kept until it thaws (R359). -/
def parkWork (s : State) (c : Nat) (w : Work) : State := modCtx s c fun x => { x with parked := x.parked ++ [w] }

/-- TAKING A FAULT (R357 to R369): the context freezes, its record is written, and the steward is told, or the fault escalates.
`again` is what is done once at resume. A condition that arises while the context is frozen already writes no record: its work
is held (R361). -/
def takeFault (s : State) (c cause : Nat) (i : FaultInfo) (again : Option Work) : State :=
  match ctxAt s c with
  | none => s
  | some x =>
    if x.frozen.isSome then
      match again with
      | none => s
      | some w => parkWork s c w
    else
      let seq := recSeq s x.ten
      let bs := recBytes (faultRecord s x cause seq i)
      let s1 := bumpSeq s x.ten
      let s2 := setCtx s1 c { x with frozen := some { cause := BitVec.ofNat 10 cause, seq := seq, again := again, since := s.now } }
      let s3 := { s2 with records := tabPut s2.records (2 ^ 24 * x.ten + seq) { ctx := c, va := 0, bytes := bs, done := false } }
      if servesFault s3 x.stp then escalate s3 x.ten bs else faultPut s3 x.ten bs

/-- Whether a context is frozen; one that does not exist counts as frozen. -/
def ctxFrozen (s : State) (c : Nat) : Bool :=
  match ctxAt s c with
  | none => true
  | some x => x.frozen.isSome

/-- Counts an event of a context (R392): its live count stops at 2^32 - 1, and is to be swept while the Counter Area is valid (R393). DEDUCED
(log entry 181). -/
def ctxCount (s : State) (c e k : Nat) : State :=
  match ctxAt s c with
  | none => s
  | some x =>
    let v := tabGet (fun _ => 0) x.counts e + k
    let s1 := setCtx s c { x with counts := tabSet (fun _ => 0) x.counts e (if v < 2 ^ 32 then v else 2 ^ 32 - 1) }
    if csrBits s 0x3F0 0 0 = 1 then pushEvOnce s1 (.counterSweep c e) else s1

/-- The work done once more at resume, not checked against the cause that stopped it (R367). -/
def waived (cause : BitVec 10) : Work → Work
  | .fire f => .fire { f with waive := some cause }
  | w => w

/-- What the freeze of a context held goes on: its accesses and its engine operations, not checked against the cause. DESIGN CHOICE (log
entry 101). -/
def freeHeld (s : State) (c : Nat) (x : Ctx) (cause : BitVec 10) : State :=
  let s1 := { s with
    accesses := mapWhere (fun a => a.ctx == c && a.held) (fun a => { a with held := false, waive := some cause }) s.accesses }
  let held := fun (o : EngOp) => o.ctx == c && o.held
  let free := fun (o : EngOp) => if held o then { o with held := false, waive := some cause } else o
  let p := pressAt s1 x.press
  if p.running.any held || (p.units.any fun u => held u.2.op) || (p.queues.any fun q => q.2.any held) then
    setPress s1 x.press { p with running := p.running.map free, units := p.units.map fun u => (u.1, { u.2 with op := free u.2.op }),
                                 queues := p.queues.map fun q => (q.1, q.2.map free) }
  else s1
/-- The work that a freeze left to be done once at resume. -/
def againOf (z : Frozen) : List Work :=
  match z.again with
  | none => []
  | some w => [waived z.cause w]

/-- THE RETURN FROM A FAULT (R367, resume): the context thaws, the faulted work is done once, and what was parked returns in its
order. Time frozen does not count for Block Watch (R140). -/
def thaw (s : State) (c : Nat) : State :=
  match ctxAt s c with
  | none => s
  | some x =>
    match x.frozen with
    | none => s
    | some z =>
      let lost := s.now - z.since
      let s1 := freeHeld (setCtx s c { x with frozen := none, parked := [], startedAt := x.startedAt + lost }) c x z.cause
      ctxCount { s1 with queue := againOf z ++ x.parked ++ s1.queue } c 0x008 (cyclesOf lost)
/-- The same of a context that keeps its freeze in a Proof (R372): its work goes on once it is restored. -/
def thawSaved (s : State) (c : Nat) : State :=
  match ctxAt s c with
  | none => s
  | some x => match x.refreeze with
    | none => s
    | some z => freeHeld (setCtx s c { x with refreeze := none, parked := againOf z ++ x.parked }) c x z.cause

/-- TAKING A TRAP AND RETURNING FROM ONE (R320): where a commit goes that a `trap` or `tret` diverts (all ones for the end of the step),
and the trap state that it leaves. `normal` is the successor that the exit chose. None where TRA is illegal (R321). DEDUCED (log entry
75). -/
def trapTarget (s : State) (x : Ctx) (normal : Nat) (d : Divert) : Option (Ctx × Nat) :=
  let back := fun (v : Nat) => ({ x with th := false }, if v = 2 ^ 64 - 1 then v else v % 2 ^ 56 / 16 * 16)
  match d with
  | .trap n =>
    some ({ x with th := true, tnum := n, tra := BitVec.ofNat 64 normal }, bitsOf (csrGet s (0x480 + x.ten)).toNat 55 4 * 16)
  | .tret =>
    let v := x.tra.toNat
    if v ≠ 2 ^ 64 - 1 ∧ (bitsOf v 63 56 ≠ 0 ∨ bitsOf v 3 0 ≠ 0) then none else some (back v)
  | .tretAny => some (back x.tra.toNat)

end Sys2Proof.Machine
end

