-- ==== Sys2Proof/Machine/Numeric.lean ====
section
/-! DEFINITION. Number formats and exact arithmetic (R32 to R44): decoding every pattern to an exact value, and rounding
an exact value once into a type. -/

namespace Sys2Proof.Machine

/-- Sideband bits (R47): [4] NR, [3] SA, [2] TI, [1] IX, [0] DZ. -/
abbrev Bits5 := BitVec 5

/-- NaR or NaN produced. -/
def sbNR : Bits5 := 0b10000
/-- Saturation or IEEE overflow. -/
def sbSA : Bits5 := 0b01000
/-- Clamped to minpos, or IEEE underflow. -/
def sbTI : Bits5 := 0b00100
/-- Inexact. -/
def sbIX : Bits5 := 0b00010
/-- Division by zero. -/
def sbDZ : Bits5 := 0b00001

/-- A bit under a condition. -/
def sbIf (c : Bool) (b : Bits5) : Bits5 := if c then b else 0

/-- Bits of a type (R161). -/
def tyBits : Ty → Nat
  | .i8 | .n8 | .t8 | .d8 => 8
  | .i16 | .n16 | .t16 | .bf16 => 16
  | .i32 | .n32 | .t32 | .f32 => 32
  | .i64 | .n64 => 64

/-- Signed integer types. -/
def tySigned : Ty → Bool
  | .i8 | .i16 | .i32 | .i64 => true
  | _ => false

/-- Tapered types. -/
def tyTapered : Ty → Bool
  | .t8 | .t16 | .t32 => true
  | _ => false

/-- IEEE types. -/
def tyIeee : Ty → Bool
  | .bf16 | .f32 => true
  | _ => false

/-- Fraction bits of the IEEE types. -/
def tyFrac : Ty → Nat
  | .bf16 => 7
  | _ => 23

/-- What a pattern stands for: `nan` is NaR or a NaN; a finite value is (-1)^neg x m x 2^e. -/
inductive Val where
  | nan
  | inf (neg : Bool)
  | fin (neg : Bool) (m : Nat) (e : Int)
  deriving DecidableEq, Repr

/-- A pattern of a result with the bits its making set. -/
abbrev Res := Nat × Bits5

/-- Number of bits of `m`, 0 for 0. -/
def bitLen (m : Nat) : Nat := if m = 0 then 0 else Nat.log2 m + 1

/-- Count of equal bits `b` of `p` from bit `i - 1` downwards. -/
def runLen (p : Nat) (b : Nat) (i : Nat) : Nat :=
  match i with
  | 0 => 0
  | i + 1 => if bitsOf p i i = b then runLen p b i + 1 else 0

/-- `decode_t` (R32). -/
def decodeT (n p : Nat) : Val :=
  let p := p % 2 ^ n
  if p = 0 then .fin false 0 0
  else if p = 2 ^ (n - 1) then .nan
  else
    let s := decide (2 ^ (n - 1) ≤ p)
    let q := if s then 2 ^ n - p else p
    let b := bitsOf q (n - 2) (n - 2)
    let k := runLen q b (n - 1)
    let rg : Int := if b = 1 then (k : Int) - 1 else -(k : Int)
    let left := n - 1 - k - 1
    let rest := q % 2 ^ left
    let e : Nat := if 2 ≤ left then rest / 2 ^ (left - 2) else rest * 2 ^ (2 - left)
    let fbits := left - 2
    let f := rest % 2 ^ fbits
    .fin s (2 ^ fbits + f) (4 * rg + e - fbits)

/-- An IEEE pattern of 8 exponent bits and `frac` fraction bits (R38). -/
def decodeF (frac p : Nat) : Val :=
  let s := decide (bitsOf p (frac + 8) (frac + 8) = 1)
  let x := bitsOf p (frac + 7) frac
  let f := p % 2 ^ frac
  if x = 255 then (if f = 0 then .inf s else .nan)
  else if x = 0 then .fin s f (-126 - frac)
  else .fin s (2 ^ frac + f) ((x : Int) - 127 - frac)

/-- One term of a D8 byte in units of 2^-6 (R42): sign bit and code. -/
def d8Term (s c : Nat) : Int := if c = 7 then 0 else if s = 1 then -(2 ^ (6 - c) : Nat) else (2 ^ (6 - c) : Nat)

/-- The value of a D8 byte in units of 2^-6 (R42). -/
def d8Units (p : Nat) : Int := d8Term (bitsOf p 7 7) (bitsOf p 6 4) + d8Term (bitsOf p 3 3) (bitsOf p 2 0)

/-- An integer as an exact value. -/
def ofInt (v : Int) : Val := .fin (decide (v < 0)) v.natAbs 0

/-- The integer that a pattern of an integer type stands for (R40). -/
def intOf (ty : Ty) (p : Nat) : Int := if tySigned ty then signed (tyBits ty) p else (p % 2 ^ tyBits ty : Nat)

/-- What a pattern of any type stands for. -/
def valOf (ty : Ty) (p : Nat) : Val :=
  match ty with
  | .t8 => decodeT 8 p
  | .t16 => decodeT 16 p
  | .t32 => decodeT 32 p
  | .bf16 => decodeF 7 p
  | .f32 => decodeF 23 p
  | .d8 => let u := d8Units p; .fin (decide (u < 0)) u.natAbs (-6)
  | _ => ofInt (intOf ty p)

/-- `m` shifted right by `k`, rounded to nearest even; `st` says that the exact value lies above `m` by less than one.
The second part says whether the rounding is inexact. -/
def rne (m k : Nat) (st : Bool) : Nat × Bool :=
  let q := m >>> k
  if k = 0 then (q, st)
  else
    let g := decide (bitsOf m (k - 1) (k - 1) = 1)
    let low := st || decide (m % 2 ^ (k - 1) ≠ 0)
    (if g && (low || decide (q % 2 = 1)) then q + 1 else q, g || low)

/-- `encode_t` (R34) of a nonzero value (-1)^neg x (m + sticky) x 2^e. -/
def roundT (n : Nat) (neg : Bool) (m : Nat) (e : Int) (st : Bool) : Res :=
  let l := bitLen m - 1
  let scale := e + l
  let top : Int := 4 * ((n : Int) - 2)
  let f := m - 2 ^ l
  let out (q : Nat) : Nat := if neg then (2 ^ n - q) % 2 ^ n else q
  if top < scale ∨ (scale = top ∧ (f ≠ 0 ∨ st)) then (out (2 ^ (n - 1) - 1), sbSA ||| sbIX)
  else if scale < -top then (out 1, sbTI ||| sbIX)
  else
    let rg := scale / 4
    let ee := (scale % 4).toNat
    let reg : Nat × Nat :=
      if 0 ≤ rg then (2 * (2 ^ (rg.toNat + 1) - 1), rg.toNat + 2) else (1, (-rg).toNat + 1)
    let bits := ((reg.1 * 4 + ee) * 2 ^ l + f) * 2 ^ (n + 1)
    let len := reg.2 + 2 + l + (n + 1)
    let r := rne bits (len - (n - 1)) st
    (out r.1, sbIf r.2 sbIX)

/-- Infinity of an IEEE type. -/
def ieeeInf (frac : Nat) (neg : Bool) : Nat := (if neg then 2 ^ (frac + 8) else 0) + 255 * 2 ^ frac

/-- Rounding to an IEEE type (R38) of a nonzero value (-1)^neg x (m + sticky) x 2^e. -/
def roundF (frac : Nat) (neg : Bool) (m : Nat) (e : Int) (st : Bool) : Res :=
  let sgn := if neg then 2 ^ (frac + 8) else 0
  let scale := e + (bitLen m - 1 : Nat)
  if 128 ≤ scale then (ieeeInf frac neg, sbSA ||| sbIX)
  else if scale < -(160 : Int) then (sgn, sbTI ||| sbIX)
  else
    let q : Int := max (scale - frac) (-126 - frac)
    let r := if e < q then rne m (q - e).toNat st else (m * 2 ^ (e - q).toNat, st)
    let free := if e < scale - frac then (rne m (scale - frac - e).toNat st).1 else m * 2 ^ (e - (scale - frac)).toNat
    let tiny := decide (scale < -126) && !(decide (scale = -127) && decide (2 ^ (frac + 1) ≤ free))
    let x : Int := q + 126 + frac
    let pat := (x.toNat * 2 ^ frac + r.1)
    if 255 * 2 ^ frac ≤ pat then (ieeeInf frac neg, sbSA ||| sbIX)
    else (sgn + pat, sbIf r.2 sbIX ||| sbIf (tiny && r.2) sbTI)

/-- The pattern of NaR or of the canonical quiet NaN (R33, R38). -/
def nanOf (ty : Ty) : Nat :=
  match ty with
  | .t8 => 0x80
  | .t16 => 0x8000
  | .t32 => 0x80000000
  | .bf16 => 0x7FC0
  | .f32 => 0x7FC00000
  | _ => 0

/-- NaR or NaN as a result, which sets NR (R35, R38). -/
def nanRes (ty : Ty) : Res := (nanOf ty, sbNR)

/-- Zero: a tapered type has one, an IEEE type keeps the sign. -/
def zeroOf (ty : Ty) (neg : Bool) : Nat := if tyIeee ty && neg then 2 ^ (tyFrac ty + 8) else 0

/-- An exact value, with a sticky part, rounded once into a tapered or IEEE type. -/
def roundTo (ty : Ty) (neg : Bool) (m : Nat) (e : Int) (st : Bool) : Res :=
  if m = 0 then (zeroOf ty neg, 0)
  else if tyTapered ty then roundT (tyBits ty) neg m e st else roundF (tyFrac ty) neg m e st

/-- Any value into a tapered or IEEE type: an infinity is NaR with NR in a tapered type (R44). -/
def intoFloat (ty : Ty) : Val → Res
  | .nan => nanRes ty
  | .inf neg => if tyIeee ty then (ieeeInf (tyFrac ty) neg, 0) else nanRes ty
  | .fin neg m e => roundTo ty neg m e false

/-- The least and the greatest value of an integer type. -/
def intRange (ty : Ty) : Int × Int :=
  if tySigned ty then (-(2 ^ (tyBits ty - 1) : Nat), (2 ^ (tyBits ty - 1) : Nat) - 1) else (0, (2 ^ tyBits ty : Nat) - 1)

/-- An integer clamped to a type's range, with SA if it was clamped (R40). -/
def clampInt (ty : Ty) (v : Int) : Res :=
  let r := intRange ty
  if v < r.1 then (wrap (tyBits ty) r.1, sbSA)
  else if r.2 < v then (wrap (tyBits ty) r.2, sbSA)
  else (wrap (tyBits ty) v, 0)

/-- A value rounded to nearest even and clamped into an integer type (R44). -/
def intoInt (ty : Ty) : Val → Res
  | .nan => (0, sbNR)
  | .inf neg => clampInt ty (if neg then (intRange ty).1 - 1 else (intRange ty).2 + 1)
  | .fin neg m e =>
    if 0 ≤ e then
      clampInt ty (if neg then -(m * 2 ^ e.toNat : Nat) else (m * 2 ^ e.toNat : Nat))
    else
      let r := rne m (-e).toNat false
      let c := clampInt ty (if neg then -(r.1 : Int) else r.1)
      (c.1, c.2 ||| sbIf r.2 sbIX)

/-- `cvt` of one element (R44, R179). -/
def cvtElem (dst src : Ty) (p : Nat) : Res :=
  let p := p % 2 ^ tyBits src
  if dst = src then (match valOf src p with | .nan => nanRes dst | _ => (p, 0))
  else if tyTapered dst || tyIeee dst then intoFloat dst (valOf src p)
  else intoInt dst (valOf src p)

/-! Floating and tapered arithmetic (R176): the exact result, rounded once. -/

/-- A value with its sign changed. -/
def negVal : Val → Val
  | .nan => .nan
  | .inf s => .inf (!s)
  | .fin s m e => .fin (!s) m e

/-- The exact sum of two finite values, at the lower exponent; its sign is known by the caller where it is zero. -/
def sumFin (s : Bool) (m : Nat) (e : Int) (t : Bool) (n : Nat) (g : Int) : Int × Int :=
  let lo := if m = 0 then g else if n = 0 then e else min e g
  let x : Int := m * 2 ^ (e - lo).toNat
  let y : Int := n * 2 ^ (g - lo).toNat
  ((if s then -x else x) + (if t then -y else y), lo)

/-- Sum, rounded once into `ty`. An exact zero is +0 unless both parts are negative zeros. -/
def addVal (ty : Ty) (a b : Val) : Res :=
  match a, b with
  | .nan, _ | _, .nan => nanRes ty
  | .inf s, .inf t => if s = t then intoFloat ty (.inf s) else nanRes ty
  | .inf s, _ => intoFloat ty (.inf s)
  | _, .inf t => intoFloat ty (.inf t)
  | .fin s m e, .fin t n g =>
    let r := sumFin s m e t n g
    if r.1 = 0 then (zeroOf ty (s && t && decide (m = 0) && decide (n = 0)), 0)
    else roundTo ty (decide (r.1 < 0)) r.1.natAbs r.2 false

/-- The exact product. -/
def mulVal (a b : Val) : Val :=
  match a, b with
  | .nan, _ | _, .nan => .nan
  | .inf s, .inf t => .inf (s != t)
  | .inf s, .fin t n _ => if n = 0 then .nan else .inf (s != t)
  | .fin s m _, .inf t => if m = 0 then .nan else .inf (s != t)
  | .fin s m e, .fin t n g => .fin (s != t) (m * n) (e + g)

/-- `add` of one element. -/
def fAdd (ty : Ty) (x y : Nat) : Res := addVal ty (valOf ty x) (valOf ty y)
/-- `sub` of one element. -/
def fSub (ty : Ty) (x y : Nat) : Res := addVal ty (valOf ty x) (negVal (valOf ty y))
/-- `mul` of one element. -/
def fMul (ty : Ty) (x y : Nat) : Res := intoFloat ty (mulVal (valOf ty x) (valOf ty y))
/-- `fma` of one element: one rounding after the addition. -/
def fFma (ty : Ty) (x y z : Nat) : Res := addVal ty (mulVal (valOf ty x) (valOf ty y)) (valOf ty z)
/-- `fms` of one element. -/
def fFms (ty : Ty) (x y z : Nat) : Res := addVal ty (mulVal (valOf ty x) (valOf ty y)) (negVal (valOf ty z))

/-- `min` or `max` of integers and tapered patterns as integers of the type's order (R36), or of IEEE values (R39). -/
def fMinMax (ty : Ty) (wantMax : Bool) (x y : Nat) : Res :=
  if tyTapered ty then
    let less := decide (signed (tyBits ty) x < signed (tyBits ty) y)
    let r := if less = wantMax then y else x
    (r % 2 ^ tyBits ty, sbIf (decide (r % 2 ^ tyBits ty = nanOf ty)) sbNR)
  else
    match valOf ty x, valOf ty y with
    | .nan, _ | _, .nan => nanRes ty
    | _, _ =>
      let w := tyBits ty
      let key (p : Nat) : Int := let q := p % 2 ^ w; if 2 ^ (w - 1) ≤ q then -(q - 2 ^ (w - 1) : Nat) - 1 else (q : Nat)
      let less := decide (key x < key y)
      ((if less = wantMax then y else x) % 2 ^ w, 0)

/-- `abs` or `neg` of one element (R177). -/
def fSign (ty : Ty) (isAbs : Bool) (x : Nat) : Res :=
  let w := tyBits ty
  match valOf ty x with
  | .nan => nanRes ty
  | _ =>
    if tyTapered ty then
      let v := signed w x
      (wrap w (if isAbs then (v.natAbs : Int) else -v), 0)
    else
      let q := x % 2 ^ w
      let neg := decide (2 ^ (w - 1) ≤ q)
      if isAbs then (q % 2 ^ (w - 1), 0) else (if neg then q - 2 ^ (w - 1) else q + 2 ^ (w - 1), 0)

/-- The order of two values (R36, R39): none where they are unordered. -/
def fOrder (ty : Ty) (x y : Nat) : Option Ordering :=
  if tyTapered ty then some (compare (signed (tyBits ty) x) (signed (tyBits ty) y))
  else
    match valOf ty x, valOf ty y with
    | .nan, _ | _, .nan => none
    | .inf s, .inf t => some (if s = t then .eq else if s then .lt else .gt)
    | .inf s, _ => some (if s then .lt else .gt)
    | _, .inf t => some (if t then .gt else .lt)
    | .fin s m e, .fin t n g => some (compare (sumFin s m e (!t) n g).1 0)

/-- `scale.apply` or `scale.strip` of one element: x x 2^k rounded once (R181). -/
def fScale (ty : Ty) (x : Nat) (k : Int) : Res :=
  match valOf ty x with
  | .nan => nanRes ty
  | .inf s => intoFloat ty (.inf s)
  | .fin s m e => roundTo ty s m (e + k) false

/-! Integer arithmetic (R165). -/

/-- Truncating quotient and remainder with DZ on a zero divisor (R41). -/
def intDivRem (ty : Ty) (x y : Int) : (Int × Int) × Bits5 :=
  if y = 0 then ((0, x), sbDZ) else ((wrap (tyBits ty) (Int.tdiv x y), Int.tmod x y), 0)

end Sys2Proof.Machine
end

