-- ==== Sys2Proof/Machine/Special.lean ====
section
/-! DEFINITION. The special functions (R182): a value good to far more bits than any rounding looks at, then one rounding.
A result that is not exact is irrational, so it carries the sticky part. -/

namespace Sys2Proof.Machine

/-- Working precision in bits. -/
def spBits : Nat := 256
/-- ln 2 in units of 2^-256. -/
def spLn2 : Nat := 0xb17217f7d1cf79abc9e3b39803f2f6af40f343267298b62d8a0d175b8baafa2b
/-- 1 / ln 2 in units of 2^-256. -/
def spInvLn2 : Nat := 0x171547652b82fe1777d0ffda0d23a7d11d6aef551bad2b4b1164a2cd9a342648f

/-- The sum of t^i / i! from the term `term` at `i` on, in units of 2^-256. -/
def expSeries (t term i : Nat) (fuel : Nat) : Nat :=
  match fuel with
  | 0 => term
  | fuel + 1 => term + expSeries t (term * t / 2 ^ spBits / i) (i + 1) fuel

/-- 2^f for f in units of 2^-256 below 1, in the same units. -/
def pow2Frac (f : Nat) : Nat := expSeries (f * spLn2 / 2 ^ spBits) (2 ^ spBits) 1 70

/-- The sum of t^(2j+1) / (2j+1) from the power `p` at `i` on. -/
def atanhSeries (t2 p i : Nat) (fuel : Nat) : Nat :=
  match fuel with
  | 0 => 0
  | fuel + 1 => p / i + atanhSeries t2 (p * t2 / 2 ^ spBits) (i + 2) fuel

/-- log2 of z / 2^l for z from 2^l up to 2^(l+1), in units of 2^-256. -/
def log2Mant (z l : Nat) : Nat :=
  let t := (z - 2 ^ l) * 2 ^ spBits / (z + 2 ^ l)
  2 * atanhSeries (t * t / 2 ^ spBits) t 1 90 * spInvLn2 / 2 ^ spBits

/-- The integer square root, one bit at a time from bit `b - 1`. -/
def isqrtFrom (n r : Nat) (b : Nat) : Nat :=
  match b with
  | 0 => r
  | b + 1 => if (r + 2 ^ b) * (r + 2 ^ b) ≤ n then isqrtFrom n (r + 2 ^ b) b else isqrtFrom n r b

/-- The integer square root. -/
def isqrt (n : Nat) : Nat := isqrtFrom n 0 (bitLen n / 2 + 1)

/-- An approximated value of a special function, before rounding; `exact` says that no sticky part is left. -/
structure Approx where
  neg : Bool
  m : Nat
  e : Int
  st : Bool
  deriving DecidableEq, Repr

/-- The magnitude |x| / ln 2 x `mul` as a whole part and a fraction in units of 2^-256. -/
def scaledLog (m : Nat) (e : Int) (factor : Nat) : Nat × Nat :=
  let v := m * factor * spInvLn2
  let u := if 0 ≤ e then v * 2 ^ e.toNat else v / 2 ^ (-e).toNat
  (u / 2 ^ spBits, u % 2 ^ spBits)

/-- e^-|x x factor| as G x 2^(-n-256), with G from 2^255 up to 2^256. -/
def expNeg (m : Nat) (e : Int) (factor : Nat) : Nat × Nat :=
  let u := scaledLog m e factor
  if u.2 = 0 then (2 ^ spBits, u.1) else (pow2Frac (2 ^ spBits - u.2), u.1 + 1)

/-- 2^x (R182). -/
def exp2Approx (s : Bool) (m : Nat) (e : Int) : Approx :=
  if 12 < e + bitLen m then ⟨false, 1, if s then -5000 else 5000, true⟩
  else if 0 ≤ e then ⟨false, 1, if s then -(m * 2 ^ e.toNat : Nat) else (m * 2 ^ e.toNat : Nat), false⟩
  else
    let k := (-e).toNat
    let v : Int := if s then -(m : Int) else m
    let n := v / (2 ^ k : Nat)
    let f := (v % (2 ^ k : Nat)).toNat
    if f = 0 then ⟨false, 1, n, false⟩ else ⟨false, pow2Frac (f * 2 ^ spBits / 2 ^ k), n - spBits, true⟩

/-- log2 of a positive value (R182). -/
def log2Approx (m : Nat) (e : Int) : Approx :=
  let l := bitLen m - 1
  let n := e + l
  if m = 2 ^ l then ⟨decide (n < 0), n.natAbs, 0, false⟩
  else
    let v := n * (2 ^ spBits : Nat) + log2Mant m l
    ⟨decide (v < 0), v.natAbs, -spBits, true⟩

/-- 1 / x. -/
def rcpApprox (s : Bool) (m : Nat) (e : Int) : Approx :=
  ⟨s, 2 ^ 400 / m, -400 - e, decide (2 ^ 400 % m ≠ 0)⟩

/-- 1 / sqrt x of a positive value. -/
def rsqrtApprox (m : Nat) (e : Int) : Approx :=
  let m := if e % 2 = 0 then m else 2 * m
  let e := if e % 2 = 0 then e else e - 1
  let r := isqrt (2 ^ 800 / m)
  ⟨false, r, -400 - e / 2, decide (r * r * m ≠ 2 ^ 800)⟩

/-- 1 / (1 + e^-x). -/
def sigmApprox (s : Bool) (m : Nat) (e : Int) : Approx :=
  if m = 0 then ⟨false, 1, -1, false⟩
  else if 12 < e + bitLen m then if s then ⟨false, 1, -5000, true⟩ else ⟨false, 2 ^ spBits - 1, -spBits, true⟩
  else
    let t := expNeg m e 1
    if s then ⟨false, t.1 * 2 ^ spBits / (2 ^ spBits + t.1 / 2 ^ t.2), -(t.2 : Int) - spBits, true⟩
    else
      let v := 2 ^ (2 * spBits) / (2 ^ spBits + t.1 / 2 ^ t.2)
      ⟨false, if v = 2 ^ spBits then v - 1 else v, -spBits, true⟩

/-- The hyperbolic tangent. -/
def tanhApprox (s : Bool) (m : Nat) (e : Int) : Approx :=
  if e + bitLen m < -60 then ⟨s, m * 2 ^ 200 - 1, e - 200, true⟩
  else if 12 < e + bitLen m then ⟨s, 2 ^ spBits - 1, -spBits, true⟩
  else
    let t := expNeg m e 2
    let q := t.1 / 2 ^ t.2
    let v := (2 ^ spBits - q) * 2 ^ spBits / (2 ^ spBits + q)
    ⟨s, if v = 2 ^ spBits then v - 1 else v, -spBits, true⟩

/-- The functions of opcode 0x15, in its order. -/
inductive SpFn where
  | exp2 | log2 | rcp | rsqrt | sigm | tanh
  deriving DecidableEq, Repr

/-- Rounds an approximation into a type. -/
def roundApprox (ty : Ty) (a : Approx) : Res := roundTo ty a.neg a.m a.e a.st

/-- A result that adds bits to a pattern. -/
def withBits (r : Res) (b : Bits5) : Res := (r.1, r.2 ||| b)

/-- A special function of an exact value, rounded once into `ty`; the special cases take precedence (R182). DEDUCED (log entry 21). -/
def spVal (fn : SpFn) (ty : Ty) (v : Val) : Res :=
  match v with
  | .nan => nanRes ty
  | .inf s =>
    match fn with
    | .exp2 => if s then (0, 0) else intoFloat ty (.inf false)
    | .log2 => if s then nanRes ty else intoFloat ty (.inf false)
    | .rcp => (zeroOf ty s, 0)
    | .rsqrt => if s then nanRes ty else (0, 0)
    | .sigm => if s then (0, 0) else roundTo ty false 1 0 false
    | .tanh => roundTo ty s 1 0 false
  | .fin s m e =>
    if m = 0 then
      match fn with
      | .exp2 => roundTo ty false 1 0 false
      | .log2 => if tyTapered ty then withBits (nanRes ty) sbDZ else (ieeeInf (tyFrac ty) true, sbDZ)
      | .rcp => if tyTapered ty then withBits (nanRes ty) sbDZ else (ieeeInf (tyFrac ty) s, sbDZ)
      | .rsqrt => if tyTapered ty then withBits (nanRes ty) sbDZ else (ieeeInf (tyFrac ty) s, sbDZ)
      | .sigm => roundTo ty false 1 (-1) false
      | .tanh => (zeroOf ty s, 0)
    else
      match fn with
      | .exp2 => roundApprox ty (exp2Approx s m e)
      | .log2 => if s then nanRes ty else roundApprox ty (log2Approx m e)
      | .rcp => roundApprox ty (rcpApprox s m e)
      | .rsqrt => if s then nanRes ty else roundApprox ty (rsqrtApprox m e)
      | .sigm => roundApprox ty (sigmApprox s m e)
      | .tanh => roundApprox ty (tanhApprox s m e)

/-- A special function of one element. -/
def spElem (fn : SpFn) (ty : Ty) (x : Nat) : Res := spVal fn ty (valOf ty x)

end Sys2Proof.Machine
end

