-- ==== Sys2Proof/Machine/Flags.lean ====
section
/-! DEFINITION. The sideband bits (R47 to R50, R163): what a firing's own bits make of it, and what a sink does with bits. -/

namespace Sys2Proof.Machine

/-- The bits of an operand; a null carries none (R47). -/
def tokenBits (t : Option Token) : BitVec 5 :=
  match t with
  | none => 0
  | some t => if t.nul then 0 else t.sb
/-- The OR of the bits of a firing's operands (R163). -/
def inputBits (f : Firing) : BitVec 5 := tokenBits f.a ||| tokenBits f.b ||| tokenBits f.c ||| tokenBits f.p

/-- The cause of bits that Exception Enable catches: the lowest code of NR, SA, TI, IX, DZ (R50). -/
def enableCause (hit : BitVec 5) : Option (BitVec 10) :=
  if hit.getLsbD 4 then some 0x080
  else if hit.getLsbD 3 then some 0x081
  else if hit.getLsbD 2 then some 0x082
  else if hit.getLsbD 1 then some 0x083
  else if hit.getLsbD 0 then some 0x084
  else none
/-- The bit that a cause of R50 stands for. -/
def causeBit (cause : BitVec 10) : BitVec 5 :=
  if cause = 0x080 then 0b10000
  else if cause = 0x081 then 0b01000
  else if cause = 0x082 then 0b00100
  else if cause = 0x083 then 0b00010
  else 0b00001
/-- The causes of a firing's own checks in the order in which they are made. -/
def checkOrder : List Nat :=
  [0x092, 0x090, 0x045, 0x11B, 0x218, 0x226, 0x229, 0x310, 0x311, 0x312, 0x11A, 0x044, 0x043, 0x041, 0x042, 0x242, 0x241, 0x243, 0x3C4, 0x131, 0x130, 0x111, 0x181, 0x180, 0x080, 0x280,
   0x227, 0x228, 0x22A, 0x22B, 0x22C]
/-- A cause's place among them, the causes of R50 and the races of R340 each as one. -/
def checkPlace (cause : Nat) : Option Nat :=
  checkOrder.findIdx? fun c => c == if 0x080 ≤ cause ∧ cause ≤ 0x084 then 0x080 else if 0x280 ≤ cause ∧ cause ≤ 0x287 then 0x280 else cause
/-- Whether resumed work has this check behind it: it stopped at the check, or at one made after it (R367). -/
def passed (w : Option (BitVec 10)) (cause : Nat) : Bool :=
  match w.bind fun c => checkPlace c.toNat, checkPlace cause with
  | some i, some j => decide (j ≤ i)
  | _, _ => false

/-- Whether a resumed firing is not checked against Exception Enable (R50, R367). -/
def waivesEnable (w : Option (BitVec 10)) : Bool := passed w 0x080

/-- The OR of a list of own bits. -/
def orBits (l : List (BitVec 5)) : BitVec 5 := l.foldl (· ||| ·) 0

/-- Bits of a token that a sink consumes, into Exception Summary (R48). DESIGN CHOICE (log entry 41). -/
def sinkBits (s : State) (c : Nat) (b : BitVec 5) : State := modCtx s c fun x => { x with esum := x.esum ||| b }

end Sys2Proof.Machine
end

