-- ==== Sys2Proof/Machine/Trace.lean ====
section
/-! DEFINITION. What every firing leaves behind: event 0x000 (R392), its trace record (R395) and its note for the Stylus
(R397). -/

namespace Sys2Proof.Machine

/-- A double at the end of the trace buffer; dropped and counted when it is full (R395). -/
def traceDouble (s : State) (v : Nat) : State :=
  let count := csrBits s 0x3F2 31 0
  let l := csrBits s 0x3F3 4 0
  if count < 2 ^ l then
    let at' := csrBits s 0x3F3 47 12 * 4096 + 8 * count
    csrPoke (hbmFresh (hbmPutDbl s at' v) at' 8) 0x3F2 31 0 (count + 1)
  else devCount s 0x208 1

/-- A trace record whose DT is filled in here, after a time record where one is due (R395). DESIGN CHOICE (log entry 8). -/
def traceRecord (s : State) (v : Nat) (hasDt : Bool) : State :=
  let now := cycleNow s
  let fresh := match s.traceLast with
    | none => true
    | some t => decide (65535 < now - t)
  let s1 := if fresh then { traceDouble s (2 ^ 62 + now % 2 ^ 62) with traceLast := some now } else s
  let dt := now - s1.traceLast.getD now
  { traceDouble s1 (if hasDt then v + dt * 2 ^ 31 else v) with traceLast := some now }

/-- Whether a context is traced (R395). -/
def traced (s : State) (x : Ctx) : Bool :=
  csrBits s 0x3F2 63 63 == 1 && csrBits s 0x3F2 47 40 == x.press && csrBits s 0x3F2 53 50 == x.ten &&
    (csrBits s 0x3F2 62 62 == 0 || csrBits s 0x3F2 61 54 == x.tag)

/-- The firing whose token arrived last, 0 where that token came from a G register, a memory reply or an engine. -/
def lastBorn (f : Firing) : Nat :=
  let t := match f.last with
    | .a => f.a
    | .b => f.b
    | .p => f.p
    | .c => f.c
  match t with
  | none => 0
  | some t => t.born

/-- A firing counted, traced and noted. -/
def noteFiring (s : State) (f : Firing) : State :=
  match ctxAt s f.ctx with
  | none => s
  | some x =>
    let n : Note := { born := f.born, inst := f.inst, iter := f.iter, last := f.last, parent := lastBorn f, wait := f.wait,
                      root := f.a.isNone && f.b.isNone && f.c.isNone && f.p.isNone }
    let s1 := setCtx s f.ctx { x with notes := x.notes ++ [n] }
    let s2 := ctxCount s1 f.ctx 0x000 1
    if traced s x then
      let v := x.tag % 256 * 2 ^ 54 + (f.inst + 128 - x.lastTraced % 128) % 128 * 2 ^ 47 +
        peColumn x.image (x.region.getD 0) f.inst * 2 ^ 27 + peRow x.image f.inst * 2 ^ 23 + f.iter % 65536 * 2 ^ 7 +
        (f.len - 1) % 32 * 2 ^ 2 + portCode f.last
      modCtx (traceRecord s2 v true) f.ctx fun x => { x with lastTraced := f.inst }
    else s2

end Sys2Proof.Machine
end

