-- ==== Sys2Proof/Machine/Operands.lean ====
section
/-! DEFINITION. The operands of a firing and what becomes of its result: fire modes (R118), nulls and EOS (R136, R164), widths
(R161), scale states (R45, R46, R162), runs and delivery (R160), replies of requests, and commit readiness (R128). -/

namespace Sys2Proof.Machine

/-- The operand of a firing on a port. -/
def operand (f : Firing) (q : Port) : Option Token :=
  match q with
  | .a => f.a
  | .b => f.b
  | .p => f.p
  | .c => f.c
/-- The operands present. -/
def operands (f : Firing) : List Token := [f.a, f.b, f.c, f.p].filterMap id
/-- Element `j` of an operand; a standing token gives the same to every iteration (R175). -/
def elemAt (t : Option Token) (j : Nat) : Nat :=
  match t with
  | none => 0
  | some t => (if t.standing then t.vals.headD 0 else t.vals.getD j 0).toNat
/-- Whether every operand is a standing token and there is one (R175). -/
def allStanding (f : Firing) : Bool := !(operands f).isEmpty && (operands f).all (·.standing)
/-- Whether a value operand is null (R118). -/
def nullOperand (f : Firing) : Bool := [f.a, f.b, f.c].any fun t => match t with
  | none => false
  | some t => t.nul

/-- Whether the fire mode is satisfied for element `j` (R118). -/
def modeHolds (m : FireMode) (f : Firing) (j : Nat) : Bool :=
  match m with
  | .always => true
  | .any => match f.p with
    | none => false
    | some p => !p.nul
  | .onTrue => match f.p with
    | none => false
    | some p => !p.nul && elemAt f.p j != 0
  | .onFalse => match f.p with
    | none => false
    | some p => !p.nul && elemAt f.p j == 0
/-- The elements of a firing for which its mode is satisfied. -/
def firedMask (m : FireMode) (f : Firing) : List Bool := (List.range f.len).map (modeHolds m f)
/-- The elements for which it is. -/
def firedElems (m : FireMode) (f : Firing) : List Nat := (List.range f.len).filter (modeHolds m f)
/-- Maximal runs of a mask from position `j`: first element and count. -/
def runsFrom (j : Nat) (mask : List Bool) : List (Nat × Nat) :=
  match mask with
  | [] => []
  | b :: r =>
    match b, runsFrom (j + 1) r with
    | false, l => l
    | true, (k, n) :: l => if k = j + 1 then (j, n + 1) :: l else (j, 1) :: (k, n) :: l
    | true, [] => [(j, 1)]

/-- What a firing does: EOS, nothing, a null, or its operation (R118, R136, R164). Without a firing in hand the model stops. -/
def onFire (m : FireMode) (s : State) (eos : Firing → Nat → State) (null : Firing → State) (go : Firing → State) : Next :=
  match s.cur with
  | none => .fault .noFiring
  | some f =>
    .next (match f.eos with
      | some b => eos f b
      | none => if (firedElems m f).isEmpty then s else if nullOperand f then null f else go f)

/-- A token sent to each target (R118, R119). -/
def sendTokens (s : State) (c src born : Nat) (ts : List Target) (t : Token) : State :=
  pushEvs s ((ts.filter fun x => x != noTarget).map fun x =>
    .tokenArrival c { t with span := t.vals.length, inst := (x.extractLsb' 2 7).toNat, port := portOf (x.extractLsb' 0 2).toNat, src := src, born := born })

/-- A token yet without a destination. -/
def freshToken (iter : Nat) (vals : List Dbl) (ew : Width) (scaled : Bool) (sb : BitVec 5) : Token :=
  { inst := 0, port := .a, iter := iter % 65536, vals := vals, nul := false, eos := false, scaled := scaled, sb := sb, ew := ew,
    standing := false, head := vals.headD 0, span := vals.length, src := 0, born := 0, came := 0, spill := none }

/-- A result for elements j to j + n - 1 of a firing; that of an all-standing firing is standing (R175). -/
def sendRun (s : State) (f : Firing) (ts : List Target) (j : Nat) (t : Token) : State :=
  if allStanding f then sendTokens s f.ctx f.inst f.born ts { t with iter := 0xFFFF, standing := true, vals := t.vals.take 1 }
  else sendTokens s f.ctx f.inst f.born ts { t with iter := (f.iter + j) % 65536 }

/-- The latest firing of an instruction in this block entry, 0 where there is none (R397). -/
def lastNote (s : State) (c inst : Nat) : Nat :=
  match ctxAt s c with
  | none => 0
  | some x => match x.notes.reverse.find? fun n => n.inst == inst with
    | none => 0
    | some n => n.born

/-- EOS with a bound to each target (R136). -/
def passEos (s : State) (ts : List Target) (f : Firing) (bound : Nat) : State :=
  sendTokens s f.ctx f.inst (lastNote s f.ctx f.inst) ts { freshToken 0 [BitVec.ofNat 64 bound] .w32 false 0 with eos := true }

/-- Nulls for the runs of a firing whose mode is satisfied (R118). -/
def sendNulls (s : State) (m : FireMode) (ts : List Target) (f : Firing) : State :=
  (runsFrom 0 (firedMask m f)).foldl (fun s r =>
    sendRun s f ts r.1 { freshToken 0 (List.replicate r.2 0) .w32 false 0 with nul := true }) s

/-- A fault of the firing in hand: it is done once more at resume (R367). The record of a scale-state fault carries the bits of the firing's
inputs (R54). -/
def fireFault (s : State) (f : Firing) (cause : Nat) (i : FaultInfo) : State :=
  let word := match ctxAt s f.ctx with
    | none => 0
    | some x => (wordFor x.image f.inst f.iter).1
  takeFault s f.ctx cause { i with inst := f.inst, word := word, sb := if cause = 0x090 then i.sb ||| inputBits f else i.sb }
    (some (.fire f))
/-- A fault of the whole firing, at its first iteration. -/
def fireInfo (f : Firing) : FaultInfo := { noInfo with iter := f.iter }

/-- Whether a value operand has another width than its port takes (R161); a null holds no value. -/
def widthBad (f : Firing) (want : Port → Option Width) : Bool :=
  [Port.a, .b, .c].any fun q => match operand f q, want q with
    | some t, some w => !t.nul && t.ew != w
    | _, _ => false
/-- The scale states of the operands on some ports. -/
def scaleStates (f : Firing) (ps : List Port) : List Bool := (ps.filterMap (operand f)).map (·.scaled)
/-- Whether the operands on the ports in agreement differ, or contradict the declaration (R46, R162). -/
def scaleBad (f : Firing) (ps : List Port) (x : Ex) : Bool :=
  let l := scaleStates f ps
  (l.contains true && l.contains false) || (x == .scaled && l.contains false) || (x == .unscaled && l.contains true)

/-- A width or scale fault of the firing in hand, in the order of R163; none where it passes. -/
def operandFault (f : Firing) (want : Port → Option Width) (agree : List Port) (x : Ex) : Option Nat :=
  if widthBad f want && !passed f.waive 0x092 then some 0x092
  else if scaleBad f agree x && !passed f.waive 0x090 then some 0x090
  else none

/-- Whether a value operand that must be a single element was sent with more (R173, R192, R225). -/
def manyElems (f : Firing) : Bool := [f.a, f.b, f.c].any fun t => match t with
  | none => false
  | some t => decide (1 < t.span)
/-- A firing with a null operand: a check that its operands do not pass faults all the same (R161, R225), else a null goes to each target. -/
def nullsUnless (check : Firing → Option Nat) (s : State) (m : FireMode) (ts : List Target) (f : Firing) : State :=
  match check f with
  | some c => fireFault s f c (fireInfo f)
  | none => sendNulls s m ts f

/-- What an operation of the compute families is: the widths it takes (`wa` none: any), the ports that agree in scale state, the
declaration EX, the width and scale state of its result (none: those of port a, and of the agreement), and its effect on one
element (R160). -/
structure CompOp where
  wa : Option Width
  wb : Width
  wc : Width
  agree : List Port
  ex : Ex
  outW : Option Width
  outSc : Option Bool
  elem : Nat → Nat → Nat → Nat × BitVec 5

/-- The width each port of an operation takes. -/
def compWidths (op : CompOp) (q : Port) : Option Width :=
  match q with
  | .a => op.wa
  | .b => some op.wb
  | .c => some op.wc
  | .p => none
/-- Element `j` of an operand, taken to the width of its port. DEDUCED (log entry 22). -/
def compArg (f : Firing) (w : Option Width) (q : Port) (j : Nat) : Nat :=
  match w with
  | none => elemAt (operand f q) j
  | some w => elemAt (operand f q) j % 2 ^ widthBits w
/-- The result of one element with its own bits. -/
def compElem (op : CompOp) (f : Firing) (j : Nat) : Nat × BitVec 5 :=
  op.elem (compArg f op.wa .a j) (compArg f (some op.wb) .b j) (compArg f (some op.wc) .c j)

/-- The first element whose own bits hold the reported one. -/
def firstHit (rs : List (Nat × Nat × BitVec 5)) (bit : BitVec 5) : Nat :=
  match rs.find? fun r => r.2.2 &&& bit != 0 with
  | none => 0
  | some r => r.1

/-- One run of results sent (R118, R163). A firing resumed from 0x090 whose operands differ in scale state has no common state, and the
specification names none for its result: it takes that of the lowest agreeing port. DESIGN CHOICE (log entry 182). -/
def compSend (op : CompOp) (ts : List Target) (f : Firing) (s : State) (r : Nat × Nat) : State :=
  let rs := (List.range r.2).map fun k => compElem op f (r.1 + k)
  let ew := match op.outW with
    | some w => w
    | none => match f.a with
      | some t => t.ew
      | none => .w32
  let sc := match op.outSc with
    | some b => b
    | none => (scaleStates f op.agree).headD false
  sendRun s f ts r.1 (freshToken 0 (rs.map fun e => BitVec.ofNat 64 (e.1 % 2 ^ widthBits ew)) ew sc
    (inputBits f ||| orBits (rs.map (·.2))))

/-- Exception Enable of a context (R49). -/
def enableOf (s : State) (c : Nat) : BitVec 5 :=
  match ctxAt s c with
  | none => 0
  | some x => x.eenable

/-- The operation of a firing of the compute families: checks in the order of R163, then the result of each run. -/
def compGo (op : CompOp) (m : FireMode) (ts : List Target) (s : State) (f : Firing) : State :=
  match operandFault f (compWidths op) op.agree op.ex with
  | some c => fireFault s f c (fireInfo f)
  | none =>
    let rs := (firedElems m f).map fun j => (j, compElem op f j)
    let own := orBits (rs.map (·.2.2))
    match (if waivesEnable f.waive then none else enableCause (own &&& enableOf s f.ctx)) with
    | some c => fireFault s f c.toNat { noInfo with sb := inputBits f ||| own, iter := (f.iter + firstHit rs (causeBit c)) % 65536 }
    | none => (runsFrom 0 (firedMask m f)).foldl (compSend op ts f) s

/-- A meaning of the compute families. -/
def compute (op : CompOp) (m : FireMode) (ts : List Target) (s : State) : Next :=
  onFire m s (passEos s ts) (nullsUnless (fun f => operandFault f (compWidths op) [] .pass) s m ts) (compGo op m ts s)

/-! Waiting and overflow (R121, R122). -/

/-- Bytes of a token's overflow record (R122). -/
def spillSize (t : Token) : Nat := 16 + (if t.nul then 0 else (t.vals.length * widthBytes t.ew + 15) / 16 * 16)
/-- The tokens that a context has waiting or parked. -/
def heldTokens (x : Ctx) : List Token :=
  (ctxWaiting x).filter (fun t => !t.standing) ++ x.parked.filterMap fun w => match w with
    | .event (.tokenArrival _ t) => some t
    | _ => none
/-- Overflow space that tokens take, in the shared part or in a reservation. -/
def spillUsed (shared : Bool) (l : List Token) : Nat :=
  l.foldl (fun n t => if t.spill = some shared then n + spillSize t else n) 0
/-- Shared overflow space taken in a Press. -/
def sharedUsed (s : State) (press : Nat) : Nat :=
  (s.ctxs.filter fun e => e.2.press == press && decide (e.2.tag < 256)).foldl (fun n e => n + spillUsed true (heldTokens e.2)) 0
/-- The most that a context's tokens can take in its reservation. -/
def heldSize (x : Ctx) : Nat := (heldTokens x).foldl (fun n t => n + spillSize t) 0
/-- Whether neither the shared part nor the context's reservation has room for a token (R122). -/
def noRoom (s : State) (x : Ctx) (t : Token) : Bool :=
  decide (2048 < heldSize x + spillSize t) && decide (2048 < spillUsed false (heldTokens x) + spillSize t) &&
    decide (524288 < sharedUsed s x.press + spillSize t)
/-- Where a token that spills goes: the shared part first (R122). -/
def spillPart (s : State) (x : Ctx) (t : Token) : Bool := decide (sharedUsed s x.press + spillSize t ≤ 524288)

/-- The plane bit of a context's tokens. -/
def ctxPlane (x : Ctx) : Nat := match x.region with
  | none => 0
  | some r => regionPlane r

/-- The cluster and set of the matching store in which a token of a context waits (R114, R121). -/
def storeSet (x : Ctx) (t : Token) : Nat × Nat :=
  (peCluster x.image (x.region.getD 0) t.inst, Config.matchSet (tokenDouble x.tag (ctxPlane x) false t) % 16)
/-- The tokens that take an entry of a matching store of a Press, with their contexts: those that wait and have not spilled (R121). A
standing token waits at its port and takes none. DEDUCED (log entry 162). -/
def stored (s : State) (press : Nat) : List (Ctx × Token) :=
  (s.ctxs.filter fun e => e.2.press == press && e.2.region.isSome).flatMap fun e =>
    ((ctxWaiting e.2).filter fun t => !t.standing && t.spill.isNone).map fun t => (e.2, t)
/-- Whether the 8 ways of a token's set are taken, so that it spills (R114, R121). -/
def setFull (s : State) (x : Ctx) (t : Token) : Bool :=
  let l := stored s x.press
  decide (8 ≤ l.length) && decide (8 ≤ (l.filter fun e => storeSet e.1 e.2 == storeSet x t).length)

/-- A token waits where `put` keeps it (R120 to R122); without room its context faults with cause 0x048. -/
def waitWith (s : State) (c : Nat) (t : Token) (put : Ctx → Token → Ctx) : State :=
  match ctxAt s c with
  | none => s
  | some x =>
    let sp := setFull s x t
    let t1 := { t with came := s.now }
    if sp && noRoom s x t then
      takeFault (setCtx s c (put x { t1 with spill := none })) c 0x048
        { noInfo with inst := t.inst, iter := t.iter, ntok := 1,
                      items := [BitVec.ofNat 64 (tokenDouble x.tag (ctxPlane x) true t)] } none
    else
      let s1 := setCtx s c (put x { t1 with spill := if sp then some (spillPart s x t) else none })
      if sp then ctxCount s1 c 0x001 1 else s1
/-- A token waits in the matching store. -/
def waitToken (s : State) (c : Nat) (t : Token) : State :=
  waitWith s c t fun x t => { x with waiting := x.waiting ++ [t] }

/-! Requests and their replies. -/

/-- Requests of an instruction that have not replied. -/
def owedAt (x : Ctx) (inst : Nat) : Nat := tabGet (fun _ => 0) x.owed inst
/-- A request of a firing that will reply to its targets: it counts as outstanding until then (R128). -/
def openReply (s : State) (m : FireMode) (f : Firing) (ts : List Target) : State × Reply :=
  let l := ts.filter fun t => t != noTarget
  let r : Reply := { ctx := f.ctx, inst := f.inst, iter := f.iter, runs := runsFrom 0 (firedMask m f), standing := allStanding f,
                     targets := l, sb := inputBits f, born := f.born }
  (if l.isEmpty then s else modCtx s f.ctx fun x => { x with owed := tabSet (fun _ => 0) x.owed f.inst (owedAt x f.inst + 1) }, r)
/-- The reply tokens of a request; they come from outside the block (R397). -/
def sendReply (s : State) (r : Reply) (t : Token) : State :=
  sendTokens s r.ctx r.inst 0 r.targets
    (if r.standing then { t with iter := 0xFFFF, standing := true, vals := t.vals.take 1 }
     else { t with iter := (r.iter + t.iter) % 65536 })
/-- Whether an earlier firing of an instruction still waits for a party, or is about to act again (R119, R218). -/
def firesLater (s : State) (c inst : Nat) : Bool :=
  let mine := fun (f : Firing) => f.ctx == c && f.inst == inst && f.eos.isNone
  (s.waiters.any fun w => mine w.firing) ||
    (s.queue.any fun w => match w with
      | .fire f => mine f
      | .event _ => false) ||
    (match ctxAt s c with
     | none => false
     | some x => (pressAt s x.press).spawns.any fun e => mine e.1)
/-- The request has replied in full; an EOS behind the last request of its instruction goes on (R119, R136). -/
def closeReply (s : State) (r : Reply) : State :=
  if r.targets.isEmpty then s
  else match ctxAt s r.ctx with
    | none => s
    | some x =>
      let n := owedAt x r.inst - 1
      let x1 := { x with owed := tabSet (fun _ => 0) x.owed r.inst n }
      let last := n == 0 && !firesLater s r.ctx r.inst
      let go := if last then x.eosHeld.filter fun e => e.1 == r.inst else []
      let s1 := setCtx s r.ctx { x1 with eosHeld := if last then x.eosHeld.filter fun e => e.1 != r.inst else x.eosHeld }
      go.foldl (fun s e => sendTokens s r.ctx r.inst (lastNote s r.ctx r.inst) e.2.2
        { freshToken 0 [BitVec.ofNat 64 e.2.1] .w32 false 0 with eos := true }) s1
/-- A reply of one value on every range on which the instruction fired, and its end. -/
def answer (s : State) (r : Reply) (v : Nat) (ew : Width) : State :=
  closeReply (r.runs.foldl (fun s q => sendReply s r (freshToken q.1 (List.replicate q.2 (BitVec.ofNat 64 v)) ew false r.sb)) s) r
/-- A null in reply, and its end. -/
def answerNull (s : State) (r : Reply) : State :=
  closeReply (r.runs.foldl (fun s q =>
    sendReply s r { freshToken q.1 (List.replicate q.2 0) .w32 false 0 with nul := true }) s) r
/-- EOS at an instruction that replies: it passes once every request has replied (R119, R136). -/
def passEosAfter (s : State) (ts : List Target) (f : Firing) (bound : Nat) : State :=
  match ctxAt s f.ctx with
  | none => s
  | some x =>
    if owedAt x f.inst = 0 && !firesLater s f.ctx f.inst then passEos s ts f bound
    else setCtx s f.ctx { x with eosHeld := x.eosHeld ++ [(f.inst, bound, ts)] }

/-! Commit readiness (R128). -/

/-- The context of a work item that counts as outstanding: a token in flight, a firing, `iter` or a PE's packet. -/
def workOf (c : Nat) (w : Work) : Bool :=
  match w with
  | .fire f => f.ctx == c
  | .event (.tokenArrival d _) => d == c
  | .event (.iterEmit d _) => d == c
  | .event (.configPacketComplete d _) => d == c
  | .event _ => false

/-- Whether a firing of a context waits for a party: a tile, a ring entry, a queue entry, a tag or an agent's home. -/
def waitsParty (s : State) (c : Nat) : Bool :=
  (s.waiters.any fun w => w.firing.ctx == c) ||
    (match ctxAt s c with
     | none => false
     | some x => (pressAt s x.press).spawns.any fun e => e.1.ctx == c)

/-- Whether a context has a spawned child alive (R309). DEDUCED (log entry 112). -/
def hasChild (s : State) (c : Nat) : Bool :=
  s.ctxs.any fun e => match e.2.parent with
    | none => false
    | some r => r.ctx == c

/-- Whether the block of a context can commit (R128). -/
def commitReady (s : State) (c : Nat) : Bool :=
  match ctxAt s c with
  | none => false
  | some x =>
    x.phase == .running && x.frozen.isNone && x.exits.length == 1 && (blkMask x.image &&& ~~~x.lsids) == 0 &&
      x.gws.length == blkWrites x.image && x.owed.isEmpty && x.iterNext.isNone && !(s.queue.any (workOf c)) && !waitsParty s c && !hasChild s c

/-- The commit is asked for once the block can commit. -/
def settle (s : State) (c : Nat) : State := if commitReady s c then pushEvOnce s (.commit c) else s

/-! Frames of a resident loop (R132, R185). -/

/-- The instructions that `iter` reaches without passing a reduction; `n` bounds the search. -/
def reachFrom (n : Nat) (img : List Word) (todo seen : List Nat) : List Nat :=
  match n, todo with
  | 0, _ => seen
  | _, [] => seen
  | n + 1, i :: r =>
    match instrAt img i with
    | none => reachFrom n img r seen
    | some x =>
      let stop := match x with
        | .redAdd .. | .redMax .. | .redMin .. => true
        | _ => false
      let next := if stop then [] else ((targetsOf x).map fun t => (t.extractLsb' 2 7).toNat).filter fun k => !seen.contains k
      reachFrom n img (r ++ next.eraseDups) (seen ++ next.eraseDups)
/-- The instructions that must act on an iteration before its frame is free. -/
def frameReach (img : List Word) : List Nat :=
  match (List.range (blkCount img)).find? fun i => match instrAt img i with
    | some (.iter _ _) => true
    | _ => false with
  | none => []
  | some i => reachFrom 1024 img [i] []
/-- Iterations that hold a frame. -/
def framesHeld (x : Ctx) : Nat := x.acted.length

/-- An instruction has acted on the iterations of a firing; an iteration on which all have acted frees its frame. -/
def actedOn (s : State) (f : Firing) : State :=
  match ctxAt s f.ctx with
  | none => s
  | some x =>
    if f.eos.isSome || x.acted.isEmpty || allStanding f || (operands f).isEmpty then s
    else
      let reach := frameReach x.image
      if !reach.contains f.inst then s
      else
        let its := (List.range f.len).map fun j => (f.iter + j) % 65536
        let acted := (x.acted.map fun e => if its.contains e.1 then (e.1, (f.inst :: e.2).eraseDups) else e).filter fun e =>
          !(reach.all fun i => e.2.contains i)
        let s1 := setCtx s f.ctx { x with acted := acted }
        match x.iterNext with
        | none => s1
        | some (i, _) => if acted.length < x.acted.length then pushEvOnce s1 (.iterEmit f.ctx i) else s1

/-- Whether a firing waits at a stream because it is not due (R184). -/
def waitsInStream (s : State) (f : Firing) : Bool :=
  match ctxAt s f.ctx with
  | none => false
  | some x => match tabFind x.streams f.inst with
    | none => false
    | some t => t.late.any fun g => g.born == f.born && g.iter == f.iter

/-- Whether a firing has been put among those that wait for a party. -/
def waitsAgain (s : State) (f : Firing) : Bool :=
  (s.waiters.any fun w => w.firing.born == f.born && w.firing.ctx == f.ctx && w.firing.inst == f.inst)

/-- After the meaning of a firing: its event, trace record and note unless it faulted, its frames, and the commit if the block can commit
now. EOS is a firing of the instructions that deliver values on it (R184, R186, R187, R397). DEDUCED (log entry 36). -/
def afterFire (s : State) (i : Instr) (f : Firing) : State :=
  let s0 := { s with cur := none }
  if ctxFrozen s0 f.ctx then s0
  else if waitsInStream s0 f || waitsAgain s0 f then settle s0 f.ctx
  else
    let fires := match f.eos, i with
      | none, _ => !(firedElems (fireMode i) f).isEmpty
      | some _, .redAdd .. | some _, .redMax .. | some _, .redMin .. | some _, .rpack .. | some _, .turn .. => true
      | some _, _ => false
    let s1 := if fires then noteFiring s0 f else s0
    settle (actedOn s1 f) f.ctx

end Sys2Proof.Machine
end

