-- ==== Sys2Proof/Machine/Integer.lean ====
section
/-! DEFINITION. Integer arithmetic (R165), integer compares (R168), select (R169), immediates (R170) and the compact arithmetic
forms (R193). -/

namespace Sys2Proof.Machine

/-- The type of an IT code. -/
def intTy : IntTy → Ty
  | .i32 => .i32
  | .n32 => .n32
  | .i64 => .i64
  | .n64 => .n64

/-- An operation on one port or two of a width, with a result of a width; it declares no scale (R162). -/
def plainOp (w out : Width) (elem : Nat → Nat → Nat → Nat × BitVec 5) : CompOp :=
  { wa := some w, wb := w, wc := w, agree := [.a, .b], ex := .pass, outW := some out, outSc := none, elem := elem }

/-- An integer operation on exact values, whose result and own bits `g` makes of the exact one. -/
def intOp (ty : IntTy) (g : Int → Int → Nat × BitVec 5) : CompOp :=
  plainOp (tyWidth (intTy ty)) (tyWidth (intTy ty)) fun x y _ => g (intOf (intTy ty) x) (intOf (intTy ty) y)
/-- A result modulo 2^w, without own bits. -/
def wrapped (ty : IntTy) (v : Int) : Nat × BitVec 5 := (wrap (tyBits (intTy ty)) v, 0)

/-- ADD_INT (R165). -/
def execAddInt (f : FireMode) (t u : Target) (ty : IntTy) (s : State) : Next :=
  compute (intOp ty fun x y => wrapped ty (x + y)) f [t, u] s
/-- SUB_INT (R165). -/
def execSubInt (f : FireMode) (t u : Target) (ty : IntTy) (s : State) : Next :=
  compute (intOp ty fun x y => wrapped ty (x - y)) f [t, u] s
/-- ADD_CLAMP (R165). -/
def execAddClamp (f : FireMode) (t u : Target) (ty : IntTy) (s : State) : Next :=
  compute (intOp ty fun x y => clampInt (intTy ty) (x + y)) f [t, u] s
/-- SUB_CLAMP (R165). -/
def execSubClamp (f : FireMode) (t u : Target) (ty : IntTy) (s : State) : Next :=
  compute (intOp ty fun x y => clampInt (intTy ty) (x - y)) f [t, u] s
/-- MIN_INT (R165). -/
def execMinInt (f : FireMode) (t u : Target) (ty : IntTy) (s : State) : Next :=
  compute (intOp ty fun x y => wrapped ty (if x ≤ y then x else y)) f [t, u] s
/-- MAX_INT (R165). -/
def execMaxInt (f : FireMode) (t u : Target) (ty : IntTy) (s : State) : Next :=
  compute (intOp ty fun x y => wrapped ty (if x ≤ y then y else x)) f [t, u] s
/-- ABS_INT (R165). -/
def execAbsInt (f : FireMode) (t u : Target) (wide : Bool) (s : State) : Next :=
  compute (let ty := if wide then .i64 else .i32; intOp ty fun x _ => wrapped ty x.natAbs) f [t, u] s
/-- MUL_INT (R165). -/
def execMulInt (f : FireMode) (t u : Target) (ty : IntTy) (s : State) : Next :=
  compute (intOp ty fun x y => wrapped ty (x * y)) f [t, u] s
/-- MULH (R165). -/
def execMulh (f : FireMode) (t u : Target) (ty : IntTy) (s : State) : Next :=
  compute (intOp ty fun x y => wrapped ty (x * y / (2 ^ tyBits (intTy ty) : Nat))) f [t, u] s
/-- DIV (R41, R165). -/
def execDiv (f : FireMode) (t u : Target) (ty : IntTy) (s : State) : Next :=
  compute (intOp ty fun x y => let r := intDivRem (intTy ty) x y; (wrap (tyBits (intTy ty)) r.1.1, r.2)) f [t, u] s
/-- REM (R41, R165). -/
def execRem (f : FireMode) (t u : Target) (ty : IntTy) (s : State) : Next :=
  compute (intOp ty fun x y => let r := intDivRem (intTy ty) x y; (wrap (tyBits (intTy ty)) r.1.2, r.2)) f [t, u] s
/-- MUL_CLAMP (R165). -/
def execMulClamp (f : FireMode) (t u : Target) (ty : IntTy) (s : State) : Next :=
  compute (intOp ty fun x y => clampInt (intTy ty) (x * y)) f [t, u] s

/-- 1 or 0. -/
def truth (b : Bool) : Nat × BitVec 5 := (if b then 1 else 0, 0)
/-- An integer compare (R168). -/
def cmpOp (ty : IntTy) (g : Int → Int → Bool) : CompOp :=
  plainOp (tyWidth (intTy ty)) .w32 fun x y _ => truth (g (intOf (intTy ty) x) (intOf (intTy ty) y))

/-- CMP_EQ (R168). -/
def execCmpEq (f : FireMode) (t u : Target) (ty : IntTy) (s : State) : Next :=
  compute (cmpOp ty fun x y => decide (x = y)) f [t, u] s
/-- CMP_NE (R168). -/
def execCmpNe (f : FireMode) (t u : Target) (ty : IntTy) (s : State) : Next :=
  compute (cmpOp ty fun x y => decide (x ≠ y)) f [t, u] s
/-- CMP_LT (R168). -/
def execCmpLt (f : FireMode) (t u : Target) (ty : IntTy) (s : State) : Next :=
  compute (cmpOp ty fun x y => decide (x < y)) f [t, u] s
/-- CMP_LE (R168). -/
def execCmpLe (f : FireMode) (t u : Target) (ty : IntTy) (s : State) : Next :=
  compute (cmpOp ty fun x y => decide (x ≤ y)) f [t, u] s
/-- CMP_GT (R168). -/
def execCmpGt (f : FireMode) (t u : Target) (ty : IntTy) (s : State) : Next :=
  compute (cmpOp ty fun x y => decide (y < x)) f [t, u] s
/-- CMP_GE (R168). -/
def execCmpGe (f : FireMode) (t u : Target) (ty : IntTy) (s : State) : Next :=
  compute (cmpOp ty fun x y => decide (y ≤ x)) f [t, u] s

/-- SEL (R169). -/
def execSel (f : FireMode) (t u : Target) (r : RawTy) (s : State) : Next :=
  compute { plainOp (rawWidth r) (rawWidth r) (fun x y z => (if z = 0 then y else x, 0)) with wc := .w32 } f [t, u] s

/-- An operation on 32-bit elements of port a. -/
def wordOp (g : Nat → Nat) : CompOp := plainOp .w32 .w32 fun x _ _ => (g x, 0)

/-- ADDI (R170). -/
def execAddi (f : FireMode) (t : Target) (k : BitVec 14) (s : State) : Next :=
  compute (wordOp fun x => wrap 32 (x + k.toInt)) f [t] s
/-- ANDI (R170). -/
def execAndi (f : FireMode) (t : Target) (k : BitVec 14) (s : State) : Next :=
  compute (wordOp fun x => x &&& k.toNat) f [t] s
/-- ORI (R170). -/
def execOri (f : FireMode) (t : Target) (k : BitVec 14) (s : State) : Next :=
  compute (wordOp fun x => x ||| k.toNat) f [t] s
/-- XORI (R170). -/
def execXori (f : FireMode) (t : Target) (k : BitVec 14) (s : State) : Next :=
  compute (wordOp fun x => x ^^^ k.toNat) f [t] s
/-- SHLI (R170). -/
def execShli (f : FireMode) (t : Target) (k : BitVec 5) (s : State) : Next :=
  compute (wordOp fun x => x * 2 ^ k.toNat % 2 ^ 32) f [t] s
/-- SHRI (R170). -/
def execShri (f : FireMode) (t : Target) (k : BitVec 5) (s : State) : Next :=
  compute (wordOp fun x => x / 2 ^ k.toNat) f [t] s
/-- SARI (R170). -/
def execSari (f : FireMode) (t : Target) (k : BitVec 5) (s : State) : Next :=
  compute (wordOp fun x => wrap 32 (signed 32 x / (2 ^ k.toNat : Nat))) f [t] s
/-- MOVHI (R170). -/
def execMovhi (f : FireMode) (t : Target) (k : BitVec 12) (s : State) : Next :=
  compute (wordOp fun x => x * 2 ^ 12 % 2 ^ 32 + k.toNat) f [t] s
/-- CMPI_EQ (R170). -/
def execCmpiEq (f : FireMode) (t : Target) (k : BitVec 12) (s : State) : Next :=
  compute (wordOp fun x => (truth (decide (x = wrap 32 k.toInt))).1) f [t] s
/-- CMPI_LT (R170). -/
def execCmpiLt (f : FireMode) (t : Target) (k : BitVec 12) (s : State) : Next :=
  compute (wordOp fun x => (truth (decide (signed 32 x < k.toInt))).1) f [t] s

/-- NOT (R193). -/
def execNot (f : FireMode) (t : Target) (s : State) : Next := compute (wordOp fun x => 2 ^ 32 - 1 - x) f [t] s
/-- NEG (R193). -/
def execNeg (f : FireMode) (t : Target) (s : State) : Next := compute (wordOp fun x => (2 ^ 32 - x) % 2 ^ 32) f [t] s
/-- INC (R193). -/
def execInc (f : FireMode) (t : Target) (s : State) : Next := compute (wordOp fun x => (x + 1) % 2 ^ 32) f [t] s
/-- DEC (R193). -/
def execDec (f : FireMode) (t : Target) (s : State) : Next := compute (wordOp fun x => (x + 2 ^ 32 - 1) % 2 ^ 32) f [t] s
/-- ISZ (R193). -/
def execIsz (f : FireMode) (t : Target) (s : State) : Next := compute (wordOp fun x => (truth (decide (x = 0))).1) f [t] s
/-- NZ (R193). -/
def execNz (f : FireMode) (t : Target) (s : State) : Next := compute (wordOp fun x => (truth (decide (x ≠ 0))).1) f [t] s

end Sys2Proof.Machine
end

