-- ==== Sys2Proof/Machine/Moves.lean ====
section
/-! DEFINITION. The dataflow moves: `mov`, `null`, `movi`, `rdg`, `wrg` and `iter` (R170 to R175, R193), the runs of `iter`
(R132), and the exits (R129, R191, R192). -/

namespace Sys2Proof.Machine

/-- Whether the block of a context is a resident loop. -/
def inLoop (s : State) (c : Nat) : Bool := match ctxAt s c with
  | none => false
  | some x => blkLoop x.image

/-- What an instruction without value ports sends: at block start one token of iteration 0, standing in a resident loop; on a
predicate, a token for each run that satisfies the mode (R117, R171, R175). `mk` makes a token of a number of elements. -/
def sendPlain (s : State) (m : FireMode) (ts : List Target) (f : Firing) (mk : Nat → Token) : State :=
  if (operands f).isEmpty then
    sendTokens s f.ctx f.inst f.born ts
      (if inLoop s f.ctx then { mk 1 with iter := 0xFFFF, standing := true } else { mk 1 with iter := 0 })
  else (runsFrom 0 (firedMask m f)).foldl (fun s r => sendRun s f ts r.1 (mk r.2)) s

/-- Nulls of a run. -/
def nullToken (n : Nat) : Token := { freshToken 0 (List.replicate n 0) .w32 false 0 with nul := true }

/-- `mov` keeps value, width, run, bits and scale state (R171). -/
def movOp : CompOp := { plainOp .w32 .w32 (fun x _ _ => (x, 0)) with wa := none, outW := none, agree := [.a] }
/-- What `null` does. -/
def nullGo (m : FireMode) (ts : List Target) (s : State) : Next :=
  onFire m s (passEos s ts) (fun _ => s) (fun f => sendPlain s m ts f nullToken)

/-- MOV_FULL (R171). -/
def execMovFull (f : FireMode) (t u : Target) (s : State) : Next := compute movOp f [t, u] s
/-- NULL_FULL (R171). -/
def execNullFull (f : FireMode) (t u : Target) (s : State) : Next := nullGo f [t, u] s
/-- MOV_COMPACT (R193). -/
def execMovCompact (f : FireMode) (t : Target) (s : State) : Next := compute movOp f [t] s
/-- NULL_COMPACT (R193). -/
def execNullCompact (f : FireMode) (t : Target) (s : State) : Next := nullGo f [t] s

/-- MOVI (R170, R175): unscaled, with the bits of a predicate. DEDUCED (log entry 34). -/
def execMovi (f : FireMode) (t : Target) (k : BitVec 12) (s : State) : Next :=
  onFire f s (passEos s [t]) (fun _ => s) fun g =>
    sendPlain s f [t] g fun n => freshToken 0 (List.replicate n (BitVec.ofNat 64 (wrap 32 k.toInt))) .w32 false (inputBits g)

/-- The value that a G register had at the previous commit (R127). -/
def gReg (s : State) (c g : Nat) : Word := match ctxAt s c with
  | none => 0
  | some x => tabGet (fun _ => 0) x.g g

/-- RDG (R172, R175). For the Stylus its token comes from outside the block (R397). -/
def execRdg (f : FireMode) (g : BitVec 8) (t : Target) (s : State) : Next :=
  onFire f s (passEos s [t]) (fun _ => s) fun w =>
    sendPlain s f [t] { w with born := 0 } fun n =>
      freshToken 0 (List.replicate n ((gReg s w.ctx g.toNat).zeroExtend 64)) .w32 false (inputBits w)

/-- The number of elements of a firing's operand on port a. -/
def aLen (f : Firing) : Nat := match f.a with
  | none => 0
  | some t => t.vals.length
/-- The first element of port a for which the mode holds. -/
def aFirst (m : FireMode) (f : Firing) : Nat := elemAt f.a ((firedElems m f).headD 0)

/-- One firing of `wrg` counted, with its value or a null (R173, R128); too many fault (R130). -/
def countGw (s : State) (f : Firing) (g : Nat) (v : Option Word) : State :=
  match ctxAt s f.ctx with
  | none => s
  | some x =>
    let twice := x.gws.any fun e => e.1 == f.inst
    if (twice || decide (blkWrites x.image ≤ x.gws.length)) && !passed f.waive 0x043 then fireFault s f 0x043 (fireInfo f)
    else sinkBits (setCtx s f.ctx { x with gws := x.gws ++ [(f.inst, g, v)] }) f.ctx (inputBits f)

/-- WRG (R173). -/
def execWrg (f : FireMode) (g : BitVec 8) (s : State) : Next :=
  onFire f s (fun _ _ => s) (fun w =>
      if manyElems w && !passed w.waive 0x045 then fireFault s w 0x045 (fireInfo w) else countGw s w g.toNat none) fun w =>
    match operandFault w (fun _ => some .w32) [] .pass with
    | some c => fireFault s w c (fireInfo w)
    | none =>
      if manyElems w && !passed w.waive 0x045 then fireFault s w 0x045 (fireInfo w)
      else countGw s w g.toNat (some (BitVec.ofNat 32 (aFirst f w)))

/-- ITER (R132, R174): it starts to emit. -/
def execIter (f : FireMode) (t : Target) (s : State) : Next :=
  onFire f s (passEos s [t]) (fun _ => s) fun w =>
    match ctxAt s w.ctx with
    | none => s
    | some x =>
      if x.iterNext.isSome then s
      else pushEvOnce (setCtx s w.ctx { x with iterNext := some (w.inst, 0, inputBits w) }) (.iterEmit w.ctx w.inst)

/-- ITER_EMIT (R132, R142, R163): the next run with the bits of a predicate, once enough frames are free, or the EOS after the last. -/
def execIterEmit (c inst : Nat) (s : State) : Next :=
  .next (match ctxAt s c with
    | none => s
    | some x =>
      if x.frozen.isSome then parkWork s c (.event (.iterEmit c inst))
      else match x.iterNext, instrAt x.image inst with
      | some (i, done, sb), some (.iter _ t) =>
        let base := loopBase x.image
        let left := loopTrips x.image - done
        if i ≠ inst then s
        else if left = 0 then
          settle (sendTokens (setCtx s c { x with iterNext := none }) c inst (lastNote s c inst) [t]
            { freshToken 0 [BitVec.ofNat 64 ((base + done) % 65536)] .w32 false 0 with eos := true }) c
        else
          let n := min (loopRun x.image) left
          let its := (List.range n).map fun j => (base + done + j) % 65536
          let reach := frameReach x.image
          if !reach.isEmpty && decide (loopFrames x.image < framesHeld x + n) then s
          else
            let acted := if reach.isEmpty then x.acted else its.foldl (fun l i => tabPut l i []) x.acted
            pushEvOnce (sendTokens (setCtx s c { x with acted := acted, iterNext := some (i, done + n, sb) }) c inst
                (lastNote s c inst) [t]
              (freshToken (base + done) (its.map fun i => BitVec.ofNat 64 i) .w32 false sb)) (.iterEmit c inst)
      | _, _ => s)

/-- An exit fires; a second one faults, naming both (R130, R365). DEDUCED (log entry 39). -/
def exitFires (s : State) (f : Firing) (num : Nat) (dest : Option Nat) : State :=
  match ctxAt s f.ctx with
  | none => s
  | some x =>
    match x.exits with
    | e :: _ =>
      if passed f.waive 0x041 then setCtx s f.ctx { x with exits := x.exits ++ [{ inst := f.inst, num := num, dest := dest }] }
      else takeFault s f.ctx 0x041 { noInfo with inst := e.inst, iter := f.iter, aux := BitVec.ofNat 64 f.inst } (some (.fire f))
    | [] => setCtx s f.ctx { x with exits := [{ inst := f.inst, num := num, dest := dest }] }

/-- The successor that OFF20 names (R129). -/
def exitDest (block : Nat) (off : BitVec 20) : Option Nat :=
  if off = 0x80000 then none else some (((block : Int) + 16 * off.toInt) % (2 ^ 56 : Nat)).toNat

/-- EXIT (R129, R191). -/
def execExit (f : FireMode) (e : BitVec 3) (off : BitVec 20) (s : State) : Next :=
  onFire f s (fun _ _ => s) (fun _ => s) fun w =>
    match ctxAt s w.ctx with
    | none => s
    | some x => exitFires s w e.toNat (exitDest x.block off)

/-- EXIT_I (R192). A null leaves the exit unfired. -/
def execExitI (f : FireMode) (e : BitVec 3) (s : State) : Next :=
  onFire f s (fun _ _ => s) (fun w => if manyElems w && !passed w.waive 0x045 then fireFault s w 0x045 (fireInfo w) else s) fun w =>
    match operandFault w (fun _ => some .w64) [] .pass with
    | some c => fireFault s w c (fireInfo w)
    | none =>
      let v := aFirst f w
      if manyElems w && !passed w.waive 0x045 then fireFault s w 0x045 (fireInfo w)
      else if v = 2 ^ 64 - 1 then exitFires s w e.toNat none
      else if (bitsOf v 63 56 ≠ 0 || bitsOf v 3 0 ≠ 0) && !passed w.waive 0x044 then
        fireFault s w 0x044 { fireInfo w with addr := BitVec.ofNat 64 v }
      else exitFires s w e.toNat (some (v % 2 ^ 56))

end Sys2Proof.Machine
end

