-- ==== Sys2Proof/Machine/LaneFile.lean ====
section
/-! DEFINITION. The Lane File window of a context and its accesses (R188 to R190). A child uses its parent's window (R309). -/

namespace Sys2Proof.Machine

/-- Bytes of a step's window: 32 lanes of W words (R30). -/
def windowBytes (r : StepRec) : Nat := 128 * r.words
/-- `n` bytes at a window offset; those beyond the window read zero (R188). -/
def windowRead (r : StepRec) (off n : Nat) : List Byte :=
  (memRead r.window off n).zipIdx.map fun e => if off + e.2 < windowBytes r then e.1 else 0
/-- A window with bytes written; those beyond it are dropped (R188). -/
def windowWrite (r : StepRec) (off : Nat) (bs : List Byte) : StepRec :=
  { r with window := memWrite r.window off (bs.take (windowBytes r - off)) }

/-- The step of a context. -/
def stepOf (s : State) (c : Nat) : Option StepRec := match ctxAt s c with
  | none => none
  | some x => stepAt s x.stp
/-- `s` with the step of a context changed. -/
def modStepOf (s : State) (c : Nat) (f : StepRec → StepRec) : State := match ctxAt s c with
  | none => s
  | some x => modStep s x.stp f

/-- The iteration of element `j` of a firing; an all-standing firing has no range and counts as iteration 0. DEDUCED (log entry 37). -/
def iterAt (f : Firing) (j : Nat) : Nat := if allStanding f then 0 else (f.iter + j) % 65536
/-- The window offset of element `j` (R189). -/
def laneOff (vec : Bool) (r : RawTy) (f : Firing) (q : Port) (j : Nat) : Nat :=
  elemAt (operand f q) j % 2 ^ 32 + (if vec then widthBytes (rawWidth r) * (iterAt f j % 32) else 0)
/-- What is wrong with an access at a window offset (R188). DEDUCED (log entry 40). -/
def laneBad (w : StepRec) (r : RawTy) (off : Nat) : Option Nat :=
  if off % widthBytes (rawWidth r) ≠ 0 then some 0x131
  else if windowBytes w < off + widthBytes (rawWidth r) then some 0x130
  else none
/-- The first element of a firing whose access is wrong: its position, offset and cause. DEDUCED (log entry 19). -/
def laneFault (w : StepRec) (vec : Bool) (r : RawTy) (m : FireMode) (f : Firing) (q : Port) : Option (Nat × Nat × Nat) :=
  if passed f.waive 0x131 then none
  else ((firedElems m f).filterMap fun j => (laneBad w r (laneOff vec r f q j)).map fun c => (j, laneOff vec r f q j, c)).head?

/-- The widths that a Lane File instruction takes, with its addresses on port `q` (R161, R189). -/
def laneWidths (r : RawTy) (q z : Port) : Option Width := if z == q then some .w32 else some (rawWidth r)
/-- A Lane File firing: checks, then `go` on its step, counted by element (R392). -/
def laneGo (vec : Bool) (r : RawTy) (m : FireMode) (q : Port) (s : State) (f : Firing)
    (go : StepRec → List Nat → State → State) : State :=
  match operandFault f (laneWidths r q) (if q = .a then [] else [.a]) .pass with
  | some c => fireFault s f c (fireInfo f)
  | none =>
    match stepOf s f.ctx with
    | none => s
    | some w =>
      match laneFault w vec r m f q with
      | some (j, off, c) => fireFault s f c { noInfo with iter := iterAt f j, addr := BitVec.ofNat 64 off }
      | none => go w (firedElems m f) (ctxCount s f.ctx 0x005 (firedElems m f).length)

/-- The elements of a firing written in ascending iteration (R190). -/
def laneStore (vec : Bool) (r : RawTy) (f : Firing) (w : StepRec) (js : List Nat) : StepRec :=
  js.foldl (fun w j => windowWrite w (laneOff vec r f .b j)
    (leBytes (widthBytes (rawWidth r)) (elemAt f.a j % 2 ^ widthBits (rawWidth r)))) w
/-- The value read at element `j`. -/
def laneValue (vec : Bool) (r : RawTy) (f : Firing) (q : Port) (w : StepRec) (j : Nat) : Dbl :=
  BitVec.ofNat 64 (leNat (windowRead w (laneOff vec r f q j) (widthBytes (rawWidth r))))

/-- The loads (R189): unscaled values. -/
def laneLoad (vec : Bool) (f : FireMode) (ts : List Target) (r : RawTy) (s : State) : Next :=
  onFire f s (passEos s ts) (nullsUnless (fun g => operandFault g (laneWidths r .a) [] .pass) s f ts) fun g =>
    laneGo vec r f .a s g fun w _ s =>
      (runsFrom 0 (firedMask f g)).foldl (fun s q =>
        sendRun s g ts q.1 (freshToken 0 ((List.range q.2).map fun k => laneValue vec r g .a w (q.1 + k)) (rawWidth r) false (inputBits g))) s
/-- The stores (R189): sinks (R48). -/
def laneSave (vec : Bool) (f : FireMode) (r : RawTy) (s : State) : Next :=
  onFire f s (fun _ _ => s) (nullsUnless (fun g => operandFault g (laneWidths r .b) [] .pass) s f []) fun g =>
    laneGo vec r f .b s g fun _ js s =>
      sinkBits (modStepOf s g.ctx fun w => laneStore vec r g w js) g.ctx (inputBits g)

/-- LFLD (R189). -/
def execLfld (f : FireMode) (t u : Target) (r : RawTy) (s : State) : Next := laneLoad false f [t, u] r s
/-- LFST (R189). -/
def execLfst (f : FireMode) (r : RawTy) (s : State) : Next := laneSave false f r s
/-- LFLD_V (R189). -/
def execLfldV (f : FireMode) (t u : Target) (r : RawTy) (s : State) : Next := laneLoad true f [t, u] r s
/-- LFST_V (R189). -/
def execLfstV (f : FireMode) (r : RawTy) (s : State) : Next := laneSave true f r s

/-- The values that `lfswp` replaces, element by element: each is read and written as one access. -/
def laneSwap (r : RawTy) (f : Firing) (w : StepRec) (js : List Nat) : List (Nat × Dbl) :=
  match js with
  | [] => []
  | j :: rest => (j, laneValue false r f .b w j) :: laneSwap r f (laneStore false r f w [j]) rest

/-- LFSWP (R189): a store for R48 that delivers the bytes replaced. -/
def execLfswp (f : FireMode) (t u : Target) (r : RawTy) (s : State) : Next :=
  onFire f s (passEos s [t, u]) (nullsUnless (fun g => operandFault g (laneWidths r .b) [] .pass) s f [t, u]) fun g =>
    laneGo false r f .b s g fun w js s =>
      let old := laneSwap r g w js
      let s1 := sinkBits (modStepOf s g.ctx fun w => laneStore false r g w js) g.ctx (inputBits g)
      (runsFrom 0 (firedMask f g)).foldl (fun s q =>
        sendRun s g [t, u] q.1 (freshToken 0 ((List.range q.2).map fun k => (tabFind old (q.1 + k)).getD 0) (rawWidth r) false (inputBits g))) s1

end Sys2Proof.Machine
end

