-- ==== Sys2Proof/Machine/Race.lean ====
section
/-! DEFINITION. The race checker (R331 to R346): domains, actor slots, vector clocks, release records, per-line metadata in the
carve-out, the check, and race records. -/

namespace Sys2Proof.Machine

/-- The domain of a tenancy, if one is mapped (R332). -/
def domMapped (s : State) (ten : Nat) : Option Nat :=
  if csrBits s 0x3A0 (4 * ten + 3) (4 * ten + 3) = 1 then some (csrBits s 0x3A0 (4 * ten + 1) (4 * ten)) else none
/-- Bits of Domain CSR k. -/
def domCsr (s : State) (d k hi lo : Nat) : Nat := csrBits s (0x3A8 + 8 * d + k) hi lo
/-- MODE of a domain; 11 behaves as 00. -/
def domMode (s : State) (d : Nat) : Nat := let m := domCsr s d 0 63 62; if m = 3 then 0 else m
/-- The domain that checks a tenancy's accesses now. -/
def domOf (s : State) (ten : Nat) : Option Nat :=
  match domMapped s ten with
  | none => none
  | some d => if domMode s d = 0 ∨ domCsr s d 0 61 61 = 1 then none else some d
/-- Whether the metadata carve-out and the release record area are valid. -/
def raceAreas (s : State) : Bool :=
  decide (10 ≤ csrBits s 0x3A1 4 0) && decide (csrBits s 0x3A1 4 0 ≤ 26) && csrBits s 0x3A2 0 0 == 1

/-- A slot that nothing has used. -/
def slotReset : SlotRec :=
  { ctx := none, vc := [], floor := 0, ef := false, scope := 0, pending := [], degraded := [], sweeping := false, press := 0,
    history := [] }
/-- Slot `k` of domain `d`. -/
def slotAt (s : State) (d k : Nat) : SlotRec := tabGet (fun _ => slotReset) s.slots (256 * d + k)
/-- `s` with a slot changed. -/
def modSlot (s : State) (d k : Nat) (f : SlotRec → SlotRec) : State :=
  { s with slots := tabSet (fun _ => slotReset) s.slots (256 * d + k) (f (slotAt s d k)) }
/-- Entry `j` of a vector clock. -/
def vcEntry (v : Tab Nat) (j : Nat) : Nat := tabGet (fun _ => 0) v j
/-- A vector clock with an entry. -/
def vcPut (v : Tab Nat) (j c : Nat) : Tab Nat := tabSet (fun _ => 0) v j c
/-- The join of two vector clocks (R338). -/
def vcJoin (v w : Tab Nat) : Tab Nat := w.foldl (fun v e => if vcEntry v e.1 < e.2 then vcPut v e.1 e.2 else v) v
/-- The own clock of slot `k`. -/
def ownClock (s : State) (d k : Nat) : Nat := vcEntry (slotAt s d k).vc k
/-- Actor slots and proxy slots of a domain. -/
def domQuota (s : State) (d : Nat) : Nat := domCsr s d 0 24 16
/-- PROXY of a domain. -/
def domProxy (s : State) (d : Nat) : Nat := domCsr s d 0 8 2
/-- Whether a slot is a proxy. -/
def isProxy (s : State) (d k : Nat) : Bool := decide (255 < k + domProxy s d)

/-- Where the release record (k, c) stands (R339). -/
def recordAt (s : State) (d k c : Nat) : Nat := csrBits s 0x3A2 47 26 * 2 ^ 26 + 2 ^ 24 * d + 2 ^ 16 * k + 2 ^ 10 * (c % 64)
/-- The vector that stands there. -/
def recordVec (s : State) (d k c : Nat) : Tab Nat :=
  let bs := hbmRead s (recordAt s d k c) 1024
  ((List.range 256).map fun j => (j, leNat ((bs.drop (4 * j)).take 4))).filter fun e => e.2 != 0
/-- `s` with a vector written there. -/
def recordPut (s : State) (d k c : Nat) (v : Tab Nat) : State :=
  let a := recordAt s d k c
  hbmFresh (hbmWrite s a ((List.range 256).flatMap fun j => leBytes 4 (vcEntry v j))) a 1024

/-- The join of a record into an actor's clock; an overwritten record gives one entry and degrades the actor (R338, R339). DESIGN CHOICE
(log entry 18). -/
def joinRecord (s : State) (d k t c : Nat) : State :=
  let v := recordVec s d t c
  if vcEntry v t = c then modSlot s d k fun r => { r with vc := vcJoin r.vc v }
  else modSlot s d k fun r => { r with vc := vcJoin r.vc [(t, c)], degraded := t :: r.degraded.filter (· != t) }

/-- A context becomes the actor of a slot (R336, R338); `recs` are the records joined at its start. -/
def startActor (s : State) (c d k : Nat) (recs : List (Nat × Nat)) : State :=
  match ctxAt s c with
  | none => s
  | some x =>
    let floors := ((List.range 256).map fun j => (j, (slotAt s d j).floor)).filter fun e => e.2 != 0
    let vc := vcPut floors k ((slotAt s d k).floor + 1)
    let s1 := modSlot s d k fun r =>
      { r with ctx := some c, vc := vc, ef := false, scope := 0, pending := [], degraded := [], press := x.press }
    let s2 := setCtx s1 c { x with actor := some { dom := d, slot := k } }
    recs.foldl (fun s r => joinRecord s d k r.1 r.2) s2

/-- The lowest free actor slot. -/
def freeSlot (s : State) (d : Nat) : Option Nat :=
  (List.range (domQuota s d)).find? fun k => (slotAt s d k).ctx.isNone && !(slotAt s d k).sweeping
/-- The records that wake an admitted step (R338). -/
def wakeRecords (s : State) (x : Ctx) (d : Nat) : List (Nat × Nat) :=
  if x.spawned then []
  else match stepAt s x.stp with
    | none => []
    | some r => r.members.filterMap fun m => match m.stim.clock with
      | some (e, k, c) => if e = d then some (k, c) else none
      | none => none

/-- What the race checker answers. -/
inductive Raced where
  /-- Done. -/
  | ok (s : State)
  /-- No slot is free: the access waits (R336). -/
  | wait
  /-- A race in trap mode, or a clock that is exhausted: its cause, AUX and items. -/
  | trap (s : State) (cause : Nat) (aux : Nat) (items : List Nat)

/-- The actor of a context, made one if a slot is free: the domain and slot, none where nothing is checked. DEDUCED (log entry 47). -/
def actorOf (s : State) (c : Nat) : Option (State × Option (Nat × Nat)) :=
  match ctxAt s c with
  | none => some (s, none)
  | some x =>
    match domOf s x.ten with
    | none => some (s, none)
    | some d =>
      match x.actor with
      | some a => some (s, some (a.dom, a.slot))
      | none => match freeSlot s d with
        | none => none
        | some k => some (startActor s c d k (wakeRecords s x d), some (d, k))

/-- The proxy slots of a domain. -/
def proxySlots (s : State) (d : Nat) : List Nat := (List.range (domProxy s d)).map fun i => 255 - i
/-- A proxy's own clock, which starts at 1. -/
def proxyClock (s : State) (d k : Nat) : Nat := max 1 (ownClock s d k)
/-- A local acquire or fence at system scope takes the proxies' clocks (R342). -/
def seeProxies (s : State) (d k : Nat) : State :=
  modSlot s d k fun r => { r with vc := (proxySlots s d).foldl (fun v p => vcJoin v [(p, proxyClock s d p)]) r.vc }
/-- A system-scope release is seen by the proxies (R342). -/
def proxiesSee (s : State) (d : Nat) (ps : List Nat) : State :=
  let now := ((List.range 256).map fun j => (j, ownClock s d j)).filter fun e => e.2 != 0
  ps.foldl (fun s p => modSlot s d p fun r => { r with vc := vcJoin r.vc now }) s

/-- `release(scope)` of an actor (R338): none when its clock would pass its end (R337). -/
def releaseSlot (s : State) (d k scope : Nat) : Option State :=
  let c := ownClock s d k
  if 2 ^ 32 ≤ c + 1 then none
  else
    let s1 := recordPut s d k c (slotAt s d k).vc
    let s2 := modSlot s1 d k fun r => { r with vc := vcPut r.vc k (c + 1), ef := false, scope := scope }
    some (if scope = 4 then proxiesSee s2 d (proxySlots s2 d) else s2)

/-- Whether a scope contains the actors of two slots (R287). -/
def scopeCovers (s : State) (d scope a b : Nat) : Bool :=
  let p := (slotAt s d a).press
  let q := (slotAt s d b).press
  if isProxy s d a || isProxy s d b then decide (4 ≤ scope)
  else a == b || decide (3 ≤ scope) || (scope == 2 && p / 8 == q / 8) || (scope == 1 && p == q)
/-- The narrowest scope that contains two slots. -/
def narrowest (s : State) (d a b : Nat) : Nat := ((List.range 5).find? fun x => scopeCovers s d x a b).getD 4

/-- A release by a context (R336, R338), with the record that it wrote. -/
def ctxRelease (s : State) (c scope : Nat) : Raced × Option (Nat × Nat × Nat) :=
  match actorOf s c with
  | none => (.wait, none)
  | some (s1, none) => (.ok s1, none)
  | some (s1, some (d, k)) =>
    match releaseSlot s1 d k scope with
    | none => (.trap s1 0x287 0 [], none)
    | some s2 => (.ok s2, some (d, k, ownClock s1 d k))

/-- The pending loads joined by a fence (R338). -/
def joinPending (s : State) (d k scope : Nat) (l : List (Nat × Nat × Nat)) : State :=
  l.foldl (fun s e =>
    if scopeCovers s d scope k e.1 && scopeCovers s d e.2.2 k e.1 then joinRecord s d k e.1 e.2.1 else s) s

/-- `fence(scope)` of a context (R338, R342). -/
def ctxFence (s : State) (c scope : Nat) : Raced :=
  match ctxRelease s c scope with
  | (.ok s1, some (d, k, _)) =>
    let l := (slotAt s1 d k).pending
    let s2 := modSlot s1 d k fun r => { r with ef := true, pending := [] }
    let s3 := joinPending s2 d k scope l
    .ok (if scope = 4 then seeProxies s3 d k else s3)
  | (r, _) => r

/-- Contexts that wait for a slot are looked at again. -/
def wakeSlots (s : State) : State := if s.slotWait.isEmpty then s else pushEvOnce s .actorSlotAcquire

/-- An actor ends: its slot's floor becomes its final clock, and a slot near its end leaves service (R336, R337). -/
def endActor (s : State) (c : Nat) : State :=
  match ctxAt s c with
  | none => s
  | some x =>
    match x.actor with
    | none => { s with slotWait := s.slotWait.filter fun y => y != c }
    | some a =>
      let r := slotAt s a.dom a.slot
      let final := ownClock s a.dom a.slot
      let agent := match memberAt s x.stp 0 with
        | none => 0
        | some m => m.agent
      let hist := ((agent, r.floor + 1, final, x.ten) :: r.history).take 4
      let worn := decide (0xF0000000 ≤ final)
      let s1 := modSlot s a.dom a.slot fun r => { r with ctx := none, floor := final, history := hist, sweeping := worn }
      let s2 := setCtx s1 c { x with actor := none }
      let s3 := { s2 with slotWait := s2.slotWait.filter fun y => y != c }
      wakeSlots (if worn then pushEv s3 (.slotSweep a.dom a.slot) else s3)

/-! Per-line metadata (R333 to R335). -/

/-- Sets of the carve-out. -/
def metaSets (s : State) : Nat := 2 ^ csrBits s 0x3A1 4 0
/-- Where set `i` stands. -/
def metaSet (s : State) (i : Nat) : Nat := csrBits s 0x3A1 47 14 * 2 ^ 14 + 256 * i
/-- The set of a line. -/
def lineSet (s : State) (line : Nat) : Nat := line % metaSets s
/-- The tag double of a line in a domain. -/
def lineTag (d line : Nat) : Nat := 2 ^ 63 + d * 2 ^ 61 + line % 2 ^ 42
/-- The way that holds a line. -/
def metaWay (s : State) (d line : Nat) : Option Nat :=
  (List.range 8).find? fun w => hbmDbl s (metaSet s (lineSet s line) + 8 * w) == lineTag d line
/-- The record of a way as a number of 128 bits. -/
def metaRec (s : State) (set w : Nat) : Nat := leNat (hbmRead s (metaSet s set + 0x40 + 16 * w) 16)
/-- The record of a line; 0 where it has none. -/
def lineRec (s : State) (d line : Nat) : Nat :=
  match metaWay s d line with
  | none => 0
  | some w => metaRec s (lineSet s line) w

/-- The ways of a set, the least recently used first. -/
def wayOrder (s : State) (set : Nat) : List Nat := tabGet (fun _ => List.range 8) s.ways set
/-- `s` with a way used last. -/
def touchWay (s : State) (set w : Nat) : State :=
  { s with ways := tabSet (fun _ => List.range 8) s.ways set ((wayOrder s set).filter (fun v => v != w) ++ [w]) }

/-- The budgets are those of the present interval of 1 us (R344). -/
def budgetNow (s : State) : State := if s.now / 1000 = s.raceMicro then s else { s with raceBudget := [], raceMicro := s.now / 1000 }
/-- A race record put in its domain's ring, or counted as suppressed (R344): its index, none where it is suppressed. -/
def ringRecord (s0 : State) (d : Nat) (bs : List Byte) : State × Option Nat :=
  let s := budgetNow s0
  let prod := domCsr s d 2 31 0
  let size := 2 ^ domCsr s d 3 4 0
  let used := tabGet (fun _ => 0) s.raceBudget d
  if domCsr s d 3 15 15 = 0 ∨ (prod + 2 ^ 32 - domCsr s d 2 63 32) % 2 ^ 32 = size ∨ domCsr s d 3 31 16 ≤ used then
    let n := domCsr s d 4 63 32
    (csrPoke s (0x3A8 + 8 * d + 4) 63 32 (if n + 1 < 2 ^ 32 then n + 1 else n), none)
  else
    let a := domCsr s d 1 47 6 * 64 + 64 * (prod % size)
    let s1 := hbmFresh (hbmWrite s a bs) a 64
    let s2 := csrPoke s1 (0x3A8 + 8 * d + 2) 31 0 ((prod + 1) % 2 ^ 32)
    (pushEvOnce { s2 with raceBudget := tabSet (fun _ => 0) s2.raceBudget d (used + 1) } .raceBudgetInterval, some prod)

/-- A line settled: counted, and recorded with cause 0x285 (R335). -/
def settleLine (s : State) (tag : Nat) : State :=
  let d := bitsOf tag 62 61
  let n := domCsr s d 4 31 0
  let s1 := csrPoke s (0x3A8 + 8 * d + 4) 31 0 (if n + 1 < 2 ^ 32 then n + 1 else n)
  if domMode s d = 0 then s1
  else
    (ringRecord s1 d (leBytes 8 (bitsOf tag 41 0 * 64) ++ leBytes 8 (0x285 * 2 ^ 54 + d * 2 ^ 48) ++ leBytes 32 0 ++
      leBytes 8 s.now ++ leBytes 8 (domCsr s1 d 4 63 32 * 2 ^ 32))).1

/-- `s` with the record of a line written, in its way, a free way or the victim's (R335). -/
def putLineRec (s : State) (d line v : Nat) : State :=
  let set := lineSet s line
  let base := metaSet s set
  let write := fun (s : State) (w : Nat) =>
    touchWay (hbmWrite (hbmPutDbl s (base + 8 * w) (lineTag d line)) (base + 0x40 + 16 * w) (leBytes 16 v)) set w
  match metaWay s d line with
  | some w => write s w
  | none =>
    match (List.range 8).find? fun w => bitsOf (hbmDbl s (base + 8 * w)) 63 63 == 0 with
    | some w => write s w
    | none =>
      let w := (wayOrder s set).headD 0
      write (settleLine s (hbmDbl s (base + 8 * w))) w

/-! The check (R340, R341). -/

/-- An access as the checker sees it: its KIND, whether it writes and whether it also writes only if it succeeds, whether it
synchronises, its acquire and release scopes, the queue of an engine, and what the record names (R345). -/
structure RaceAcc where
  kind : Nat
  writes : Bool
  stores : Bool
  sync : Bool
  acq : Option Nat
  rel : Option Nat
  queue : Option Nat
  inst : Nat
  iter : Nat
  va : Nat
  deriving DecidableEq, Repr

/-- The parties of a record that an access is checked against: (slot, clock, synchronising, is the writer). -/
def priors (m : Nat) (writes : Bool) : List (Nat × Nat × Bool × Bool) :=
  (bitsOf m 127 120, bitsOf m 119 88, bitsOf m 2 2 == 1, true) ::
    (if writes then [(bitsOf m 87 80, bitsOf m 79 48, bitsOf m 1 1 == 1, false), (bitsOf m 47 40, bitsOf m 39 8, bitsOf m 0 0 == 1, false)]
     else [])

/-- The race of an access with a record: its cause with the prior party, the lowest cause first. DEDUCED (log entry 44). -/
def findRace (s : State) (d k : Nat) (a : RaceAcc) (m : Nat) : Option (Nat × Nat × Nat × Nat) :=
  let vc := (slotAt s d k).vc
  let bad := (priors m a.writes).filterMap fun p =>
    let t := p.1
    let c := p.2.1
    if c = 0 ∨ t = k ∨ (p.2.2.1 && a.sync) ∨ (!a.writes && p.2.2.2 && bitsOf m 6 6 == 1 && scopeCovers s d (bitsOf m 5 3) k t) ∨
        c ≤ vcEntry vc t then none
    else
      let cause := if p.2.2.2 then (if a.writes then 0x281 else 0x280) else 0x282
      some (cause, t, c, if p.2.2.2 then 1 else if p.2.2.1 then 4 else 0)
  let best := bad.foldl (fun b e => match b with
    | none => some e
    | some f => if e.1 < f.1 then some e else some f) none
  match best with
  | some e => some e
  | none => if a.writes && bitsOf m 7 7 == 1 then some (0x283, bitsOf m 87 80, bitsOf m 79 48, if bitsOf m 1 1 = 1 then 4 else 0) else none

/-- The record after a reader has been recorded (R341). -/
def addReader (vc : Tab Nat) (k c : Nat) (sy : Bool) (m : Nat) : Nat :=
  let b := if sy then 1 else 0
  let r0 (m : Nat) := putBits (putBits (putBits m 87 80 k) 79 48 c) 1 1 b
  let r1 (m : Nat) := putBits (putBits (putBits m 47 40 k) 39 8 c) 0 0 b
  let c0 := bitsOf m 79 48
  let c1 := bitsOf m 39 8
  if c0 ≠ 0 ∧ bitsOf m 87 80 = k then r0 m
  else if c1 ≠ 0 ∧ bitsOf m 47 40 = k then r1 m
  else if c0 = 0 then r0 m
  else if c1 = 0 then r1 m
  else if c0 ≤ vcEntry vc (bitsOf m 87 80) then r0 m
  else if c1 ≤ vcEntry vc (bitsOf m 47 40) then r1 m
  else putBits m 7 7 1

/-- The record of a new writer (R338, R340). -/
def newWriter (r : SlotRec) (k c : Nat) (a : RaceAcc) (proxy : Bool) : Nat :=
  let rel := !proxy && (a.rel.isSome || r.ef)
  k * 2 ^ 120 + c * 2 ^ 88 + (if rel then 2 ^ 6 + r.scope % 8 * 2 ^ 3 else 0) + (if a.sync then 4 else 0)

/-- The prior agent of a slot's clock, from its occupant or its history (R336, R345): agent and tenancy. DEDUCED (log entry 48). -/
def priorAgent (s : State) (d t c : Nat) : Option (Nat × Nat) :=
  let r := slotAt s d t
  let live := match r.ctx with
    | none => none
    | some y => match ctxAt s y with
      | none => none
      | some x => if r.floor < c then (memberAt s x.stp 0).map fun (m : Member) => (m.agent, x.ten) else none
  match live with
  | some p => some p
  | none => (r.history.find? fun (e : Nat × Nat × Nat × Nat) => decide (e.2.1 ≤ c) && decide (c ≤ e.2.2.1)).map fun (e : Nat × Nat × Nat × Nat) => (e.1, e.2.2.2)

/-- The agent of member `n` of a context's step, 0 where there is none. -/
def memberAgent (s : State) (x : Ctx) (n : Nat) : Nat :=
  match memberAt s x.stp n with
  | none => 0
  | some m => m.agent
/-- Who made an access: a context, or a peer in the name of a proxy. -/
abbrev Accessor := Option Ctx

/-- A race record's 64 bytes (R345). A release access carries the clock of the epoch that it opens (R338). DEDUCED (log entry 15). -/
def raceRecord (s : State) (who : Accessor) (d k : Nat) (a : RaceAcc) (cause t c pkind : Nat) : List Byte :=
  let pa := priorAgent s d t c
  let flag := fun (v : Bool) (i : Nat) => if v then 2 ^ i else 0
  let clk := if isProxy s d k then max 1 (ownClock s d k) else ownClock s d k + (if a.rel.isSome then 1 else 0)
  let mid := match who with
    | none => leBytes 8 (cause * 2 ^ 54 + d * 2 ^ 48 + k * 2 ^ 40) ++ leBytes 8 0 ++ leBytes 8 0
    | some x =>
      let pe := a.queue.isNone
      let n := if a.iter < x.n then a.iter else 0
      leBytes 8 (cause * 2 ^ 54 + x.ten * 2 ^ 50 + d * 2 ^ 48 + k * 2 ^ 40 + x.tag % 256 * 2 ^ 32 + x.press % 256 * 2 ^ 24 +
        flag a.queue.isSome 23 + a.queue.getD 0 * 2 ^ 20 + (if pe then peColumn x.image (x.region.getD 0) a.inst * 2 ^ 16 else 0) +
        (if pe then peRow x.image a.inst * 2 ^ 12 else 0) + a.inst % 128 * 2 ^ 5) ++
      leBytes 8 (memberAgent s x n * 2 ^ 36 + n * 2 ^ 30 + a.iter % 65536 * 2 ^ 14) ++ leBytes 8 x.block
  leBytes 8 (a.kind * 2 ^ 60 + pkind * 2 ^ 56 + a.va % 2 ^ 56) ++ mid ++ leBytes 8 (clk * 2 ^ 32 + c) ++
  leBytes 8 (t * 2 ^ 56 + (pa.map (·.1)).getD 0 * 2 ^ 28 + (pa.map (·.2)).getD 0 * 2 ^ 24 + narrowest s d k t * 2 ^ 21 +
    flag (isProxy s d t) 20 + flag pa.isSome 19 + flag (!(slotAt s d k).degraded.isEmpty) 18) ++
  leBytes 8 s.now ++ leBytes 8 (domCsr s d 4 63 32 * 2 ^ 32)

/-- The lines under `n` bytes from a PA. -/
def linesOf (pa n : Nat) : List Nat := granules pa n

/-- The lines checked in ascending order: races recorded; in trap mode the first one stops the access (R340, R343). -/
def checkLines (s : State) (who : Accessor) (d k : Nat) (a : RaceAcc) (lines : List (Nat × Nat)) : Raced :=
  match lines with
  | [] => .ok s
  | (line, va) :: r =>
    match findRace s d k { a with va := va } (lineRec s d line) with
    | none => checkLines s who d k a r
    | some (c0, t, c, pk) =>
      let cause := if (slotAt s d k).degraded.any (· != t) then 0x284 else c0
      let bs := raceRecord s who d k { a with va := va } cause t c pk
      let p := ringRecord s d bs
      if domMode s d = 2 && who.isSome then .trap p.1 cause (p.2.getD (2 ^ 64 - 1)) ((List.range 8).map fun i => leNat ((bs.drop (8 * i)).take 8))
      else checkLines p.1 who d k a r

/-- What a load that meets a released line does to its actor: a join for an acquire, else an entry in the pending list (R338). -/
def loadJoin (s : State) (d k : Nat) (a : RaceAcc) (m : Nat) : State :=
  if bitsOf m 6 6 = 0 ∨ bitsOf m 119 88 = 0 ∨ (a.writes && a.acq.isNone) then s
  else
    let t := bitsOf m 127 120
    let c := bitsOf m 119 88 - 1
    let rs := bitsOf m 5 3
    match a.acq with
    | some sc => if scopeCovers s d sc k t && scopeCovers s d rs k t then joinRecord s d k t c else s
    | none =>
      let l := (slotAt s d k).pending
      let s1 := match l with
        | e :: r => if l.length = 8 then
            modSlot (if scopeCovers s d e.2.2 k e.1 then joinRecord s d k e.1 e.2.1 else s) d k fun q => { q with pending := r } else s
        | [] => s
      modSlot s1 d k fun q => { q with pending := q.pending ++ [(t, c, rs)] }

/-- The metadata of one line after an access (R340, R341). -/
def updateLine (s : State) (d k : Nat) (a : RaceAcc) (proxy : Bool) (line : Nat) : State :=
  let m := lineRec s d line
  let s1 := if proxy then s else loadJoin s d k a m
  let r := slotAt s1 d k
  let c := if proxy then proxyClock s1 d k else ownClock s1 d k
  putLineRec s1 d line (if a.stores then newWriter r k c a proxy else addReader r.vc k c a.sync m)

/-- An access of a context: its checked local lines are checked unless it is resumed after a race, then come its release, its joins and
its metadata (R338, R340, R342, R343). DEDUCED (log entries 49 and 50). -/
def raceAccess (s : State) (c : Nat) (a : RaceAcc) (check : Bool) (lines : List (Nat × Nat)) : Raced :=
  match ctxAt s c with
  | none => .ok s
  | some x =>
    if lines.isEmpty && a.rel.isNone && (x.actor.isNone || a.acq != some 4) then .ok s
    else match actorOf s c with
      | none => .wait
      | some (s1, none) => .ok s1
      | some (s1, some (d, k)) =>
        match (if check then checkLines s1 (some x) d k a lines else .ok s1) with
        | .ok s2 =>
          match (match a.rel with
            | none => some s2
            | some sc => releaseSlot s2 d k sc) with
          | none => .trap s2 0x287 0 []
          | some s3 =>
            let s4 := if a.acq = some 4 then seeProxies s3 d k else s3
            .ok (lines.foldl (fun s l => updateLine s d k a false l.1) s4)
        | r => r

/-- Whether a domain is known to check a line: it has a record, or a TLB holds a checked local page of it for a tenancy of the domain
(R342). DEDUCED (log entry 46). -/
def lineChecked (s : State) (d line : Nat) : Bool :=
  (metaWay s d line).isSome || s.groups.any fun g => g.2.tlb.any fun e =>
    let p := e.pte.toNat
    let base := bitsOf p 31 0 * 65536
    domMapped s e.ten == some d && bitsOf p 57 55 == 1 && decide (base ≤ 64 * line) && decide (64 * line < base + e.size)
/-- An access that arrives from neighbour `n` over `len` bytes, in the name of its proxy (R342): the domains known to check a line check and
update it; a race is recorded. DEDUCED (log entry 46). -/
def proxyAccess (s : State) (n : Nat) (a : RaceAcc) (release : Bool) (pa len : Nat) : State :=
  (List.range 4).foldl (fun s d =>
    if domMode s d = 0 ∨ domCsr s d 0 61 61 = 1 ∨ domProxy s d = 0 then s
    else
      let k := 255 - n % domProxy s d
      let s1 := if release then
          proxiesSee (modSlot s d k fun r => { r with vc := vcPut r.vc k (proxyClock s d k + 1) }) d [k] else s
      let lines := (linesOf pa len).filter fun l => lineChecked s1 d l
      match checkLines s1 none d k a (lines.map fun l => (l, l * 64)) with
      | .ok s2 => lines.foldl (fun s l => updateLine s d k a true l) s2
      | _ => s1) s

/-- A context waits for a slot (R336). -/
def slotWaits (s : State) (c : Nat) : State :=
  pushEvOnce (if s.slotWait.contains c then s else { s with slotWait := s.slotWait ++ [c] }) .actorSlotAcquire

/-- ACTOR_SLOT_ACQUIRE (R336): the first context that waits takes a free slot. -/
def execActorSlotAcquire (s : State) : Next :=
  .next (match s.slotWait.find? fun c => match actorOf s c with
      | none => false
      | some _ => true with
    | none => s
    | some c =>
      let s1 := { s with slotWait := s.slotWait.filter fun y => y != c }
      match actorOf s1 c with
      | none => s
      | some (s2, _) => wakeSlots s2)

/-- DOMAIN_MODE_ENABLE (R332): BUSY sets, and the metadata of the domain is to be invalidated. -/
def execDomainModeEnable (d : Nat) (s : State) : Next :=
  .next (pushEvOnce (csrPoke s (0x3A8 + 8 * d) 61 61 1) (.metadataClearDone d))

/-- The tag doubles of the carve-out that are listed and valid: their PA and value. -/
def liveTags (s : State) : List (Nat × Nat) :=
  let base := metaSet s 0
  let top := base + 256 * metaSets s
  (s.hbm.filter fun e => decide (base ≤ e.1) && decide (e.1 < top) && (e.1 - base) % 256 / 8 < 8 && (e.1 - base) % 8 == 7 &&
    decide (128 ≤ e.2.toNat)).map fun e => (e.1 - 7, hbmDbl s (e.1 - 7))

/-- METADATA_CLEAR_DONE (R332): every record of the domain is invalid, and BUSY clears. -/
def execMetadataClearDone (d : Nat) (s : State) : Next :=
  .next (
    let s1 := if raceAreas s then
      ((liveTags s).filter fun e => bitsOf e.2 62 61 == d).foldl (fun s e => hbmPutDbl s e.1 0) s else s
    csrPoke s1 (0x3A8 + 8 * d) 61 61 0)

/-- A record without the fields that name a slot (R337). -/
def dropSlot (k m : Nat) : Nat :=
  let m1 := if bitsOf m 119 88 ≠ 0 ∧ bitsOf m 127 120 = k then putBits (putBits m 127 88 0) 6 2 0 else m
  let m2 := if bitsOf m1 79 48 ≠ 0 ∧ bitsOf m1 87 80 = k then putBits (putBits m1 87 48 0) 1 1 0 else m1
  if bitsOf m2 39 8 ≠ 0 ∧ bitsOf m2 47 40 = k then putBits (putBits m2 47 8 0) 0 0 0 else m2

/-- SLOT_SWEEP (R337): fields that name the slot go, lines left with none are settled, its clock entries, records and floor are
zero, and it returns to service. -/
def execSlotSweep (d k : Nat) (s : State) : Next :=
  .next (
    let base := metaSet s 0
    let s1 := if raceAreas s then ((liveTags s).filter fun e => bitsOf e.2 62 61 == d).foldl (fun s e =>
        let set := (e.1 - base) / 256
        let w := (e.1 - base) % 256 / 8
        let m := metaRec s set w
        let m1 := dropSlot k m
        if m1 = m then s
        else if bitsOf m1 119 88 = 0 ∧ bitsOf m1 79 48 = 0 ∧ bitsOf m1 39 8 = 0 then
          let n := domCsr s d 4 31 0
          csrPoke (hbmPutDbl s e.1 0) (0x3A8 + 8 * d + 4) 31 0 (if n + 1 < 2 ^ 32 then n + 1 else n)
        else hbmWrite s (base + 256 * set + 0x40 + 16 * w) (leBytes 16 m1)) s else s
    let s2 := (List.range 256).foldl (fun s j => modSlot s d j fun r => { r with vc := vcPut r.vc k 0 }) s1
    let s3 := if raceAreas s2 then
      { s2 with hbm := memWrite s2.hbm (recordAt s2 d k 0) (List.replicate 65536 0) } else s2
    wakeSlots (modSlot s3 d k fun r => { r with floor := 0, vc := [], sweeping := false }))

/-- RACE_BUDGET_INTERVAL (R344): the budgets of a new interval of 1 us, once it has begun. -/
def execRaceBudgetInterval (s : State) : Next :=
  .next (if s.now / 1000 = s.raceMicro then (if s.raceBudget.isEmpty then s else pushEvOnce s .raceBudgetInterval) else budgetNow s)

end Sys2Proof.Machine
end

