-- ==== Sys2Proof/Machine/Access.lean ====
section
/-! DEFINITION. Accesses of the memory instructions from issue to performance (R200 to R214, R218, R223 to R234, R280, R288 to
R295): translation and acceptance, the order within a context, and what one access does to memory. -/

namespace Sys2Proof.Machine

/-! Tile Table entries (R216). -/

/-- A Tile Table entry at reset. -/
def tileReset : Tile :=
  { state := 0, ten := 0, tid := 0, pl := false, off := false, oinst := 0, oiter := 0, osb := 0, otag := 0 }
/-- The entry of slot `k` of Group `g`. -/
def tileAt (s : State) (g k : Nat) : Tile := tabGet (fun _ => tileReset) (groupAt s g).tiles k
/-- `s` with an entry. -/
def setTile (s : State) (g k : Nat) (t : Tile) : State :=
  modGroup s g fun q => { q with tiles := tabSet (fun _ => tileReset) q.tiles k t }
/-- `s` with an entry changed. -/
def modTile (s : State) (g k : Nat) (f : Tile → Tile) : State := setTile s g k (f (tileAt s g k))
/-- A token with bits written to a slot: the first offence is recorded (R48, R216). -/
def offend (s : State) (g k inst iter : Nat) (sb : BitVec 5) (tag : Nat) : State :=
  if sb = 0 ∨ (tileAt s g k).off then s
  else modTile s g k fun t =>
    { t with off := true, oinst := BitVec.ofNat 7 inst, oiter := BitVec.ofNat 16 iter, osb := sb, otag := BitVec.ofNat 8 tag }

/-! The lists of accesses and of the firings that made them. -/

/-- Access `id`. -/
def accAt (s : State) (id : Nat) : Option Access := s.accesses.find? fun a => a.id == id
/-- `s` with an access changed. -/
def modAcc (s : State) (id : Nat) (f : Access → Access) : State := { s with accesses := mapWhere (fun a => a.id == id) f s.accesses }
/-- `s` without an access. -/
def dropAcc (s : State) (id : Nat) : State := { s with accesses := s.accesses.filter fun a => a.id != id }
/-- The firing that made an access. -/
def memFireAt (s : State) (id : Nat) : Option MemFire := s.memFires.find? fun m => m.id == id
/-- `s` with such a firing changed. -/
def modMemFire (s : State) (id : Nat) (f : MemFire → MemFire) : State :=
  { s with memFires := mapWhere (fun m => m.id == id) f s.memFires }
/-- Whether an access only reads. -/
def onlyLoads (a : Access) : Bool := a.kind == .load
/-- Whether an access is an `amo` or `cas`. -/
def isAtomic (a : Access) : Bool :=
  match a.kind with
  | .amo _ _ | .cas _ => true
  | _ => false
/-- Whether an access is only a store. -/
def onlyStores (a : Access) : Bool := a.kind == .store

/-- A fault of an access (R211, R228): its record, and its event done again at resume. The access that froze its context is
held. -/
def accFault (s : State) (a : Access) (cause aux : Nat) (sb : BitVec 5) (items : List Nat) (again : Instr) : State :=
  let first := !ctxFrozen s a.ctx
  let s1 := takeFault s a.ctx cause
    { noInfo with iter := a.iter, inst := a.inst, word := a.word, addr := a.addr, aux := BitVec.ofNat 64 aux, sb := sb, block := a.block,
                  items := items.map (BitVec.ofNat 64) } (some (.event again))
  if first then modAcc s1 a.id fun a => { a with held := true } else s1

/-- Whether a slot is to be read by accesses that its state admitted (R297). -/
def slotReads (s : State) (g k : Nat) : Bool :=
  s.accesses.any fun a => onlyLoads a && a.parts.any fun p => match p.1 with
    | .tile h j _ => h == g && j == k
    | _ => false

/-! Places (R200 to R202, R218). -/

/-- What a way wants of a page, by the kind of access. -/
def wayOf (k : AccKind) : Way :=
  match k with
  | .load => .read
  | .store => .write
  | .amo _ _ | .cas _ => .atomic

/-- An address in the Lane File window: its place, or what is wrong (R188, R201). -/
def lanePlace (s : State) (x : Ctx) (a : Access) : Except Nat Place :=
  let v := a.addr.toNat
  let off := bitsOf v 31 0
  if bitsOf v 55 32 ≠ 0 then .error 0x111
  else if off % a.size ≠ 0 && !passed a.waive 0x131 then .error 0x131
  else
    let top := match stepAt s x.stp with
      | none => 0
      | some r => windowBytes r
    if decide (top < off + a.size) && !passed a.waive 0x131 then .error 0x130 else .ok (.lane off)

/-- The members of a context's step (R30, R202). -/
def memberCount (s : State) (x : Ctx) : Nat :=
  match stepAt s x.stp with
  | none => 0
  | some r => r.members.length

/-- Whether the state and owner of a slot allow a read or a write of its bytes; the cause where they do not (R218). DEDUCED (log entry
64). -/
def slotDenies (s : State) (ten g k : Nat) (reads : Bool) : Option Nat :=
  let t := tileAt s g k
  if t.state = 0 then some 0x180
  else if t.ten.toNat ≠ ten then some 0x181
  else if reads then (if t.state = 1 then some 0x180 else none)
  else if t.state = 1 then none else some 0x180

/-- An address in a Group's SRAM without its slot's state: Group and offset, or what is wrong (R200, R201). -/
def sramOffset (s : State) (x : Ctx) (v size : Nat) : Except Nat (Nat × Nat) :=
  let own := bitsOf v 63 56 == 0xE8
  let off := bitsOf v 24 0
  let g := if own then x.group else bitsOf v 53 49
  let bad := if own then bitsOf v 55 25 != 0 || decide (0x1004000 ≤ off)
    else bitsOf v 55 54 != 0 || bitsOf v 48 25 != 0 || decide (0x1000000 ≤ off)
  if bad || !groupReady s g then .error 0x111
  else if off % size ≠ 0 then .error 0x118
  else .ok (g, off)

/-- The place of an access to a Group's SRAM (R201, R202, R218). -/
def sramPlace (s : State) (x : Ctx) (a : Access) : Except Nat Place :=
  match sramOffset s x a.addr.toNat a.size with
  | .error c => .error c
  | .ok (g, off) =>
    if 0x1000000 ≤ off then
      let m := (off - 0x1000000) / 256
      if onlyLoads a && decide (m < memberCount s x) then .ok (.payload m (off % 256)) else .error 0x111
    else match slotDenies s x.ten g (off / 16384) (onlyLoads a) with
      | none => .ok (.tile g (off / 16384) (off % 16384))
      | some c => if passed a.waive c then .ok (.tile g (off / 16384) (off % 16384)) else .error c

/-- Where a translated part lies. -/
def spotPlace (p : Spot) : Place := if p.mode = 0 then .hbm p.pa else .remote p.peer p.pa (p.mode == 2)

/-! The order within a context (R224, R234, R293, R295). -/

/-- Whether a position precedes another (R289). -/
def before (e l e' l' : Nat) : Bool := decide (e < e') || (e == e' && decide (l < l'))
/-- The strongest kind of an access's pages: 0 SO, 1 RC, 2 UO; an aperture counts as RC (R292). DEDUCED (log entry 62). -/
def pageKind (a : Access) : Nat :=
  a.parts.foldl (fun k p => match p.1 with
    | .hbm _ | .remote _ _ _ => min k p.2.2.1.toNat
    | _ => min k 1) (if a.parts.isEmpty then 1 else 2)
/-- Whether a part of an access is at a peer. -/
def hasRemote (a : Access) : Bool := a.parts.any fun p => match p.1 with
  | .remote _ _ _ => true
  | _ => false
/-- The scope of the acquire or release forms of an access (R227). -/
def formScope (a : Access) : Nat := if isAtomic a then (if a.sys then 4 else 3) else if hasRemote a then 4 else 3
/-- The scope of an access as an acquire, if it acts as one; on UO pages none does (R227). -/
def acqScope (a : Access) : Option Nat := if a.acq && pageKind a != 2 then some (formScope a) else none
/-- The scope of an access as a release. -/
def relScope (a : Access) : Option Nat := if a.rel && pageKind a != 2 then some (formScope a) else none
/-- Whether an access's page is strongly ordered. -/
def isSO (a : Access) : Bool := pageKind a == 0
/-- The scope at which earlier accesses must be performed for this one, if it waits for all of them (R293, R295). -/
def waitsAll (a : Access) : Option Nat :=
  if isSO a then some (if hasRemote a then 4 else 3) else relScope a

/-- The bytes of an access in one flat space per kind of place: HBM, SRAM, window, peers. -/
def spanOf (p : Place × Nat × BitVec 2 × Bool) : Nat × Nat × Nat :=
  match p.1 with
  | .hbm pa => (0, pa, p.2.1)
  | .tile g k o => (1, slotAddr g k o, p.2.1)
  | .lane o => (2, o, p.2.1)
  | .payload m o => (3, 256 * m + o, p.2.1)
  | .remote d pa _ => (4 + d, pa, p.2.1)
/-- Whether two spans share a byte. -/
def spansMeet (x y : Nat × Nat × Nat) : Bool :=
  x.1 == y.1 && decide (x.2.1 < y.2.1 + y.2.2) && decide (y.2.1 < x.2.1 + x.2.2)
/-- Whether two accesses touch a byte that one of them may write. -/
def clash (a b : Access) : Bool :=
  !(onlyLoads a && onlyLoads b) && a.parts.any fun p => b.parts.any fun q => spansMeet (spanOf p) (spanOf q)

/-- The instructions at which something of a block is at work: PEs that have not begun, tokens on their way or waiting, firings, and what
the replies still owed will reach. -/
def activeInsts (s : State) (c : Nat) (x : Ctx) : List Nat :=
  let targets := fun (i : Nat) => match instrAt x.image i with
    | none => []
    | some k => (targetsOf k).map fun t => (t.extractLsb' 2 7).toNat
  let ofWork := fun (w : Work) => match w with
    | .fire f => if f.ctx = c then some f.inst else none
    | .event (.tokenArrival d t) => if d = c then some t.inst else none
    | .event (.iterEmit d i) => if d = c then some i else none
    | .event _ => none
  ((List.range (blkCount x.image)).filter fun i => !x.configured.contains i) ++ s.queue.filterMap ofWork ++ x.parked.filterMap ofWork ++
    ((ctxWaiting x).filter fun t => !t.standing).map (·.inst) ++ (s.waiters.filter fun w => w.firing.ctx == c).map (·.firing.inst) ++
    ((pressAt s x.press).spawns.filter fun e => e.1.ctx == c).map (·.1.inst) ++ x.streams.flatMap (fun e => e.2.late.map (·.inst)) ++
    (x.owed.flatMap fun e => targets e.1) ++ (match x.iterNext with
      | none => []
      | some (i, _) => [i])
/-- Instructions and all that their tokens can reach; `n` bounds the search. -/
def downstream (n : Nat) (img : List Word) (todo seen : List Nat) : List Nat :=
  match n, todo with
  | 0, _ => seen
  | _, [] => seen
  | n + 1, i :: r =>
    match instrAt img i with
    | none => downstream n img r seen
    | some k =>
      let next := (((targetsOf k).map fun t => (t.extractLsb' 2 7).toNat).filter fun j => !seen.contains j).eraseDups
      downstream n img (r ++ next) (seen ++ next)
/-- The memory instructions and fences of a block with an LSID below `l` that have not acted, or have more of their pieces before them
(R118, R224). DEDUCED (log entry 24). -/
def unacted (s : State) (c : Nat) (x : Ctx) (l : Nat) : List Instr :=
  let low := (List.range (blkCount x.image)).filter fun i => match (instrAt x.image i).bind lsidOf with
    | none => false
    | some m => decide (m < l)
  if low.isEmpty then []
  else
    let start := (activeInsts s c x).eraseDups
    let live := downstream 1024 x.image start start
    low.filterMap fun i => if live.contains i then instrAt x.image i else none
/-- Whether an instruction is a fence. -/
def isFence (i : Instr) : Bool :=
  match i with
  | .fence _ _ _ _ _ => true
  | _ => false

/-- Whether the accesses of a context at earlier positions than (e, l) are performed at a scope: none pending, and no store at a
peer without its acknowledgement (R234, R293). -/
def earlierDone (s : State) (c e l scope : Nat) : Bool :=
  !(s.accesses.any fun b => b.ctx == c && before b.entry b.lsid e l) &&
    !(s.xfers.any fun t => t.ctx == c && before t.entry t.lsid e l && (match t.kind with
      | .store _ => if scope = 4 then !t.vis else !t.acc
      | _ => false))

/-- Whether the store-class instructions below an access have delivered their LSIDs (R224). -/
def lsidsBelow (x : Ctx) (a : Access) : Bool :=
  a.entry != x.entry ||
    (List.range a.lsid).all fun k => !(blkMask x.image).getLsbD k || x.lsids.getLsbD k

/-- Whether an access may be performed as far as accesses and fences in hand go. -/
def readyBut (s : State) (x : Ctx) (a : Access) : Bool :=
  a.walked && !a.held &&
  (onlyStores a || lsidsBelow x a) &&
  !(s.fences.any fun f => f.reply.ctx == a.ctx && before f.entry f.lsid a.entry a.lsid) &&
  !(a.entry == x.entry && (unacted s a.ctx x a.lsid).any isFence) &&
  !(s.settling.any fun b => b.ctx == a.ctx && before b.entry b.lsid a.entry a.lsid && isSO b) &&
  !(s.accesses.any fun b => b.ctx == a.ctx && b.id != a.id &&
    ((b.fire == a.fire && decide (b.elem < a.elem) && b.walked && !b.sent) ||
     (before b.entry b.lsid a.entry a.lsid &&
       ((!b.walked && !b.held && x.frozen.isNone) || (b.walked && (isSO b || (acqScope b).isSome || (!b.sent && clash a b))))))) &&
  (match waitsAll a with
   | none => true
   | some sc => earlierDone s a.ctx a.entry a.lsid sc)
/-- The element that is one half of a possible 16-byte access with another one: element 2m at a multiple of 16 on a page (R291). -/
def halfOf (s : State) (a : Access) : Option Nat :=
  let low := if a.elem % 2 = 0 then a.addr.toNat else (a.addr.toNat + 2 ^ 64 - 8) % 2 ^ 64
  let other := if a.elem % 2 = 0 then a.elem + 1 else a.elem - 1
  let vec := match memFireAt s a.fire with
    | none => false
    | some m => m.vec
  if vec && a.size == 8 && low % 16 == 0 && bitsOf a.addr.toNat 63 56 == 0 && pageKind a != 2 then some other else none
/-- Whether an access waits for the other half of its 16 bytes: an element that is not yet accepted, or that an `st.v` has not acted on yet
(R229, R291). DEDUCED (log entry 59). -/
def waitsHalf (s : State) (x : Ctx) (a : Access) : Bool :=
  match halfOf s a with
  | none => false
  | some j =>
    x.frozen.isNone && ((s.accesses.any fun b => b.ctx == a.ctx && b.inst == a.inst && b.entry == a.entry && b.elem == j && !b.walked && !b.held) ||
      (onlyStores a && a.entry == x.entry && !(tabGet (fun _ => []) x.gathered a.inst).contains j))
/-- Whether an access waits for what may come before it: memory instructions below it that have yet to act, whose page may be strongly
ordered (R293, R295), or the other half of its 16 bytes. DEDUCED (log entry 24). -/
def waitsOthers (s : State) (x : Ctx) (a : Access) : Bool :=
  (a.entry == x.entry && !(unacted s a.ctx x a.lsid).isEmpty) || waitsHalf s x a

/-- Whether a firing of a context waits for a party that is not the performing of its own accesses, as an emission does (R307). -/
def waitsElse (s : State) (c : Nat) (x : Ctx) : Bool :=
  (s.waiters.any fun w => w.firing.ctx == c && (match instrAt x.image w.firing.inst with
    | some (.emit ..) | some (.emitT ..) | some (.emitX ..) => false
    | _ => true)) || (pressAt s x.press).spawns.any fun e => e.1.ctx == c
/-- Whether nothing of a context can act before something that waits for an instruction that has not acted: that instruction
will not act in this entry (DEDUCED, log entry 24). -/
def quiet (s : State) (c : Nat) : Bool :=
  match ctxAt s c with
  | none => false
  | some x =>
    let mine := s.accesses.filter fun a => a.ctx == c
    x.iterNext.isNone && !(s.queue.any (workOf c)) && !waitsElse s c x && !(s.xfers.any fun t => t.ctx == c) &&
      mine.all (fun a => a.walked && !(readyBut s x a && !waitsOthers s x a)) &&
      decide (x.owed.foldl (fun n e => n + e.2) 0 ≤
        (s.memFires.filter fun m => m.reply.ctx == c && !m.reply.targets.isEmpty).length +
        (s.fences.filter fun f => f.reply.ctx == c && !f.reply.targets.isEmpty).length)

/-- Whether an access may be performed now. DEDUCED (log entry 66). -/
def mayPerform (s : State) (x : Ctx) (a : Access) : Bool :=
  readyBut s x a && (!waitsOthers s x a || quiet s a.ctx)

/-! Bytes, with the stores of later positions set aside (R224). -/

/-- The key of a byte in the context's list of replaced bytes. -/
def undoKey (p : Place) (i : Nat) : Option Nat :=
  match p with
  | .hbm pa => some (2 * (pa + i))
  | .tile g k o => some (2 * slotAddr g k (o + i) + 1)
  | _ => none
/-- The entry of a byte with the lowest LSID above `l`: its place in the list. -/
def undoAbove (x : Ctx) (key l : Nat) : Option (Nat × Nat × Byte) :=
  x.undo.foldl (fun b e => if e.1 = key ∧ l < e.2.1 then (match b with
    | none => some e
    | some d => if e.2.1 < d.2.1 then some e else b) else b) none
/-- `l` with the byte of the first entry like `e` replaced. DESIGN CHOICE (log entry 58). -/
def undoSet (l : List (Nat × Nat × Byte)) (e : Nat × Nat × Byte) (v : Byte) : List (Nat × Nat × Byte) :=
  match l with
  | [] => []
  | d :: r => if d.1 = e.1 ∧ d.2.1 = e.2.1 then (d.1, d.2.1, v) :: r else d :: undoSet r e v

/-- The bytes of a place as memory has them. -/
def placeRead (s : State) (x : Ctx) (p : Place) (n : Nat) : List Byte :=
  match p with
  | .hbm pa => hbmRead s pa n
  | .tile g k o => slotRead s g k o n
  | .lane o => match stepAt s x.stp with
    | none => List.replicate n 0
    | some r => windowRead r o n
  | .payload m o => match memberAt s x.stp m with
    | none => List.replicate n 0
    | some q => padTo n (q.stim.bytes.drop o)
  | .remote _ _ _ => []
/-- The bytes that an access of the context reads at its position. -/
def readAt (s : State) (a : Access) (x : Ctx) (p : Place) (n : Nat) : List Byte :=
  let bs := placeRead s x p n
  if x.undo.isEmpty ∨ a.entry ≠ x.entry then bs
  else bs.zipIdx.map fun e => match (undoKey p e.2).bind fun k => undoAbove x k a.lsid with
    | none => e.1
    | some u => u.2.2

/-- One byte written at the position of an access. -/
def putByte (s : State) (a : Access) (p : Place) (i : Nat) (v : Byte) : State :=
  match ctxAt s a.ctx, undoKey p i with
  | some x, some key =>
    let low := a.entry == x.entry && ((List.range (blkCount x.image)).any fun j => match instrAt x.image j with
      | none => false
      | some k => !isFence k && (match lsidOf k with
        | none => false
        | some m => decide (m < a.lsid)))
    let old := (placeRead s x p (i + 1)).getD i 0
    match (if a.entry = x.entry then undoAbove x key a.lsid else none) with
    | some u =>
      let l := undoSet x.undo u v
      setCtx s a.ctx { x with undo := if low then l ++ [(key, a.lsid, u.2.2)] else l }
    | none =>
      let s1 := if low then setCtx s a.ctx { x with undo := x.undo ++ [(key, a.lsid, old)] } else s
      match p with
      | .hbm pa => hbmWrite s1 (pa + i) [v]
      | .tile g k o => slotWrite s1 g k (o + i) [v]
      | _ => s1
  | _, _ => s
/-- Bytes written at the position of an access. -/
def writeAt (s : State) (a : Access) (p : Place) (bs : List Byte) : State :=
  match p with
  | .lane o => modStepOf s a.ctx fun r => windowWrite r o bs
  | .payload _ _ | .remote _ _ _ => s
  | _ => bs.zipIdx.foldl (fun s e => putByte s a p e.2 e.1) s

/-! What `amo` and `cas` compute (R231, R232). -/

/-- The type of an AT code. -/
def amoTy : AmoTy → Ty
  | .i32 => .i32
  | .n32 => .n32
  | .i64 => .i64
  | .f32 => .f32
  | .t16 => .t16
/-- The new value of an `amo`, with its own bits (R231). -/
def amoNew (op : BitVec 3) (ty : AmoTy) (old y : Nat) : Nat × BitVec 5 :=
  let t := amoTy ty
  let float := tyIeee t || tyTapered t
  match op.toNat with
  | 0 => if float then fAdd t old y else (wrap (tyBits t) (intOf t old + intOf t y), 0)
  | 1 => (old &&& y, 0)
  | 2 => (old ||| y, 0)
  | 3 => (old ^^^ y, 0)
  | 4 => if float then fMinMax t false old y else (if intOf t old ≤ intOf t y then old else y, 0)
  | 5 => if float then fMinMax t true old y else (if intOf t y ≤ intOf t old then old else y, 0)
  | _ => (y, 0)
/-- What an atomic access writes over `old`, with its own bits; none where a `cas` does not match. -/
def atomicNew (a : Access) (old : Nat) : Option Nat × BitVec 5 :=
  match a.kind with
  | .amo op ty => let r := amoNew op ty old a.val.toNat; (some r.1, r.2)
  | .cas _ => (if old = a.val.toNat then some a.val2.toNat else none, 0)
  | _ => (none, 0)

/-! Results (R223, R226, R228). -/

/-- The type of the values of `ld` and `st` as they stand in memory: their size (R223). -/
def memSize (t : Ty) : Nat := widthBytes (tyWidth t)
/-- The width that a load delivers and a store takes (R223). -/
def memWidth (t : Ty) : Width :=
  match t with
  | .i8 | .i16 | .n8 | .n16 => .w32
  | _ => tyWidth t
/-- A loaded value widened (R223). -/
def widen (t : Ty) (v : Nat) : Nat :=
  match t with
  | .i8 => wrap 32 (signed 8 v)
  | .i16 => wrap 32 (signed 16 v)
  | _ => v

/-- The results of a firing delivered once all its accesses are performed (R226, R228). -/
def deliverMem (s : State) (m : MemFire) : State :=
  let n := if m.vec then 32 else m.firing.len
  let sb := m.reply.sb ||| m.own
  let runs := if m.results.isEmpty then [] else runsFrom 0 ((List.range n).map fun j => (tabFind m.results j).isSome)
  let s1 := runs.foldl (fun s q =>
    sendReply s m.reply (freshToken q.1 ((List.range q.2).map fun k => (tabFind m.results (q.1 + k)).getD 0) m.ew false sb)) s
  closeReply { s1 with memFires := s1.memFires.filter fun k => k.id != m.id } m.reply

/-- An access is performed: its values are kept, and the firing delivers after its last one. -/
def accDone (s : State) (a : Access) (vals : List (Nat × Nat)) (own : BitVec 5) : State :=
  let s1 := modMemFire (dropAcc s a.id) a.fire fun m =>
    { m with own := m.own ||| own, results := vals.foldl (fun l v => tabPut l v.1 (BitVec.ofNat 64 v.2)) m.results }
  (a.fire :: a.twin.toList).foldl (fun s id =>
    let s1 := modMemFire s id fun m => { m with left := m.left - 1 }
    match memFireAt s1 id with
    | none => s1
    | some m => if m.left = 0 then deliverMem s1 m else s1) s1

/-- The values of a load by element: a 16-byte access holds two (R291). -/
def loadVals (m : MemFire) (a : Access) (bs : List Byte) : List (Nat × Nat) :=
  if a.size = 16 then [(a.elem, leNat (bs.take 8)), (a.elem + 1, leNat (bs.drop 8))]
  else [(a.elem, if isAtomic a then leNat bs else widen m.ty (leNat bs))]
/-- The bytes of a store. -/
def storeBytes (a : Access) : List Byte :=
  if a.size = 16 then leBytes 8 a.val.toNat ++ leBytes 8 a.val2.toNat else leBytes a.size a.val.toNat

/-! Performing (R288, R376, R377). -/

/-- The parts of an access with their offset in it. -/
def partsFrom (o : Nat) (ps : List (Place × Nat × BitVec 2 × Bool)) : List (Nat × Place × Nat × BitVec 2 × Bool) :=
  match ps with
  | [] => []
  | p :: r => (o, p) :: partsFrom (o + p.2.1) r
/-- The checked local lines of an access with the VA of its first byte in each (R331). -/
def raceLines (a : Access) : List (Nat × Nat) :=
  (partsFrom 0 a.parts).flatMap fun e => match e.2 with
    | (.hbm pa, n, _, true) => (linesOf pa n).map fun l => (l, (a.addr.toNat + e.1 + (64 * l - pa)) % 2 ^ 56)
    | _ => []
/-- The first bad granule that an access reads: boundary, cause and AUX (R376). -/
def badGranule (s : State) (a : Access) : Option (Nat × Nat) :=
  if s.spoiled.isEmpty || onlyStores a then none
  else a.parts.findSome? fun p => match p.1 with
    | .hbm pa => (hbmBad s pa p.2.1).map fun g => (0x383, checkAux 0 g)
    | .tile g k o => (sramBad s (slotAddr g k o) p.2.1).map fun q => (0x384, checkAux 1 q)
    | _ => none
/-- How the race checker sees an access. DEDUCED (log entry 45). -/
def raceOf (a : Access) (stores : Bool) : RaceAcc :=
  { kind := match a.kind with
      | .load => if (acqScope a).isSome then 4 else 0
      | .store => if (relScope a).isSome then 5 else 1
      | .amo _ _ => 2
      | .cas _ => 3
    writes := !onlyLoads a, stores := stores, sync := isAtomic a || (acqScope a).isSome || (relScope a).isSome,
    acq := acqScope a, rel := if a.waive = some 0x287 then none else relScope a, queue := none, inst := a.inst, iter := a.iter,
    va := a.addr.toNat % 2 ^ 56 }

/-- The Group's copy of a line. -/
def lineAt (s : State) (g peer line : Nat) : Option Line := (groupAt s g).lines.find? fun l => l.peer == peer && l.pa == 64 * line

/-- The bytes of a line that have come for an access: the answer to its own fill, else the Group's copy. -/
def lineGot (s : State) (g : Nat) (a : Access) (peer line : Nat) : Option (List Byte) :=
  match a.got.find? fun e => e.1 == 16 + line with
  | some e => some e.2
  | none => (lineAt s g peer line).map (·.bytes)
/-- The bytes of a remote part that have come: its own response, or those of its lines. -/
def remoteGot (s : State) (x : Ctx) (a : Access) (i peer pa n : Nat) (cached : Bool) : Option (List Byte) :=
  if cached && onlyLoads a then
    let ls := (linesOf pa n).map fun k => lineGot s x.group a peer k
    if ls.all (·.isSome) then
      some (((ls.filterMap id).flatten).drop (pa % 64) |>.take n)
    else none
  else (a.got.find? fun g => g.1 == i).map (·.2)

/-- The bytes of all parts of a read, local ones as they are now; none while one has not come. -/
def allBytes (s : State) (x : Ctx) (a : Access) (ps : List ((Place × Nat × BitVec 2 × Bool) × Nat)) : Option (List Byte) :=
  match ps with
  | [] => some []
  | (p, i) :: r =>
    match (match p.1 with
      | .remote d pa ca => remoteGot s x a i d pa p.2.1 ca
      | q => some (readAt s a x q p.2.1)), allBytes s x a r with
    | some bs, some cs => some (bs ++ cs)
    | _, _ => none

/-- The acquire and scope bits of a LOADREQ (DESIGN CHOICE, log entry 26). -/
def loadFlags (a : Access) : Nat :=
  match acqScope a with
  | none => 0
  | some sc => 4 + (if sc = 4 then 8 else 0)
/-- The KIND, release and scope bits of a WRITE (R272). -/
def writeFlags (a : Access) (kind : Nat) : Nat :=
  kind % 4 + (match relScope a with
    | none => 0
    | some sc => 4 + (if sc = 4 then 8 else 0))

/-- The operation bits of an AMOREQ (R272), with the Exception Enable bits that its peer is to check the result against in bits [13:9]: a
result that the enable catches is not written (R50, R231), and R272 gives the request no place for them. DESIGN CHOICE (log entry 175). -/
def amoBits (s : State) (a : Access) : Nat :=
  a.word.toNat % 512 + (if waivesEnable a.waive then 0 else 512 * (enableOf s a.ctx).toNat)
/-- The requests of one remote part: its flits and what each carries (R272, R280). -/
def partRequests (s : State) (a : Access) (g o peer pa n kind : Nat) (cached : Bool) : List (XferKind × (Nat → List Flit)) :=
  match a.kind with
  | .store => [(.store a.id, fun x => writeFlits s peer x pa (writeFlags a kind) ((storeBytes a).drop o |>.take n))]
  | .load =>
    let ask := fun (k : XferKind) (q m : Nat) =>
      (k, fun x => [mkFlit s false 0x03 peer x 0 (leBytes 8 q ++ leBytes 4 m ++ leBytes 4 (loadFlags a))])
    if cached then ((linesOf pa n).filter fun l => (lineGot s g a peer l).isNone).map fun l => ask (.lineFill a.id (64 * l) false) (64 * l) 64
    else [ask (.load a.id) pa n]
  | .amo _ _ => [(.atomic a.id, fun x => [mkFlit s false 0x05 peer x 0
      (leBytes 8 pa ++ leBytes 8 (amoBits s a) ++ leBytes 8 a.val.toNat)])]
  | .cas _ => [(.atomic a.id, fun x => [mkFlit s false 0x05 peer x 0
      (leBytes 8 pa ++ leBytes 8 (a.word.toNat % 512) ++ leBytes 8 a.val.toNat ++ leBytes 8 a.val2.toNat)])]

/-- Requests sent in order; none where the transfer tags run out. -/
def sendRequests (s : State) (a : Access) (link peer i : Nat) (rs : List (XferKind × (Nat → List Flit))) : Option State :=
  match rs with
  | [] => some s
  | (k, fl) :: r => match freeXtag s with
    | none => none
    | some x => sendRequests (sendFlits (addXfer s x peer a.ctx k a.entry a.lsid i) link (fl x)) a link peer i r

/-- The requests of all remote parts: sent, not yet possible, or without a route (R281). -/
def sendParts (s : State) (a : Access) (g : Nat) (ps : List ((Nat × Place × Nat × BitVec 2 × Bool) × Nat)) : Got State :=
  match ps with
  | [] => .ok s
  | ((o, p), i) :: r =>
    match p with
    | (.remote d pa ca, n, kind, _) =>
      match linkTo s d with
      | none => .bad 0x300 d pa
      | some l =>
        let s0 := if onlyLoads a then s else dropLinesOf s g d pa n
        match sendRequests s0 a l d i (partRequests s0 a g o d pa n kind.toNat ca) with
        | none => .wait
        | some s1 => sendParts s1 a g r
    | _ => sendParts s a g r

/-- The event that performs an access. -/
def perfEv (a : Access) : Instr := .accessPerformed a.id

/-- An access goes on once the race checker lets it (R336, R340, R343). -/
def withRace (s : State) (a : Access) (stores : Bool) (go : State → State) : State :=
  match raceAccess s a.ctx (raceOf a stores) (!passed a.waive 0x280) (raceLines a) with
  | .wait => pushEv (slotWaits s a.ctx) (perfEv a)
  | .trap s1 c aux items => accFault s1 a c aux 0 items (perfEv a)
  | .ok s1 => go s1

/-- The local parts of a store written. DEDUCED (log entry 61). -/
def storeParts (s : State) (a : Access) (bs : List Byte) (sb : BitVec 5) : State :=
  (partsFrom 0 a.parts).foldl (fun s e =>
    let s1 := writeAt s a e.2.1 (bs.drop e.1 |>.take e.2.2.1)
    match e.2.1, ctxAt s1 a.ctx with
    | .tile g k _, some x => offend s1 g k a.inst a.iter sb x.tag
    | _, _ => s1) s

/-- The own and input bits of a firing with a bit of its own that Exception Enable catches (R50, R231). -/
def atomicCause (x : Ctx) (a : Access) (own : BitVec 5) : Option (BitVec 10) :=
  if waivesEnable a.waive then none else enableCause (own &&& x.eenable)

/-- A store performed; at peers it is performed once acknowledged *acc* (R234). -/
def performStore (s : State) (x : Ctx) (a : Access) (sb : BitVec 5) : State :=
  withRace s a true fun s1 =>
    match sendParts s1 a x.group ((partsFrom 0 a.parts).zipIdx) with
    | .bad c d pa => accFault s { a with addr := BitVec.ofNat 64 pa } c d 0 [] (perfEv a)
    | .wait => pushEv s (perfEv a)
    | .ok s2 =>
      let s3 := storeParts s2 a (storeBytes a) sb
      if hasRemote a then modAcc s3 a.id fun a => { a with sent := true } else accDone s3 a [] 0

/-- The loading of remote parts started. -/
def askRemote (s : State) (x : Ctx) (a : Access) : State :=
  match sendParts s a x.group ((partsFrom 0 a.parts).zipIdx) with
  | .bad c d pa => accFault s { a with addr := BitVec.ofNat 64 pa } c d 0 [] (perfEv a)
  | .wait => pushEv s (perfEv a)
  | .ok s1 => modAcc s1 a.id fun a => { a with sent := true }

/-- An acquire at system scope drops the Group's copies once performed (R213). -/
def acquired (s : State) (x : Ctx) (a : Access) : State := if acqScope a = some 4 then dropLines s x.group else s

/-- A load performed (R228). -/
def performLoad (s : State) (x : Ctx) (a : Access) (m : MemFire) : State :=
  match allBytes s x a a.parts.zipIdx with
  | none => askRemote s x a
  | some bs => withRace s a false fun s1 => accDone (acquired s1 x a) a (loadVals m a bs) 0

/-- An `amo` or `cas` performed where its bytes are: here, or by its peer, whose response gives the old value (R231 to R233). A result
that Exception Enable catches is neither written, here or there, nor delivered; after the resume it is asked for once more. -/
def performAtomic (s : State) (x : Ctx) (a : Access) (m : MemFire) : State :=
  match allBytes s x a a.parts.zipIdx with
  | none => askRemote s x a
  | some bs =>
    let old := leNat bs
    let new := atomicNew a old
    let sb := m.reply.sb ||| new.2
    match atomicCause x a new.2 with
      | some c => accFault (modAcc s a.id fun a => { a with sent := false, got := [] }) a c.toNat 0 sb [] (perfEv a)
      | none => withRace s a (new.1.isSome && !hasRemote a) fun s1 =>
        let s2 := match new.1 with
          | none => s1
          | some v => storeParts s1 a (leBytes a.size v) sb
        accDone (sinkBits (acquired s2 x a) a.ctx new.2) a (loadVals m a bs) new.2

/-- Whether the place of a part is not ready: its HBM stack, or a page that is being migrated (R78, R214). -/
def placeWaits (s : State) (x : Ctx) (a : Access) : Bool :=
  ((partsFrom 0 a.parts).any fun e => match e.2.1 with
    | .hbm pa => !stackReady s pa
    | .remote _ _ _ => !a.sent && migrating s x.ten ((a.addr.toNat + e.1) % 2 ^ 56)
    | _ => false)

/-- One access performed at its ordering point (R288). The firing of a store that its peer refuses late is over (R285). -/
def performAccess (s : State) (x : Ctx) (a : Access) : State :=
  if placeWaits s x a then pushEv s (perfEv a)
  else match badGranule s a with
    | some (c, aux) => accFault s a c aux 0 [] (perfEv a)
    | none => match a.kind, memFireAt s a.fire with
      | .store, none => performStore s x a 0
      | .store, some m => performStore s x a m.reply.sb
      | _, none => dropAcc s a.id
      | .load, some m => performLoad s x a m
      | .amo _ _, some m | .cas _, some m => performAtomic s x a m

/-! Translation and acceptance. -/

/-- An LSID is delivered (R128). -/
def deliverLsid (s : State) (c l : Nat) : State := modCtx s c fun x => { x with lsids := x.lsids ||| (1#32 <<< l) }

/-- An `st.v` has acted on every iteration of its window (R229). -/
def gatheredAll (x : Ctx) (inst : Nat) : Bool :=
  let l := tabGet (fun _ => []) x.gathered inst
  (List.range 32).all fun i => l.contains i
/-- A firing all of whose accesses are accepted delivers its LSID; `st.v` once it has acted on its whole window. -/
def fireAccepted (s : State) (c inst : Nat) (vec : Bool) (lsid : Option Nat) : State :=
  match lsid, ctxAt s c with
  | some l, some x =>
    if vec && (!gatheredAll x inst || s.memFires.any fun m => m.reply.ctx == c && m.reply.inst == inst && m.toAccept != 0) then s
    else deliverLsid s c l
  | _, _ => s

/-- No access of a context waits for a walk any more: the cycles of event 0x004 are counted (R392). DEDUCED (log entry 51). -/
def walkEnds (s : State) (c : Nat) : State :=
  match ctxAt s c with
  | none => s
  | some x => match x.walkSince with
    | none => s
    | some t =>
      if s.accesses.any fun a => a.ctx == c && !a.walked && !a.held then s
      else ctxCount (setCtx s c { x with walkSince := none }) c 0x004 (cyclesOf (s.now - t))

/-- The uses that a Group makes of a page to be migrated, and the migration that its threshold starts (R214, R215). -/
def countUse (s : State) (g ten va : Nat) (p : Spot) : State :=
  if p.mode ≠ 3 then s
  else
    let base := va / p.size * p.size
    match tlbFind (groupAt s g).tlb ten va with
    | none => s
    | some e =>
      let n := if e.count + 1 < 65536 then e.count + 1 else e.count
      let s1 := modGroup s g fun q =>
        { q with tlb := mapWhere (fun (t : TlbEntry) => t.ten == ten && t.va == va / t.size * t.size) (fun t => { t with count := n }) q.tlb }
      let k := bitsOf p.pte 40 38
      let limit := csrBits s (0x360 + k / 4) (16 * (k % 4) + 15) (16 * (k % 4))
      if n ≠ limit ∨ e.count = n ∨ csrBits s 0x3D8 2 2 = 0 ∨ migrating s ten va then s1
      else
        let size := csrBits s 0x363 4 0
        let cons := csrBits s 0x363 63 48
        if size < 4 ∨ 12 < size ∨ cons = csrBits s 0x363 47 32 then
          pfEvent s1 { recOf 0x109 with ten := ten, addr := va }
        else
          let frame := hbmDbl s (csrBits s 0x362 47 3 * 8 + 8 * (cons % 2 ^ size)) % 2 ^ 32
          let s2 := csrPoke s1 0x363 63 48 ((cons + 1) % 65536)
          pushEvOnce { s2 with migrations := s2.migrations ++
            [{ ten := ten, va := base, pteAddr := p.pteAddr, peer := p.peer, oldFrame := bitsOf p.pte 31 0, newFrame := frame }] }
            (.migrationComplete ten base)

/-- The place of 16 bytes whose halves are two places. -/
def joinPlaces (p q : Place) : Option Place :=
  match p, q with
  | .hbm a, .hbm b => if b = a + 8 then some p else none
  | .remote d a k, .remote e b l => if d = e ∧ b = a + 8 ∧ k = l then some p else none
  | _, _ => none
/-- Two elements as one access of 16 bytes, where both are accepted and neither has begun to be performed (R291). -/
def joinedAcc (a b : Access) : Option Access :=
  match a.parts, b.parts with
  | [(p, _, k, r)], [(q, _, _, _)] =>
    if b.walked && !(a.sent || b.sent || a.held || b.held || a.waive.isSome || b.waive.isSome || b.size != 8) then
      (joinPlaces p q).map fun p => { a with size := 16, val2 := b.val, twin := some b.fire, parts := [(p, 16, k, r)] }
    else none
  | _, _ => none
/-- An accepted element joined with the other half of its 16 bytes, if that is accepted. -/
def joinHalves (s : State) (a : Access) : State :=
  match (halfOf s a).bind fun j => s.accesses.find? fun b => b.ctx == a.ctx && b.inst == a.inst && b.entry == a.entry && b.elem == j with
  | none => s
  | some b =>
    let lo := if a.elem % 2 = 0 then a else b
    let hi := if a.elem % 2 = 0 then b else a
    match (if b.walked then joinedAcc lo hi else none) with
    | none => s
    | some c => modAcc (dropAcc s hi.id) lo.id fun _ => c
/-- Whether an access is to the Lane File window. -/
def inLane (a : Access) : Bool := a.parts.any fun p => match p.1 with
  | .lane _ => true
  | _ => false
/-- An access whose translation passed (R211, R229): accepted by the memory queue, once. Lane File accesses are performed as they are
accepted, in the order in which they fire (R190). DEDUCED (log entry 60). -/
def accept (s : State) (a : Access) (parts : List (Place × Nat × BitVec 2 × Bool)) : State :=
  let s1 := walkEnds (modAcc s a.id fun a => { a with parts := parts, walked := true }) a.ctx
  let s2 := if a.parts.isEmpty then
      let s2 := modMemFire s1 a.fire fun m => { m with toAccept := m.toAccept - 1 }
      match memFireAt s2 a.fire with
      | none => s2
      | some m => if m.toAccept = 0 then fireAccepted s2 a.ctx a.inst m.vec m.lsid else s2
    else s1
  let s3 := match accAt s2 a.id with
    | none => s2
    | some b => joinHalves s2 b
  match accAt s3 a.id, ctxAt s3 a.ctx with
  | some b, some x => if inLane b then performAccess s3 x b else pushEv s3 (perfEv b)
  | _, _ => s3

/-- The translation of an access; without `walks` one that misses the TLBs waits for its walk (R210). DEDUCED (log entry 63). -/
def translate (s : State) (walks : Bool) (a : Access) : State :=
  let again := Instr.pageWalkComplete a.id
  match ctxAt s a.ctx with
  | none => s
  | some x =>
    if x.frozen.isSome then parkWork s a.ctx (.event again)
    else
      let v := a.addr.toNat
      let top := bitsOf v 63 56
      let one := fun (r : Except Nat Place) => match r with
        | .error c => accFault s a c 0 0 [] again
        | .ok p => accept s a [(p, a.size, 1, false)]
      if isAtomic a && decide (v % a.size ≠ 0) then accFault s a 0x118 0 0 [] again
      else if top = 0xE0 then one (lanePlace s x a)
      else if top = 0xE8 ∨ top = 0xEC then one (sramPlace s x a)
      else if top ≠ 0 then accFault s a 0x110 0 0 [] again
      else
        let ps := partsOf (v % 2 ^ 56) a.size
        if !walks && ps.any fun p => (tlbLook s x.press x.group x.ten p.1).isNone then
          pushEv (modCtx s a.ctx fun x => { x with walkSince := some (x.walkSince.getD s.now) }) again
        else match spotsFind s (some (x.press, x.group)) x.ten (wayOf a.kind) ps with
          | .wait => pushEv s again
          | .bad c aux va => accFault s { a with addr := BitVec.ofNat 64 (if va = (ps.headD (0, 0)).1 then v else va) } c aux 0 [] again
          | .ok l =>
            let s1 := spotsMark s (some (x.press, x.group)) x.ten (wayOf a.kind) l
            let s2 := l.foldl (fun s e => countUse s x.group x.ten e.2.1 e.1) s1
            accept s2 a (l.map fun e => (spotPlace e.1, e.2.2, BitVec.ofNat 2 e.1.kind, e.1.checked))

/-- PAGE_WALK_COMPLETE (R207 to R212): the walk of an access ends; it is accepted or faults. -/
def execPageWalkComplete (acc : Nat) (s : State) : Next :=
  .next (match accAt s acc with
    | none => s
    | some a => if a.walked then s else settle (translate s true a) a.ctx)

/-- Whether none of the accepted accesses of a frozen context can be performed before it is resumed (R211). -/
def stalled (s : State) (x : Ctx) (c : Nat) : Bool :=
  !(s.accesses.any fun b => b.ctx == c && b.walked && !b.held && (b.sent || mayPerform s x b)) && !(s.xfers.any fun t => t.ctx == c)
/-- ACCESS_PERFORMED (R288): an access is performed at its ordering point, or waits for those that go before it. Those of a frozen context
that had passed translation go on (R211). -/
def execAccessPerformed (acc : Nat) (s : State) : Next :=
  .next (match accAt s acc with
    | none => s
    | some a => match ctxAt s a.ctx with
      | none => dropAcc s acc
      | some x =>
        if a.held then s
        else if !a.walked then settle (translate s true a) a.ctx
        else if inLane a || mayPerform s x a then settle (performAccess s x a) a.ctx
        else if x.frozen.isSome && stalled s x a.ctx then parkWork s a.ctx (.event (.accessPerformed acc))
        else pushEv s (.accessPerformed acc))

end Sys2Proof.Machine
end

