-- ==== Sys2Proof/Machine/Memory.lean ====
section
/-! DEFINITION. The memory instructions (R223 to R237): loads, stores, atomics, fences, and the base registers. -/

namespace Sys2Proof.Machine

/-- What a memory instruction asks of its accesses. -/
structure MemReq where
  kind : AccKind
  ty : Ty
  ew : Width
  size : Nat
  acq : Bool
  rel : Bool
  sys : Bool
  vec : Bool
  lsid : Nat

/-- One element's access: its element, iteration, address, and values. -/
structure MemElem where
  elem : Nat
  iter : Nat
  addr : Nat
  val : Nat
  val2 : Nat

/-- An access of an element. -/
def accessOf (x : Ctx) (f : Firing) (q : MemReq) (fire id : Nat) (e : MemElem) : Access :=
  { id := id, fire := fire, ctx := f.ctx, inst := f.inst, elem := e.elem, iter := e.iter, entry := x.entry, lsid := q.lsid,
    block := x.block, word := (wordFor x.image f.inst f.iter).1, kind := q.kind, addr := BitVec.ofNat 64 e.addr,
    size := q.size, val := BitVec.ofNat 64 e.val, val2 := BitVec.ofNat 64 e.val2, acq := q.acq, rel := q.rel,
    sys := q.sys, parts := [], walked := false, sent := false, got := [], waive := none, held := false, twin := none }

/-- The accesses of a firing are issued in the order of its elements, each translated at once if it needs no walk (R210, R228). DEDUCED
(log entry 59). -/
def memIssue (s : State) (m : FireMode) (f : Firing) (ts : List Target) (q : MemReq) (es : List MemElem) : State :=
  match ctxAt s f.ctx with
  | none => s
  | some x =>
    let r := openReply s m f ts
    let fire := r.1.nextId
    let reply := if q.vec then { r.2 with iter := 0 } else r.2
    let accs := es.zipIdx.map fun e => accessOf x f q fire (fire + 1 + e.2) e.1
    let mf : MemFire := { id := fire, firing := f, reply := reply, ty := q.ty, ew := q.ew, toAccept := accs.length, left := accs.length,
                          lsid := match q.kind with
                            | .load => none
                            | _ => some q.lsid
                          vec := q.vec, results := [], own := 0 }
    let s1 := { r.1 with memFires := r.1.memFires ++ [mf], accesses := r.1.accesses ++ accs, nextId := fire + accs.length + 1 }
    let s2 := ctxCount s1 f.ctx 0x006 accs.length
    let s3 := match q.kind with
      | .load => s2
      | _ => sinkBits s2 f.ctx (inputBits f)
    accs.foldl (fun s a => match accAt s a.id with
      | none => s
      | some b => translate s false b) s3

/-- Whether an operand on any port was sent with more than one element (R225). -/
def longOperand (f : Firing) : Bool := (operands f).any fun t => decide (1 < t.span)
/-- Whether an LSID may not be delivered: its mask bit is 0, or it has been, or another access is about to (R130). -/
def lsidBad (s : State) (f : Firing) (l : Nat) : Bool :=
  match ctxAt s f.ctx with
  | none => false
  | some x => !(blkMask x.image).getLsbD l || x.lsids.getLsbD l ||
    s.memFires.any fun m => m.reply.ctx == f.ctx && m.lsid == some l && m.toAccept != 0 && !(m.vec && m.reply.inst == f.inst)

/-- A base register as fixed at the previous commit (R127). -/
def baseReg (s : State) (c n : Nat) : Nat :=
  match ctxAt s c with
  | none => 0
  | some x => (tabGet (fun _ => 0) x.b n).toNat
/-- An address: a base and a signed offset modulo 2^64. -/
def addrOf (base : Nat) (off : Int) : Nat := wrap 64 ((base : Int) + off)

/-- The first failing check of a firing that stores: widths, scale states, single elements, its LSID (R163, R130). -/
def storeFault (s : State) (f : Firing) (want : Port → Option Width) (agree : List Port) (vec : Bool) (l : Nat) : Option Nat :=
  match operandFault f want agree .pass with
  | some c => some c
  | none =>
    if !vec && longOperand f && !passed f.waive 0x11B then some 0x11B
    else if vec && inLoop s f.ctx && !passed f.waive 0x11A then some 0x11A
    else if lsidBad s f l && !passed f.waive 0x042 then some 0x042
    else none

/-- A null at a store-class instruction whose operands pass their checks: its LSID is delivered, without an access (R128, R225). -/
def nullStore (s : State) (f : Firing) (want : Port → Option Width) (l : Nat) : State :=
  match storeFault s f want [] false l with
  | some c => fireFault s f c (fireInfo f)
  | none => deliverLsid (sinkBits s f.ctx (inputBits f)) f.ctx l

/-! Loads (R228). -/

/-- The first failing check of a firing that loads: the width of its index, and of `ld.v` a single element outside a resident loop
(R163, R228, R230). -/
def indexFault (s : State) (vec : Bool) (f : Firing) : Option Nat :=
  match operandFault f (fun q => if q == .a then some .w32 else none) [] .pass with
  | some c => some c
  | none =>
    if vec && manyElems f && !passed f.waive 0x11B then some 0x11B
    else if vec && inLoop s f.ctx && !passed f.waive 0x11A then some 0x11A
    else none

/-- LD (R228). -/
def execLd (f : FireMode) (l : BitVec 5) (t : Target) (b : BitVec 4) (y : Ty) (acq : Bool) (s : State) : Next :=
  onFire f s (passEosAfter s [t]) (nullsUnless (indexFault s false) s f [t]) fun w =>
    match indexFault s false w with
    | some c => fireFault s w c (fireInfo w)
    | none =>
      memIssue s f w [t] { kind := .load, ty := y, ew := memWidth y, size := memSize y, acq := acq, rel := false, sys := false,
                           vec := false, lsid := l.toNat }
        ((firedElems f w).map fun j =>
          { elem := j, iter := (w.iter + j) % 65536, addr := addrOf (baseReg s w.ctx b.toNat) (signed 32 (elemAt w.a j)), val := 0,
            val2 := 0 })

/-- LD_V (R228, R230): 32 elements from one index. -/
def execLdV (f : FireMode) (l : BitVec 5) (t : Target) (b : BitVec 4) (y : Ty) (acq : Bool) (s : State) : Next :=
  onFire f s (passEosAfter s [t]) (nullsUnless (indexFault s true) s f [t]) fun w =>
    match indexFault s true w with
    | some c => fireFault s w c (fireInfo w)
    | none =>
      memIssue s f w [t] { kind := .load, ty := y, ew := memWidth y, size := memSize y, acq := acq, rel := false, sys := false,
                           vec := true, lsid := l.toNat }
        ((List.range 32).map fun j =>
          { elem := j, iter := j, val := 0, val2 := 0, addr := addrOf (baseReg s w.ctx b.toNat) (signed 32 (aFirst f w) + (memSize y * j : Nat)) })

/-! Stores (R229). -/

/-- ST (R229). -/
def execSt (f : FireMode) (l : BitVec 5) (b : BitVec 4) (y : Ty) (rel : Bool) (k : BitVec 9) (s : State) : Next :=
  let want := fun (q : Port) => if q == .a then some (memWidth y) else none
  onFire f s (fun _ _ => s) (fun w => nullStore s w want l.toNat) fun w =>
    match storeFault s w want [] false l.toNat with
    | some c => fireFault s w c (fireInfo w)
    | none =>
      memIssue s f w [] { kind := .store, ty := y, ew := memWidth y, size := memSize y, acq := false, rel := rel, sys := false,
                          vec := false, lsid := l.toNat }
        [{ elem := 0, iter := w.iter, addr := addrOf (baseReg s w.ctx b.toNat) (k.toInt * memSize y), val := aFirst f w, val2 := 0 }]

/-- An `st.v` has acted on the iterations of a firing (R229). -/
def gather (s : State) (f : Firing) : State :=
  modCtx s f.ctx fun x =>
    let l := tabGet (fun _ => []) x.gathered f.inst
    { x with gathered := tabSet (fun _ => []) x.gathered f.inst (l ++ (List.range f.len).map fun j => (f.iter + j) % 65536) }
/-- The end of an `st.v` piece that made no access: the LSID may be delivered now. -/
def gatherOnly (s : State) (f : Firing) (l : Nat) : State := fireAccepted (gather s f) f.ctx f.inst true (some l)
/-- The first failing check of an `st.v` piece, with its iteration: its LSID, and where it fires the width of its operand, a resident loop,
and an iteration above 31, null or not (R161, R230). -/
def pieceFault (s : State) (m : FireMode) (f : Firing) (w : Width) (l : Nat) : Option (Nat × Nat) :=
  let js := firedElems m f
  if lsidBad s f l && !passed f.waive 0x042 then some (0x042, f.iter)
  else if js.isEmpty then none
  else match operandFault f (fun q => if q == .a then some w else none) [] .pass with
    | some c => some (c, f.iter)
    | none =>
      if passed f.waive 0x11A then none
      else if inLoop s f.ctx then some (0x11A, f.iter)
      else (js.find? fun j => decide (31 < (f.iter + j) % 65536)).map fun j => (0x11A, (f.iter + j) % 65536)

/-- ST_V (R229, R230): its pieces are gathered; it delivers its LSID after iterations 0 to 31. -/
def execStV (f : FireMode) (l : BitVec 5) (b : BitVec 4) (y : Ty) (rel : Bool) (k : BitVec 9) (s : State) : Next :=
  match s.cur with
  | none => .fault .noFiring
  | some w =>
    .next (match w.eos with
      | some _ => s
      | none => match pieceFault s f w (memWidth y) l.toNat with
        | some (c, i) => fireFault s w c { noInfo with iter := i }
        | none =>
          if (firedElems f w).isEmpty then gatherOnly s w l.toNat
          else if nullOperand w then gatherOnly (sinkBits s w.ctx (inputBits w)) w l.toNat
          else
            memIssue (gather s w) f w [] { kind := .store, ty := y, ew := memWidth y, size := memSize y, acq := false, rel := rel,
                                           sys := false, vec := true, lsid := l.toNat }
              ((firedElems f w).map fun j =>
                let i := (w.iter + j) % 65536
                { elem := i, iter := i, val := elemAt w.a j, val2 := 0,
                  addr := addrOf (baseReg s w.ctx b.toNat) (k.toInt * memSize y + (memSize y * i : Nat)) }))

/-! Atomics (R231, R232). -/

/-- The acquire part of ORD. -/
def ordAcq (o : Ord) : Bool := o == .acq || o == .acqRel
/-- The release part of ORD. -/
def ordRel (o : Ord) : Bool := o == .rel || o == .acqRel
/-- A null at an `amo` or `cas` whose operands pass their checks: its LSID is delivered, and a null (R225). -/
def nullAtomic (s : State) (m : FireMode) (t : Target) (f : Firing) (want : Port → Option Width) (l : Nat) : State :=
  match storeFault s f want [] false l with
  | some c => fireFault s f c (fireInfo f)
  | none => sendNulls (nullStore s f want l) m [t] f

/-- An `amo` (R231). -/
def amoFiring (op : BitVec 3) (f : FireMode) (l : BitVec 5) (t : Target) (y : AmoTy) (o : Ord) (sys : Bool) (s : State) : Next :=
  let w := tyWidth (amoTy y)
  let want := fun (q : Port) => if q == .a then some .w64 else if q == .b then some w else none
  onFire f s (passEosAfter s [t]) (fun g => nullAtomic s f t g want l.toNat) fun g =>
    match storeFault s g want [] false l.toNat with
    | some c => fireFault s g c (fireInfo g)
    | none =>
      memIssue s f g [t] { kind := .amo op y, ty := amoTy y, ew := w, size := widthBytes w, acq := ordAcq o, rel := ordRel o, sys := sys,
                           vec := false, lsid := l.toNat }
        [{ elem := 0, iter := g.iter, addr := elemAt g.a 0, val := elemAt g.b 0 % 2 ^ widthBits w, val2 := 0 }]

/-- AMO_ADD (R231). -/
def execAmoAdd (f : FireMode) (l : BitVec 5) (t : Target) (y : AmoTy) (o : Ord) (sys : Bool) (s : State) : Next := amoFiring 0 f l t y o sys s
/-- AMO_AND (R231). -/
def execAmoAnd (f : FireMode) (l : BitVec 5) (t : Target) (y : AmoTy) (o : Ord) (sys : Bool) (s : State) : Next := amoFiring 1 f l t y o sys s
/-- AMO_OR (R231). -/
def execAmoOr (f : FireMode) (l : BitVec 5) (t : Target) (y : AmoTy) (o : Ord) (sys : Bool) (s : State) : Next := amoFiring 2 f l t y o sys s
/-- AMO_XOR (R231). -/
def execAmoXor (f : FireMode) (l : BitVec 5) (t : Target) (y : AmoTy) (o : Ord) (sys : Bool) (s : State) : Next := amoFiring 3 f l t y o sys s
/-- AMO_MIN (R231). -/
def execAmoMin (f : FireMode) (l : BitVec 5) (t : Target) (y : AmoTy) (o : Ord) (sys : Bool) (s : State) : Next := amoFiring 4 f l t y o sys s
/-- AMO_MAX (R231). -/
def execAmoMax (f : FireMode) (l : BitVec 5) (t : Target) (y : AmoTy) (o : Ord) (sys : Bool) (s : State) : Next := amoFiring 5 f l t y o sys s
/-- AMO_XCHG (R231). -/
def execAmoXchg (f : FireMode) (l : BitVec 5) (t : Target) (y : AmoTy) (o : Ord) (sys : Bool) (s : State) : Next := amoFiring 6 f l t y o sys s

/-- CAS (R232): the two values must agree in scale state (R226). -/
def execCas (f : FireMode) (l : BitVec 5) (t : Target) (wide : Bool) (o : Ord) (sys : Bool) (s : State) : Next :=
  let w : Width := if wide then .w64 else .w32
  let want := fun (q : Port) => if q == .a then some .w64 else if q == .p then none else some w
  onFire f s (passEosAfter s [t]) (fun g => nullAtomic s f t g want l.toNat) fun g =>
    match storeFault s g want [.b, .c] false l.toNat with
    | some c => fireFault s g c (fireInfo g)
    | none =>
      memIssue s f g [t] { kind := .cas wide, ty := if wide then .n64 else .n32, ew := w, size := widthBytes w, acq := ordAcq o,
                           rel := ordRel o, sys := sys, vec := false, lsid := l.toNat }
        [{ elem := 0, iter := g.iter, addr := elemAt g.a 0, val := elemAt g.b 0 % 2 ^ widthBits w,
           val2 := elemAt g.c 0 % 2 ^ widthBits w }]

/-! Fences (R234, R235). -/

/-- The code of a scope (R153). -/
def scopeCode : Scope → Nat
  | .ctx => 0
  | .press => 1
  | .group => 2
  | .device => 3
  | .system => 4

/-- The engine operations of a context in its Press that have not ended. -/
def ctxOps (s : State) (c : Nat) : List EngOp :=
  match ctxAt s c with
  | none => []
  | some x =>
    let p := pressAt s x.press
    (p.queues.flatMap (·.2) ++ p.running).filter fun o => o.ctx == c
/-- Whether an operation may write at a peer: `cp.rem` and Graver storers (R234). -/
def writesRemote (k : EngKind) : Bool :=
  match k with
  | .remoteCopy _ _ _ => true
  | .graverRun d _ _ => d
  | _ => false
/-- The operation of a context that a transfer writes for. -/
def xferOp (c : Nat) (t : Xfer) : Option Nat :=
  if t.ctx ≠ c then none
  else match t.kind with
    | .copy o => some o
    | .unitWrite w => if opOwner 0 ≤ w ∧ w < opOwner (2 ^ 46) then some (w - opOwner 0) else none
    | _ => none
/-- The engine operations whose writes a fence waits for: those in their queues, and those with writes not yet acknowledged *vis*. -/
def fenceOps (s : State) (c : Nat) (lv : Level) : List Nat :=
  if lv = .order then []
  else ((ctxOps s c).filter fun o => writesRemote o.kind).map (·.id) ++ s.xfers.filterMap (xferOp c)

/-- FENCE (R234). -/
def execFence (f : FireMode) (l : BitVec 5) (t : Target) (scope : Scope) (level : Level) (s : State) : Next :=
  onFire f s (passEosAfter s [t]) (fun _ => s) fun w =>
    match ctxAt s w.ctx with
    | none => s
    | some x =>
      let r := openReply s f w [t]
      let rec' : FenceRec := { id := r.1.nextId, reply := r.2, entry := x.entry, lsid := l.toNat, scope := scope, level := level,
                               ops := fenceOps s w.ctx level, waive := false }
      pushEvOnce (bumpId { r.1 with fences := r.1.fences ++ [rec'] }) .fenceComplete

/-- Whether a fence's waits are met (R234). -/
def fenceReady (s : State) (f : FenceRec) : Bool :=
  let c := f.reply.ctx
  match ctxAt s c with
  | none => true
  | some x =>
    x.frozen.isNone && earlierDone s c f.entry f.lsid (scopeCode f.scope) &&
      !(s.fences.any fun g => g.reply.ctx == c && before g.entry g.lsid f.entry f.lsid) &&
      !((ctxOps s c).any fun o => f.ops.contains o.id) &&
      !(s.xfers.any fun t => match xferOp c t with
        | some o => f.ops.contains o && (if f.level = .vis then !t.vis else !t.acc)
        | none => false) &&
      (f.entry != x.entry || (unacted s c x f.lsid).isEmpty || quiet s c)

/-- FENCE_COMPLETE (R234, R338): the first fence whose waits are met delivers; at system scope the Group's copies of remote lines
go (R302). -/
def execFenceComplete (s : State) : Next :=
  .next (
    let poll := fun (s : State) => if s.fences.isEmpty then s else pushEvOnce s .fenceComplete
    match s.fences.find? (fenceReady s) with
    | none => poll s
    | some f =>
      let c := f.reply.ctx
      match (if f.waive then .ok s else ctxFence s c (scopeCode f.scope)) with
      | .wait => poll (slotWaits s c)
      | .trap s1 cause aux items =>
        let s2 := { s1 with fences := mapWhere (fun g => g.id == f.id) (fun g => { g with waive := true }) s1.fences }
        poll (takeFault s2 c cause { noInfo with inst := f.reply.inst, iter := f.reply.iter, aux := BitVec.ofNat 64 aux,
                                                 items := items.map (BitVec.ofNat 64) } none)
      | .ok s1 =>
        let s2 := { s1 with fences := s1.fences.filter fun g => g.id != f.id }
        let s3 := match ctxAt s2 c with
          | none => s2
          | some x => if f.scope = .system then dropLines s2 x.group else s2
        poll (settle (answer s3 f.reply 0 .w32) c))

/-- The operation that an engine operation of a matrix unit is bound by. -/
def boundAt (s : State) (press id : Nat) : Option MxBound :=
  ((pressAt s press).units.map (·.2)).find? fun u => u.op.id == id
/-- The operations of a context that entered the queues of a mask and are not performed, each with the firings of a standing one
that have started (R235). -/
def queueOps (s : State) (c mask : Nat) : List (Nat × Nat) :=
  match ctxAt s c with
  | none => []
  | some x =>
    ((ctxOps s c).filter fun o => mask.testBit o.queue).map (fun o => (o.id, 0)) ++
      (pressAt s x.press).units.filterMap fun u =>
        if u.2.op.ctx = c ∧ mask.testBit u.2.op.queue ∧ u.2.written < u.2.fired then some (u.2.op.id, u.2.fired) else none

/-- QFENCE (R235). -/
def execQfence (f : FireMode) (t : Target) (mask : BitVec 8) (s : State) : Next :=
  onFire f s (passEosAfter s [t]) (fun _ => s) fun w =>
    let r := openReply s f w [t]
    let ops := queueOps s w.ctx mask.toNat
    if ops.isEmpty then answer r.1 r.2 0 .w32
    else pushEvOnce (bumpId { r.1 with qfences := r.1.qfences ++ [{ id := r.1.nextId, reply := r.2, ops := ops }] }) .qfenceComplete

/-- Whether an operation is performed as far as a `qfence` asks (R235). DEDUCED (log entry 79). -/
def opPerformed (s : State) (c : Nat) (o : Nat × Nat) : Bool :=
  match ctxAt s c with
  | none => true
  | some x =>
    !((ctxOps s c).any fun p => p.id == o.1) &&
      match boundAt s x.press o.1 with
      | none => true
      | some u => decide (o.2 ≤ u.written)

/-- QFENCE_COMPLETE (R235): the first `qfence` whose operations are performed delivers. -/
def execQfenceComplete (s : State) : Next :=
  .next (
    let poll := fun (s : State) => if s.qfences.isEmpty then s else pushEvOnce s .qfenceComplete
    match s.qfences.find? fun q => !ctxFrozen s q.reply.ctx && q.ops.all (opPerformed s q.reply.ctx) with
    | none => poll s
    | some q =>
      poll (settle (answer { s with qfences := s.qfences.filter fun r => r.id != q.id } q.reply 0 .w32) q.reply.ctx))

/-! Base registers and apertures (R236, R237). -/

/-- One operand of one element of a width on port a (R225, R236); the cause where it is not. -/
def oneElem (f : Firing) (w : Width) : Option Nat :=
  match operandFault f (fun q => if q == .a then some w else none) [] .pass with
  | some c => some c
  | none => if manyElems f && !passed f.waive 0x11B then some 0x11B else none

/-- BSET (R236): the value is kept for the commit. DEDUCED (log entry 67). -/
def execBset (f : FireMode) (n : BitVec 4) (s : State) : Next :=
  onFire f s (fun _ _ => s) (nullsUnless (oneElem · .w64) s f []) fun w =>
    match oneElem w .w64 with
    | some c => fireFault s w c (fireInfo w)
    | none => modCtx s w.ctx fun x => { x with bsets := x.bsets ++ [(w.inst, n.toNat, BitVec.ofNat 64 (aFirst f w))] }
/-- BADD (R236): the addend is kept for the commit. -/
def execBadd (f : FireMode) (n : BitVec 4) (s : State) : Next :=
  onFire f s (fun _ _ => s) (nullsUnless (oneElem · .w32) s f []) fun w =>
    match oneElem w .w32 with
    | some c => fireFault s w c (fireInfo w)
    | none => modCtx s w.ctx fun x => { x with badds := x.badds ++ [(n.toNat, BitVec.ofNat 64 (wrap 64 (signed 32 (aFirst f w))))] }
/-- BGET (R236): a base register as fixed at the previous commit. -/
def execBget (f : FireMode) (n : BitVec 4) (t : Target) (s : State) : Next :=
  onFire f s (passEos s [t]) (fun _ => s) fun w =>
    sendPlain s f [t] { w with born := 0 } fun k =>
      freshToken 0 (List.replicate k (BitVec.ofNat 64 (baseReg s w.ctx n.toNat))) .w64 false (inputBits w)

/-- The Group of a context. -/
def groupOf (s : State) (c : Nat) : Nat :=
  match ctxAt s c with
  | none => 0
  | some x => x.group
/-- The top byte of an aperture. -/
def apTop : Ap → Nat
  | .glob => 0
  | .lf => 0xE0
  | .grp => 0xE8
  | .dev => 0xEC
/-- An address rewritten into an aperture; all ones where it cannot be (R237). -/
def cvtaOf (group : Nat) (ap : Ap) (v : Nat) : Nat :=
  let top := bitsOf v 63 56
  let ones := 2 ^ 64 - 1
  if top = apTop ap then v
  else match ap with
    | .glob => ones
    | .lf => if top = 0 ∧ bitsOf v 55 32 = 0 then 0xE0 * 2 ^ 56 + bitsOf v 31 0 else ones
    | .grp =>
      if top = 0 ∧ bitsOf v 55 25 = 0 then 0xE8 * 2 ^ 56 + bitsOf v 24 0
      else if top = 0xEC ∧ bitsOf v 53 49 = group then 0xE8 * 2 ^ 56 + bitsOf v 24 0 else ones
    | .dev =>
      if (top = 0 ∧ bitsOf v 55 25 = 0) ∨ top = 0xE8 then 0xEC * 2 ^ 56 + group * 2 ^ 49 + bitsOf v 24 0 else ones
/-- Whether an address lies in an aperture, with every bit zero that R200 marks zero (R237). -/
def isapOf (ap : Ap) (v : Nat) : Bool :=
  bitsOf v 63 56 == apTop ap && (match ap with
    | .glob => true
    | .lf => bitsOf v 55 32 == 0
    | .grp => bitsOf v 55 25 == 0
    | .dev => bitsOf v 55 54 == 0 && bitsOf v 48 25 == 0)

/-- CVTA (R237). -/
def execCvta (f : FireMode) (t : Target) (ap : Ap) (s : State) : Next :=
  let g := match s.cur with
    | none => 0
    | some w => groupOf s w.ctx
  compute { wa := some .w64, wb := .w64, wc := .w64, agree := [], ex := .pass, outW := some .w64, outSc := some false,
            elem := fun a _ _ => (cvtaOf g ap a, 0) } f [t] s
/-- ISAP (R237). -/
def execIsap (f : FireMode) (t : Target) (ap : Ap) (s : State) : Next :=
  compute { wa := some .w64, wb := .w64, wc := .w64, agree := [], ex := .pass, outW := some .w32, outSc := some false,
            elem := fun a _ _ => (if isapOf ap a then 1 else 0, 0) } f [t] s

end Sys2Proof.Machine
end

