-- ==== Sys2Proof/Machine/EngineQ.lean ====
section
/-! DEFINITION. Waiting for a party (R218), the engine queues of a Press (R220), and what the engines share: starting, ending and
faulting an operation, and its reads and writes of memory (R200 to R202, R218, R296). -/

namespace Sys2Proof.Machine

/-! Firings that wait for a party. -/

/-- A firing waits for a party; it is looked at again until the party is there. -/
def waitFor (s : State) (f : Firing) : State :=
  pushEvOnce (bumpId { s with waiters := s.waiters ++ [{ id := s.nextId, firing := f }] }) .tileWaitSatisfied

/-! Queues. -/

/-- The operations that wait in a queue. -/
def queueAt (s : State) (p q : Nat) : List EngOp := tabGet (fun _ => []) (pressAt s p).queues q
/-- `s` with them. -/
def setQueue (s : State) (p q : Nat) (l : List EngOp) : State :=
  modPress s p fun r => { r with queues := tabSet (fun _ => []) r.queues q l }
/-- The operations that have left a queue and have not ended. -/
def runningOf (s : State) (p q : Nat) : List EngOp := (pressAt s p).running.filter fun o => o.queue == q
/-- Whether a queue holds as many operations as it can (R220). DEDUCED (log entry 77). -/
def queueFull (s : State) (p q : Nat) : Bool := decide (Config.queueDepth ≤ (queueAt s p q).length + (runningOf s p q).length)
/-- An operation enters its queue (R220), counted (R392). -/
def enqueue (s : State) (p : Nat) (o : EngOp) : State :=
  let r := match ctxAt s o.ctx with
    | none => o
    | some x => { o with block := x.block, word := if o.reply.inst < 128 then (wordFor x.image o.reply.inst o.reply.iter).1 else 0 }
  pushEvOnce (ctxCount (setQueue s p o.queue (queueAt s p o.queue ++ [r])) o.ctx 0x007 1) (.engineOpStart p o.queue)
/-- An operation of a firing, not yet started. -/
def newOp (id ctx queue tid : Nat) (k : EngKind) (r : Reply) : EngOp :=
  { id := id, ctx := ctx, queue := queue, tid := tid, kind := k, reply := r, started := false, held := false, waive := none, pos := 0,
    data := [], stream := [], closed := none, ringed := 0, stalled := false, block := 0, word := 0 }
/-- The standing operation of a context that is bound to the unit of a queue, and the firings that it has started. -/
def boundFired (s : State) (p q c : Nat) : Nat × Nat :=
  match (pressAt s p).units.find? fun u => u.2.op.queue == q && u.2.op.ctx == c with
  | none => (0, 0)
  | some u => (u.2.op.id, u.2.fired)
/-- Whether an operation is a marker; its `ringed` and `pos` say how many firings of which standing operation it is behind. -/
def isMarker (o : EngOp) : Bool :=
  match o.kind with
  | .marker _ => true
  | _ => false
/-- A firing's operation enters a queue, or the firing waits for a free entry. -/
def queueOp (s : State) (m : FireMode) (f : Firing) (ts : List Target) (q tid : Nat) (k : EngKind) : State :=
  match ctxAt s f.ctx with
  | none => s
  | some x =>
    if queueFull s x.press q then waitFor s f
    else
      let r := openReply s m f ts
      let b := boundFired s x.press q f.ctx
      let o := newOp r.1.nextId f.ctx q tid k r.2
      enqueue (bumpId r.1) x.press (if isMarker o then { o with ringed := b.1, pos := b.2 } else o)

/-- The event that drives an operation. -/
def opEvent (p : Nat) (o : EngOp) : Instr :=
  match o.kind with
  | .matrix _ u => .mxConfigure p u
  | .graverConfig _ _ | .graverRun _ _ _ => .graverStream o.id
  | .copy _ _ _ | .remoteCopy _ _ _ | .restWrite _ _ => .copyComplete o.id
  | .drain _ _ _ => .tileDrainComplete o.id
  | .marker _ => .engCmdDeliver o.id

/-- Whether a Graver configuration only waits for the end of its index stream (R251). -/
def waitsIndex (o : EngOp) : Bool :=
  match o.kind with
  | .graverConfig _ ind => ind && o.pos == 1
  | _ => false
/-- Whether an engine works on an operation that neither a fault nor a translation holds up (R220); a bound matrix unit is at work (R243). -/
def engineBusy (s : State) (p q : Nat) : Bool :=
  ((runningOf s p q).any fun o => !o.held && !o.stalled && !ctxFrozen s o.ctx && !waitsIndex o) || ((pressAt s p).units.any fun u => u.1 == q)
/-- The first operation of a queue that may start: its context is not frozen and has none in work there (R220). -/
def nextOp (s : State) (p q : Nat) : Option EngOp :=
  (queueAt s p q).find? fun o => !ctxFrozen s o.ctx && !((runningOf s p q).any fun r => r.ctx == o.ctx)
/-- The first marker of a queue behind no other operation of its context that is not performed: a standing operation is, when the
firings that it had started as the marker entered are written (R235, R256). `seen` are the contexts of the operations before. -/
def nextMarker (s : State) (p q : Nat) (seen : List Nat) (l : List EngOp) : Option EngOp :=
  match l with
  | [] => none
  | o :: r =>
    let done := match (pressAt s p).units.find? fun u => u.2.op.id == o.ringed with
      | none => true
      | some u => decide (o.pos ≤ u.2.written)
    if isMarker o && !seen.contains o.ctx && !((runningOf s p q).any fun r => r.ctx == o.ctx) && !ctxFrozen s o.ctx && done then some o
    else nextMarker s p q (o.ctx :: seen) r

/-- An operation leaves its queue and is worked on. -/
def startOp (s : State) (p : Nat) (o : EngOp) : State :=
  let s1 := setQueue s p o.queue ((queueAt s p o.queue).filter fun r => r.id != o.id)
  pushEv (modPress s1 p fun r => { r with running := r.running ++ [{ o with started := true }] }) (opEvent p o)

/-- An operation of a restored context that waits to be bound again to its matrix unit (R374): the place where it is kept. -/
def unitBack (s : State) (p q : Nat) : Option (Nat × MxBound) :=
  if 2 ≤ q ∨ engineBusy s p q = true then none
  else (pressAt s p).units.find? fun u => decide (2 ≤ u.1) && u.2.op.queue == q && !ctxFrozen s u.2.op.ctx
/-- ENGINE_OP_START (R220): the next operation of a queue, or a marker whose turn has come. -/
def execEngineOpStart (p q : Nat) (s : State) : Next :=
  .next (
    match nextMarker s p q [] (queueAt s p q) with
    | some o => pushEvOnce (startOp s p o) (.engineOpStart p q)
    | none =>
      match unitBack s p q with
      | some (k, b) => pushEvOnce (modPress s p fun r => { r with units := tabPut (tabDrop r.units k) q b }) (.mxFiring p q)
      | none =>
      if engineBusy s p q then s
      else match nextOp s p q with
        | none => if (queueAt s p q).isEmpty then s else pushEvOnce s (.engineOpStart p q)
        | some o => startOp s p o)

/-- An operation in work, with its Press. -/
def opAt (s : State) (id : Nat) : Option (Nat × EngOp) :=
  s.presses.findSome? fun e => (e.2.running.find? fun o => o.id == id).map fun o => (e.1, o)
/-- `s` with an operation in work changed. -/
def modOp (s : State) (p id : Nat) (f : EngOp → EngOp) : State :=
  modPress s p fun r => { r with running := mapWhere (fun o => o.id == id) f r.running }
/-- An operation has left its engine, which takes the next. -/
def opGone (s : State) (p : Nat) (o : EngOp) : State :=
  pushEvOnce (modPress s p fun r => { r with running := r.running.filter fun v => v.id != o.id }) (.engineOpStart p o.queue)

/-- A fault of an engine operation: its context freezes, and the operation continues at resume; the engine takes another. -/
def opFault (s : State) (p : Nat) (o : EngOp) (cause : Nat) (i : FaultInfo) : State :=
  let first := !ctxFrozen s o.ctx
  let s1 := takeFault s o.ctx cause { i with inst := o.reply.inst, engine := some o.queue, tid := o.tid, block := o.block, word := o.word } (some (.event (opEvent p o)))
  let s2 := if first then modOp s1 p o.id fun o => { o with held := true } else s1
  pushEvOnce (if 0x383 ≤ cause ∧ cause ≤ 0x386 then watchShard s2 2 o.id else s2) (.engineOpStart p o.queue)

/-- An operation's event at work: it is parked while its context is frozen. -/
def withOp (s : State) (id : Nat) (go : State → Nat → EngOp → Ctx → State) : Next :=
  .next (match opAt s id with
    | none => s
    | some (p, o) => match ctxAt s o.ctx with
      | none => opGone s p o
      | some x =>
        if x.frozen.isSome then pushEvOnce (parkWork s o.ctx (.event (opEvent p o))) (.engineOpStart p o.queue)
        else if o.stalled then go (modOp s p o.id fun o => { o with stalled := false }) p { o with stalled := false } x
        else go s p o x)

/-- ENG_CMD_DELIVER (R256): a marker delivers its value. -/
def execEngCmdDeliver (id : Nat) (s : State) : Next :=
  withOp s id fun s p o _ =>
    match o.kind with
    | .marker v => settle (answer (opGone s p o) o.reply v.toNat .w32) o.ctx
    | _ => s

/-- ENG_CMD (R256). -/
def execEngCmd (f : FireMode) (t : Target) (q : BitVec 3) (s : State) : Next :=
  onFire f s (passEosAfter s [t]) (nullsUnless (oneElem · .w32) s f [t]) fun w =>
    match oneElem w .w32 with
    | some c => fireFault s w c (fireInfo w)
    | none => queueOp s f w [t] q.toNat 0 (.marker (BitVec.ofNat 64 (aFirst f w % 2 ^ 32)))

/-! Memory as an engine reaches it. -/

/-- Where an engine's access lies: in an aperture, or at a VA. -/
inductive EngPlace where
  | lane (off : Nat)
  | tile (g k o : Nat)
  | payload (m o : Nat)
  | va (a : Nat)
  deriving DecidableEq, Repr

/-- The place of `n` bytes at a generic address, within one slot or member; the cause where there is none (R200 to R202, R218). A
slot's state allows the access as the engine's way wants; `waive` sets it aside (R367). -/
def engPlace (s : State) (x : Ctx) (v n : Nat) (reads : Bool) (waive : Option (BitVec 10)) : Except Nat EngPlace :=
  let top := bitsOf v 63 56
  if top = 0 then .ok (.va v)
  else if top = 0xE0 then
    let size := match stepAt s x.stp with
      | none => 0
      | some r => windowBytes r
    if bitsOf v 55 32 ≠ 0 then .error 0x111
    else if decide (size < bitsOf v 31 0 + n) && !passed waive 0x130 then .error 0x130
    else .ok (.lane (bitsOf v 31 0))
  else if top = 0xE8 ∨ top = 0xEC then
    match sramOffset s x v 1 with
    | .error c => .error c
    | .ok (g, off) =>
      if 0x1000000 ≤ off then
        let m := (off - 0x1000000) / 256
        if reads && decide (m < memberCount s x) && decide (off % 256 + n ≤ 256) then .ok (.payload m (off % 256)) else .error 0x111
      else if 16384 < off % 16384 + n then .error 0x111
      else match slotDenies s x.ten g (off / 16384) reads with
        | none => .ok (.tile g (off / 16384) (off % 16384))
        | some c => if passed waive c then .ok (.tile g (off / 16384) (off % 16384)) else .error c
  else .error 0x110

/-- What comes of an engine's access: done, not yet possible, or a fault. -/
inductive EngGot (α : Type) where
  | ok (v : α)
  | wait
  | bad (cause : Nat) (i : FaultInfo)
  deriving DecidableEq, Repr

/-- The uses that an engine's access makes of pages to be migrated (R214). -/
def countUses (s : State) (x : Ctx) (w : Way) (va n : Nat) : State :=
  match spotsFind s (some (x.press, x.group)) x.ten w (partsOf va n) with
  | .ok l => if l.any fun e => e.1.mode == 3 then l.foldl (fun s e => countUse s x.group x.ten e.2.1 e.1) s else s
  | _ => s
/-- Bytes that an engine reads and the race checker does not see: descriptors, scales, tensor entries (R331). Check words are
verified (R376). -/
def engFetch (s : State) (x : Ctx) (owner v n : Nat) (waive : Option (BitVec 10)) : State × Got (List Byte) :=
  match engPlace s x v n true waive with
  | .error c => (s, .bad c 0 v)
  | .ok (.lane off) => match stepAt s x.stp with
    | none => (s, .ok (List.replicate n 0))
    | some r => (s, .ok (windowRead r off n))
  | .ok (.tile g k o) => match sramBad s (slotAddr g k o) n with
    | some q => (s, .bad 0x384 (checkAux 1 q) v)
    | none => (s, .ok (slotRead s g k o n))
  | .ok (.payload m o) => match memberAt s x.stp m with
    | none => (s, .ok (List.replicate n 0))
    | some q => (s, .ok (padTo n (q.stim.bytes.drop o)))
  | .ok (.va a) => match vaRead s (some (x.press, x.group)) owner x.ten .read a n with
    | (s1, .ok bs) => (countUses s1 x .read a n, .ok bs)
    | r => r
/-- Bytes written at a place that allows it. -/
def engStore (s : State) (x : Ctx) (c owner v : Nat) (bs : List Byte) (waive : Option (BitVec 10)) : State × Got Unit :=
  match engPlace s x v bs.length false waive with
  | .error k => (s, .bad k 0 v)
  | .ok (.lane off) => (modStep s x.stp fun r => windowWrite r off bs, .ok ())
  | .ok (.tile g k o) => (sramFresh (slotWrite s g k o bs) (slotAddr g k o) bs.length, .ok ())
  | .ok (.payload _ _) => (s, .ok ())
  | .ok (.va a) => match vaWrite s (some (x.press, x.group)) c owner x.ten a bs with
    | (s1, .ok u) => (countUses s1 x .write a bs.length, .ok u)
    | r => r

/-- The checked local lines under bytes of a VA, with their VAs (R331); none where they do not translate. -/
def engLines (s : State) (x : Ctx) (v n : Nat) (w : Way) : List (Nat × Nat) :=
  if bitsOf v 63 56 ≠ 0 then []
  else match spotsFind s (some (x.press, x.group)) x.ten w (partsOf v n) with
    | .ok l => l.flatMap fun e =>
        if e.1.mode = 0 ∧ e.1.checked then (linesOf e.1.pa e.2.2).map fun k => (k, (e.2.1 + (64 * k - e.1.pa)) % 2 ^ 56) else []
    | _ => []
/-- How the race checker sees an engine's access (R331, R345). -/
def engRace (o : EngOp) (iter v : Nat) (writes : Bool) : RaceAcc :=
  { kind := if writes then 7 else 6, writes := writes, stores := writes, sync := false, acq := none, rel := none,
    queue := some o.queue, inst := o.reply.inst, iter := iter % 65536, va := v % 2 ^ 56 }
/-- An engine's access goes on once the race checker lets it (R340, R343). -/
def engChecked {α : Type} (s : State) (x : Ctx) (o : EngOp) (iter v n : Nat) (writes : Bool) (go : State → State × EngGot α) :
    State × EngGot α :=
  match raceAccess s o.ctx (engRace o iter v writes) (!passed o.waive 0x280) (engLines s x v n (if writes then .write else .read)) with
  | .wait => (slotWaits s o.ctx, .wait)
  | .trap s1 c aux items =>
    (s1, .bad c { noInfo with addr := BitVec.ofNat 64 v, aux := BitVec.ofNat 64 aux, iter := iter % 65536,
                              items := items.map (BitVec.ofNat 64) })
  | .ok s1 => go s1
/-- An unchecked result as an engine's. -/
def engGot {α : Type} (iter : Nat) (r : State × Got α) : State × EngGot α :=
  match r with
  | (s, .ok v) => (s, .ok v)
  | (s, .wait) => (s, .wait)
  | (s, .bad c aux a) => (s, .bad c { infoAt a aux with iter := iter % 65536 })

/-- Bytes that an engine operation reads for its context, checked for races (R331, R376). -/
def engRead (s : State) (x : Ctx) (o : EngOp) (iter v n : Nat) : State × EngGot (List Byte) :=
  match engGot iter (engFetch s x (opOwner o.id) v n o.waive) with
  | (s1, .ok bs) => engChecked s1 x o iter v n false fun s2 => (s2, .ok bs)
  | r => r
/-- Bytes that an engine operation writes for its context, checked for races. -/
def engWrite (s : State) (x : Ctx) (o : EngOp) (iter v : Nat) (bs : List Byte) : State × EngGot Unit :=
  match spotsFind s (some (x.press, x.group)) x.ten .write (if bitsOf v 63 56 = 0 then partsOf v bs.length else []) with
  | .ok _ => engChecked s x o iter v bs.length true fun s1 => engGot iter (engStore s1 x o.ctx (opOwner o.id) v bs o.waive)
  | _ => engGot iter (engStore s x o.ctx (opOwner o.id) v bs o.waive)

/-- An operation's event is looked at again. -/
def opAgain (s : State) (p : Nat) (o : EngOp) : State := pushEv s (opEvent p o)
/-- An operation waits for a translation; meanwhile its engine takes those of other contexts (R220). -/
def opStall (s : State) (p : Nat) (o : EngOp) : State :=
  pushEvOnce (opAgain (modOp s p o.id fun o => { o with stalled := true }) p o) (.engineOpStart p o.queue)
/-- An operation goes on with what an access gave it: it waits, faults, or continues. -/
def opThen {α : Type} (p : Nat) (o : EngOp) (r : State × EngGot α) (go : State → α → State) : State :=
  match r with
  | (s, .ok v) => go s v
  | (s, .wait) => opStall s p o
  | (s, .bad c i) => opFault s p o c i
/-- The writes at peers of an operation that are not acknowledged. -/
def opWriting (s : State) (o : EngOp) : Bool :=
  s.xfers.any fun t => t.kind == .unitWrite (opOwner o.id) && !t.acc

end Sys2Proof.Machine
end

