-- ==== Sys2Proof/Machine/Place.lean ====
section
/-! DEFINITION. What the Mapper checks of a block image (R131, R133, R138, R154 to R157). -/

namespace Sys2Proof.Machine

/-- A rejection: cause, instruction or 0xFF, offending word, target field (R157). -/
structure Rejected where
  cause : Nat
  inst : Nat
  word : Word
  target : Nat
  deriving DecidableEq, Repr

/-- The body words by instruction index: both halves of a pair show the pair word. -/
def blkRaw (img : List Word) : List Word :=
  ((img.drop 4).take (blkWords img)).flatMap fun w => (bodySplit w).map fun _ => w
/-- A rejection that names no instruction: it shows header word 0. -/
def rejectBlock (img : List Word) (cause : Nat) : Rejected := { cause := cause, inst := 0xFF, word := img.getD 0 0, target := 0 }
/-- A rejection of instruction `i`. DEDUCED (log entry 71). DEDUCED (log entry 72). -/
def rejectInst (img : List Word) (cause i target : Nat) : Rejected :=
  { cause := cause, inst := i, word := (blkRaw img).getD i 0, target := target }

/-- Check 1: the header. -/
def headerBad (img : List Word) : Bool :=
  let w0 := blkWord0 img
  bitsOf w0 31 28 != 0b1011 || blkExits img == 0 || !(decide (1 ≤ blkWords img) && decide (blkWords img ≤ 128)) || bitsOf w0 0 0 != 0 ||
    (blkPhased img && !blkLoop img) || ((img.getD 2 0) != 0) != blkLoop img || img.getD 3 0 != 0

/-- The instructions of a body with their index. -/
def blkIndexed (img : List Word) : List (Nat × Word) := (blkInstrs img).zipIdx.map fun e => (e.2, e.1)
/-- The cause of a word that is no instruction. -/
def wordCause (w : Word) : Option Nat :=
  match decodeInstr w with
  | .ok _ => none
  | .error c => some c.toNat

/-- Whether a block may lie at an address: inside the 56-bit space. -/
def inSpace (a : Int) : Bool := decide (0 ≤ a) && decide (a < (2 ^ 56 : Nat))
/-- Operands that a block makes illegal (R155). -/
def operandBad (img : List Word) (addr : Nat) (i : Instr) : Bool :=
  match i with
  | .exit _ e off => decide (blkExits img ≤ e.toNat) || (off != 0x80000 && !inSpace ((addr : Int) + 16 * off.toInt))
  | .spawn _ _ k => !inSpace ((addr : Int) + 16 * k.toInt)
  | .iter _ _ => !blkLoop img
  | _ => false
/-- Check 7 for one word. -/
def operandCause (img : List Word) (addr : Nat) (w : Word) : Bool :=
  match decodeInstr w with
  | .ok i => operandBad img addr i
  | .error c => c == badOperand

/-- The target fields of an instruction with what is wrong with each: 0x005 or 0x006 (R148). -/
def targetCauses (img : List Word) (w : Word) : List (Nat × Nat) :=
  match decodeInstr w with
  | .error _ => []
  | .ok i => (targetsOf i).filterMap fun t =>
    let k := (t.extractLsb' 2 7).toNat
    if blkCount img ≤ k then some (0x005, t.toNat)
    else match instrAt img k with
      | none => none
      | some d => if (requiredPorts d).contains (portOf (t.extractLsb' 0 2).toNat) then none else some (0x006, t.toNat)
/-- The first target with a cause. -/
def targetBad (img : List Word) (cause : Nat) : Option Rejected :=
  (blkIndexed img).findSome? fun e => ((targetCauses img e.2).find? fun t => t.1 == cause).map fun t => rejectInst img cause e.1 t.2

/-- The instructions of a block, as far as its words are instructions. -/
def blkOps (img : List Word) : List (Nat × Instr) :=
  (blkIndexed img).filterMap fun e => match decodeInstr e.2 with
    | .ok i => some (e.1, i)
    | .error _ => none

/-- Check 10 (R156). -/
def structureBad (img : List Word) : Option Rejected :=
  let ops := blkOps img
  let isExit := fun (i : Instr) => match i with
    | .exit _ _ _ | .exitI _ _ => true
    | _ => false
  let isIter := fun (i : Instr) => match i with
    | .iter _ _ => true
    | _ => false
  let isWrg := fun (i : Instr) => match i with
    | .wrg _ _ => true
    | _ => false
  let iters := ops.filter fun e => isIter e.2
  if !(ops.any fun e => isExit e.2) then some (rejectBlock img 0x00A)
  else if blkLoop img && iters.length != 1 then
    some (match iters with
      | _ :: e :: _ => rejectInst img 0x00A e.1 0
      | _ => rejectBlock img 0x00A)
  else if (ops.filter fun e => isWrg e.2).length < blkWrites img then some (rejectBlock img 0x00A)
  else if (List.range 32).any fun k => (blkMask img).getLsbD k && !(ops.any fun e => storeClass e.2 && lsidOf e.2 == some k) then
    some { rejectBlock img 0x00A with word := blkMask img }
  else none

/-- The loop descriptor breaks R131. -/
def loopBad (img : List Word) : Bool :=
  decide (blkLoopAt img < 4 + (blkWords img + 3) / 4 * 4) || loopTrips img == 0 || bitsOf (loopWord img 1) 31 11 != 0 ||
    decide (loopFrames img < loopRun img) || bitsOf (loopWord img 2) 23 16 != 0 || (phaseCount img != 0) != blkPhased img ||
    decide (128 < phaseCount img) || (bitsOf (loopWord img 2) 15 0 != 0) != (phaseCount img != 0) || loopWord img 3 != 0

/-- The target fields of an instruction in a fixed length, so that two of one format can be compared. -/
def fieldsOf (i : Instr) : List Target := targetFields i ++ List.replicate (2 - (targetFields i).length) noTarget
/-- The format of a word. -/
def wordFormat (w : Word) : Option Format := formatOf (w.extractLsb' 25 6).toNat

/-- Phase table `k` breaks R133. Every entry must be an instruction by checks 3 to 7 and match OP0; the block-dependent limits of R155 are
not asked of the entries. DESIGN CHOICE (log entry 190). -/
def phaseBad (img : List Word) (k : Nat) : Bool :=
  let w0 := phaseWord img k 0
  let inst := bitsOf w0 31 25
  let n := bitsOf w0 24 23
  let op := fun (e : Nat) => BitVec.ofNat 32 (phaseWord img k (4 + 2 * e))
  bitsOf w0 22 0 != 0 || phaseWord img k 1 != 0 || phaseWord img k 2 != 0 || phaseWord img k 3 != 0 ||
    ((List.range 4).any fun e => bitsOf (phaseWord img k (5 + 2 * e)) 31 16 != 0 ||
      (decide (n < e) && (op e != 0 || phaseWord img k (5 + 2 * e) != 0))) ||
    decide (blkCount img ≤ inst) || op 0 != blkWordAt img inst || (op 0).getLsbD 31 ||
    ((List.range (n + 1)).any fun e => match decodeInstr (op e), decodeInstr (op 0) with
      | .ok i, .ok j => (op e).getLsbD 31 || wordFormat (op e) != wordFormat (op 0) || (valuePorts i).length != (valuePorts j).length ||
          fireMode i != fireMode j || fieldsOf i != fieldsOf j
      | _, _ => true)
/-- The first phase table that is rejected. -/
def phasesBad (img : List Word) : Option Rejected :=
  if !blkLoop img then none
  else ((List.range (phaseCount img)).find? fun k =>
      phaseBad img k || (List.range k).any fun j => bitsOf (phaseWord img j 0) 31 25 == bitsOf (phaseWord img k 0) 31 25).map fun k =>
    rejectInst img 0x061 (bitsOf (phaseWord img k 0) 31 25) 0

/-- More `turn` instructions than a region holds (R138). -/
def turnsBad (img : List Word) : Bool :=
  decide (2 < ((blkOps img).filter fun e => match e.2 with
    | .turn _ _ _ _ => true
    | _ => false).length)

/-- What the Mapper answers for an image at an address: none accepts it; the first check that fails decides (R154). DEDUCED (log entry
54). -/
def mapperCheck (img : List Word) (addr : Nat) : Option Rejected :=
  let word := fun (c : Nat) => ((blkIndexed img).find? fun e => wordCause e.2 == some c).map fun e => rejectInst img c e.1 0
  if headerBad img then some (rejectBlock img 0x007)
  else if (blkInstrs img).length != blkCount img then some (rejectBlock img 0x008)
  else match [0x001, 0x002, 0x003, 0x004].findSome? word with
    | some r => some r
    | none =>
      match (blkIndexed img).find? fun e => operandCause img addr e.2 with
      | some e => some (rejectInst img 0x009 e.1 0)
      | none =>
        match [0x005, 0x006].findSome? (targetBad img) with
        | some r => some r
        | none =>
          match structureBad img with
          | some r => some r
          | none =>
            if blkLoop img && loopBad img then some (rejectBlock img 0x060)
            else match phasesBad img with
              | some r => some r
              | none => if turnsBad img then some (rejectBlock img 0x062) else none

end Sys2Proof.Machine
end

