-- ==== Sys2Proof/Machine/Float.lean ====
section
/-! DEFINITION. Floating and tapered arithmetic (R176, R177), its compares (R178), `cvt` (R179), the special functions (R182)
and the scale operations (R181). -/

namespace Sys2Proof.Machine

/-- The type of an FT code. -/
def floatTy : FloatTy → Ty
  | .t16 => .t16
  | .t32 => .t32
  | .bf16 => .bf16
  | .f32 => .f32
/-- The type of a special function. -/
def spTy : SpTy → Ty
  | .t16 => .t16
  | .bf16 => .bf16

/-- A float or tapered operation; the declaration EX covers every value port (R176). -/
def floatOp (x : Ex) (y : FloatTy) (g : Ty → Nat → Nat → Nat → Res) : CompOp :=
  { plainOp (tyWidth (floatTy y)) (tyWidth (floatTy y)) (g (floatTy y)) with agree := [.a, .b, .c], ex := x }

/-- ADD_FLOAT (R176). -/
def execAddFloat (f : FireMode) (t u : Target) (x : Ex) (y : FloatTy) (s : State) : Next :=
  compute (floatOp x y fun ty a b _ => fAdd ty a b) f [t, u] s
/-- SUB_FLOAT (R176). -/
def execSubFloat (f : FireMode) (t u : Target) (x : Ex) (y : FloatTy) (s : State) : Next :=
  compute (floatOp x y fun ty a b _ => fSub ty a b) f [t, u] s
/-- MUL_FLOAT (R176). -/
def execMulFloat (f : FireMode) (t u : Target) (x : Ex) (y : FloatTy) (s : State) : Next :=
  compute (floatOp x y fun ty a b _ => fMul ty a b) f [t, u] s
/-- FMA (R176). -/
def execFma (f : FireMode) (t u : Target) (x : Ex) (y : FloatTy) (s : State) : Next := compute (floatOp x y fFma) f [t, u] s
/-- FMS (R176). -/
def execFms (f : FireMode) (t u : Target) (x : Ex) (y : FloatTy) (s : State) : Next := compute (floatOp x y fFms) f [t, u] s
/-- MIN_FLOAT (R177). -/
def execMinFloat (f : FireMode) (t u : Target) (y : FloatTy) (s : State) : Next :=
  compute (floatOp .pass y fun ty a b _ => fMinMax ty false a b) f [t, u] s
/-- MAX_FLOAT (R177). -/
def execMaxFloat (f : FireMode) (t u : Target) (y : FloatTy) (s : State) : Next :=
  compute (floatOp .pass y fun ty a b _ => fMinMax ty true a b) f [t, u] s
/-- ABS_FLOAT (R177). -/
def execAbsFloat (f : FireMode) (t u : Target) (y : FloatTy) (s : State) : Next :=
  compute (floatOp .pass y fun ty a _ _ => fSign ty true a) f [t, u] s
/-- NEG_FLOAT (R177). -/
def execNegFloat (f : FireMode) (t u : Target) (y : FloatTy) (s : State) : Next :=
  compute (floatOp .pass y fun ty a _ _ => fSign ty false a) f [t, u] s

/-- A float compare (R178): a relation on the order of two values, and what it gives for unordered ones. -/
def floatCmp (y : FloatTy) (unordered : Bool) (g : Ordering → Bool) : CompOp :=
  plainOp (tyWidth (floatTy y)) .w32 fun a b _ => truth (match fOrder (floatTy y) a b with
    | none => unordered
    | some o => g o)

/-- CMP_EQ_FLOAT (R178). -/
def execCmpEqFloat (f : FireMode) (t u : Target) (y : FloatTy) (s : State) : Next :=
  compute (floatCmp y false fun o => o == .eq) f [t, u] s
/-- CMP_NE_FLOAT (R178). -/
def execCmpNeFloat (f : FireMode) (t u : Target) (y : FloatTy) (s : State) : Next :=
  compute (floatCmp y true fun o => o != .eq) f [t, u] s
/-- CMP_LT_FLOAT (R178). -/
def execCmpLtFloat (f : FireMode) (t u : Target) (y : FloatTy) (s : State) : Next :=
  compute (floatCmp y false fun o => o == .lt) f [t, u] s
/-- CMP_LE_FLOAT (R178). -/
def execCmpLeFloat (f : FireMode) (t u : Target) (y : FloatTy) (s : State) : Next :=
  compute (floatCmp y false fun o => o != .gt) f [t, u] s
/-- CMP_GT_FLOAT (R178). -/
def execCmpGtFloat (f : FireMode) (t u : Target) (y : FloatTy) (s : State) : Next :=
  compute (floatCmp y false fun o => o == .gt) f [t, u] s
/-- CMP_GE_FLOAT (R178). -/
def execCmpGeFloat (f : FireMode) (t u : Target) (y : FloatTy) (s : State) : Next :=
  compute (floatCmp y false fun o => o != .lt) f [t, u] s

/-- CVT (R44, R179): a source of D8 makes the output scaled. -/
def execCvt (f : FireMode) (dst src : Ty) (t : Target) (x : Ex) (s : State) : Next :=
  compute { plainOp (tyWidth src) (tyWidth dst) (fun a _ _ => cvtElem dst src a) with
    agree := [.a], ex := x, outSc := if src = .d8 then some true else none } f [t] s

/-- A special function; its declaration is unscaled (R182). -/
def spOp (fn : SpFn) (y : SpTy) : CompOp :=
  { plainOp (tyWidth (spTy y)) (tyWidth (spTy y)) (fun a _ _ => spElem fn (spTy y) a) with agree := [.a], ex := .unscaled }

/-- EXP2 (R182). -/
def execExp2 (f : FireMode) (t u : Target) (y : SpTy) (s : State) : Next := compute (spOp .exp2 y) f [t, u] s
/-- LOG2 (R182). -/
def execLog2 (f : FireMode) (t u : Target) (y : SpTy) (s : State) : Next := compute (spOp .log2 y) f [t, u] s
/-- RCP (R182). -/
def execRcp (f : FireMode) (t u : Target) (y : SpTy) (s : State) : Next := compute (spOp .rcp y) f [t, u] s
/-- RSQRT (R182). -/
def execRsqrt (f : FireMode) (t u : Target) (y : SpTy) (s : State) : Next := compute (spOp .rsqrt y) f [t, u] s
/-- SIGM (R182). -/
def execSigm (f : FireMode) (t u : Target) (y : SpTy) (s : State) : Next := compute (spOp .sigm y) f [t, u] s
/-- TANH (R182). -/
def execTanh (f : FireMode) (t u : Target) (y : SpTy) (s : State) : Next := compute (spOp .tanh y) f [t, u] s

/-- A scale operation: its value must stand in one state and leaves in the other; the exponent on port b is a signed word that
takes no part in agreement (R181). -/
def scaleOp (y : FloatTy) (apply : Bool) : CompOp :=
  { floatOp (if apply then .scaled else .unscaled) y (fun ty a b _ => fScale ty a (if apply then signed 32 b else -signed 32 b)) with
    wb := .w32, agree := [.a], outSc := some !apply }

/-- SCALE_APPLY (R181). -/
def execScaleApply (f : FireMode) (t u : Target) (y : FloatTy) (s : State) : Next := compute (scaleOp y true) f [t, u] s
/-- SCALE_STRIP (R181). -/
def execScaleStrip (f : FireMode) (t u : Target) (y : FloatTy) (s : State) : Next := compute (scaleOp y false) f [t, u] s

end Sys2Proof.Machine
end

