-- ==== Sys2Proof/Machine/Match.lean ====
section
/-! DEFINITION. TOKEN_ARRIVAL: waiting and overflow (R121, R122), matching with cuts (R120), standing tokens (R175), phase tables
(R134), and end of stream (R136, R137). -/

namespace Sys2Proof.Machine

/-- Elements j to j + n - 1 of a token as a token of their own. -/
def piece (t : Token) (j n : Nat) : Token :=
  { t with iter := (t.iter + j) % 65536, vals := (t.vals.drop j).take n }
/-- The offset of an iteration inside a token, if the token covers it. -/
def offsetIn (t : Token) (i : Nat) : Option Nat :=
  let o := (i + 65536 - t.iter) % 65536
  if o < t.vals.length then some o else none

/-- What covers iteration `i` at a port: 0 a standing token, k + 1 the waiting token of index k; none nothing (R120, R175). -/
def coverOf (ws : List (Nat × Token)) (inst : Nat) (q : Port) (i : Nat) : Option Nat :=
  if ws.any fun e => e.2.inst == inst && e.2.port == q && e.2.standing then some 0
  else (ws.find? fun e => e.2.inst == inst && e.2.port == q && (offsetIn e.2 i).isSome).map fun e => e.1 + 1

/-- What covers an iteration at every port of a list. -/
def coversOf (ws : List (Nat × Token)) (inst i : Nat) (qs : List Port) : Option (List Nat) :=
  match qs with
  | [] => some []
  | q :: r => match coverOf ws inst q i, coversOf ws inst i r with
    | some k, some l => some (k :: l)
    | _, _ => none

/-- Consecutive equal items of a list from position `j`: (item, first, count). -/
def segments (j : Nat) (l : List (Option (List Nat))) : List (Option (List Nat) × Nat × Nat) :=
  match l with
  | [] => []
  | x :: r => match segments (j + 1) r with
    | (y, k, n) :: t => if x = y then (x, j, n + 1) :: t else (x, j, 1) :: (y, k, n) :: t
    | [] => [(x, j, 1)]

/-- The pieces of a token that a mask keeps. -/
def keptPieces (t : Token) (keep : Nat → Bool) : List Token :=
  (runsFrom 0 ((List.range t.vals.length).map keep)).map fun r => piece t r.1 r.2

/-- A firing of an instruction with no operand yet. -/
def bareFiring (c inst iter len born : Nat) : Firing :=
  { ctx := c, inst := inst, iter := iter, len := len, a := none, b := none, c := none, p := none, eos := none, last := .a, wait := 0,
    waive := none, done := 0, part := [], born := born }
/-- A firing with an operand on a port. -/
def withOperand (f : Firing) (q : Port) (t : Token) : Firing :=
  match q with
  | .a => { f with a := some t }
  | .b => { f with b := some t }
  | .p => { f with p := some t }
  | .c => { f with c := some t }

/-- The port whose token arrived last, the lowest of those of one cycle, and the cycles waited for it (R397). -/
def lastPort (s : State) (f : Firing) : Firing :=
  let ts := operands f
  let top := ts.foldl (fun n t => max n (cyclesOf t.came)) 0
  let ports := [Port.a, .b, .p, .c].filter fun q => match operand f q with
    | none => false
    | some t => cyclesOf t.came == top
  let l := ports.headD .a
  let rest := [Port.a, .b, .p, .c].filterMap fun q => if q = l then none else operand f q
  let prev := rest.foldl (fun n t => max n (cyclesOf t.came)) 0
  { f with last := l, wait := if rest.isEmpty then 0 else min (top - prev) (cycleNow s) }

/-- A segment's firing: the arriving piece and what covers it elsewhere. -/
def segFiring (s : State) (c : Nat) (ws : List (Nat × Token)) (t : Token) (qs : List Port) (ks : List Nat) (j n : Nat) : Firing :=
  let i := (t.iter + j) % 65536
  let f := withOperand (bareFiring c t.inst i n 0) t.port (piece t j n)
  let g := (List.zip qs ks).foldl (fun f e =>
    let tok := if e.2 = 0 then (ws.find? fun w => w.2.inst == t.inst && w.2.port == e.1 && w.2.standing).map (·.2)
      else (ws.find? fun w => w.1 == e.2 - 1).map fun w => piece w.2 ((offsetIn w.2 i).getD 0) n
    match tok with
    | none => f
    | some k => withOperand f e.1 k) f
  lastPort s g

/-- An arriving token matched against the waiting ones: the firings in ascending iteration, what still waits of the others, and
the pieces of the token that wait (R120). -/
def matchToken (s : State) (c : Nat) (waiting : List Token) (t : Token) (qs : List Port) :
    List Firing × List Token × List Token :=
  let ws := waiting.zipIdx.map fun e => (e.2, e.1)
  let covers := (List.range t.vals.length).map fun j => coversOf ws t.inst ((t.iter + j) % 65536) qs
  let segs := segments 0 covers
  let hits := segs.filterMap fun e => match e.1 with
    | none => none
    | some ks => some (ks, e.2.1, e.2.2)
  let used := fun (k i : Nat) => hits.any fun e => e.1.contains (k + 1) && decide ((i + 65536 - (t.iter + e.2.1) % 65536) % 65536 < e.2.2)
  let left := ws.flatMap fun w =>
    if w.2.standing || !(hits.any fun e => e.1.contains (w.1 + 1)) then [w.2]
    else keptPieces w.2 fun o => !used w.1 ((w.2.iter + o) % 65536)
  (hits.map fun e => segFiring s c ws t qs e.1 e.2.1 e.2.2, left,
    (segs.filter fun e => e.1.isNone).map fun e => piece t e.2.1 e.2.2)

/-- A firing cut where a phase table changes its operation; `n` bounds the pieces (R134). -/
def phaseCut (n : Nat) (img : List Word) (f : Firing) : List Firing :=
  match n with
  | 0 => [f]
  | n + 1 =>
    let k := (wordFor img f.inst f.iter).2
    if f.len ≤ k || allStanding f then [f]
    else
      let cut := fun (g : Firing) (j m : Nat) =>
        let h := fun (t : Option Token) => t.map fun t => if t.standing then t else piece t j m
        { g with iter := (g.iter + j) % 65536, len := m, a := h g.a, b := h g.b, c := h g.c, p := h g.p }
      cut f 0 k :: phaseCut n img (cut f k (f.len - k))

/-- A firing becomes work, cut by the phase table of its instruction. -/
def pushFiring (s : State) (f : Firing) : State :=
  match ctxAt s f.ctx with
  | none => s
  | some x => (phaseCut 32 x.image f).foldl (fun s g => pushWork (bumpId s) (.fire { g with born := s.nextId })) s

/-- S0 of a block's streams: BASE of its loop, else 0 (R184). -/
def streamStart (img : List Word) : Nat := if blkLoop img then loopBase img else 0
/-- An iteration counted from S0. -/
def iterOffset (img : List Word) (i : Nat) : Nat := (i + 65536 - streamStart img) % 65536
/-- The bound of a port whose EOS has arrived. -/
def boundOf (x : Ctx) (inst : Nat) (q : Port) : Option Nat :=
  (x.bounds.find? fun e => e.1 == inst && e.2.1 == q).map (·.2.2)
/-- Whether a port holds a standing token. -/
def standingAt (x : Ctx) (inst : Nat) (q : Port) : Bool := x.waiting.any fun t => t.inst == inst && t.port == q && t.standing

/-- The end of a node's stream, and tokens that can no longer be paired (R136, R137, R175). `t` is the token that has
arrived. -/
def eosCheck (s : State) (c : Nat) (t : Token) (req : List Port) : State :=
  let inst := t.inst
  match ctxAt s c with
  | none => s
  | some x =>
    if x.eosDone.contains inst then s
    else
      let ports := req.filter fun q => !standingAt x inst q
      let got := ports.filterMap fun q => (boundOf x inst q).map fun b => (q, b)
      let pend := x.waiting.filter fun t => t.inst == inst && !t.standing
      let full := got.length == ports.length && !got.isEmpty
      let bad := pend.any fun t => got.any fun e => e.1 != t.port && decide (iterOffset x.image t.iter < iterOffset x.image e.2)
      let least := got.foldl (fun m e => if iterOffset x.image e.2 < iterOffset x.image m then e.2 else m) (match got with
        | [] => 0
        | e :: _ => e.2)
      let go := Work.fire { withOperand (bareFiring c inst least 1 s.nextId) t.port t with eos := some least, last := t.port }
      if bad || (full && !pend.isEmpty) then
        let s1 := if full then setCtx s c { x with eosDone := inst :: x.eosDone } else s
        takeFault (bumpId s1) c 0x050 { noInfo with inst := inst, iter := match pend with
          | [] => 0
          | w :: _ => w.iter } (if full then some go else none)
      else if full then pushWork (bumpId (setCtx s c { x with eosDone := inst :: x.eosDone })) go
      else s

/-- Waiting pieces on the lead port matched again after a standing token has arrived; `n` bounds them. -/
def rematch (n : Nat) (s : State) (c : Nat) (lead : Port) (qs : List Port) (todo : List Token) : State :=
  match n, todo with
  | n + 1, t :: r =>
    match ctxAt s c with
    | none => s
    | some x =>
      let m := matchToken s c (dropFirst (fun w => w.inst == t.inst && w.port == t.port && w.iter == t.iter && !w.standing) x.waiting) t qs
      if m.1.isEmpty then rematch n s c lead qs r
      else
        let s1 := m.1.foldl pushFiring (setCtx s c { x with waiting := m.2.1 ++ m.2.2 })
        rematch n s1 c lead qs r
  | _, _ => s

/-- A standing token arrives: it waits and matches what the other ports present; a node with standing tokens only fires once
(R175). -/
def standToken (s : State) (c : Nat) (x : Ctx) (t : Token) (req : List Port) : State :=
  let x1 := { x with waiting := x.waiting ++ [{ t with came := s.now }] }
  let s1 := setCtx s c x1
  match req.find? fun q => !standingAt x1 t.inst q with
  | none =>
    let f := req.foldl (fun f q => match x1.waiting.find? fun w => w.inst == t.inst && w.port == q && w.standing with
      | none => f
      | some w => withOperand f q w) (bareFiring c t.inst 0xFFFF 1 0)
    pushFiring s1 (lastPort s f)
  | some lead =>
    rematch (x1.waiting.length + 1) s1 c lead (req.filter fun q => q != lead)
      (x1.waiting.filter fun w => w.inst == t.inst && w.port == lead && !w.standing)

/-- Whether an instruction's run operands may not overlap with different ranges (R183). -/
def wantsSameRange (i : Instr) : Bool :=
  match i with
  | .perm .. => true
  | _ => false
/-- A waiting operand of the other value port that overlaps a token with a different range. -/
def rangeClash (x : Ctx) (t : Token) : Bool :=
  x.waiting.any fun w => w.inst == t.inst && w.port != t.port && w.port != .p && t.port != .p && !w.standing &&
    !(w.iter == t.iter && w.vals.length == t.vals.length) &&
    (List.range t.vals.length).any fun j => (offsetIn w ((t.iter + j) % 65536)).isSome

/-- Whether a port takes an index stream, which is not matched against the other ports (R251). -/
def indexPort (i : Instr) (q : Port) : Bool :=
  match i with
  | .gvInd .. => q == .b
  | _ => false
/-- The ports whose tokens are matched with one another. -/
def matchPorts (i : Instr) : List Port := (requiredPorts i).filter fun q => !indexPort i q

/-- An ordinary or standing value token at its instruction (R118, R120). -/
def valueToken (s : State) (c : Nat) (x : Ctx) (i : Instr) (t : Token) : State :=
  let req := if indexPort i t.port then [t.port] else matchPorts i
  if t.standing then standToken s c x t req
  else if req.length ≤ 1 then
    let t1 := { t with came := s.now }
    pushFiring s (lastPort s (withOperand (bareFiring c t.inst t.iter t.vals.length 0) t.port t1))
  else if wantsSameRange i && rangeClash x t then
    takeFault (waitToken s c t) c 0x052 { noInfo with inst := t.inst, iter := t.iter } none
  else
    let m := matchToken s c x.waiting { t with came := s.now } (req.filter fun q => q != t.port)
    let s1 := m.1.foldl pushFiring (setCtx s c { x with waiting := m.2.1 })
    m.2.2.foldl (fun s p => waitToken s c p) s1

/-- A token arrives at a context that runs (R118 to R120, R126, R136). -/
def arriveToken (s : State) (c : Nat) (x : Ctx) (t : Token) : State :=
  match instrAt x.image t.inst with
  | none => s
  | some i =>
    if !x.configured.contains t.inst then waitToken s c t
    else if (boundOf x t.inst t.port).isSome && !t.standing then
      let f := lastPort s (withOperand (bareFiring c t.inst t.iter t.vals.length s.nextId) t.port { t with came := s.now })
      let alone := decide ((matchPorts i).length ≤ 1) || indexPort i t.port
      let again := if alone && !t.eos then some (Work.fire f) else none
      let s1 := if alone || t.eos then bumpId s else waitToken s c t
      takeFault s1 c 0x051 { noInfo with inst := t.inst, iter := t.iter, ntok := 1,
                                         items := [BitVec.ofNat 64 (tokenDouble x.tag (ctxPlane x) true t)] } again
    else if t.eos then
      let b := (t.vals.headD 0).toNat % 65536
      let s1 := setCtx s c { x with bounds := x.bounds ++ [(t.inst, t.port, b)] }
      if indexPort i t.port then
        pushWork (bumpId s1) (.fire { withOperand (bareFiring c t.inst b 1 s1.nextId) t.port t with eos := some b, last := t.port })
      else eosCheck s1 c t (matchPorts i)
    else if indexPort i t.port then valueToken s c x i t
    else eosCheck (valueToken s c x i t) c t (matchPorts i)

/-- A marker drain of a context starts (R325, R371); none while the Proof Area is not valid, of a context that retires, or one drained
already. DEDUCED (log entry 134). -/
def drainStart (s : State) (c : Nat) (hold : Bool) : State :=
  match ctxAt s c with
  | none => s
  | some x =>
    if csrBits s 0x3DA 0 0 = 0 ∨ x.drain.isSome ∨ x.phase = .ending then s
    else pushEvOnce (setCtx s c { x with drain := some hold }) (.drainCutComplete c)
/-- A token of a frozen context is parked in the overflow table; without room the context goes into a Proof (R359, R360). -/
def parkToken (s : State) (c : Nat) (x : Ctx) (t : Token) : State :=
  let full := noRoom s x t
  let t1 := { t with spill := if full then none else some (spillPart s x t) }
  let s1 := parkWork s c (.event (.tokenArrival c t1))
  if full && x.drain.isNone && csrBits s 0x3DA 0 0 == 1 then
    drainStart (tenRecord s1 { recOf 0x049 with ten := x.ten, press := x.press, tag := x.tag, sp := x.spawned, n := x.n, block := x.block })
      c false
  else s1

/-- TOKEN_ARRIVAL (R118 to R122, R134, R136, R137, R175, R359). -/
def execTokenArrival (c : Nat) (t : Token) (s : State) : Next :=
  .next (match ctxAt s c with
    | none => s
    | some x => if x.frozen.isSome || !x.begun.isEmpty then parkToken s c x t else settle (arriveToken s c x t) c)

end Sys2Proof.Machine
end

