-- ==== Sys2Proof/Machine/Run.lean ====
section
/-! DEFINITION. The run operations of opcode 0x17: `perm` and `bcast` (R183), the reductions and the scan (R184, R185), `rpack`
(R186) and `turn` (R187, R138). -/

namespace Sys2Proof.Machine

/-- The widths that `perm` and `bcast` take: port b holds places (R161). -/
def runWidths (r : RawTy) (q : Port) : Option Width := if q == .a then some (rawWidth r) else some .w32
/-- A firing that makes the value of each element from the whole run; values keep their scale state and bits (R183). -/
def runGo (r : RawTy) (m : FireMode) (ts : List Target) (s : State) (f : Firing) (val : Nat → Nat) : State :=
  match operandFault f (runWidths r) [.a] .pass with
  | some c => fireFault s f c (fireInfo f)
  | none =>
    (runsFrom 0 (firedMask m f)).foldl (fun s q =>
      sendRun s f ts q.1 (freshToken 0 ((List.range q.2).map fun k => BitVec.ofNat 64 (val (q.1 + k) % 2 ^ widthBits (rawWidth r)))
        (rawWidth r) ((scaleStates f [.a]).headD false) (inputBits f))) s

/-- PERM (R183): element y mod 32 of the token on port a, 0 beyond its end. DEDUCED (log entry 38). -/
def execPerm (f : FireMode) (t u : Target) (r : RawTy) (s : State) : Next :=
  onFire f s (passEos s [t, u]) (nullsUnless (fun g => operandFault g (runWidths r) [] .pass) s f [t, u]) fun g =>
    runGo r f [t, u] s g fun j => elemAt g.a (elemAt g.b j % 32)
/-- BCAST (R183): the first element of the token as its source sent it. -/
def execBcast (f : FireMode) (t u : Target) (r : RawTy) (s : State) : Next :=
  onFire f s (passEos s [t, u]) (nullsUnless (fun g => operandFault g (runWidths r) [] .pass) s f [t, u]) fun g =>
    runGo r f [t, u] s g fun _ => match g.a with
      | none => 0
      | some t => t.head.toNat

/-- A stream of which nothing has come. -/
def streamReset : Stream := { taken := 0, acc := none, bare := false, scaled := none, sb := 0, late := [], buffer := [] }
/-- The stream at an instruction. -/
def streamAt (x : Ctx) (inst : Nat) : Stream := tabGet (fun _ => streamReset) x.streams inst
/-- `s` with it. -/
def setStream (s : State) (c inst : Nat) (t : Stream) : State :=
  modCtx s c fun x => { x with streams := tabSet (fun _ => streamReset) x.streams inst t }

/-- The firings of a stream that are due now go before all other work. DEDUCED (log entry 42). -/
def streamDue (s : State) (c inst : Nat) : State :=
  match ctxAt s c with
  | none => s
  | some x =>
    let t := streamAt x inst
    let due := fun (g : Firing) => decide (iterOffset x.image g.iter ≤ t.taken)
    let s1 := setStream s c inst { t with late := t.late.filter fun g => !due g }
    { s1 with queue := (t.late.filter due).map .fire ++ s1.queue }

/-- A firing that waits at its stream. -/
def streamWait (s : State) (f : Firing) : State :=
  match f.a with
  | none => s
  | some a => waitWith s f.ctx a fun x t =>
      { x with streams := tabPut x.streams f.inst { streamAt x f.inst with late := (streamAt x f.inst).late ++ [{ f with a := some t }] } }

/-- A reduction's type, its effect on two values, and whether it is a scan. -/
structure RedOp where
  ty : Ty
  scan : Bool
  comb : Nat → Nat → Nat × BitVec 5

/-- An element delivered as it came: a NaR or NaN is made anew and sets NR (R35, R38). -/
def deliverElem (ty : Ty) (x : Nat) : Res := match valOf ty x with
  | .nan => nanRes ty
  | _ => (x, 0)
/-- Elements combined into an accumulator, with the value after each element and its own bits (R184). A scan delivers its first element. -/
def redFold (op : RedOp) (f : Firing) (acc : Option Nat) (js : List Nat) : List (Nat × Nat × BitVec 5) :=
  match js with
  | [] => []
  | j :: r =>
    let x := elemAt f.a j % 2 ^ tyBits op.ty
    let v := match acc with
      | none => if op.scan then deliverElem op.ty x else (x, 0)
      | some a => op.comb a x
    (j, v) :: redFold op f (some v.1) r

/-- The bits of a firing up to its first element that `bit` hits (R50). -/
def bitsUpTo (rs : List (Nat × Nat × BitVec 5)) (bit : BitVec 5) : BitVec 5 :=
  match rs with
  | [] => 0
  | r :: rest => if r.2.2 &&& bit != 0 then r.2.2 else r.2.2 ||| bitsUpTo rest bit

/-- A firing whose turn has come, combined (R184). DEDUCED (log entry 35). -/
def redTake (op : RedOp) (m : FireMode) (ts : List Target) (s : State) (f : Firing) (x : Ctx) (t : Stream) : State :=
  let nul := nullOperand f
  let js := if nul then [] else firedElems m f
  let rs := redFold op f (t.acc.map (·.toNat)) js
  let own := orBits (rs.map (·.2.2))
  let off := iterOffset x.image f.iter
  match (if waivesEnable f.waive then none else enableCause (own &&& x.eenable)) with
  | some c =>
    fireFault s f c.toNat { noInfo with sb := t.sb ||| inputBits f ||| bitsUpTo rs (causeBit c),
                                        iter := (f.iter + firstHit rs (causeBit c)) % 65536 }
  | none =>
    let sb := if js.isEmpty then t.sb else t.sb ||| inputBits f ||| own
    let acc := match rs.getLast? with
      | none => t.acc
      | some r => some (BitVec.ofNat 64 r.2.1)
    let sc := if js.isEmpty then t.scaled else (scaleStates f [.a]).head?
    let t1 := { t with taken := max t.taken (off + f.len), acc := acc, scaled := sc, sb := sb,
                       bare := if js.isEmpty then t.bare else t.acc.isNone && js.length == 1 }
    let s1 := setStream s f.ctx f.inst t1
    let s2 :=
      if !op.scan then s1
      else if nul then sendNulls s1 m ts f
      else (runsFrom 0 (firedMask m f)).foldl (fun s q =>
        sendRun s f ts q.1 (freshToken 0 ((List.range q.2).map fun k =>
          BitVec.ofNat 64 ((rs.find? fun r => r.1 == q.1 + k).map (·.2.1) |>.getD 0)) (tyWidth op.ty) (sc.getD false) sb)) s1
    streamDue s2 f.ctx f.inst

/-- A firing of a reduction or scan: it waits until it is due, and a repeated element faults (R184). -/
def redGo (op : RedOp) (m : FireMode) (ts : List Target) (s : State) (f : Firing) : State :=
  match ctxAt s f.ctx with
  | none => s
  | some x =>
    let t := streamAt x f.inst
    let off := iterOffset x.image f.iter
    let live := !nullOperand f && !(firedElems m f).isEmpty
    let want := fun q => if q == Port.a then some (tyWidth op.ty) else none
    if allStanding f then
      match (if live then operandFault f want [.a] .pass else none) with
      | some c => fireFault s f c (fireInfo f)
      | none =>
        let v := deliverElem op.ty (elemAt f.a 0)
        if !op.scan || !live then s
        else match (if waivesEnable f.waive then none else enableCause (v.2 &&& x.eenable)) with
          | some c => fireFault s f c.toNat { fireInfo f with sb := inputBits f ||| v.2 }
          | none => sendRun s f ts 0 (freshToken 0 [BitVec.ofNat 64 v.1] (tyWidth op.ty) ((scaleStates f [.a]).headD false) (inputBits f ||| v.2))
    else if off < t.taken && f.waive != some 0x053 then fireFault s f 0x053 (fireInfo f)
    else if t.taken < off && f.waive != some 0x053 then streamWait s f
    else
      let differs := match t.scaled, (scaleStates f [.a]).head? with
        | some b, some d => b != d
        | _, _ => false
      match (if live then operandFault f want [.a] .pass else none) with
      | some c => fireFault s f c { fireInfo f with sb := if c = 0x090 then t.sb else 0 }
      | none =>
        if live && differs && f.waive != some 0x090 then fireFault s f 0x090 { fireInfo f with sb := t.sb }
        else redTake op m ts s f x t

/-- EOS at a reduction or scan (R137, R184): tokens still early, or beyond the bound, fault. A sum or choice of one element is that element
delivered (R35, R38), a firing of its own for R50. DEDUCED (log entry 35). `empty` is what a stream without a
value delivers. -/
def redEos (op : RedOp) (ts : List Target) (empty : Option Nat) (s : State) (f : Firing) (bound : Nat) : State :=
  match ctxAt s f.ctx with
  | none => s
  | some x =>
    let t := streamAt x f.inst
    let off := iterOffset x.image bound
    let late := decide (off < t.taken) || t.late.any fun g => decide (off < iterOffset x.image g.iter + g.len)
    let at' := if off < t.taken then bound else (t.late.map (·.iter)).headD bound
    if late && f.waive != some 0x053 then fireFault s f 0x053 { fireInfo f with iter := at' }
    else if !t.late.isEmpty && f.waive != some 0x050 && f.waive != some 0x053 then fireFault s f 0x050 { fireInfo f with iter := at' }
    else if op.scan then passEos s ts f bound
    else
      let s0 := streamStart x.image
      let out := match t.acc with
        | some v => some (if t.bare then deliverElem op.ty v.toNat else (v.toNat, 0))
        | none => empty.map fun v => (v, 0)
      let own : BitVec 5 := match out with
        | some v => v.2
        | none => 0
      let tok := match out with
        | some v => freshToken s0 [BitVec.ofNat 64 v.1] (tyWidth op.ty) (t.scaled.getD false) (t.sb ||| v.2)
        | none => { freshToken s0 [0] (tyWidth op.ty) false 0 with nul := true }
      match (if waivesEnable f.waive then none else enableCause (own &&& x.eenable)) with
      | some c => fireFault s f c.toNat { fireInfo f with sb := t.sb ||| own }
      | none => sendTokens (sendTokens s f.ctx f.inst f.born ts tok) f.ctx f.inst f.born ts
        { freshToken 0 [BitVec.ofNat 64 ((s0 + 1) % 65536)] .w32 false 0 with eos := true }

/-- A meaning of the streams: EOS, or a firing whatever its mode gives, since the elements of every iteration count. -/
def onStream (s : State) (eos : Firing → Nat → State) (go : Firing → State) : Next :=
  match s.cur with
  | none => .fault .noFiring
  | some f => .next (match f.eos with
    | some b => eos f b
    | none => go f)

/-- The type of an AT code. -/
def accTy : AccTy → Ty
  | .i32 => .i32
  | .i64 => .i64
  | .t32 => .t32
  | .f32 => .f32
/-- Whether it is an integer type. -/
def accInt : AccTy → Bool
  | .i32 | .i64 => true
  | .t32 | .f32 => false
/-- The sum of a reduction (R184). -/
def sumOp (a : AccTy) (scan : Bool) : RedOp :=
  { ty := accTy a, scan := scan, comb := fun x y => if accInt a then ((x + y) % 2 ^ tyBits (accTy a), 0) else fAdd (accTy a) x y }
/-- The maximum or minimum of a reduction (R184). -/
def pickOp (a : AccTy) (wantMax : Bool) : RedOp :=
  { ty := accTy a, scan := false, comb := fun x y =>
      if accInt a then
        (if decide (intOf (accTy a) x < intOf (accTy a) y) = wantMax then y else x, 0)
      else fMinMax (accTy a) wantMax x y }

/-- RED_ADD (R184). -/
def execRedAdd (f : FireMode) (t u : Target) (a : AccTy) (s : State) : Next :=
  onStream s (redEos (sumOp a false) [t, u] (some 0) s) (redGo (sumOp a false) f [t, u] s)
/-- RED_MAX (R184). -/
def execRedMax (f : FireMode) (t u : Target) (a : AccTy) (s : State) : Next :=
  onStream s (redEos (pickOp a true) [t, u] none s) (redGo (pickOp a true) f [t, u] s)
/-- RED_MIN (R184). -/
def execRedMin (f : FireMode) (t u : Target) (a : AccTy) (s : State) : Next :=
  onStream s (redEos (pickOp a false) [t, u] none s) (redGo (pickOp a false) f [t, u] s)
/-- SCAN_ADD (R184). -/
def execScanAdd (f : FireMode) (t u : Target) (a : AccTy) (s : State) : Next :=
  onStream s (redEos (sumOp a true) [t, u] none s) (redGo (sumOp a true) f [t, u] s)

/-! `rpack` and `turn`. -/

/-- A firing's elements as cells from a stream offset. -/
def cellsOf (m : FireMode) (f : Firing) (off : Nat) (place : Nat → Nat) : List (Nat × Cell) :=
  (firedElems m f).map fun j =>
    (place (off + j), { val := if nullOperand f then none else some (BitVec.ofNat 64 (elemAt f.a j)),
                        sb := if nullOperand f then 0 else inputBits f, scaled := (scaleStates f [.a]).headD false })

/-- One more kept cell behind runs of cells, the latest run and in it the latest cell first: it goes on with the latest run if its place
follows, they can share a token (values in one scale state, or nulls), and no window of `size` places begins there. -/
def cellJoin (size : Nat) (l : List (Nat × List Cell)) (e : Nat × Cell) : List (Nat × List Cell) :=
  match l with
  | (k, v :: vs) :: r =>
    if e.1 = k + vs.length + 1 ∧ v.val.isSome = e.2.val.isSome ∧ (v.val.isNone ∨ v.scaled = e.2.scaled) ∧ vs.length < 31 ∧ e.1 % size ≠ 0 then
      (k, e.2 :: v :: vs) :: r
    else (e.1, [e.2]) :: l
  | _ => (e.1, [e.2]) :: l
/-- Kept cells cut into maximal runs of consecutive places inside windows of `size` places; a run longer than a token is cut every 32 elements
from its start on (R116, R186, R187). DEDUCED (log entry 183). -/
def cellRuns (size : Nat) (l : List (Nat × Cell)) : List (Nat × List Cell) :=
  (l.foldl (cellJoin size) []).reverse.map fun r => (r.1, r.2.reverse)

/-- Kept cells delivered in ascending order. -/
def sendCells (size : Nat) (s : State) (f : Firing) (ts : List Target) (ew : Width) (s0 : Nat) (l : List (Nat × Cell)) : State :=
  (cellRuns size l).foldl (fun s r =>
    let nul := r.2.any fun v => v.val.isNone
    let sc := match r.2 with
      | [] => false
      | v :: _ => v.scaled
    sendTokens s f.ctx f.inst f.born ts
      { freshToken (s0 + r.1) (r.2.map fun v => v.val.getD 0) ew (sc && !nul) (orBits (r.2.map (·.sb))) with nul := nul }) s

/-- A firing of `rpack` or `turn`: its cells are kept, and each group of `size` places that is full is delivered. -/
def packGo (size : Nat) (place : Nat → Nat) (r : RawTy) (m : FireMode) (ts : List Target) (s : State) (f : Firing) : State :=
  match ctxAt s f.ctx with
  | none => s
  | some x =>
    let live := !nullOperand f && !(firedElems m f).isEmpty
    match (if live then operandFault f (fun q => if q == .a then some (rawWidth r) else none) [.a] .pass else none) with
    | some c => fireFault s f c (fireInfo f)
    | none =>
      if allStanding f then
        if live then sendRun s f ts 0 (freshToken 0 [BitVec.ofNat 64 (elemAt f.a 0)] (rawWidth r)
          ((scaleStates f [.a]).headD false) (inputBits f)) else s
      else
        let t := streamAt x f.inst
        let cells := cellsOf m f (iterOffset x.image f.iter) place
        let buf := cells.foldl (fun b e => tabPut b e.1 e.2) t.buffer
        let groups := (cells.map fun e => e.1 / size).eraseDups
        let full := groups.filter fun g => (buf.filter fun e => e.1 / size == g).length == size
        let s1 := setStream s f.ctx f.inst { t with taken := t.taken + f.len, buffer := buf.filter fun e => !full.contains (e.1 / size) }
        sendCells size s1 f ts (rawWidth r) (streamStart x.image) (buf.filter fun e => full.contains (e.1 / size))

/-- EOS at `rpack` or `turn`: what is kept is delivered, then the EOS passes. -/
def packEos (size : Nat) (r : RawTy) (ts : List Target) (s : State) (f : Firing) (bound : Nat) : State :=
  match ctxAt s f.ctx with
  | none => s
  | some x =>
    let t := streamAt x f.inst
    let s1 := sendCells size (setStream s f.ctx f.inst { t with taken := 0, buffer := [] }) f ts (rawWidth r) (streamStart x.image) t.buffer
    sendTokens s1 f.ctx f.inst f.born ts { freshToken 0 [BitVec.ofNat 64 bound] .w32 false 0 with eos := true }

/-- RPACK (R186). -/
def execRpack (f : FireMode) (t u : Target) (r : RawTy) (s : State) : Next :=
  onStream s (packEos 32 r [t, u] s) (packGo 32 id r f [t, u] s)

/-- Where `turn` delivers the element of a place: rows and columns of its group of 1,024 change (R187). -/
def turnPlace (o : Nat) : Nat := o / 1024 * 1024 + 32 * (o % 32) + o % 1024 / 32

/-- The place of a turn buffer in `Press.turns`. -/
def turnKey (x : Ctx) (inst : Nat) : Nat := 128 * x.region.getD 0 + inst
/-- Whether another context holds the turn buffer of a `turn` (R138): it accepted a token in this region and has not delivered its last. A
context that leaves the region leaves the buffer, and one that comes back takes it anew. DESIGN CHOICE (log entry 43). -/
def turnHeld (s : State) (f : Firing) (x : Ctx) : Bool :=
  match tabFind (pressAt s x.press).turns (turnKey x f.inst) with
  | none => false
  | some c => match ctxAt s c with
    | none => false
    | some y => c != f.ctx && y.press == x.press && y.region.isSome && y.region == x.region && decide (0 < (streamAt y f.inst).taken)
/-- The turn buffer becomes the context's own. -/
def turnTake (s : State) (f : Firing) (x : Ctx) : State :=
  modPress s x.press fun p => { p with turns := tabPut p.turns (turnKey x f.inst) f.ctx }
/-- Firings that wait for a turn buffer of a region are taken up again (R138). -/
def turnWake (s : State) (press : Nat) (region : Option Nat) : State :=
  s.ctxs.foldl (fun s e =>
    if e.2.press == press && e.2.region == region && region.isSome then
      e.2.streams.foldl (fun s t => match instrAt e.2.image t.1 with
        | some (.turn _ _ _ _) =>
          if t.2.late.isEmpty then s
          else
            let s1 := setStream s e.1 t.1 { t.2 with late := [] }
            { s1 with queue := t.2.late.map .fire ++ s1.queue }
        | _ => s) s
    else s) s

/-- TURN (R138, R187): tokens wait while another context holds the buffer. -/
def execTurn (f : FireMode) (t u : Target) (r : RawTy) (s : State) : Next :=
  onStream s
    (fun g b => match ctxAt s g.ctx with
      | none => s
      | some x =>
        if (streamAt x g.inst).late.isEmpty then turnWake (packEos 1024 r [t, u] s g b) x.press x.region else streamWait s g)
    fun g => match ctxAt s g.ctx with
      | none => s
      | some x => if turnHeld s g x && !allStanding g then streamWait s g 
        else packGo 1024 turnPlace r f [t, u] (if allStanding g then s else turnTake s g x) g

end Sys2Proof.Machine
end

