-- ==== Sys2Proof/Machine/Life.lean ====
section
/-! DEFINITION. The life of a block (R123 to R129, R140, R141, R236, R311, R320): entry, fetch, placement, configuration, commit and
the Block Watch. -/

namespace Sys2Proof.Machine

/-! Entry and fetch (R123). -/

/-- A context without what belongs to one block entry. -/
def clearEntry (x : Ctx) : Ctx :=
  { x with image := [], region := none, configured := [], watch := 0, waiting := [], bounds := [], eosDone := [], streams := [],
           lsids := 0, gws := [], exits := [], bsets := [], badds := [], rests := [], divert := none, acted := [],
           undo := [], gathered := [], iterNext := none, owed := [], eosHeld := [], notes := [], begun := [] }
/-- A context enters the block at an address. -/
def enterBlock (s : State) (c : Nat) (x : Ctx) (addr : Nat) : State :=
  pushEv (setCtx s c { clearEntry x with block := addr, phase := .fetching }) (.blockFetch c)

/-- The words of some bytes. -/
def wordsOf (bs : List Byte) : List Word := (chunksOf 4 bs.length bs).map fun b => BitVec.ofNat 32 (leNat b)
/-- The owner under which a fetch waits for a peer. -/
def fetchOwner (c : Nat) : Nat := 2 ^ 45 + c
/-- Whether some bytes of a fetch are yet to be written by an accepted store of the context (R123, R224). -/
def fetchWaits (s : State) (via : Via) (c ten va n : Nat) : Bool :=
  let mine := s.accesses.filter fun a => a.ctx == c && !onlyLoads a && a.walked
  !mine.isEmpty && (match spotsFind s via ten .exec (partsOf va n) with
    | .ok l => mine.any fun a => a.parts.any fun p => l.any fun e => spansMeet (spanOf p) (spanOf (spotPlace e.1, e.2.2, 0, false))
    | _ => false)
/-- The words of an image: header and body, and with flag L on to the end of the loop descriptor and its tables. DEDUCED (log entry 69).
-/
def fetchImage (s : State) (via : Via) (c ten addr : Nat) : State × Got (List Word) :=
  let part := fun (s : State) (at' n : Nat) =>
    if fetchWaits s via c ten (at' % 2 ^ 56) n then (s, .wait) else vaKeep s via (fetchOwner c) ten .exec (at' % 2 ^ 56) n
  let whole := fun (s : State) (n : Nat) =>
    match part s addr n with
    | (s1, .ok bs) => (dropRemote s1 (fetchOwner c), .ok (wordsOf bs))
    | (s1, .bad k aux a) => (dropRemote s1 (fetchOwner c), .bad k aux a)
    | (s1, .wait) => (s1, .wait)
  match part s addr 16 with
  | (s1, .bad k aux a) => (dropRemote s1 (fetchOwner c), .bad k aux a)
  | (s1, .wait) => (s1, .wait)
  | (s1, .ok bs) =>
    let h := wordsOf bs
    let body := 16 + 4 * blkWords h
    if !blkLoop h then whole s1 body
    else
      let d := 4 * blkLoopAt h
      match part s1 (addr + d) 16 with
      | (s2, .bad k aux a) => (dropRemote s2 (fetchOwner c), .bad k aux a)
      | (s2, .wait) => (s2, .wait)
      | (s2, .ok ds) =>
        let w2 := leNat ((ds.drop 8).take 4)
        let tables := if bitsOf w2 31 24 = 0 then 0 else d + 16 * bitsOf w2 15 0 + 48 * bitsOf w2 31 24
        whole s2 (max body (max (d + 16) tables))

/-! Placement (R124, R125). -/

/-- The regions of a Press. -/
def regionNums : List Nat := [0, 1, 2, 3]
/-- Whether a live context uses a region. -/
def regionUsed (s : State) (p r : Nat) : Bool := s.ctxs.any fun e => e.2.press == p && e.2.region == some r
/-- The image that a region holds. -/
def regionImage (s : State) (p r : Nat) : List Word := tabGet (fun _ => []) (pressAt s p).regions r
/-- A region that holds an image. -/
def regionWith (s : State) (p : Nat) (img : List Word) : Option Nat := regionNums.find? fun r => regionImage s p r == img
/-- The last use of a region. -/
def regionStamp (s : State) (p r : Nat) : Nat := tabGet (fun _ => 0) (pressAt s p).regionUse r
/-- A free region, the one used least recently. -/
def regionFree (s : State) (p : Nat) : Option Nat :=
  (regionNums.filter fun r => !regionUsed s p r).foldl (fun b r => match b with
    | none => some r
    | some q => if regionStamp s p r < regionStamp s p q then some r else some q) none
/-- `s` with an image in a region, used now. -/
def useRegion (s : State) (p r : Nat) (img : List Word) : State :=
  bumpId (modPress s p fun q => { q with regions := tabSet (fun _ => []) q.regions r img,
                                         regionUse := tabSet (fun _ => 0) q.regionUse r s.nextId })

/-- Whether a Placement Cache entry is for an image under the present grid revision. -/
def placedAs (s : State) (img : List Word) (e : Placed) : Bool := e.grev == csrBits s 0x322 15 0 && e.image == img
/-- A Placement Cache with an entry used last; the least recently used goes at the capacity. -/
def cacheUse (l : List Placed) (e : Placed) : List Placed :=
  let r := l.filter fun q => q != e
  (if r.length < Config.placementEntries then r else r.drop 1) ++ [e]
/-- `s` with an image's placement used. -/
def cachePut (s : State) (g : Nat) (img : List Word) : State :=
  modGroup s g fun q => { q with cache := cacheUse q.cache { image := img, grev := csrBits s 0x322 15 0 } }

/-! Configuration and start (R126, R127, R140). -/

/-- An instruction with no required port fires once. -/
def fireFree (s : State) (c inst : Nat) : State :=
  match ctxAt s c with
  | none => s
  | some x => match instrAt x.image inst with
    | none => s
    | some i => if (requiredPorts i).isEmpty then pushFiring s (bareFiring c inst 0 1 0) else s
/-- A PE begins to act: the tokens that waited for its packet are consumed in order, and it fires if it needs none. DEDUCED (log entry
74). -/
def peStarts (s : State) (c inst : Nat) : State :=
  match ctxAt s c with
  | none => s
  | some x =>
    let was := x.begun.contains inst
    let mine := if was then [] else x.waiting.filter fun t => t.inst == inst
    let s1 := setCtx s c { x with configured := x.configured ++ [inst], waiting := if was then x.waiting else x.waiting.filter fun t => t.inst != inst }
    if was then s1 else fireFree (mine.foldl (fun s t => match ctxAt s c with
      | none => s
      | some y => if y.frozen.isSome then parkWork s c (.event (.tokenArrival c t)) else arriveToken s c y t) s1) c inst
/-- The block of a restored context is placed again (R374): it is frozen as it was, or what was saved returns in its order. A block that
had started goes on being watched; `startedAt` held how long it had run. -/
def blockRestored (s : State) (c : Nat) (x : Ctx) : State :=
  let all := decide (blkCount x.image ≤ x.begun.length)
  let limit := if all then x.watch else csrBits s 0x320 31 0
  let y := { x with phase := .running, begun := [], startedAt := if all then s.now - x.startedAt else s.now, watch := limit,
                    frozen := x.refreeze.map fun z => { z with since := s.now }, refreeze := none, parked := if x.refreeze.isSome then x.parked else [] }
  let s1 := setCtx s c y
  let s2 := if x.refreeze.isSome then s1 else { s1 with queue := x.parked ++ s1.queue }
  settle (turnWake (if limit = 0 then s2 else pushEvOnce s2 (.blockWatchExpiry c)) x.press x.region) c
/-- The block of a context has started: the watch counts from here (R140). -/
def blockStarted (s : State) (c : Nat) : State :=
  let limit := csrBits s 0x320 31 0
  match ctxAt s c with
  | none => s
  | some x =>
  if !x.begun.isEmpty then blockRestored s c x
  else
  let s1 := modCtx s c fun x => { x with phase := .running, startedAt := s.now, watch := limit }
  settle (if limit = 0 then s1 else pushEvOnce s1 (.blockWatchExpiry c)) c
/-- A context uses a region that holds its block: at once, or with the contexts for which the region is being configured. -/
def joinRegion (s : State) (c : Nat) (x : Ctx) (r : Nat) : State :=
  let s1 := useRegion s x.press r x.image
  if s.ctxs.any fun e => e.2.press == x.press && e.2.region == some r && e.2.phase == .configuring then
    pushEvs (setCtx s1 c { x with region := some r, phase := .configuring }) ((List.range (blkCount x.image)).map (.configPacketComplete c))
  else
    blockStarted ((List.range (blkCount x.image)).foldl (fun s i => peStarts s c i) (setCtx s1 c { x with region := some r })) c

/-- BLOCK_FETCH (R123, R124): the image, and where it comes to be placed. -/
def execBlockFetch (c : Nat) (s : State) : Next :=
  .next (match ctxAt s c with
    | none => s
    | some x =>
      if x.phase != .fetching then s
      else if x.frozen.isSome then parkWork s c (.event (.blockFetch c))
      else match fetchImage s (some (x.press, x.group)) c x.ten x.block with
        | (s1, .wait) => pushEv s1 (.blockFetch c)
        | (s1, .bad k aux a) => takeFault s1 c k { infoAt a aux with block := x.block } (some (.event (.blockFetch c)))
        | (s1, .ok img) =>
          match regionWith s1 x.press img with
          | some r => joinRegion s1 c { x with image := img } r
          | none =>
            if (groupAt s1 x.group).cache.any (placedAs s1 img) then
              pushEv (cachePut (setCtx s1 c { x with image := img, phase := .wantsRegion }) x.group img) (.regionAcquire c)
            else pushEv (ctxCount (setCtx s1 c { x with image := img, phase := .placing }) c 0x003 1) (.mapperPlace c))

/-- MAPPER_PLACE (R124, R154, R157): the image is accepted and its placement kept, or the context faults; it waits for the Mapper of its
die (R78). At resume the block is fetched again. DEDUCED (log entry 70). The target field concerned by 0x005 and 0x006 stands in AUX.
DESIGN CHOICE (log entry 189). -/
def execMapperPlace (c : Nat) (s : State) : Next :=
  .next (match ctxAt s c with
    | none => s
    | some x =>
      if x.phase != .placing then s
      else if x.frozen.isSome then parkWork s c (.event (.mapperPlace c))
      else if !readyBit s (378 + x.group / 8) then pushEv s (.mapperPlace c)
      else match mapperCheck x.image x.block with
        | some r =>
          takeFault (setCtx s c { x with phase := .fetching }) c r.cause
            { noInfo with inst := r.inst, word := r.word, aux := BitVec.ofNat 64 r.target, block := x.block } (some (.event (.blockFetch c)))
        | none => pushEv (cachePut (setCtx s c { x with phase := .wantsRegion }) x.group x.image) (.regionAcquire c))

/-- REGION_ACQUIRE (R125): the context takes a region; while none is free it waits. -/
def execRegionAcquire (c : Nat) (s : State) : Next :=
  .next (match ctxAt s c with
    | none => s
    | some x =>
      if x.phase != .wantsRegion then s
      else if x.frozen.isSome then parkWork s c (.event (.regionAcquire c))
      else match regionWith s x.press x.image with
        | some r => joinRegion s c x r
        | none => match regionFree s x.press with
          | none => pushEv s (.regionAcquire c)
          | some r =>
            pushEvs (setCtx (useRegion s x.press r x.image) c { x with region := some r, phase := .configuring })
              ((List.range (blkCount x.image)).map (.configPacketComplete c)))

/-- CONFIG_PACKET_COMPLETE (R126): a PE begins to act; with the last one the block has started. -/
def execConfigPacketComplete (c inst : Nat) (s : State) : Next :=
  .next (match ctxAt s c with
    | none => s
    | some x =>
      if x.frozen.isSome then parkWork s c (.event (.configPacketComplete c inst))
      else if x.phase != .configuring || x.configured.contains inst then s
      else
        let s1 := peStarts s c inst
        if x.configured.length + 1 < blkCount x.image then s1 else blockStarted s1 c)

/-- PLACEMENT_CACHE_FLUSH (R141). -/
def execPlacementCacheFlush (s : State) : Next :=
  .next { s with groups := s.groups.map fun e => (e.1, { e.2 with cache := [] }) }

/-! Commit (R129). -/

/-- The G registers after a commit: of several values for one register that of the highest instruction. -/
def commitG (x : Ctx) : Tab Word :=
  (x.gws.mergeSort fun d e => decide (d.1 ≤ e.1)).foldl (fun g e => match e.2.2 with
    | none => g
    | some v => tabSet (fun _ => 0) g e.2.1 v) x.g
/-- The base registers after a commit (R236). -/
def commitB (x : Ctx) : Tab Dbl :=
  let set := (x.bsets.mergeSort fun d e => decide (d.1 ≤ e.1)).foldl (fun b e => tabSet (fun _ => 0) b e.2.1 e.2.2) x.b
  x.badds.foldl (fun b e => tabSet (fun _ => 0) b e.1 (tabGet (fun _ => 0) b e.1 + e.2)) set

/-- A reply to no target. -/
def noReply (c inst : Nat) : Reply :=
  { ctx := c, inst := inst, iter := 0, runs := [], standing := false, targets := [], sb := 0, born := 0 }
/-- The write-backs that `rest` asked for, copied and entered into queue CP (R311). DEDUCED (log entry 78). -/
def commitRests (s : State) (c : Nat) (x : Ctx) : State :=
  x.rests.foldl (fun s m => match stepAt s x.stp with
    | none => s
    | some r =>
      let h := (r.headsz + 1) * 16
      match memberAt s x.stp m with
      | none => s
      | some q => enqueue (bumpId s) x.press
          { newOp s.nextId c 6 0 (.restWrite q.sbase (windowRead r (m * h) h)) (noReply c 0xFF) with ringed := m }) s

/-- What a block leaves at its commit, the context on its way to `dest`: all ones ends the step, or a child. -/
def commitBlock (s : State) (c : Nat) (x : Ctx) (dest : Nat) : State :=
  let s1 := commitRests (ctxCount s c 0x002 1) c x
  match ctxAt s1 c with
  | none => s1
  | some y =>
    let z := { clearEntry { y with g := commitG x, b := commitB x, th := x.th, tnum := x.tnum, tra := x.tra, entry := x.entry + 1 } with
               region := x.region }
    if dest = 2 ^ 64 - 1 then
      turnWake (pushEvOnce (setCtx s1 c { z with phase := .ending }) (.retirement x.stp)) x.press x.region
    else turnWake (enterBlock s1 c z dest) x.press x.region

/-- COMMIT (R128, R129, R320). A return address that is not legal faults here (R321); after a resume it is used as it stands. -/
def execCommit (c : Nat) (s : State) : Next :=
  .next (match ctxAt s c with
    | none => s
    | some x =>
      if !commitReady s c then s
      else
        let normal := match x.exits with
          | e :: _ => e.dest.getD (2 ^ 64 - 1)
          | [] => 2 ^ 64 - 1
        match (match x.divert with
          | none => some (x, normal)
          | some d => trapTarget s x normal d) with
        | none => takeFault (setCtx s c { x with divert := some .tretAny }) c 0x044 { noInfo with addr := x.tra } (some (.event (.commit c)))
        | some (y, dest) => commitBlock s c y dest)

/-! The Block Watch (R140). -/

/-- What the Block Watch record says of a block (R365). -/
def watchAux (x : Ctx) : Nat :=
  let left := blkMask x.image &&& ~~~x.lsids
  let owed := blkWrites x.image - x.gws.length
  left.toNat * 2 ^ 32 + owed % 64 * 2 ^ 26 + (match x.exits with
    | [] => 0
    | e :: _ => 2 ^ 25 + e.num % 8 * 2 ^ 22 + e.inst % 128 * 2 ^ 15)
/-- BLOCK_WATCH_EXPIRY (R140): the limit is reached without a commit. Standing tokens are not counted (R175). A block that can commit now does (R142); after a resume its block is
watched no more. DEDUCED (log entry 76). -/
def execBlockWatchExpiry (c : Nat) (s : State) : Next :=
  .next (match ctxAt s c with
    | none => s
    | some x =>
      if x.phase != .running || x.watch = 0 then s
      else if x.frozen.isSome || decide (cyclesOf (s.now - x.startedAt) < x.watch) || commitReady s c then
        pushEvOnce s (.blockWatchExpiry c)
      else
        let l := (ctxWaiting x).filter fun t => !t.standing
        takeFault (setCtx s c { x with watch := 0 }) c 0x040
          { noInfo with ntok := l.length, aux := BitVec.ofNat 64 (watchAux x),
                        items := (l.take 8).map fun t => BitVec.ofNat 64 (tokenDouble x.tag (ctxPlane x) true t) } none)

end Sys2Proof.Machine
end

