-- ==== Sys2Proof/Machine/Plates.lean ====
section
/-! DEFINITION. Plates: presence and use (R25, R89), loads with their checks and the budget (R23, R24, R94, R95, R350, R351, R376,
R378), eviction (R95, R258), and `plate.ld`, `plate.ev` and `plate.q` (R257 to R259). -/

namespace Sys2Proof.Machine

/-- The Group Scheduler looks at its entries in the next cycle (R100). -/
def kickGroup (s : State) (g : Nat) : State := pushEvOnce s (.impressionGather g)

/-! Presence and use. -/

/-- A plate of a Group, one that is marked for eviction among them. -/
def plateAt (s : State) (g ten num : Nat) : Option Plate := (groupAt s g).plates.find? fun p => p.ten == ten && p.num == num
/-- Whether a plate is present for a match (R89, R258). -/
def plateHere (s : State) (g ten num : Nat) : Bool := match plateAt s g ten num with
  | none => false
  | some p => !p.marked
/-- `s` with a plate changed. -/
def modPlate (s : State) (g ten num : Nat) (f : Plate → Plate) : State :=
  modGroup s g fun q => { q with plates := mapWhere (fun p => p.ten == ten && p.num == num) f q.plates }
/-- Whether an impression that is not yet admitted holds a plate (R112, R258). -/
def plateWanted (s : State) (g ten num : Nat) : Bool := (groupAt s g).imps.any fun i => i.ten == ten && i.plate == num
/-- Whether a plate that is chosen for eviction cannot be evicted yet (R25, R112). -/
def plateBusy (s : State) (g : Nat) (p : Plate) : Bool := p.uses != 0 || plateWanted s g p.ten p.num
/-- Members of a step matched to a plate: its use count rises (R25). -/
def plateMatch (s : State) (g ten num n : Nat) : State :=
  modPlate s g ten num fun p => { p with uses := p.uses + n, matched := s.now }
/-- Members of a step that has ended. -/
def plateRelease (s : State) (g ten num n : Nat) : State := modPlate s g ten num fun p => { p with uses := p.uses - n }

/-- The agent of member 0 of a context. -/
def ctxAgent (s : State) (c : Nat) : Nat :=
  match ctxAt s c with
  | none => 0
  | some x => match memberAt s x.stp 0 with
    | none => 0
    | some m => m.agent
/-- A request answered with one value, and the commit that this may let happen. -/
def answerDone (s : State) (r : Reply) (v : Nat) : State := settle (answer s r v .w32) r.ctx
/-- Several requests answered. -/
def answerAll (s : State) (rs : List Reply) (v : Nat) : State := rs.foldl (fun s r => answerDone s r v) s

/-! Eviction. -/

/-- A plate marked for eviction (R258): it no longer counts as present. -/
def plateMark (s : State) (g ten num : Nat) (rs : List Reply) : State :=
  kickGroup (pushEvOnce (modPlate s g ten num fun p => { p with marked := true, evictors := p.evictors ++ rs })
    (.plateEvictionComplete g ten num)) g
/-- A slot that no plate holds any more (R217). -/
def slotEmptied (s : State) (g k : Nat) : State := modTile s g k fun t => { t with state := 0, pl := false }
/-- PLATE_EVICTION_COMPLETE (R258, R297): once the use count is zero and the reads that its slots admitted are performed, the slots are Empty
and the evictors are answered. -/
def execPlateEvictionComplete (g ten num : Nat) (s : State) : Next :=
  .next (match plateAt s g ten num with
    | none => s
    | some p =>
      if !p.marked then s
      else if plateBusy s g p || p.slots.any (slotReads s g) then pushEv s (.plateEvictionComplete g ten num)
      else
        let s1 := modGroup s g fun q => { q with plates := q.plates.filter fun r => !(r.ten == ten && r.num == num) }
        kickGroup (answerAll (p.slots.foldl (fun s k => slotEmptied s g k) s1) p.evictors 0) g)

/-! Loads. -/

/-- A load of a Group. -/
def loadAt (s : State) (g id : Nat) : Option Load := (groupAt s g).loads.find? fun l => l.id == id
/-- The load of a plate into a Group. -/
def loadOf (s : State) (g ten num : Nat) : Option Load := (groupAt s g).loads.find? fun l => l.ten == ten && l.num == num
/-- `s` with a load changed. -/
def modLoad (s : State) (g id : Nat) (f : Load → Load) : State :=
  modGroup s g fun q => { q with loads := mapWhere (fun l => l.id == id) f q.loads }
/-- `s` without a load. -/
def dropLoad (s : State) (g id : Nat) : State := modGroup s g fun q => { q with loads := q.loads.filter fun l => l.id != id }

/-- A load asked for, by an entry or by `plate.ld`; one in progress is joined (R94, R257). -/
def askLoad (s : State) (g ten num image : Nat) (agents : List Nat) (overdue : Bool) (rs : List Reply) : State :=
  match loadOf s g ten num with
  | some l => modLoad s g l.id fun l =>
      { l with wanted := (agents ++ l.wanted).eraseDups, overdue := l.overdue || overdue, replies := l.replies ++ rs }
  | none =>
    let l : Load := { id := s.nextId, ten := ten, num := num, image := image, running := false, overdue := overdue, retried := false,
                      slots := [], tiles := 0, head := [], keys := [], key := (0, 0), wanted := agents, replies := rs, evictors := [], reports := [], startedAt := 0 }
    pushEv (bumpId (modGroup s g fun q => { q with loads := q.loads ++ [l] })) (.plateLoadStart g l.id)

/-- A load that no entry of the Group wants any more and that has not started is withdrawn (R351). -/
def unwant (s : State) (g ten num agent : Nat) : State :=
  match loadOf s g ten num with
  | none => s
  | some l =>
    let w := l.wanted.filter fun a => a != agent
    if !l.running && w.isEmpty && l.replies.isEmpty && l.reports.isEmpty && !l.wanted.isEmpty then answerAll (dropLoad s g l.id) l.evictors 1
    else modLoad s g l.id fun l => { l with wanted := w }

/-- The owner under which a load waits for a peer. -/
def loadOwner (id : Nat) : Nat := 2 ^ 47 + id
/-- The first 16 bytes of a PLATE flit (DESIGN CHOICE, log entry 31): tenancy, plate, publisher and the devices still to come, then the chunk and the
number of chunks; with no device to come, a report: the device and its result. -/
def plateHead (ten num pub count lo hi : Nat) : List Byte :=
  leBytes 8 (ten % 16 + num % 65536 * 2 ^ 4 + pub % 2 ^ 14 * 2 ^ 20 + count % 128 * 2 ^ 34) ++ leBytes 8 (lo % 2 ^ 32 + hi % 2 ^ 32 * 2 ^ 32)
/-- A device's result reported to the publisher of a plate (R284). -/
def plateReport (s : State) (ten num pub dev res : Nat) : State :=
  match linkTo s pub with
  | none => s
  | some n => sendFlit s n (mkFlit s false 0x0A pub 0 0 (plateHead ten num pub 0 dev res))
/-- The publishers of a load told its result. -/
def tellReports (s : State) (l : Load) (res : Nat) : State :=
  l.reports.foldl (fun s p => plateReport s l.ten l.num p (deviceNumber s) res) s
/-- Bytes of a plate image: a granule whose check word does not match fails as the image's (R24, R376). DEDUCED (log entry 89). -/
def imageRead (s : State) (l : Load) (off n : Nat) : State × Got (List Byte) :=
  let va := (l.image + off) % 2 ^ 56
  if 2 ^ 60 ≤ l.image then
    let pa := l.image - 2 ^ 60 + off
    if Config.hbmBytes < pa + n then (s, .bad 0x105 0 pa)
    else if !stackReady s pa then (s, .wait)
    else match hbmBad s pa n with
      | some g => (s, .bad 0x385 (checkAux 2 g) pa)
      | none => (s, .ok (hbmRead s pa n))
  else match vaKeep s none (loadOwner l.id) l.ten .read va n with
  | (s1, .bad c aux a) =>
    match spotsFind s none l.ten .read (partsOf va n) with
    | .ok _ => (s1, if c = 0x383 then .bad 0x385 (checkAux 2 aux) a else .bad c aux a)
    | _ => (s1, .bad c aux a)
  | r => r
/-- The local parts of `n` bytes of an image that has been translated: VA and PA; none where one is at a peer. -/
def imageParts (s : State) (l : Load) (off n : Nat) : Option (List (Nat × Nat × Nat)) :=
  if 2 ^ 60 ≤ l.image then some [(l.image - 2 ^ 60 + off, l.image - 2 ^ 60 + off, n)]
  else match spotsFind s none l.ten .read (partsOf ((l.image + off) % 2 ^ 56) n) with
    | .ok ps => if ps.all fun p => p.1.mode == 0 then some (ps.map fun p => (p.2.1, p.1.pa, p.2.2)) else none
    | _ => none
/-- The first granule of some bytes of an image whose check word does not match: its AUX and address (R24, step 4). -/
def imageSpoiled (s : State) (l : Load) (off n : Nat) : Option (Nat × Nat) :=
  ((imageParts s l off n).getD []).findSome? fun p => (hbmBad s p.2.1 p.2.2).map fun g => (checkAux 2 g, p.1)
/-- The header or directory of an image, whose check words are verified only after the checks on what they say (R24). Bytes at a peer are
verified there, so that a bad granule never comes. DEDUCED (log entry 89). -/
def imageHead (s : State) (l : Load) (off n : Nat) : State × Got (List Byte) :=
  match imageRead s l off n with
  | (s1, .bad 0x385 aux a) => match imageParts s l off n with
    | some ps => (s1, .ok (ps.flatMap fun p => hbmRead s p.2.1 p.2.2))
    | none => (s1, .bad 0x385 aux a)
  | r => r

/-- Where the tiles of an image begin (R23). -/
def tilesAt (t : Nat) : Nat := (256 + 16 * t + 16383) / 16384 * 16384
/-- Whether bytes of a header are all zero. -/
def zeroAt (bs : List Byte) (off n : Nat) : Bool := ((bs.drop off).take n).all fun b => b == 0
/-- A number of a header. -/
def headNat (bs : List Byte) (off n : Nat) : Nat := leNat ((bs.drop off).take n)
/-- Whether the header of an image is malformed (R23, R24). -/
def plateHeadBad (h : List Byte) : Bool :=
  headNat h 0 4 != 0xC4E60B01 || headNat h 4 2 != 1 || !zeroAt h 6 2 || !zeroAt h 10 2 || headNat h 12 4 == 0 ||
    decide (768 < headNat h 12 4) || decide (8 ≤ headNat h 16 4) || !zeroAt h 20 12 || !zeroAt h 128 128
/-- Whether a directory entry has a bit set that is to be zero. -/
def dirBad (e : List Byte) : Bool := decide (2 ≤ headNat e 4 1) || !zeroAt e 5 11
/-- A directory entry. -/
def dirEntry (e : List Byte) : DirEntry :=
  { ty := e.getD 0 0, rows := e.getD 1 0, cols := e.getD 2 0, scale := e.getD 3 0, block := headNat e 4 1 % 2 == 1 }
/-- The key of a Plate Key Table slot, if it holds one (R82). -/
def plateKey (keys : Tab KeySlot) (k : Nat) : Option (Nat × Nat) :=
  match tabFind keys k with
  | none => none
  | some q => if q.valid then some (beNat (memRead q.bytes 0 32), beNat (memRead q.bytes 0x20 32)) else none

/-- The record of a load that has failed (R31, R257). -/
def loadRecord (s : State) (l : Load) (cause aux addr : Nat) : State :=
  let agent := match l.wanted, l.replies with
    | a :: _, _ => a
    | [], r :: _ => ctxAgent s r.ctx
    | [], [] => 0
  tenRecord s { recOf cause with ten := l.ten, agent := agent, addr := addr, aux := aux }
/-- A load fails (R24): its slots are Empty and the cause is reported, but for the one armed retry (R378). DEDUCED (log entry 85). -/
def loadFails (s : State) (g : Nat) (l : Load) (cause aux addr : Nat) : State :=
  let s1 := dropRemote (l.slots.foldl (fun s k => slotEmptied s g k) s) (loadOwner l.id)
  let alt := csrGet s (0x4A5 + 8 * l.ten)
  if (cause = 0x201 ∨ cause = 0x385) ∧ !l.retried ∧ csrBits s 0x3D8 3 3 = 1 ∧ bitsOf alt.toNat 0 0 = 1 ∧ l.image < 2 ^ 60 then
    pushEv (modLoad s1 g l.id fun l =>
      { l with image := (l.image + bitsOf alt.toNat 55 14 * 16384) % 2 ^ 56, retried := true, slots := [], tiles := 0, head := [] })
      (.plateLoadStart g l.id)
  else tellReports (answerAll (answerAll (loadRecord (dropLoad s1 g l.id) l cause aux addr) l.replies cause) l.evictors 1) l cause

/-- Whether a load that waits may start (R25, R94): an overdue one at once, another in its turn within the budget. -/
def loadMay (s : State) (g : Nat) (l : Load) : Bool :=
  let q := groupAt s g
  let free := fun (k : Load) => (plateAt s g k.ten k.num).isNone
  free l && (l.overdue || (decide ((q.loads.filter (·.running)).length < csrBits s 0x304 3 0) &&
    (q.loads.takeWhile fun k => k.id != l.id).all fun k => k.running || !free k))

/-- The Empty slots of a Group, ascending. -/
def emptySlots (s : State) (g : Nat) : List Nat := (List.range Config.tileSlots).filter fun k => (tileAt s g k).state == 0
/-- Whether a waiting entry of a Group is bound to a plate. -/
def boundWaiting (s : State) (g : Nat) (p : Plate) : Bool :=
  (groupAt s g).entries.any fun e => e.waiting && e.ten == p.ten && e.plate == p.num
/-- The plates that may be chosen for eviction for a load, in the order in which they go (R95). One that an impression holds may be chosen too:
its eviction then waits (R112). -/
def evictable (s : State) (g : Nat) : List Plate :=
  let l := ((groupAt s g).plates.filter fun p => !p.marked && p.uses == 0).mergeSort fun p q => decide (p.matched ≤ q.matched)
  (l.filter fun p => !boundWaiting s g p) ++ l.filter (boundWaiting s g)
/-- As many of the plates as give `need` slots. -/
def evictFor (need : Nat) (l : List Plate) : List Plate :=
  match l with
  | [] => []
  | p :: r => if need = 0 then [] else p :: evictFor (need - p.slots.length) r
/-- A started load takes its slots (R95, R350); while too few are free it waits, and plates that would free enough are evicted. -/
def loadSlots (s : State) (g : Nat) (l : Load) : State :=
  let free := emptySlots s g
  if l.tiles ≤ free.length then
    let take := free.take l.tiles
    let fill : Tile := { tileReset with state := 1, ten := BitVec.ofNat 4 l.ten, tid := 2, pl := true }
    pushEv (modLoad (take.foldl (fun s k => watchShard (setTile s g k fill) 0 (1024 * g + k)) s) g l.id fun l => { l with slots := take, startedAt := s.now })
      (.plateLoadComplete g l.id)
  else
    let going := ((groupAt s g).plates.filter fun p => p.marked && p.uses == 0).foldl (fun n p => n + p.slots.length) 0
    let cand := evictable s g
    let soon := free.length + going
    let s1 := if soon < l.tiles && decide (l.tiles ≤ soon + cand.foldl (fun n p => n + p.slots.length) 0) then
        (evictFor (l.tiles - soon) cand).foldl (fun s p => plateMark s g p.ten p.num []) s
      else s
    pushEv s1 (.plateLoadStart g l.id)

/-- The header and directory of a started load, with the checks made on them in their order (R24). -/
def loadHead (s : State) (g : Nat) (l : Load) : State :=
  let again := Instr.plateLoadStart g l.id
  match imageHead s l 0 256 with
  | (s1, .wait) => pushEv s1 again
  | (s1, .bad c aux a) => loadFails s1 g l c aux a
  | (s1, .ok h) =>
    if plateHeadBad h then loadFails s1 g l 0x200 0 l.image
    else
      let t := headNat h 12 4
      match imageHead s1 l 256 (16 * t) with
      | (s2, .wait) => pushEv s2 again
      | (s2, .bad c aux a) => loadFails s2 g l c aux a
      | (s2, .ok d) =>
        if (chunksOf 16 t d).any dirBad then loadFails s2 g l 0x200 0 l.image
        else match plateKey l.keys (headNat h 16 4) with
          | none => loadFails s2 g l 0x202 0 l.image
          | some k =>
            if headNat h 8 4 ≠ l.num then loadFails s2 g l 0x203 0 l.image
            else
              let l1 := { l with head := h ++ d, key := k, tiles := t }
              loadSlots (modLoad (dropRemote s2 (loadOwner l.id)) g l.id fun _ => l1) g l1

/-- PLATE_LOAD_START (R82, R94, R95): a load begins when its turn comes, with the keys as they then are, and waits for its tile slots. -/
def execPlateLoadStart (g id : Nat) (s : State) : Next :=
  .next (match loadAt s g id with
    | none => s
    | some l =>
      if !l.slots.isEmpty then s
      else if !l.running && !loadMay s g l then pushEv s (.plateLoadStart g id)
      else
        let l1 := if l.running then l else { l with running := true, keys := s.keys }
        let s1 := modLoad s g id fun _ => l1
        if l.head.isEmpty then loadHead s1 g l1 else loadSlots s1 g l1)

/-- A load whose checks have all passed: its tiles are Ready and its presence is set at once (R24, R217). -/
def loadDone (s : State) (g : Nat) (l : Load) (tiles : List Byte) : State :=
  let s1 := (l.slots.zip (chunksOf 16384 l.tiles tiles)).foldl (fun s e =>
    modTile (sramFresh (slotWrite s g e.1 0 e.2) (slotAddr g e.1 0) 16384) g e.1 fun t => { t with state := 2 }) s
  let p : Plate := { ten := l.ten, num := l.num, slots := l.slots, dir := (chunksOf 16 l.tiles (l.head.drop 256)).map dirEntry, uses := 0,
                     marked := !l.evictors.isEmpty, matched := s.now, evictors := l.evictors }
  let s2 := modGroup (dropLoad s1 g l.id) g fun q => { q with plates := q.plates ++ [p] }
  let s3 := devCount (devCount s2 0x202 1) 0x203 (s.now - l.startedAt)
  let s4 := if l.evictors.isEmpty then s3 else pushEvOnce s3 (.plateEvictionComplete g l.ten l.num)
  kickGroup (tellReports (answerAll s4 l.replies 0) l 0) g

/-- Whether an image's DIGEST and SIG hold (R23, R24): `body` is every byte from offset 0x100 on. -/
def imageSigned (l : Load) (body : List Byte) : Bool :=
  sha256 body == (l.head.drop 0x20).take 32 &&
    ecdsaVerify (sha256 (l.head.take 0x40)) (beNat ((l.head.drop 0x40).take 32)) (beNat ((l.head.drop 0x60).take 32)) l.key.1 l.key.2

/-- PLATE_LOAD_COMPLETE (R24): the rest of the image is read; the last checks set presence or fail the load. -/
def execPlateLoadComplete (g id : Nat) (s : State) : Next :=
  .next (match loadAt s g id with
    | none => s
    | some l =>
      if l.slots.isEmpty then s
      else
        let off := 256 + 16 * l.tiles
        match imageRead s l off (tilesAt l.tiles + 16384 * l.tiles - off) with
        | (s1, .wait) => pushEv s1 (.plateLoadComplete g id)
        | (s1, .bad c aux a) => loadFails s1 g l c aux a
        | (s1, .ok rest) =>
          let s2 := dropRemote s1 (loadOwner id)
          match imageSpoiled s2 l 0 off with
          | some (aux, a) => loadFails s2 g l 0x385 aux a
          | none => if imageSigned l (l.head.drop 256 ++ rest) then loadDone s2 g l (rest.drop (tilesAt l.tiles - off))
          else loadFails s2 g l 0x201 0 l.image)

/-! The instructions. -/

/-- The Group that a request names, or the context's own. -/
def plateGroup (x : Ctx) (named : Bool) (g : Nat) : Nat := if named then g else x.group

/-- PLATE_LD (R257); the record of a result 0x217 or 0x203 names the instruction (R262). -/
def execPlateLd (f : FireMode) (t u : Target) (s : State) : Next :=
  onFire f s (passEosAfter s [t, u]) (nullsUnless (fun w => oneElem w .w64) s f [t, u]) fun w =>
    match ctxAt s w.ctx, oneElem w .w64 with
    | none, _ => s
    | some _, some c => fireFault s w c (fireInfo w)
    | some x, none =>
      let v := aFirst f w
      let num := bitsOf v 63 48
      let image := bitsOf v 41 0 * 16384
      let g := plateGroup x (bitsOf v 42 42 == 1) (bitsOf v 47 43)
      let r := openReply s f w [t, u]
      let refuse := fun (cause : Nat) =>
        answer (tenRecord r.1 { faultRecord s x cause 0 { infoAt image 0 with inst := w.inst, iter := w.iter } with
          cls := 1, ntok := 0, items := [] }) r.2 cause .w32
      if !groupReady s g then refuse 0x217
      else if (loadOf s g x.ten num).isNone && plateHere s g x.ten num then refuse 0x203
      else askLoad r.1 g x.ten num image [] false [r.2]

/-- What `plate.ev` and `plate.q` do with their request (R258, R259): the Group and plate, unless a reserved bit is set. -/
def plateReq (s : State) (f : FireMode) (w : Firing) (go : Ctx → Nat → Nat → State) : State :=
  match ctxAt s w.ctx, oneElem w .w32 with
  | none, _ => s
  | some _, some c => fireFault s w c (fireInfo w)
  | some x, none =>
    let v := aFirst f w % 2 ^ 32
    if bitsOf v 31 22 ≠ 0 && !passed w.waive 0x218 then fireFault s w 0x218 (fireInfo w)
    else go x (plateGroup x (bitsOf v 21 21 == 1) (bitsOf v 20 16)) (bitsOf v 15 0)

/-- PLATE_EV (R258). -/
def execPlateEv (f : FireMode) (t u : Target) (s : State) : Next :=
  onFire f s (passEosAfter s [t, u]) (nullsUnless (fun w => oneElem w .w32) s f [t, u]) fun w =>
    plateReq s f w fun x g num =>
      let r := openReply s f w [t, u]
      match plateAt s g x.ten num, loadOf s g x.ten num with
      | some _, _ => plateMark r.1 g x.ten num [r.2]
      | none, some l => modLoad r.1 g l.id fun l => { l with evictors := l.evictors ++ [r.2] }
      | none, none => answer r.1 r.2 1 .w32

/-- The status of a plate in a Group (R259). DEDUCED (log entry 88). -/
def plateStatus (s : State) (g ten num : Nat) : Nat :=
  let bit := fun (b : Bool) (k : Nat) => if b then 2 ^ k else 0
  let l := loadOf s g ten num
  match plateAt s g ten num with
  | some p => 2 ^ 63 + bit l.isSome 62 + bit p.marked 61 + min p.uses 65535 * 2 ^ 32 + p.slots.length % 1024
  | none => bit l.isSome 62 + (match l with
    | some l => l.tiles % 1024
    | none => 0)

/-- PLATE_Q (R259). -/
def execPlateQ (f : FireMode) (t u : Target) (s : State) : Next :=
  onFire f s (passEos s [t, u]) (nullsUnless (fun w => oneElem w .w32) s f [t, u]) fun w =>
    plateReq s f w fun x g num =>
      sendPlain s f [t, u] w fun n =>
        freshToken 0 (List.replicate n (BitVec.ofNat 64 (plateStatus s g x.ten num))) .w64 false (inputBits w)

end Sys2Proof.Machine
end

