-- ==== Sys2Proof/Machine/Send.lean ====
section
/-! DEFINITION. Stimuli on their way out: to a home Walker of this device or to another device (R280, R306, R308), completions (R20)
and the end of cards (R22). -/

namespace Sys2Proof.Machine

/-- A stimulus sent as STIM once a transfer tag is free; it is kept until its ACK *acc* arrives (R308). DESIGN CHOICE (log entry 170). -/
def stimOut (s : State) (ten dev link : Nat) (st : Stim) : State :=
  match freeXtag s with
  | none => { s with unsent := s.unsent ++ [(ten, dev, st)] }
  | some x => sendFlits (addXfer s x dev 0 (.heldStim ten st) 0 0 0) link (stimFlits s dev x st.bytes)
/-- The quarantine of a stimulus whose device cannot be reached or did not take it (R20, R308). DEDUCED (log entry 164). -/
def stimLost (s : State) (ten cause aux : Nat) (st : Stim) : State :=
  quarantine s st { recOf cause with ten := ten, agent := stimAgent st.bytes, aux := aux }
/-- A stimulus released: to its home Walker, in class `cls` of R85, or to another device. -/
def releaseStim (s : State) (cls ten dev : Nat) (st : Stim) : State :=
  if dev = deviceNumber s then walkerPut s cls (stimTen st.bytes) (stimAgent st.bytes) (some st) none none
  else match linkTo s dev with
    | none => stimLost s ten 0x300 dev st
    | some l => stimOut s ten dev l { st with clock := none }
/-- Stimuli that waited for a transfer tag go as tags free; `n` bounds their number. -/
def stimsOut (n : Nat) (s : State) : State :=
  match n with
  | 0 => s
  | n + 1 =>
    match s.unsent with
    | [] => s
    | (ten, dev, st) :: r =>
      if (freeXtag s).isNone then s
      else stimsOut n (match linkTo s dev with
        | none => stimLost { s with unsent := r } ten 0x300 dev st
        | some l => stimOut { s with unsent := r } ten dev l st)

/-- The completion stimulus of one successor handle of a consumed stimulus (R20): its device and packet. -/
def completionOf (s : State) (bs : List Byte) (k : Nat) : Nat × List Byte :=
  let h := stimHandle bs k
  (bitsOf h 23 10, stimStamp (stimHead 1 (stimCh bs) (bitsOf h 31 24) 0 (bitsOf h 63 60) false (bitsOf h 59 32) (deviceNumber s) 3 ++
    leBytes 8 (stimTen bs * 2 ^ 60 + stimAgent bs * 2 ^ 32 + stimKind bs * 2 ^ 24) ++ leBytes 8 0))
/-- The completions of a consumed stimulus sent in handle order (R20). DEDUCED (log entry 173). -/
def sendCompletions (s : State) (bs : List Byte) : State :=
  (List.range (stimSucc bs)).foldl (fun s k =>
    let c := completionOf s bs k
    releaseStim s 4 (stimTen c.2) c.1 { bytes := c.2, clock := none, card := none }) s

/-- A card all of whose dealt steps have retired sends its successors' stimuli and is done (R22). -/
def cardEnds (s : State) (id : Nat) : State :=
  match s.cards.find? fun c => c.id == id with
  | none => s
  | some c =>
    if c.next = c.count ∧ c.live = 0 then sendCompletions { s with cards := s.cards.filter fun c => c.id != id } c.stim.bytes else s
/-- A stimulus dealt from a card is done with: its step has retired, or it was refused (R22, R108). -/
def cardRetired (s : State) (card : Option Nat) : State :=
  match card with
  | none => s
  | some id => cardEnds { s with cards := mapWhere (fun c => c.id == id) (fun c => { c with live := c.live - 1 }) s.cards } id

/-- A stimulus refused (R21): quarantined with its record. -/
def refuseStim (s : State) (st : Stim) (cause ten agent addr aux : Nat) : State :=
  cardRetired (quarantine s st { recOf cause with ten := ten, agent := agent, addr := addr, aux := aux }) st.card
/-- The same where the record names a Group too (R113): R364 has no field for a Group, and PRESS holds the first Press of it. DESIGN CHOICE (log
entry 163). -/
def refuseIn (s : State) (g : Nat) (st : Stim) (cause ten agent addr aux : Nat) : State :=
  cardRetired (quarantine s st { recOf cause with ten := ten, press := 8 * g, agent := agent, addr := addr, aux := aux }) st.card

end Sys2Proof.Machine
end

