-- ==== Sys2Proof/Machine/Walker.lean ====
section
/-! DEFINITION. The Portfolio Walkers: agent records (R10 to R12), HBM queues (R21), promotion, forwarding, refill and demotion (R85 to
R92, R400), the meeting place (R93, R94), moves, and the agent operations (R313). -/

namespace Sys2Proof.Machine

/-! Meeting Store entries (R89). -/

/-- Whether an entry is that of an agent. -/
def isEntry (ten agent : Nat) (e : Entry) : Bool := e.ten == ten && e.agent == agent
/-- The entry of an awake agent, with the Group that holds it: the Awake Directory (R85). -/
def entryOf (s : State) (ten agent : Nat) : Option (Nat × Entry) :=
  s.groups.findSome? fun g => (g.2.entries.find? (isEntry ten agent)).map fun e => (g.1, e)
/-- The entry of an agent in a Group. -/
def entryIn (s : State) (g ten agent : Nat) : Option Entry := (groupAt s g).entries.find? (isEntry ten agent)
/-- `s` with an entry changed. -/
def modEntry (s : State) (g ten agent : Nat) (f : Entry → Entry) : State :=
  modGroup s g fun q => { q with entries := mapWhere (isEntry ten agent) f q.entries }
/-- `s` without an entry. -/
def dropEntry (s : State) (g ten agent : Nat) : State :=
  modGroup s g fun q => { q with entries := q.entries.filter fun e => !isEntry ten agent e }

/-- S of an entry (R89). -/
def entryS (e : Entry) : Bool := !e.inFlight && !e.blocked
/-- M of an entry. -/
def entryM (s : State) (g : Nat) (e : Entry) : Bool := plateHere s g e.ten e.plate
/-- X of an entry. -/
def entryX (e : Entry) : Bool := !e.queue.isEmpty
/-- Whether an entry is ready. -/
def entryReady (s : State) (g : Nat) (e : Entry) : Bool := entryS e && entryM s g e && entryX e && e.imp.isNone
/-- Whether an entry waits (R96). -/
def entryWaits (e : Entry) : Bool := entryX e && !e.inFlight
/-- Whether an entry can be demoted but for the delay (R91). -/
def entryLacks (e : Entry) : Bool := !e.inFlight && e.imp.isNone && (e.blocked || e.queue.isEmpty)
/-- The channel of an entry (R100). -/
def entryCh (e : Entry) : Nat :=
  match e.queue with
  | [] => e.ch
  | st :: _ => max e.ch (stimCh st.bytes)
/-- The routine of a stimulus for an agent (R17). -/
def routineOf (e : Entry) (st : Stim) : Nat := if stimO st.bytes then stimRoutine st.bytes else e.routine

/-- The greatest distance at which two SEQs are ordered (R97). -/
def seqSpan : Nat := 2 ^ 31 - 1
/-- A SEQ kept in reach of its Group's count. -/
def seqKept (next seq : Word) : Word := if seqSpan < (next - seq).toNat then next - BitVec.ofNat 32 seqSpan else seq
/-- Whether SEQ `a` is lower than `b`. -/
def seqLower (a b : Word) : Bool := a != b && decide ((b - a).toNat ≤ seqSpan)
/-- An entry takes the next SEQ of its Group. -/
def takeSeq (s : State) (g ten agent : Nat) : State :=
  modGroup s g fun q =>
    let n := q.nextSeq + 1
    { q with nextSeq := n,
             entries := q.entries.map fun e =>
               if isEntry ten agent e then { e with seq := q.nextSeq } else if e.waiting then { e with seq := seqKept n e.seq } else e }

/-- What follows from a change of an entry: it starts or ends waiting (R96, R97), or begins to lack a party (R91). -/
def entryTouch (s : State) (g ten agent : Nat) : State :=
  match entryIn s g ten agent with
  | none => s
  | some e =>
    let w := entryWaits e
    let s1 := if w && !e.waiting then
        pushEvOnce (modEntry (takeSeq s g ten agent) g ten agent fun e =>
          { e with waiting := true, age := 0, overdue := false, agedTo := ageBoundaries s }) .ageTick
      else modEntry s g ten agent fun e => { e with waiting := w }
    let s2 := if !entryLacks e then modEntry s1 g ten agent fun e => { e with lacksSince := none }
      else if e.lacksSince.isSome then s1
      else
        let s3 := modEntry s1 g ten agent fun e => { e with lacksSince := some (s.now, csrBits s 0x305 29 0) }
        pushEvOnce (if s3.promotions.isEmpty then s3 else pushEvOnce s3 .promotionRetry) (.demotion ten agent)
    kickGroup s2 g

/-- Slots of a Group's stimulus buffer in use: on-chip queues and payload windows (R86, R202). -/
def stimUsed (s : State) (g : Nat) : Nat :=
  ((groupAt s g).entries.foldl (fun n e => n + e.queue.length) 0) +
    (s.steps.foldl (fun n r => if r.2.group = g then n + r.2.members.length else n) 0)

/-! The memory of a tenancy, for an agent's Walker. -/

/-- The owner under which a Walker's access for an agent waits for a peer. -/
def agentOwner (ten agent : Nat) : Nat := 2 ^ 49 + ten * 2 ^ 28 + agent
/-- The legal PFK of a tenancy, none where it has no Portfolio (R8). -/
def portfolioLog (s : State) (ten : Nat) : Option Nat :=
  let k := tenCsr s ten 1 4 0
  if k < 4 ∨ 26 < k then none else some k
/-- The VAs at which a record of an agent may stand, in the order of the search (R12). -/
def recordVas (s : State) (ten agent k : Nat) : List Nat :=
  let home := agentHash ten agent / 2 ^ (32 - k)
  (List.range 8).flatMap fun i => (List.range 4).map fun j =>
    (tenCsr s ten 0 55 0 + 256 * ((home + i) % 2 ^ k) + 64 * j) % 2 ^ 56
/-- The first of some records that is the agent's (R12). -/
def recordScan (s : State) (ten agent : Nat) (vas : List Nat) : State × Got (Option Nat) :=
  match vas with
  | [] => (s, .ok none)
  | va :: r =>
    match vaKeep s none (agentOwner ten agent) ten .read va 8 with
    | (s1, .wait) => (s1, .wait)
    | (s1, .bad c aux a) => (s1, .bad c aux a)
    | (s1, .ok bs) =>
      let d := leNat bs
      if bitsOf d 63 63 = 1 ∧ bitsOf d 43 16 = agent then (s1, .ok (some va)) else recordScan s1 ten agent r
/-- An agent's record: its VA and its eight doubles; none where the search finds none (R12). -/
def recordRead (s : State) (ten agent : Nat) : State × Got (Option (Nat × List Nat)) :=
  match portfolioLog s ten with
  | none => (s, .ok none)
  | some k =>
    match recordScan s ten agent (recordVas s ten agent k) with
    | (s1, .wait) => (s1, .wait)
    | (s1, .bad c aux a) => (dropRemote s1 (agentOwner ten agent), .bad c aux a)
    | (s1, .ok none) => (dropRemote s1 (agentOwner ten agent), .ok none)
    | (s1, .ok (some va)) =>
      match vaRead s1 none (agentOwner ten agent) ten .read va 64 with
      | (s2, .wait) => (s2, .wait)
      | (s2, .bad c aux a) => (s2, .bad c aux a)
      | (s2, .ok bs) => (s2, .ok (some (va, (List.range 8).map fun i => recDbl bs i)))

/-- A double of a record. -/
def recAt (d : List Nat) (i : Nat) : Nat := d.getD i 0
/-- Whether a record is malformed, its QTAIL being `tail` (R11). -/
def recordBad (d : List Nat) : Bool :=
  let size := bitsOf (recAt d 3) 39 0
  let q := bitsOf (recAt d 4) 63 59
  bitsOf (recAt d 0) 52 44 != 0 || bitsOf (recAt d 1) 63 56 != 0 || bitsOf (recAt d 1) 3 0 != 0 || bitsOf (recAt d 2) 63 56 != 0 ||
    bitsOf (recAt d 2) 5 0 != 0 || bitsOf (recAt d 3) 63 52 != 0 || bitsOf (recAt d 3) 43 40 != 0 || size == 0 ||
    decide (size * 64 < (bitsOf (recAt d 3) 51 44 + 1) * 16) || bitsOf (recAt d 4) 58 56 != 0 || decide (q < 4) || decide (20 < q) ||
    bitsOf (recAt d 4) 7 0 != 0 ||
    decide (2 ^ q < (bitsOf (recAt d 5) 31 0 + 2 ^ 32 - bitsOf (recAt d 5) 63 32) % 2 ^ 32)
/-- The entry that a record gives, with a QTAIL (R87). -/
def entryFrom (s : State) (ten agent va : Nat) (d : List Nat) (tail : Word) : Entry :=
  let head := BitVec.ofNat 32 (bitsOf (recAt d 5) 63 32)
  { ten := ten, agent := agent, record := va, ch := bitsOf (recAt d 0) 62 60, pin := bitsOf (recAt d 0) 59 59 == 1,
    hv := bitsOf (recAt d 0) 58 58 == 1, hg := bitsOf (recAt d 0) 57 53, plate := bitsOf (recAt d 0) 15 0,
    routine := bitsOf (recAt d 1) 55 0, sbase := bitsOf (recAt d 2) 55 0, headsz := bitsOf (recAt d 3) 51 44,
    qlog2 := bitsOf (recAt d 4) 63 59, qbase := bitsOf (recAt d 4) 55 0, qhead := head, qtail := tail,
    steps := bitsOf (recAt d 6) 62 0, queue := [], hq := head != tail, blocked := false, stuck := false, inFlight := false, imp := none,
    waiting := false, age := 0, overdue := false, agedTo := ageBoundaries s, seq := 0, lacksSince := none, moveTo := none }

/-- A failed access of a Walker reported (R400). -/
def walkerFault (s : State) (ten agent cause aux addr : Nat) : State :=
  tenRecord s { recOf cause with ten := ten, agent := agent, addr := addr, aux := aux }

/-- The VA of a queue slot (R10). -/
def slotVa (e : Entry) (count : Word) : Nat := (e.qbase + 256 * (count.toNat % 2 ^ e.qlog2)) % 2 ^ 56
/-- What the bytes of a queued stimulus do not say, kept by its count. -/
def noteSlot (s : State) (e : Entry) (count : Word) (st : Stim) : State :=
  if st.clock.isNone && st.card.isNone then s
  else { s with slotNotes := s.slotNotes ++ [{ ten := e.ten, agent := e.agent, count := count, clock := st.clock, card := st.card }] }
/-- A stimulus taken from a slot: its bytes with what was kept. -/
def fromSlot (s : State) (e : Entry) (count : Word) (bs : List Byte) : State × Stim :=
  let mine := fun (n : SlotNote) => n.ten == e.ten && n.agent == e.agent && n.count == count
  let note := s.slotNotes.find? mine
  ({ s with slotNotes := s.slotNotes.filter fun n => !mine n },
   { bytes := bs.take ((stimLen bs + 1) * 16), clock := note.bind (·.clock), card := note.bind (·.card) })

/-- A stimulus appended to the HBM queue of an agent (R21, R400): whether it was; a refused one is quarantined. The specification does not say
what the bytes of the slot behind a shorter stimulus become: zeros. DESIGN CHOICE (log entry 187). -/
def appendStim (s : State) (e : Entry) (st : Stim) : State × Got Bool :=
  if 2 ^ e.qlog2 ≤ (e.qtail - e.qhead).toNat then (refuseStim s st 0x213 e.ten e.agent e.record 0, .ok false)
  else match unitWrite s (agentOwner e.ten e.agent) e.ten (slotVa e e.qtail) (padTo 256 st.bytes) with
    | (s1, .wait) => (s1, .wait)
    | (s1, .bad c aux a) => (refuseStim s1 st c e.ten e.agent a aux, .ok false)
    | (s1, .ok _) => (noteSlot s1 e e.qtail st, .ok true)

/-- The doubles at 0x28 and 0x30 of a record written back (R14). -/
def writeBack (s : State) (e : Entry) (head : Word) (awake : Bool) : State × Got Unit :=
  unitWrite s (agentOwner e.ten e.agent) e.ten (e.record + 0x28)
    (leBytes 8 (head.toNat * 2 ^ 32 + e.qtail.toNat) ++ leBytes 8 ((if awake then 2 ^ 63 else 0) + e.steps % 2 ^ 63))

/-! The meeting place (R93). -/

/-- Tiles of a plate, from a Group in which it is present. -/
def plateTiles (s : State) (g ten num : Nat) : Nat := match plateAt s g ten num with
  | none => 0
  | some p => p.slots.length
/-- The Group of a list with the most free tile slots, ties to the lower. -/
def freest (s : State) (gs : List Nat) : Option Nat :=
  (gs.foldl (fun b g =>
    let n := (emptySlots s g).length
    match b with
    | none => some (g, n)
    | some c => if c.2 < n then some (g, n) else some c) none).map (·.1)
/-- The meeting place of an entry; none while no Group is ready. -/
def placeOf (s : State) (e : Entry) (overdue : Bool) : Option Nat :=
  if e.hv && e.pin then some e.hg
  else
    let use := e.hv && !overdue && groupReady s e.hg
    let res := (readyGroups s).filter fun g => plateHere s g e.ten e.plate
    let ratio := csrBits s 0x303 15 0
    match res with
    | g :: _ =>
      if use && ratio != 0 && decide (plateTiles s g e.ten e.plate * 16384 < (e.headsz + 1) * 16 * ratio) then some e.hg
      else if use && res.contains e.hg then some e.hg
      else some g
    | [] => if use then some e.hg else freest s (readyGroups s)

/-! Demotion (R91) and the ways of a set (R88). -/

/-- The on-chip stimuli of an entry written to the slots from `head` on. -/
def putBack (s : State) (e : Entry) (head : Word) (l : List Stim) : State × Got Unit :=
  match l with
  | [] => (s, .ok ())
  | st :: r =>
    match unitWrite s (agentOwner e.ten e.agent) e.ten (slotVa e head) (padTo 256 st.bytes) with
    | (s1, .ok _) => putBack (noteSlot s1 e head st) e (head + 1) r
    | q => q
/-- The stimuli of `n` queue slots from `head` on. -/
def takeSlots (n : Nat) (s : State) (e : Entry) (head : Word) : State × Got (List Stim) :=
  match n with
  | 0 => (s, .ok [])
  | n + 1 =>
    match vaKeep s none (agentOwner e.ten e.agent) e.ten .read (slotVa e head) 256 with
    | (s1, .wait) => (s1, .wait)
    | (s1, .bad c aux a) => (s1, .bad c aux a)
    | (s1, .ok bs) =>
      match takeSlots n s1 e (head + 1) with
      | (s2, .ok l) => let r := fromSlot s2 e head bs; (r.1, .ok (r.2 :: l))
      | q => q
/-- The entry is gone: its agent sleeps, and a promotion that waited for a way is tried again. -/
def entryGone (s : State) (g : Nat) (e : Entry) : State :=
  let s1 := kickGroup (dropEntry (dropRemote s (agentOwner e.ten e.agent)) g e.ten e.agent) g
  if s1.promotions.isEmpty then s1 else pushEvOnce s1 .promotionRetry
/-- One demotion (R16, R91, R400): made, not made, or not yet possible. DEDUCED (log entry 161). -/
def demote (s : State) (g : Nat) (e : Entry) : State × Option Bool :=
  let k := e.queue.length
  let fail := fun (s : State) (c aux a : Nat) => (dropRemote (walkerFault s e.ten e.agent c aux a) (agentOwner e.ten e.agent), some false)
  if 2 ^ e.qlog2 < (e.qtail - e.qhead).toNat + k then (s, some false)
  else
    let head := e.qhead - BitVec.ofNat 32 k
    match vaKeep s none (agentOwner e.ten e.agent) e.ten .read e.record 8 with
    | (s1, .wait) => (s1, none)
    | (s1, .bad c aux a) => fail s1 c aux a
    | (s1, .ok d) =>
      if bitsOf (leNat d) 63 63 = 1 ∧ bitsOf (leNat d) 43 16 = e.agent then
        match putBack s1 e head e.queue with
        | (s2, .wait) => (s2, none)
        | (s2, .bad c aux a) => fail s2 c aux a
        | (s2, .ok _) => match writeBack s2 e head false with
          | (s3, .wait) => (s3, none)
          | (s3, .bad c aux a) => fail s3 c aux a
          | (s3, .ok _) => (entryGone s3 g e, some true)
      else
        match takeSlots (e.qtail - e.qhead).toNat s1 e e.qhead with
        | (s2, .wait) => (s2, none)
        | (s2, .bad c aux a) => fail s2 c aux a
        | (s2, .ok l) => match writeBack s2 e e.qtail false with
          | (s3, .wait) => (s3, none)
          | (s3, .bad c aux a) => fail s3 c aux a
          | (s3, .ok _) =>
            (entryGone ((e.queue ++ l).foldl (fun s st => refuseStim s st 0x210 e.ten e.agent e.record 0) s3) g e, some true)

/-- The Meeting Store set of an agent (R88). -/
def entrySet (ten agent : Nat) : Nat := agentHash ten agent / 2 ^ 23
/-- Entries demoted in turn until one is. -/
def demoteOne (s : State) (g : Nat) (l : List Entry) : State × Bool :=
  match l with
  | [] => (s, false)
  | e :: r =>
    match demote s g e with
    | (s1, some true) => (s1, true)
    | (s1, _) => demoteOne s1 g r
/-- A free way of an agent's set in a Group; an entry that can be demoted is demoted for it (R88). -/
def makeWay (s : State) (g ten agent : Nat) : State × Bool :=
  let same := (groupAt s g).entries.filter fun e => entrySet e.ten e.agent == entrySet ten agent && !isEntry ten agent e
  if same.length < 16 then (s, true)
  else demoteOne s g ((same.filter entryLacks).mergeSort fun a b =>
    decide (((a.lacksSince.map (·.1)).getD s.now) ≤ ((b.lacksSince.map (·.1)).getD s.now)))

/-! Plate requests (R94). -/

/-- A stimulus of an entry's queue is taken away; the HBM queue gives the next (R91). -/
def dropHead (s : State) (g : Nat) (e : Entry) : State :=
  let s1 := entryTouch (modEntry s g e.ten e.agent fun e => { e with queue := e.queue.drop 1 }) g e.ten e.agent
  if e.hq then pushEvOnce s1 (.queueRefill e.ten e.agent) else s1
/-- The Scheduler's request for the plate of an entry; a head stimulus whose plate has no image is refused, and the next asks. -/
def askPlate (n : Nat) (s : State) (g ten agent : Nat) (overdue : Bool) : State :=
  match n, entryIn s g ten agent with
  | 0, _ => s
  | _, none => s
  | n + 1, some e =>
    match e.queue with
    | [] => s
    | st :: _ =>
      if entryM s g e || e.inFlight then s
      else if (loadOf s g ten e.plate).isSome then askLoad s g ten e.plate 0 [agent] overdue []
      else
        let va := (tenCsr s ten 5 55 0 + 8 * e.plate) % 2 ^ 56
        let refuse := fun (s : State) (c : Nat) =>
          askPlate n (refuseIn (dropHead s g e) g st 0x216 ten agent va (c * 2 ^ 32)) g ten agent overdue
        if tenCsr s ten 6 16 0 ≤ e.plate then refuse s 0
        else match unitRead s (2 ^ 48 + g) ten va 8 with
          | (s1, .wait) => kickGroup s1 g
          | (s1, .bad c _ _) => refuse s1 c
          | (s1, .ok bs) =>
            let d := leNat bs
            if bitsOf d 0 0 = 1 ∧ bitsOf d 63 56 = 0 ∧ bitsOf d 13 1 = 0 then
              askLoad s1 g ten e.plate (bitsOf d 55 14 * 16384) [agent] overdue []
            else refuse s1 0

/-! Moves (R93). -/

/-- A decided move made, if the entry may move and its new place is ready and has room. A pinned hint given to an awake agent may name a Group
that is not ready: the move waits until it is (R78; R93 speaks of the creation only). DEDUCED (log entry 172). -/
def tryMove (s : State) (g ten agent : Nat) : State :=
  match entryIn s g ten agent with
  | none => s
  | some e => match e.moveTo with
    | none => s
    | some dest =>
      if dest = g then modEntry s g ten agent fun e => { e with moveTo := none }
      else if !groupReady s dest || e.inFlight || e.imp.isSome || decide (Config.stimulusSlots < stimUsed s dest + e.queue.length) then s
      else match makeWay s dest ten agent with
        | (s1, false) => s1
        | (s1, true) =>
          let s2 := unwant (dropEntry s1 g ten agent) g ten e.plate agent
          let s3 := modGroup s2 dest fun q => { q with entries := q.entries ++ [{ e with moveTo := none, lacksSince := none }] }
          let s4 := entryTouch (takeSeq s3 dest ten agent) dest ten agent
          let s5 := kickGroup (askPlate 9 s4 dest ten agent e.overdue) g
          if s5.promotions.isEmpty then s5 else pushEvOnce s5 .promotionRetry
/-- The meeting place evaluated again (R98, R112): a move is decided where it changes. -/
def replace (s : State) (g ten agent : Nat) : State :=
  match entryIn s g ten agent with
  | none => s
  | some e =>
    let dest := match placeOf s e e.overdue with
      | none => g
      | some p => p
    if dest = g then modEntry s g ten agent fun e => { e with moveTo := none }
    else pushEvOnce (tryMove (modEntry s g ten agent fun e => { e with moveTo := some dest }) g ten agent) (.entryMove ten agent)
/-- ENTRY_MOVE (R93): tried until it is made or cancelled. -/
def execEntryMove (ten agent : Nat) (s : State) : Next :=
  .next (match entryOf s ten agent with
    | none => s
    | some (g, _) =>
      let s1 := tryMove s g ten agent
      match entryOf s1 ten agent with
      | none => s1
      | some (_, e) => if e.moveTo.isSome then pushEvOnce s1 (.entryMove ten agent) else s1)

/-! Promotion (R87, R88, R400). -/

/-- The record that a Walker keeps of an agent whose promotion is not made. -/
def promotionOf (s : State) (ten agent : Nat) : Option Promotion := s.promotions.find? fun p => p.ten == ten && p.agent == agent
/-- `s` without it. -/
def dropPromotion (s : State) (ten agent : Nat) : State :=
  { s with promotions := s.promotions.filter fun p => !(p.ten == ten && p.agent == agent) }
/-- `s` with it; a held promotion is retried. -/
def keepPromotion (s : State) (e : Entry) (held : Bool) : State :=
  let s1 := dropPromotion s e.ten e.agent
  let s2 := { s1 with promotions := s1.promotions ++ [{ ten := e.ten, agent := e.agent, record := e.record, qtail := e.qtail, held := held }] }
  if held then pushEvOnce s2 .promotionRetry else s2
/-- A promotion held, with the record's QTAIL brought up to the queue where it is `stale` (R21, R88); a failed write is reported, and the next
stimulus tries again (R400). -/
def holdPromotion (s : State) (e : Entry) (stale : Bool) : State :=
  if !stale then keepPromotion s e true
  else match unitWrite s (agentOwner e.ten e.agent) e.ten (e.record + 0x28) (leBytes 8 (e.qhead.toNat * 2 ^ 32 + e.qtail.toNat)) with
    | (s1, .bad c aux a) => keepPromotion (walkerFault s1 e.ten e.agent c aux a) e false
    | (s1, _) => keepPromotion s1 e true
/-- An agent promoted to its meeting place, if a way of its set is free there. -/
def promote (s : State) (e : Entry) (stale : Bool) : State :=
  match placeOf s e false with
  | none => holdPromotion s e stale
  | some g =>
    if !groupReady s g then holdPromotion s e stale
    else match makeWay s g e.ten e.agent with
      | (s1, false) => holdPromotion s1 e stale
      | (s1, true) =>
        match writeBack s1 e e.qhead true with
        | (s2, .wait) => keepPromotion s2 e true
        | (s2, .bad c aux a) => keepPromotion (walkerFault s2 e.ten e.agent c aux a) e false
        | (s2, .ok _) =>
          let s3 := dropPromotion (modGroup s2 g fun q => { q with entries := q.entries ++ [e] }) e.ten e.agent
          pushEvOnce (entryTouch s3 g e.ten e.agent) (.queueRefill e.ten e.agent)
/-- `s` with a promotion no longer held: the next stimulus of its agent tries again. -/
def stopPromotion (s : State) (p : Promotion) : State :=
  { s with promotions := mapWhere (fun q => q.ten == p.ten && q.agent == p.agent) (fun q => { q with held := false }) s.promotions }
/-- The promotion of an agent whose record is no longer valid (R16): its queued stimuli are taken, the record says so, and each is refused with
0x210. A queue that cannot be read stops it; a record that another agent has, or whose counts do not fit, names no queue. DEDUCED (log entry
188). -/
def voidPromotion (s : State) (p : Promotion) : State :=
  let fail := fun (s : State) (c aux a : Nat) => stopPromotion (dropRemote (walkerFault s p.ten p.agent c aux a) (agentOwner p.ten p.agent)) p
  match vaKeep s none (agentOwner p.ten p.agent) p.ten .read p.record 64 with
  | (s1, .wait) => s1
  | (s1, .bad c aux a) => fail s1 c aux a
  | (s1, .ok bs) =>
    let d := (List.range 8).map fun i => recDbl bs i
    let e := entryFrom s1 p.ten p.agent p.record d p.qtail
    let n := (e.qtail - e.qhead).toNat
    if bitsOf (recAt d 0) 43 16 ≠ p.agent ∨ 20 < e.qlog2 ∨ 2 ^ e.qlog2 < n then dropPromotion s1 p.ten p.agent
    else match takeSlots n s1 e e.qhead with
      | (s2, .wait) => s2
      | (s2, .bad c aux a) => fail s2 c aux a
      | (s2, .ok l) => match writeBack s2 e e.qtail false with
        | (s3, .wait) => s3
        | (s3, .bad c aux a) => fail s3 c aux a
        | (s3, .ok _) =>
          l.foldl (fun s st => refuseStim s st 0x210 p.ten p.agent p.record 0)
            (dropPromotion (dropRemote s3 (agentOwner p.ten p.agent)) p.ten p.agent)
/-- The QTAIL that a record holds. -/
def recTail (d : List Nat) : Word := BitVec.ofNat 32 (bitsOf (recAt d 5) 31 0)
/-- The held promotions tried in order. A record that has become malformed is left as it is, and a record of cause 0x211 says so (R11, R15).
DEDUCED (log entry 171). -/
def retryPromotions (s : State) (l : List Promotion) : State :=
  match l with
  | [] => s
  | p :: r =>
    if !p.held then retryPromotions s r
    else match recordRead s p.ten p.agent with
      | (s1, .wait) => retryPromotions s1 r
      | (s1, .bad c aux a) =>
        retryPromotions (stopPromotion (walkerFault s1 p.ten p.agent c aux a) p) r
      | (s1, .ok none) => retryPromotions (voidPromotion s1 p) r
      | (s1, .ok (some (va, d))) =>
        if recordBad d then
          retryPromotions (stopPromotion (tenRecord s1 { recOf 0x211 with ten := p.ten, agent := p.agent, addr := va }) p) r
        else retryPromotions (promote s1 (entryFrom s1 p.ten p.agent va d p.qtail) (recTail d != p.qtail)) r
/-- PROMOTION_RETRY (R88): whether one is still held. -/
def execPromotionRetry (s : State) : Next :=
  .next (
    let s1 := retryPromotions s s.promotions
    if s1.promotions.any (·.held) then pushEvOnce s1 .promotionRetry else s1)

/-! The arrival of a stimulus (R85 to R87). -/

/-- A stimulus joins the on-chip queue of its entry; its check word is verified as it is written (R86, R376, R377). -/
def joinQueue (s : State) (g : Nat) (e : Entry) (st : Stim) : State :=
  if stimOk st.bytes then entryTouch (modEntry s g e.ten e.agent fun e => { e with queue := e.queue ++ [st] }) g e.ten e.agent
  else refuseStim s st 0x386 e.ten e.agent 0 (checkAux 3 0)
/-- A stimulus for an awake agent (R86): whether it has been taken. -/
def forwardStim (s : State) (g : Nat) (e : Entry) (st : Stim) : State × Bool :=
  if !e.hq && decide (e.queue.length < 8) && decide (stimUsed s g < Config.stimulusSlots) then (joinQueue s g e st, true)
  else match appendStim s e st with
    | (s1, .wait) => (s1, false)
    | (s1, .bad _ _ _) => (s1, true)
    | (s1, .ok false) => (s1, true)
    | (s1, .ok true) =>
      (pushEvOnce (entryTouch (modEntry s1 g e.ten e.agent fun e => { e with qtail := e.qtail + 1, hq := true }) g e.ten e.agent)
        (.queueRefill e.ten e.agent), true)
/-- A stimulus for an agent that sleeps (R87, R93, R400). DEDUCED (log entry 171). -/
def wakeStim (s : State) (ten agent : Nat) (st : Stim) : State × Bool :=
  match recordRead s ten agent with
  | (s1, .wait) => (s1, false)
  | (s1, .bad c aux a) => (refuseStim s1 st c ten agent a aux, true)
  | (s1, .ok none) =>
    let s2 := match promotionOf s1 ten agent with
      | none => s1
      | some p => voidPromotion s1 p
    if (promotionOf s2 ten agent).any (·.held) then (s2, false)
    else (refuseStim s2 st 0x210 ten agent ((recordVas s ten agent ((portfolioLog s ten).getD 4)).headD 0) 0, true)
  | (s1, .ok (some (va, d))) =>
    if recordBad d then (refuseStim s1 st 0x211 ten agent va 0, true)
    else
      let tail := match promotionOf s1 ten agent with
        | none => recTail d
        | some p => p.qtail
      let e := entryFrom s1 ten agent va d tail
      if e.hv && e.pin && s1.failed.getLsbD (256 + e.hg) then (refuseIn s1 e.hg st 0x215 ten agent va 0, true)
      else if e.hv && e.pin && !groupReady s1 e.hg then (s1, false)
      else match appendStim s1 e st with
        | (s2, .wait) => (s2, false)
        | (s2, .bad _ _ _) => (s2, true)
        | (s2, .ok b) =>
          let e1 := if b then { e with qtail := e.qtail + 1, hq := true } else e
          let stale := e1.qtail != recTail d
          if !e1.hq then (s2, true)
          else match promotionOf s2 ten agent with
            | some p => if p.held then (holdPromotion s2 e1 stale, true) else (promote s2 e1 stale, true)
            | none => (promote s2 e1 stale, true)

/-- Whether a card breaks its layout (R22). -/
def cardBad (bs : List Byte) : Bool :=
  let d0 := stimDbl bs 0
  let d1 := stimDbl bs 8
  let d2 := stimDbl bs 16
  stimLen bs != 2 || stimO bs || stimAgent bs != 0 || decide (1 < stimSucc bs) || bitsOf d0 63 56 != 0 || bitsOf d0 3 0 != 0 ||
    bitsOf d1 63 40 == 0 || decide (bitsOf d1 39 32 < 2) || decide (30 < bitsOf d1 39 32) || bitsOf d1 31 0 != 0 ||
    bitsOf d2 63 56 != 0 || bitsOf d2 5 0 != 0 || (stimSucc bs == 0 && stimDbl bs 24 != 0)
/-- A card placed on the device's list (R108), or refused (R22). -/
def takeCard (s : State) (st : Stim) : State :=
  let bs := st.bytes
  if cardBad bs then refuseStim s st 0x214 (stimTen bs) (stimAgent bs) 0 0
  else
    let c : Card := { id := s.nextId, ten := stimTen bs, ch := stimCh bs, routine := stimDbl bs 0, count := bitsOf (stimDbl bs 8) 63 40,
                      rsize := bitsOf (stimDbl bs 8) 39 32, array := stimDbl bs 16, next := 0, live := 0, stim := st }
    (readyGroups s).foldl (fun s g => pushEvOnce s (.cardDeal g)) (bumpId { s with cards := s.cards ++ [c] })

/-- A stimulus taken by its home Walker: whether it has been. The check word of one from a peer is verified first (R18, R377); while a tenancy has
no Portfolio all its stimuli are refused (R8). -/
def takeStim (s : State) (st : Stim) (foreign : Bool) : State × Bool :=
  let bs := st.bytes
  let ten := stimTen bs
  let agent := stimAgent bs
  if foreign && !stimOk bs then (refuseStim s st 0x386 ten agent 0 (checkAux 3 0), true)
  else if stimBad bs then (refuseStim s st 0x212 ten agent 0 0, true)
  else if (portfolioLog s ten).isNone then (refuseStim s st 0x210 ten agent (tenCsr s ten 0 55 0) 0, true)
  else if (readyGroups s).isEmpty then (s, false)
  else
    let s1 := devCount s 0x200 1
    if stimKind bs = 0xF0 then (takeCard s1 st, true)
    else
      let r := match entryOf s1 ten agent with
        | some (g, e) => forwardStim s1 g e st
        | none => wakeStim s1 ten agent st
      if r.2 then r else ({ r.1 with devCounts := s.devCounts }, false)

/-- The arrivals at a Walker. -/
def arrivalsAt (s : State) (w : Nat) : List Arrival := tabGet (fun _ => []) s.arrivals w
/-- `s` without one of them. -/
def dropArrival (s : State) (w : Nat) (a : Arrival) : State :=
  { s with arrivals := tabSet (fun _ => []) s.arrivals w (dropFirst (fun b => b == a) (arrivalsAt s w)) }
/-- The first arrival, of those that `mine` takes, that the Walker can take now and that no earlier one for its agent goes before. -/
def takeFirst (s : State) (w : Nat) (mine : Arrival → Bool) (go : State → Arrival → State × Bool) (seen : List (Nat × Nat))
    (l : List Arrival) : State × Bool :=
  match l with
  | [] => (s, false)
  | a :: r =>
    if !mine a || seen.contains (a.ten, a.agent) then takeFirst s w mine go ((a.ten, a.agent) :: seen) r
    else match go s a with
      | (s1, true) => (dropArrival s1 w a, true)
      | (s1, false) => takeFirst s1 w mine go ((a.ten, a.agent) :: seen) r

/-- STIMULUS_ARRIVAL (R85): the home Walker takes the next stimulus that it can; `emit.t` delivers once its own is taken (R307). -/
def execStimulusArrival (w : Nat) (s : State) : Next :=
  .next (
    if !walkerReady s w then (if (arrivalsAt s w).isEmpty then s else pushEv s (.stimulusArrival w))
    else
      let go := fun (s : State) (a : Arrival) => match a.stim with
        | none => (s, true)
        | some st =>
          let r := takeStim s st a.peer.isSome
          if !r.2 then r
          else
            let s1 := match a.ack with
              | none => r.1
              | some q => answerDone r.1 q ((stimLen st.bytes + 1) * 16)
            (match a.peer with
              | none => s1
              | some (d, x) =>
                let f := { mkFlit s1 false 0x09 0 x 0 [] with src := BitVec.ofNat 14 d }
                sendAck (sendAck s1 f false) f true, true)
      let r := takeFirst s w (fun a => a.stim.isSome) go [] (arrivalsAt s w)
      if r.2 || (arrivalsAt r.1 w).isEmpty then r.1 else pushEv r.1 (.stimulusArrival w))

/-! Refill and demotion (R91). -/

/-- QUEUE_REFILL (R91, R400): the next stimulus of the HBM queue comes on chip; after a refill that failed, not before the entry is unblocked. -/
def execQueueRefill (ten agent : Nat) (s : State) : Next :=
  .next (match entryOf s ten agent with
    | none => s
    | some (g, e) =>
      let again := fun (s : State) => pushEvOnce s (.queueRefill ten agent)
      if !e.hq || e.stuck || decide (8 ≤ e.queue.length) then s
      else if Config.stimulusSlots ≤ stimUsed s g then again s
      else match unitRead s (agentOwner ten agent) ten (slotVa e e.qhead) 256 with
        | (s1, .wait) => again s1
        | (s1, .bad c aux a) =>
          entryTouch (modEntry (walkerFault s1 ten agent c aux a) g ten agent fun e => { e with blocked := true, stuck := true }) g ten agent
        | (s1, .ok bs) =>
          let r := fromSlot s1 e e.qhead bs
          let s2 := joinQueue (modEntry r.1 g ten agent fun e =>
            { e with qhead := e.qhead + 1, hq := e.qhead + 1 != e.qtail }) g e r.2
          again (entryTouch s2 g ten agent))

/-- DEMOTION (R91): once an entry has lacked a party for longer than the Demote Delay. -/
def execDemotion (ten agent : Nat) (s : State) : Next :=
  .next (match entryOf s ten agent with
    | none => s
    | some (g, e) => match e.lacksSince with
      | none => s
      | some (t, delay) =>
        if s.now - t ≤ delay then pushEv s (.demotion ten agent)
        else match demote s g e with
          | (s1, some true) => s1
          | (s1, some false) =>
            pushEv (modEntry s1 g ten agent fun e => { e with lacksSince := some (s.now, csrBits s 0x305 29 0) }) (.demotion ten agent)
          | (s1, none) => pushEv s1 (.demotion ten agent))

/-! Operations on agents (R90, R99, R103, R313). -/

/-- The age of an entry cleared (R99). -/
def clearAge (s : State) (ten agent : Nat) : State :=
  match entryOf s ten agent with
  | none => s
  | some (g, _) => modEntry s g ten agent fun e => { e with age := 0, overdue := false, agedTo := ageBoundaries s }
/-- A blocked entry unblocked: its refill, or its staging, is tried again (R103, R400). -/
def unblock (s : State) (ten agent : Nat) : State :=
  match entryOf s ten agent with
  | none => s
  | some (g, e) =>
    let s1 := entryTouch (modEntry s g ten agent fun e => { e with blocked := false, stuck := false }) g ten agent
    if e.hq then pushEvOnce s1 (.queueRefill ten agent) else s1
/-- What a probe reads (R90). -/
def probeDouble (s : State) (ten agent : Nat) : Nat :=
  let bit := fun (b : Bool) (k : Nat) => if b then 2 ^ k else 0
  match entryOf s ten agent with
  | none => 2 ^ 63
  | some (g, e) =>
    2 ^ 63 + 2 ^ 62 + bit (entryS e) 61 + bit (entryM s g e) 60 + bit (entryX e) 59 + bit e.overdue 58 + bit e.blocked 57 +
      bit e.imp.isSome 56 + bit e.inFlight 55 + g % 32 * 2 ^ 50 + bit e.pin 49 + bit e.hv 48 + e.hg % 32 * 2 ^ 43 +
      entryCh e % 8 * 2 ^ 40 + e.age % 256 * 2 ^ 32 + e.plate % 65536 * 2 ^ 16 + e.queue.length % 16 * 2 ^ 12 + bit e.hq 11

/-- An entry bound anew (R112, R313). -/
def rebind (s : State) (ten agent plate : Nat) : State :=
  match entryOf s ten agent with
  | none => s
  | some (g, e) =>
    let s1 := modEntry s g ten agent fun e => { e with plate := plate }
    kickGroup (if e.waiting && e.imp.isNone then replace s1 g ten agent else s1) g
/-- `bind` or `hint` of an agent: the record's first double is rewritten (R313, R400). The result, or none while it waits. -/
def rewriteRecord (s : State) (ten agent : Nat) (f : Nat → Nat) (entry : State → State) : State × Option Nat :=
  match recordRead s ten agent with
  | (s1, .wait) => (s1, none)
  | (s1, .bad c aux a) => (walkerFault s1 ten agent c aux a, some c)
  | (s1, .ok none) => (s1, some 0x210)
  | (s1, .ok (some (va, d))) =>
    if recordBad d then (s1, some 0x211)
    else match unitWrite s1 (agentOwner ten agent) ten va (leBytes 8 (f (recAt d 0))) with
      | (s2, .wait) => (s2, none)
      | (s2, .bad c aux a) => (walkerFault s2 ten agent c aux a, some c)
      | (s2, .ok _) => (entry s2, some 0)
/-- One operation at the home Walker: whether it has been taken. -/
def agentOpTake (s : State) (ten agent : Nat) (op : AgentOp) (r : Reply) : State × Bool :=
  match op with
  | .query clr unb =>
    let s1 := if clr then clearAge s ten agent else s
    let s2 := if unb then unblock s1 ten agent else s1
    (settle (answer s2 r (probeDouble s2 ten agent) .w64) r.ctx, true)
  | .bind plate =>
    match rewriteRecord s ten agent (fun d => putBits d 15 0 plate) fun s => rebind s ten agent plate with
    | (s1, none) => (s1, false)
    | (s1, some v) => (answerDone s1 r v, true)
  | .hint hv pin hg =>
    let bit := fun (b : Bool) => if b then 1 else 0
    match rewriteRecord s ten agent (fun d => putBits (putBits (putBits d 59 59 (bit pin)) 58 58 (bit hv)) 57 53 hg) fun s =>
        match entryOf s ten agent with
        | none => s
        | some (g, _) => modEntry s g ten agent fun e => { e with hv := hv, pin := pin, hg := hg } with
    | (s1, none) => (s1, false)
    | (s1, some v) => (answerDone s1 r v, true)

/-- AGENT_OP_AT_WALKER (R313). -/
def execAgentOpAtWalker (w : Nat) (s : State) : Next :=
  .next (
    if !walkerReady s w then (if (arrivalsAt s w).isEmpty then s else pushEv s (.agentOpAtWalker w))
    else
      let go := fun (s : State) (a : Arrival) => match a.op with
        | none => (s, true)
        | some (op, r) => agentOpTake s a.ten a.agent op r
      let r := takeFirst s w (fun a => a.op.isSome) go [] (arrivalsAt s w)
      if r.2 || !((arrivalsAt r.1 w).any fun a => a.op.isSome) then r.1 else pushEv r.1 (.agentOpAtWalker w))

end Sys2Proof.Machine
end

