-- ==== Sys2Proof/Machine/Meeting.lean ====
section
/-! DEFINITION. The Group Schedulers: age (R97, R98), impressions (R100, R101), admission (R102, R103, R30), dealing cards (R22, R108),
and probes of the Meeting Store (R90). -/

namespace Sys2Proof.Machine

/-! Impressions (R100, R101). -/

/-- Whether entry `a` ranks above `b` (R98, R100). -/
def ranksAbove (a b : Entry) : Bool :=
  let name := fun (e : Entry) => e.ten * 2 ^ 28 + e.agent
  let order := fun (_ : Unit) => seqLower a.seq b.seq || (a.seq == b.seq && decide (name a < name b))
  if a.overdue != b.overdue then a.overdue
  else if a.overdue then decide (b.age < a.age) || (a.age == b.age && order ())
  else decide (entryCh a < entryCh b) || (entryCh a == entryCh b && order ())
/-- The highest-ranked of some entries. -/
def bestEntry (l : List Entry) : Option Entry :=
  l.foldl (fun b e => match b with
    | none => some e
    | some c => if ranksAbove e c then some e else some c) none

/-- An impression of a Group. -/
def impAt (s : State) (g id : Nat) : Option Imp := (groupAt s g).imps.find? fun i => i.id == id
/-- `s` with an impression changed. -/
def modImp (s : State) (g id : Nat) (f : Imp → Imp) : State :=
  modGroup s g fun q => { q with imps := mapWhere (fun i => i.id == id) f q.imps }
/-- `s` without an impression. -/
def dropImp (s : State) (g id : Nat) : State := modGroup s g fun q => { q with imps := q.imps.filter fun i => i.id != id }
/-- Window Words (R109). -/
def windowWords (s : State) : Nat := csrBits s 0x308 14 0
/-- The members that a window of `w` words per lane holds (R30, R100). -/
def impSize (w headsz : Nat) : Nat := min 64 (32 * w / ((headsz + 1) * 4))
/-- An impression closes (R101); a window of the size it was formed for awaits it (R110). -/
def closeImp (s : State) (g id : Nat) : State :=
  match impAt s g id with
  | none => s
  | some i =>
    if i.closed then s
    else
      let w := windowWords s
      pushEvOnce (modImp s g id fun i => { i with closed := true, words := if i.members.length ≤ impSize w i.headsz then w else i.words })
        (.admission g)
/-- An entry joins an impression, which closes when that fills it or when the entry is overdue (R101). -/
def joinImp (s : State) (g : Nat) (i : Imp) (e : Entry) : State :=
  let w := windowWords s
  let s1 := modImp s g i.id fun i => { i with members := i.members ++ [e.agent], words := w }
  let s2 := entryTouch (modEntry s1 g e.ten e.agent fun e => { e with imp := some i.id }) g e.ten e.agent
  if e.overdue || decide (impSize w i.headsz ≤ i.members.length + 1) || decide (i.due ≤ s.now) then closeImp s2 g i.id else s2

/-- An impression opened for an entry. -/
def openImp (s : State) (g : Nat) (e : Entry) (routine : Nat) : State :=
  let i : Imp := { id := s.nextId, ten := e.ten, plate := e.plate, routine := routine, ch := entryCh e, headsz := e.headsz, members := [],
                   opened := s.now, due := s.now + csrBits s 0x302 13 0, closed := false, words := windowWords s }
  let s1 := joinImp (bumpId (modGroup s g fun q => { q with imps := q.imps ++ [i] })) g i e
  if i.due ≤ s.now then s1 else pushEv s1 (.batchWindowExpiry g i.id)

/-- The requests for the plates that the waiting entries of a Group lack (R94). DESIGN CHOICE (log entry 86). -/
def askPlates (s : State) (g : Nat) : State :=
  ((groupAt s g).entries.filter fun e => e.waiting && !entryM s g e && e.imp.isNone).foldl
    (fun s e => askPlate 9 s g e.ten e.agent e.overdue) s

/-- The open impressions of a Group that have reached their size, or whose Batch Window has elapsed, close before anything joins them (R101). -/
def closeDue (s : State) (g : Nat) : State :=
  ((groupAt s g).imps.filter fun i => !i.closed && (decide (i.due ≤ s.now) || decide (impSize (windowWords s) i.headsz ≤ i.members.length))).foldl
    (fun s i => closeImp s g i.id) s
/-- IMPRESSION_GATHER (R100): the highest-ranked ready entry joins an impression of its key, or opens one. -/
def execImpressionGather (g : Nat) (s : State) : Next :=
  .next (
    let s0 := closeDue (askPlates s g) g
    let ready := fun (s : State) => (groupAt s g).entries.filter (entryReady s g)
    match bestEntry (ready s0) with
    | none => s0
    | some e => match e.queue with
      | [] => s0
      | st :: _ =>
        let routine := routineOf e st
        let opened := (groupAt s0 g).imps.filter fun i => !i.closed
        if !groupReady s0 g then kickGroup s0 g
        else
          let s1 := match opened.find? fun i => i.ten == e.ten && i.plate == e.plate && i.routine == routine && i.ch == entryCh e &&
              i.headsz == e.headsz with
            | some i => joinImp s0 g i e
            | none => if opened.length < Config.openImpressions then openImp s0 g e routine else s0
          if (ready s1).isEmpty then s1 else kickGroup s1 g)

/-- BATCH_WINDOW_EXPIRY (R101). -/
def execBatchWindowExpiry (g imp : Nat) (s : State) : Next :=
  .next (match impAt s g imp with
    | none => s
    | some i =>
      if i.closed then s else if i.due ≤ s.now then closeImp s g imp else pushEv s (.batchWindowExpiry g imp))

/-! Age (R97 to R99). -/

/-- What an entry that has become overdue brings about (R98); a member of an impression keeps the plate that it was taken for (R112). -/
def overdueActions (s : State) (g ten agent : Nat) : State :=
  let s1 := replace (devCount s 0x205 1) g ten agent
  match entryOf s1 ten agent with
  | none => s1
  | some (h, e) =>
    kickGroup (match e.imp with
      | none => askPlate 9 s1 h ten agent true
      | some i => closeImp s1 h i) h
/-- The Age Tick boundaries since an entry was last looked at (R97, R110). DEDUCED (log entry 169). -/
def ageEntry (s : State) (g : Nat) (e : Entry) : State :=
  let n := ageBoundaries s - e.agedTo
  let age := min 255 (e.age + n)
  let late := decide (0 < n) && decide (csrBits s 0x301 7 0 ≤ age) && !e.overdue
  let s1 := modEntry s g e.ten e.agent fun e => { e with age := age, agedTo := ageBoundaries s, overdue := e.overdue || late }
  if late then overdueActions s1 g e.ten e.agent else s1
/-- AGE_TICK (R97). -/
def execAgeTick (s : State) : Next :=
  .next (
    let waiting := fun (s : State) => s.groups.flatMap fun q => (q.2.entries.filter (·.waiting)).map fun e => (q.1, e)
    let s1 := (waiting s).foldl (fun s x => match entryIn s x.1 x.2.ten x.2.agent with
      | none => s
      | some e => if e.waiting then ageEntry s x.1 e else s) s
    if (waiting s1).isEmpty then s1 else pushEvOnce s1 .ageTick)

/-! Admission (R30, R102, R103). -/

/-- A context as admission or `spawn` begins it. -/
def ctxNew (press tag ten group n stp : Nat) : Ctx :=
  { press := press, tag := tag, spawned := false, parent := none, stp := stp, ten := ten, group := group, n := n, g := [], b := [],
    esum := 0, eenable := 0, th := false, tnum := 0, tra := 0, phase := .fetching, block := 0, image := [], region := none,
    configured := [], startedAt := 0, watch := 0, entry := 0, waiting := [], bounds := [], eosDone := [], streams := [], lsids := 0,
    gws := [], exits := [], bsets := [], badds := [], rests := [], divert := none, acted := [], undo := [],
    gathered := [], walkSince := none, iterNext := none, frozen := none, refreeze := none, begun := [], parked := [], owed := [], eosHeld := [], rings := [],
    graver := [], actor := none, drain := none, counts := [], totals := [], notes := [], lastTraced := 0 }

/-- Tags of a Press held from one of its two pools (R106). -/
def tagsHeld (s : State) (p : Nat) (spawned : Bool) : Nat := (s.ctxs.filter fun e => e.2.press == p && e.2.spawned == spawned && decide (e.2.tag < 256)).length
/-- The size of a pool (R106). -/
def tagPool (s : State) (spawned : Bool) : Nat :=
  let a := csrBits s 0x306 7 0
  if spawned then 256 - a else a
/-- The lowest free tag of a Press, if the pool it counts against has one left. -/
def freeTag (s : State) (p : Nat) (spawned : Bool) : Option Nat :=
  if tagPool s spawned ≤ tagsHeld s p spawned then none
  else (List.range 256).find? fun t => !(s.ctxs.any fun e => e.2.press == p && e.2.tag == t)
/-- Whether a context of a step is not in a Proof, so that the step's window takes room (R372). -/
def stepLive (s : State) (stp : Nat) : Bool := s.ctxs.any fun e => e.2.stp == stp && decide (e.2.tag < 256)
/-- Words per lane of a Press's Lane File that windows hold. DESIGN CHOICE (log entry 165). -/
def wordsHeld (s : State) (p : Nat) : Nat :=
  s.steps.foldl (fun n r => if r.2.press = p ∧ stepLive s r.1 = true then n + r.2.words else n) 0
/-- Whether all four regions of a Press are held by frozen contexts (R125). -/
def regionsFrozen (s : State) (p : Nat) : Bool :=
  regionNums.all fun r => s.ctxs.any fun e => e.2.press == p && e.2.region == some r && e.2.frozen.isSome
/-- Whether a Press can take an impression (R78, R102). -/
def pressTakes (s : State) (words p : Nat) : Bool :=
  pressReady s p && (freeTag s p false).isSome && decide (wordsHeld s p + words ≤ Config.laneWords) && !regionsFrozen s p
/-- The Press that takes an impression: that with the most free admission tags, ties to the lower number. -/
def choosePress (s : State) (g words : Nat) : Option Nat :=
  (((List.range Config.pressesPerGroup).map (Config.pressesPerGroup * g + ·)).filter (pressTakes s words)).foldl (fun b p => match b with
    | none => some p
    | some q => if tagsHeld s p false < tagsHeld s q false then some p else some q) none

/-- The heads of an impression's members read for staging (R30): a member whose head cannot be read is dropped and its entry blocked
(R103). None while one waits. The record of 0x219 holds the failing address in ADDR, and in AUX [9:0] the cause of the failed read, for which R365
names no place; PRESS holds the first Press of the Group. DESIGN CHOICE (log entry 163). -/
def stageHeads (s : State) (g : Nat) (i : Imp) (todo : List Nat) : State × Option (List (Entry × List Byte)) :=
  match todo with
  | [] => (s, some [])
  | agent :: r =>
    match entryIn s g i.ten agent with
    | none => stageHeads s g i r
    | some e =>
      match vaKeep s none (agentOwner i.ten agent) i.ten .read e.sbase ((i.headsz + 1) * 16) with
      | (s1, .wait) => (s1, none)
      | (s1, .bad c _ a) =>
        let s2 := modImp (dropRemote s1 (agentOwner i.ten agent)) g i.id fun i => { i with members := i.members.filter fun m => m != agent }
        let s3 := modEntry s2 g i.ten agent fun e => { e with imp := none, blocked := true }
        let s4 := tenRecord (entryTouch s3 g i.ten agent) { recOf 0x219 with ten := i.ten, press := 8 * g, agent := agent, addr := a, aux := c }
        stageHeads s4 g i r
      | (s1, .ok bs) => match stageHeads s1 g i r with
        | (s2, some l) => (s2, some ((e, bs) :: l))
        | q => q

/-- The context of an admitted step (R30). -/
def admittedCtx (s : State) (g p tag stp : Nat) (i : Imp) (e : Entry) (n : Nat) : Ctx :=
  let head := (e.queue.headD { bytes := [], clock := none, card := none }).bytes
  let slot0 := match plateAt s g i.ten i.plate with
    | none => 0
    | some q => q.slots.headD 0
  { ctxNew p tag i.ten g n stp with
    b := (tabSet (fun _ => 0) (tabSet (fun _ => 0) (tabSet (fun _ => 0) [] 0 (BitVec.ofNat 64 e.sbase)) 1 0xE800000001000000)
      2 (BitVec.ofNat 64 (0xE8 * 2 ^ 56 + slot0 * 16384)))
    g := (tabSet (fun _ => 0) (tabSet (fun _ => 0) (tabSet (fun _ => 0) (tabSet (fun _ => 0) [] 0 (BitVec.ofNat 32 e.agent))
      1 (BitVec.ofNat 32 (stimKind head * 256 + stimPayload head % 256))) 2 (BitVec.ofNat 32 n))
      3 (BitVec.ofNat 32 (i.ten * 65536 + i.plate))) }

/-- An impression admitted to a Press with its heads (R102). -/
def admitTo (s : State) (g : Nat) (i : Imp) (p tag : Nat) (l : List (Entry × List Byte)) : State :=
  match l with
  | [] => kickGroup (dropImp s g i.id) g
  | (e, _) :: _ =>
    let stp := s.nextId
    let n := l.length
    let h := (i.headsz + 1) * 16
    let members := l.map fun x =>
      ({ agent := x.1.agent, stim := x.1.queue.headD { bytes := [], clock := none, card := none }, sbase := x.1.sbase } : Member)
    let r : StepRec := { ten := i.ten, group := g, press := p, plate := i.plate, headsz := i.headsz, words := i.words, members := members,
                         window := (l.zipIdx.foldl (fun w x => memWrite w (x.2 * h) x.1.2) []), held := [], root := stp + 1,
                         retiring := false, admittedAt := s.now }
    let x := admittedCtx s g p tag stp i e n
    let s1 := plateMatch { (dropImp s g i.id) with nextId := stp + 2, steps := tabPut s.steps stp r } g i.ten i.plate n
    let s2 := l.foldl (fun s y =>
      let s1 := modEntry (dropRemote s (agentOwner i.ten y.1.agent)) g i.ten y.1.agent fun e =>
        { e with queue := e.queue.drop 1, inFlight := true, imp := none, age := 0, overdue := false, moveTo := none }
      let s2 := entryTouch s1 g i.ten y.1.agent
      if y.1.hq then pushEvOnce s2 (.queueRefill i.ten y.1.agent) else s2) s1
    enterBlock (devCount s2 0x201 1) (stp + 1) x i.routine

/-- One closed impression admitted if its parties are there: whether it has been. -/
def admitOne (s : State) (g : Nat) (i : Imp) : State × Bool :=
  match choosePress s g i.words with
  | none => (s, false)
  | some p => match freeTag s p false with
    | none => (s, false)
    | some tag =>
      if plateAt s g i.ten i.plate |>.isNone then (s, false)
      else match stageHeads s g i i.members with
        | (s1, none) => (s1, false)
        | (s1, some l) => (admitTo s1 g i p tag l, true)
/-- Closed impressions admitted in their order, up to the first that cannot be (R102). -/
def admitAll (g : Nat) (s : State) (l : List Imp) : State :=
  match l with
  | [] => s
  | i :: r => match admitOne s g i with
    | (s1, true) => admitAll g s1 r
    | (s1, false) => s1

/-- The closed impressions of a Group in the order of their highest-ranked members (R102). -/
def closedImps (s : State) (g : Nat) : List Imp :=
  let best := fun (i : Imp) => bestEntry (i.members.filterMap fun a => entryIn s g i.ten a)
  ((groupAt s g).imps.filter (·.closed)).mergeSort fun i j => match best i, best j with
    | some a, some b => !ranksAbove b a
    | _, _ => true
/-- ADMISSION (R102): nothing is admitted while there is no overflow carve-out (R141). -/
def execAdmission (g : Nat) (s : State) : Next :=
  .next (
    let s1 := if csrBits s 0x323 0 0 = 1 && groupReady s g then admitAll g s (closedImps s g) else s
    if (groupAt s1 g).imps.any (·.closed) then pushEvOnce s1 (.admission g) else s1)

/-! Cards (R22, R108). -/

/-- The packet that a record of a card is dealt as. -/
def dealtStim (s : State) (c : Card) (bs : List Byte) : List Byte :=
  stimHead ((c.rsize + 1) / 2) c.ch (bitsOf (leNat (bs.drop 4 |>.take 4)) 7 0) 0 c.ten true (bitsOf (leNat (bs.take 4)) 27 0)
    (deviceNumber s) 3 ++ leBytes 8 c.routine ++ bs.drop 8 ++ (if c.rsize % 2 = 1 then List.replicate 8 0 else [])
/-- `n` records of a card dealt in ascending index; dealing stops while one waits. A record that is not legal, or that cannot be read,
counts as retired. DEDUCED (log entry 167). -/
def dealRecords (n : Nat) (s : State) (id : Nat) : State :=
  match n with
  | 0 => s
  | n + 1 =>
    match s.cards.find? fun c => c.id == id with
    | none => s
    | some c =>
      let va := (c.array + c.next * c.rsize * 8) % 2 ^ 56
      let dealt := fun (s : State) (k : Nat) =>
        { s with cards := mapWhere (fun d => d.id == id) (fun d => { d with next := d.next + 1, live := d.live + k }) s.cards }
      match unitRead s (2 ^ 50 + id) c.ten va (c.rsize * 8) with
      | (s1, .wait) => s1
      | (s1, .bad k aux a) => dealRecords n (walkerFault (dealt s1 0) c.ten 0 k aux a) id
      | (s1, .ok bs) =>
        let w0 := leNat (bs.take 4)
        let w1 := leNat (bs.drop 4 |>.take 4)
        if bitsOf w0 31 28 ≠ 0 ∨ bitsOf w1 31 8 ≠ 0 ∨ 0xF0 ≤ bitsOf w1 7 0 then
          dealRecords n (quarantine (dealt s1 0) { bytes := bs, clock := none, card := none }
            { recOf 0x214 with ten := c.ten, agent := bitsOf w0 27 0, addr := va }) id
        else dealRecords n (deviceStim (dealt s1 1) (dealtStim s c bs) (some id)) id
/-- CARD_DEAL (R108): a Scheduler with fewer than 64 waiting entries deals a chunk of the oldest card. -/
def execCardDeal (g : Nat) (s : State) : Next :=
  .next (match s.cards.find? fun c => decide (c.next < c.count) with
    | none => s
    | some c =>
      let s1 := if groupReady s g && decide (((groupAt s g).entries.filter (·.waiting)).length < 64) then
          cardEnds (dealRecords (max 1 ((c.count - c.next + 63) / 64)) s c.id) c.id
        else s
      if s1.cards.any fun c => decide (c.next < c.count) then pushEvOnce s1 (.cardDeal g) else s1)

/-! Probes (R90). -/

/-- The agent named in Probe Key. -/
def probeKey (s : State) : Nat × Nat := (csrBits s 0x310 35 32, csrBits s 0x310 27 0)
/-- PROBE (R90): the clears that the key asks for come before the result. -/
def execProbe (s : State) : Next :=
  .next (pushEv (csrPoke s 0x311 63 63 0)
    (if csrBits s 0x310 62 62 = 1 then .probeClear else if csrBits s 0x310 61 61 = 1 then .probeUnblock else .probeResult))
/-- PROBE_CLEAR (R99). -/
def execProbeClear (s : State) : Next :=
  .next (pushEv (clearAge s (probeKey s).1 (probeKey s).2) (if csrBits s 0x310 61 61 = 1 then .probeUnblock else .probeResult))
/-- PROBE_UNBLOCK (R103). -/
def execProbeUnblock (s : State) : Next := .next (pushEv (unblock s (probeKey s).1 (probeKey s).2) .probeResult)
/-- PROBE_RESULT (R90). -/
def execProbeResult (s : State) : Next :=
  .next (
    let k := probeKey s
    let s1 := csrSet s 0x311 (BitVec.ofNat 64 (probeDouble s k.1 k.2))
    match entryOf s k.1 k.2 with
    | none => csrSet (csrSet s1 0x312 0) 0x313 0
    | some (_, e) =>
      csrSet (csrSet s1 0x312 (BitVec.ofNat 64 (e.seq.toNat * 2 ^ 32))) 0x313 (match e.queue with
        | [] => 0
        | st :: _ => BitVec.ofNat 64 (routineOf e st)))

end Sys2Proof.Machine
end

