-- ==== Sys2Proof/Machine/System.lean ====
section
/-! DEFINITION. Traps (R320), opcode 0x3E but for `preempt` and `abort` (R324), the counters and the Burnisher (R392 to R394), trace
and Stylus (R395 to R397). -/

namespace Sys2Proof.Machine

/-! Traps. -/

/-- TRAP (R320): the commit is to be diverted into the tenancy's trap block. -/
def execTrap (f : FireMode) (n : BitVec 8) (s : State) : Next :=
  onFire f s (fun _ _ => s) (fun _ => s) fun w =>
    match ctxAt s w.ctx with
    | none => s
    | some x =>
      if (x.th || x.divert.isSome) && !passed w.waive 0x242 then fireFault s w 0x242 (fireInfo w)
      else if csrBits s (0x480 + x.ten) 0 0 = 0 && !passed w.waive 0x241 then fireFault s w 0x241 (fireInfo w)
      else setCtx s w.ctx { x with divert := some (.trap n) }

/-- TRET (R320): the commit is to go back to where the trapped block entry was going. -/
def execTret (f : FireMode) (s : State) : Next :=
  onFire f s (fun _ _ => s) (fun _ => s) fun w =>
    match ctxAt s w.ctx with
    | none => s
    | some x =>
      if (!x.th || x.divert.isSome) && !passed w.waive 0x243 then fireFault s w 0x243 (fireInfo w)
      else setCtx s w.ctx { x with divert := some .tret }

/-! Stops and marks. -/

/-- NOP (R324). -/
def execNop (f : FireMode) (s : State) : Next := onFire f s (fun _ _ => s) (fun _ => s) fun _ => s

/-- The tokens of a stopped context, waiting or parked, ordered by instruction, port and ITER (R396). -/
def stopTokens (x : Ctx) : List Token :=
  let parked := x.parked.filterMap fun w => match w with
    | .event (.tokenArrival _ t) => some t
    | _ => none
  let key := fun (t : Token) => (t.inst % 128 * 4 + portCode t.port) * 65536 + t.iter % 65536
  (ctxWaiting x ++ parked).mergeSort fun t u => decide (key t ≤ key u)

/-- The Stop Dump of a context (R396): a 16-byte count, then one item of 16 bytes for each token, at most 4,095. -/
def stopDump (s : State) (c : Nat) : State :=
  match ctxAt s c with
  | none => s
  | some x =>
    if csrBits s 0x3F4 0 0 = 0 then s
    else
      let l := (stopTokens x).take 4095
      let pa := csrBits s 0x3F4 47 16 * 65536
      let bs := leBytes 16 l.length ++ l.flatMap fun t =>
        leBytes 8 (tokenDouble x.tag (ctxPlane x) true t) ++ leBytes 8 (t.vals.headD 0).toNat
      hbmFresh (hbmWrite s pa bs) pa bs.length

/-- BRK (R324, R396): a precise stop where the tenancy's BRK bit is set; at resume it goes on as `nop`. -/
def execBrk (f : FireMode) (k : BitVec 10) (s : State) : Next :=
  onFire f s (fun _ _ => s) (fun _ => s) fun w =>
    match ctxAt s w.ctx with
    | none => s
    | some x =>
      if csrBits s 0x0F9 x.ten x.ten = 0 || w.waive == some 0x3C8 then s
      else stopDump (fireFault s w 0x3C8 { fireInfo w with aux := k.zeroExtend 64 }) w.ctx

/-- What `trmk` does with its token: it goes on as it is. -/
def trmkOp : CompOp :=
  { wa := none, wb := .w32, wc := .w32, agree := [.a], ex := .pass, outW := none, outSc := none, elem := fun a _ _ => (a, 0) }
/-- Its token must hold one element (R304). -/
def trmkFault (w : Firing) : Option Nat := if manyElems w && !passed w.waive 0x11B then some 0x11B else none
/-- The mark record of a context whose firings are traced (R395). -/
def markRecord (s : State) (c id v : Nat) : State :=
  match ctxAt s c with
  | none => s
  | some x =>
    if x.frozen.isSome || !traced s x then s
    else traceRecord s (2 ^ 63 + x.tag % 256 * 2 ^ 54 + id * 2 ^ 44 + v % 2 ^ 32) false
/-- TRMK (R324): its token goes on unchanged, and a mark record is written when the Press traces (R395). -/
def execTrmk (f : FireMode) (t : Target) (k : BitVec 10) (s : State) : Next :=
  onFire f s (fun _ _ => s) (nullsUnless trmkFault s f [t]) fun w =>
    match trmkFault w with
    | some c => fireFault s w c (fireInfo w)
    | none => markRecord (compGo trmkOp f [t] s w) w.ctx k.toNat (aFirst f w)

/-! The Stylus (R397). -/

/-- The firings on the path that ends at firing `born`, at most `n`. -/
def stylusPath (n : Nat) (notes : List Note) (born : Nat) : List Note :=
  match n with
  | 0 => []
  | n + 1 =>
    match notes.find? fun x => x.born == born with
    | none => []
    | some x => x :: (if x.root then [] else stylusPath n notes x.parent)

/-- STYLUS (R397): the walk of the firing's critical path is written to the trace buffer. It runs for one cycle per step, and one that starts
in its Press meanwhile is dropped and counted (R398). DESIGN CHOICE (log entry 28). -/
def execStylus (f : FireMode) (k : BitVec 10) (s : State) : Next :=
  onFire f s (fun _ _ => s) (fun _ => s) fun w =>
    match ctxAt s w.ctx with
    | none => s
    | some x =>
      let me : Note := { born := w.born, inst := w.inst, iter := w.iter, last := w.last, parent := lastBorn w, wait := w.wait,
                         root := (operands w).isEmpty }
      let path := me :: (if me.root then [] else stylusPath 63 x.notes me.parent)
      if cycleNow s < (pressAt s x.press).stylus then devCount s 0x209 1
      else path.foldl (fun s n =>
        traceRecord s (3 * 2 ^ 62 + x.tag % 256 * 2 ^ 54 + n.inst % 128 * 2 ^ 47 + n.iter % 65536 * 2 ^ 31 + portCode n.last * 2 ^ 29 +
          (if n.wait < 524288 then n.wait else 524287) * 2 ^ 10 + k.toNat) false)
        (modPress s x.press fun r => { r with stylus := cycleNow s + path.length })

/-! Counters. -/

/-- Whether an event number is one of the device's (R324). -/
def devEvent (e : Nat) : Bool := decide (0x200 ≤ e)
/-- Whether the table of R392 lists an event. -/
def eventListed (e : Nat) : Bool := decide (e ≤ 0x008) || (decide (0x200 ≤ e) && decide (e ≤ 0x20A))
/-- Whether an event is a gauge (R392). -/
def isGauge (e : Nat) : Bool := e == 0x203 || e == 0x204
/-- Where the total of a device event stands (R393). -/
def devTotalAt (s : State) (e : Nat) : Nat := csrBits s 0x3F0 47 16 * 65536 + 0x10000 + 8 * (e - 0x200)
/-- Where a tenancy's total of a context event stands (R393). -/
def tenTotalAt (s : State) (n e : Nat) : Nat := csrBits s 0x3F0 47 16 * 65536 + 0x1000 * n + 8 * e
/-- Whether a context is a supervisor context (R305). -/
def supervisor (s : State) (x : Ctx) : Bool := csrBits s 0x0F8 x.ten x.ten == 1

/-- Total and live count of an event together (R324, R393). -/
def eventTotal (s : State) (x : Ctx) (e : Nat) : Nat :=
  if !eventListed e then 0
  else if devEvent e then
    let live := tabGet (fun _ => 0) s.devCounts e
    let total := if csrBits s 0x3F0 0 0 = 1 then hbmDbl s (devTotalAt s e) else 0
    if isGauge e then max total live else (total + live) % 2 ^ 64
  else (tabGet (fun _ => 0) x.totals e + tabGet (fun _ => 0) x.counts e) % 2 ^ 64

/-- CTR_RD (R324, R393). -/
def execCtrRd (f : FireMode) (t : Target) (e : BitVec 10) (s : State) : Next :=
  onFire f s (fun _ _ => s) (fun _ => s) fun w =>
    match ctxAt s w.ctx with
    | none => s
    | some x =>
      if devEvent e.toNat && !supervisor s x && !passed w.waive 0x3C4 then fireFault s w 0x3C4 (fireInfo w)
      else sendPlain s f [t] w fun n =>
        freshToken 0 (List.replicate n (BitVec.ofNat 64 (eventTotal s x e.toNat))) .w64 false (inputBits w)

/-- CTR_CLR (R324, R394): live count and total read 0. -/
def execCtrClr (f : FireMode) (e : BitVec 10) (s : State) : Next :=
  onFire f s (fun _ _ => s) (fun _ => s) fun w =>
    match ctxAt s w.ctx with
    | none => s
    | some x =>
      let n := e.toNat
      if devEvent n && !supervisor s x && !passed w.waive 0x3C4 then fireFault s w 0x3C4 (fireInfo w)
      else if !eventListed n then s
      else if devEvent n then
        let s1 := { s with devCounts := tabDrop s.devCounts n }
        if csrBits s 0x3F0 0 0 = 1 then hbmPutDbl s1 (devTotalAt s n) 0 else s1
      else setCtx s w.ctx { x with counts := tabDrop x.counts n, totals := tabDrop x.totals n }

/-- COUNTER_SWEEP (R393): the live count goes into the total, in one step; while V = 0 no sweep is made. -/
def execCounterSweep (c e : Nat) (s : State) : Next :=
  .next (
    if csrBits s 0x3F0 0 0 = 0 ∨ !eventListed e then s
    else if devEvent e then
      let live := tabGet (fun _ => 0) s.devCounts e
      let old := hbmDbl s (devTotalAt s e)
      hbmPutDbl { s with devCounts := tabDrop s.devCounts e } (devTotalAt s e) (if isGauge e then max old live else (old + live) % 2 ^ 64)
    else match ctxAt s c with
      | none => s
      | some x =>
        let live := tabGet (fun _ => 0) x.counts e
        setCtx s c { x with counts := tabDrop x.counts e,
                            totals := tabSet (fun _ => 0) x.totals e ((tabGet (fun _ => 0) x.totals e + live) % 2 ^ 64) })

/-- The counts of a context added to its tenancy's totals when it ends (R390, R393). -/
def addCounts (s : State) (x : Ctx) : State :=
  if csrBits s 0x3F0 0 0 = 0 then s
  else (List.range 9).foldl (fun s e =>
    let n := eventTotal s x e
    if n = 0 then s else hbmPutDbl s (tenTotalAt s x.ten e) ((hbmDbl s (tenTotalAt s x.ten e) + n) % 2 ^ 64)) s

/-- MONITOR_LIMIT_CROSS (R394, R399): the readings; an event each time one rises above its limit. -/
def execMonitorLimitCross (power temp : BitVec 16) (s : State) : Next :=
  .next (
    let p0 := csrBits s 0x3F5 47 32
    let t0 := csrBits s 0x3F5 15 0
    let pl := csrBits s 0x3F6 47 32
    let tl := csrBits s 0x3F6 15 0
    let s1 := csrPoke (csrPoke s 0x3F5 47 32 power.toNat) 0x3F5 15 0 temp.toNat
    let n := (if p0 ≤ pl ∧ pl < power.toNat then 1 else 0) + (if t0 ≤ tl ∧ tl < temp.toNat then 1 else 0)
    (List.range n).foldl (fun s _ =>
      pfEvent (devCount s 0x20A 1) { recOf 0x3E2 with aux := power.toNat * 2 ^ 32 + temp.toNat }) s1)

/-- TRACE_RESTART (R395): COUNT clears, and the buffer is written from its start. -/
def execTraceRestart (s : State) : Next := .next { csrPoke s 0x3F2 31 0 0 with traceLast := none }

end Sys2Proof.Machine
end

