-- ==== Sys2Proof/Machine/Registers.lean ====
section
/-! DEFINITION. Reading and writing CSRs (R4, R5, R49, R68, R105, R321 to R323, R332, R362): the values, the privileges, and what a
written GO bit or MODE starts. -/

namespace Sys2Proof.Machine

/-! The Share Tables (R104, R105). -/

/-- Double `d` of a Share Table at reset: entry i holds V = 1 and tenancy i mod 16. -/
def shareReset (d : Nat) : Dbl := BitVec.ofNat 64 (leNat ((List.range 8).map fun j => BitVec.ofNat 8 (0x80 + (8 * d + j) % 16)))
/-- Double `d` of the shadow copy of a Press. -/
def shareShadow (s : State) (p d : Nat) : Dbl := tabGet shareReset (pressAt s p).shareShadow d
/-- Double `d` of the live table of a Press. -/
def shareLive (s : State) (p d : Nat) : Dbl := tabGet shareReset (pressAt s p).shareLive d
/-- Whether the step count of a Press has wrapped from 63 to 0 between two cycles (R105). -/
def shareWrapped (since c : Nat) : Bool := decide (since / 64 < c / 64)
/-- Double `d` of the table that governs a Press in cycle `c`: the shadow from the first wrap after it was last written (R105). -/
def shareIn (s : State) (p c d : Nat) : Dbl := if shareWrapped (pressAt s p).shareAt c then shareShadow s p d else shareLive s p d
/-- The Lend mask in cycle `c`, in the same way (R105). -/
def lendIn (s : State) (c : Nat) : BitVec 16 := if shareWrapped s.lendAt c then (csrGet s 0x349).extractLsb' 0 16 else s.lendLive
/-- The live table takes the shadow, if a wrap has passed. -/
def shareSettle (s : State) (p : Nat) : State :=
  if shareWrapped (pressAt s p).shareAt (cycleNow s) then modPress s p fun q => { q with shareLive := q.shareShadow } else s
/-- The Lend mask is about to be written: the one in use stays until the next wrap. -/
def lendSettle (s : State) : State := { s with lendLive := lendIn s (cycleNow s), lendAt := cycleNow s }
/-- The shadow double of a Press written; the Press takes it at its next wrap. -/
def sharePut (s : State) (p d : Nat) (v : Dbl) : State :=
  let w := csrWritten (0x341 + d) (shareShadow s p d) v
  pushEvOnce (modPress (shareSettle s p) p fun q => { q with shareShadow := tabSet shareReset q.shareShadow d w, shareAt := cycleNow s })
    (.shareTableSwap p)
/-- SHARE_TABLE_SWAP (R105): the shadow becomes the live table once the step count has wrapped; `shareIn` counts it as such from the wrap on,
whenever this event comes. DEDUCED (log entry 83). -/
def execShareTableSwap (p : Nat) (s : State) : Next :=
  .next (if shareWrapped (pressAt s p).shareAt (cycleNow s) then shareSettle s p else pushEvOnce s (.shareTableSwap p))

/-! Reading. -/

/-- A CSR of the context scope (R49, R321). -/
def contextCsr (x : Ctx) (num : Nat) : Nat :=
  let bit := fun (b : Bool) => if b then 1 else 0
  if num = 0x010 then x.esum.toNat
  else if num = 0x011 then x.eenable.toNat
  else if num = 0x012 then bit x.th * 2 ^ 63 + x.tnum.toNat
  else if num = 0x013 then x.tra.toNat
  else bit x.spawned * 2 ^ 32 + x.press % 256 * 2 ^ 24 + x.tag % 256 * 2 ^ 16 + x.ten % 16 * 2 ^ 12 + x.group % 32 * 2 ^ 7 + x.n % 128
/-- Whether a CSR is of the context scope. DEDUCED (log entry 55). -/
def contextScope (num : Nat) : Bool := decide (0x010 ≤ num) && decide (num ≤ 0x014)
/-- What a CSR reads as for a context, or for the host, which has none: those of the context scope then read zero. -/
def csrRead (s : State) (who : Option Ctx) (num : Nat) : Dbl :=
  if contextScope num then (match who with
    | none => 0
    | some x => BitVec.ofNat 64 (contextCsr x num))
  else if 0x341 ≤ num ∧ num ≤ 0x348 then shareShadow s (csrBits s 0x340 7 0) (num - 0x341)
  else csrGet s num

/-! Writing. -/

/-- A disposition that names no frozen context, or asks for what is not defined: a record of cause 0x3C6 (R365, R367, R368). DEDUCED (log
entry 81). -/
def dispRefused (s : State) (ten seq act : Nat) (register : Bool) : State :=
  let va := match tabFind s.records (2 ^ 24 * ten + seq) with
    | none => 0
    | some r => r.va
  tenRecord s { recOf 0x3C6 with ten := ten, addr := va, aux := seq + act * 2 ^ 24 + (if register then 2 ^ 27 else 0) }

/-- The domain control as stored: a MODE other than 00 needs the areas, and PROXY fits beside QUOTA (R332). -/
def domainStored (s : State) (v : Dbl) : Dbl :=
  let a := v.toNat
  let m := if raceAreas s then bitsOf a 63 62 else 0
  let q := bitsOf a 24 16
  let p := if q + bitsOf a 8 2 ≤ 256 then bitsOf a 8 2 else 256 - q
  BitVec.ofNat 64 (putBits (putBits a 63 62 m) 8 2 p)

/-- Every live count is to be swept, once the Counter Area is valid (R393). DEDUCED (log entry 181). -/
def sweepAll (s : State) : State :=
  let dev := s.devCounts.map fun e => Instr.counterSweep 0 e.1
  let own := s.ctxs.flatMap fun c => c.2.counts.map fun e => Instr.counterSweep c.1 e.1
  (dev ++ own).foldl pushEvOnce s
/-- What a write of a CSR starts; `v` is the value written. -/
def csrEffect (s : State) (num : Nat) (old v : Dbl) : State :=
  let bit := fun (k : Nat) => v.getLsbD k
  if num = 0x310 then
    if !bit 63 then s
    else
      let s1 := csrPoke s 0x311 63 63 0
      pushEvs s1 [.probe]
  else if num = 0x321 then if bit 0 then pushEv s .placementCacheFlush else s
  else if num = 0x364 then
    if !bit 63 then s
    else pushEv s (match csrBits s 0x364 61 60 with
      | 0 => .tlbInvalidatePage
      | 1 => .tlbInvalidateTenancy
      | _ => .tlbInvalidateAll)
  else if num = 0x371 then
    let s1 := if bit 63 then pushEv s (if bit 62 then .fabricReconfigure else .fabricLoad) else s
    if bit 61 then pushEv s1 .fabricResume else s1
  else if num = 0x379 then if bit 63 then pushEv s .distributionStart else s
  else if num = 0x3DB then if bit 63 then pushEv s .preemptRequest else s
  else if num = 0x3DC then if bit 63 then pushEv s .proofRelease else s
  else if num = 0x3F0 then if bit 0 then sweepAll s else s
  else if num = 0x3F2 then if bit 49 then pushEv s .traceRestart else s
  else if 0x3A8 ≤ num ∧ num < 0x3C8 ∧ (num - 0x3A8) % 8 = 0 then
    let d := (num - 0x3A8) / 8
    let was := bitsOf old.toNat 63 62
    let s1 := csrSet s num (domainStored s (csrGet s num))
    if (was = 0 ∨ was = 3) ∧ domMode s1 d ≠ 0 then pushEv s1 (.domainModeEnable d) else s1
  else if 0x4A0 ≤ num ∧ num < 0x520 ∧ (num - 0x4A0) % 8 = 2 then
    if !bit 63 then s
    else
      let ten := (num - 0x4A0) / 8
      let seq := bitsOf v.toNat 23 0
      match bitsOf v.toNat 62 60 with
      | 1 => pushEv s (.dispositionResume ten seq)
      | 2 => pushEv s (.dispositionAbort ten seq (csrGet s (num + 1)))
      | a => dispRefused s ten seq a true
  else s

/-- A CSR of the device written under its access codes, with what that starts. -/
def csrWrite (s : State) (num : Nat) (v : Dbl) : State :=
  if contextScope num || !csrListed (BitVec.ofNat 12 num) || (num == 0x372 && csrBits s 0x371 60 58 != 0) then s
  else if 0x341 ≤ num ∧ num ≤ 0x348 then
    if csrBits s 0x340 63 63 = 1 then (List.range Config.presses).foldl (fun s p => sharePut s p (num - 0x341) v) s
    else sharePut s (csrBits s 0x340 7 0) (num - 0x341) v
  else
    let old := csrGet s num
    let s1 := if num = 0x300 then ageSettle s else if num = 0x349 then lendSettle s else s
    csrEffect (csrSet s1 num (csrWritten num old v)) num old v

/-- A CSR of the context scope written by its context. -/
def contextWrite (x : Ctx) (num : Nat) (v : Dbl) : Ctx :=
  if num = 0x010 then { x with esum := x.esum &&& ~~~(v.extractLsb' 0 5) }
  else if num = 0x011 then { x with eenable := v.extractLsb' 0 5 }
  else if num = 0x013 then { x with tra := v }
  else x

/-! `mfs` and `mts` (R322, R323). -/

/-- The tenancy that a CSR belongs to. -/
def csrTen (num : Nat) : Option Nat :=
  if 0x400 ≤ num ∧ num < 0x480 then some ((num - 0x400) / 8)
  else if 0x480 ≤ num ∧ num < 0x490 then some (num - 0x480)
  else if 0x4A0 ≤ num ∧ num < 0x520 then some ((num - 0x4A0) / 8)
  else none
/-- Whether a context may read a CSR. -/
def mayRead (s : State) (x : Ctx) (num : Nat) : Bool :=
  contextScope num || supervisor s x || csrTen num == some x.ten || num == 0x322 || num == 0x372 || num == 0x373 || num == 0x0F8
/-- Whether a context may write a CSR; a write of the Privilege register is made of no effect. -/
def mayWrite (s : State) (x : Ctx) (num : Nat) : Bool := contextScope num || supervisor s x || num == 0x0F8

/-- MFS (R322, R323). DEDUCED (log entry 80). -/
def execMfs (f : FireMode) (t : Target) (csr : BitVec 12) (s : State) : Next :=
  onFire f s (fun _ _ => s) (fun _ => s) fun w =>
    match ctxAt s w.ctx with
    | none => s
    | some x =>
      if !mayRead s x csr.toNat && !passed w.waive 0x3C4 then fireFault s w 0x3C4 (fireInfo w)
      else sendPlain s f [t] w fun n => freshToken 0 (List.replicate n (csrRead s (some x) csr.toNat)) .w64 false (inputBits w)

/-- MTS (R322, R323). It is none of the sinks of R48: bits of its operand go nowhere. DEDUCED (log entry 84). -/
def execMts (f : FireMode) (csr : BitVec 12) (s : State) : Next :=
  onFire f s (fun _ _ => s) (nullsUnless (oneElem · .w64) s f []) fun w =>
    match ctxAt s w.ctx with
    | none => s
    | some x =>
      match oneElem w .w64 with
      | some c => fireFault s w c (fireInfo w)
      | none =>
        let num := csr.toNat
        let v := BitVec.ofNat 64 (aFirst f w)
        if !mayWrite s x num && !passed w.waive 0x3C4 then fireFault s w 0x3C4 (fireInfo w)
        else if contextScope num then modCtx s w.ctx fun y => contextWrite y num v
        else if num = 0x0F8 then s
        else csrWrite s num v

end Sys2Proof.Machine
end

