-- ==== Sys2Proof/Machine/Sinks.lean ====
section
/-! DEFINITION. Stimuli to the host's sink rings (R74 to R76), and what waits for a ring that was full: stimuli, event records, fault
records and quarantined stimuli (R76, R363). -/

namespace Sys2Proof.Machine

/-- The stimuli that wait for a sink ring. -/
def egressAt (s : State) (k : Nat) : List Stim := tabGet (fun _ => []) s.egress k
/-- `s` with them. -/
def setEgress (s : State) (k : Nat) (l : List Stim) : State := { s with egress := tabSet (fun _ => []) s.egress k l }
/-- A stimulus written to a sink ring that has room, if its check word holds (R75); the bytes of the entry behind it are zeros. DESIGN CHOICE
(log entry 187). -/
def sinkWrite (s : State) (ten j : Nat) (st : Stim) : State :=
  let k := 8 * ten + j
  if stimOk st.bytes then ringDeliver s k 256 (padTo 256 st.bytes) false
  else
    let r := ringAt s k
    eventSend s (ten + 1) { recOf 0x380 with ten := ten, agent := stimAgent st.bytes, aux := checkAux 4 0 + hostAux r.link (ten + 1),
                                             addr := bitsOf r.base.toNat 63 8 * 256 + 256 * (ringProd r % ringSize r) }
/-- A stimulus released to sink ring `j` of a tenancy: written, kept in order up to 64, or quarantined (R76). DEDUCED (log entry 125). -/
def sinkPut (s : State) (ten j : Nat) (st : Stim) : State :=
  let k := 8 * ten + j
  let l := egressAt s k
  if l.isEmpty && ringRoom (ringAt s k) then sinkWrite s ten j st
  else if l.length < 64 then setEgress s k (l ++ [st])
  else quarantine s st { recOf 0x3D2 with ten := ten, agent := stimAgent st.bytes, addr := 0x30000 + 0x100 * ten + 0x20 * j,
                                          aux := hostAux (ringAt s k).link (ten + 1) }
/-- The waiting stimuli that a sink ring now takes; `n` bounds their number. -/
def sinkFlush (n : Nat) (s : State) (ten j : Nat) : State :=
  match n with
  | 0 => s
  | n + 1 =>
    match egressAt s (8 * ten + j) with
    | [] => s
    | st :: r =>
      if ringRoom (ringAt s (8 * ten + j)) then sinkFlush n (sinkWrite (setEgress s (8 * ten + j) r) ten j st) ten j else s

/-- EGRESS_DRAIN (R76). -/
def execEgressDrain (ten ring : Nat) (s : State) : Next := .next (sinkFlush 64 s ten ring)
/-- EVENT_RING_FLUSH (R76): every event ring takes what waits for it and fits. -/
def execEventRingFlush (s : State) : Next := .next ((List.range 17).foldl (fun s f => eventFlush 64 s f) s)
/-- FAULT_RING_FLUSH (R363). -/
def execFaultRingFlush (s : State) : Next :=
  .next (
    let s1 := (List.range 16).foldl (fun s t => faultFlush 64 s t) s
    if s1.faultWait.isEmpty then s1 else pushEvOnce s1 .faultRingFlush)
/-- QUARANTINE_FLUSH (R363). -/
def execQuarantineFlush (s : State) : Next :=
  .next (
    let s1 := (List.range 16).foldl (fun s t => quarFlush (quarQueue s t).length s t) s
    if s1.quarWait.isEmpty then s1 else pushEvOnce s1 .quarantineFlush)

end Sys2Proof.Machine
end

