-- ==== Sys2Proof/Machine/HostIO.lean ====
section
/-! DEFINITION. The host side: bring-up (R77 to R80), the windows W0, W2 and W4 (R68, R69), ingress ports (R70 to R73), ring registers
(R74), plate keys (R82) and attestation (R83). -/

namespace Sys2Proof.Machine

/-! Bring-up. -/

/-- Whether the firmware was found invalid: then nothing starts, and every register but Boot Status reads zero (R80). DEDUCED (log entry
145). -/
def bootFailed (s : State) : Bool := csrBits s 0x0F1 9 0 != 0
/-- Whether the firmware has been verified (R80). -/
def booted (s : State) : Bool := csrBits s 0x0F1 63 63 == 1 && !bootFailed s
/-- Whether a host link may be used: the device has started, and the link is ready (R77, R80). DEDUCED (log entry 194). -/
def hostUp (s : State) (link : Nat) : Bool := booted s && readyBit s (376 + link)
/-- The functions that are tested at once: all but the Presses, which the Wake Sequencer powers up (R77, R79). -/
def testedAtOnce : List Nat := (List.range 134).map (256 + ·)
/-- RESET_BOOT (R80). -/
def execResetBoot (s : State) : Next :=
  .next (
    if csrBits s 0x0F1 63 63 = 1 then s
    else if Config.firmwareVerifies then
      pushEv (pushEvs (csrPoke s 0x0F1 63 63 1) (testedAtOnce.map fun b => .selfTestDone b (Config.selfTestPasses b))) (.pressPowerUp 0)
    else csrPoke (csrPoke s 0x0F1 63 63 1) 0x0F1 9 0 0x3E0)

/-- What waits for a function that has become ready. -/
def nowReady (s : State) (bit : Nat) : State :=
  if bit < 256 then pushEvOnce s (.admission (bit / Config.pressesPerGroup))
  else if bit < 288 then
    let g := bit - 256
    let s1 := kickGroup (pushEvOnce s (.admission g)) g
    if s1.cards.isEmpty then s1 else pushEvOnce s1 (.cardDeal g)
  else s
/-- SELF_TEST_DONE (R77): the function is ready, or has failed with an event of cause 0x3E1. A Press is tested once it has ramped. -/
def execSelfTestDone (bit : Nat) (passed : Bool) (s : State) : Next :=
  .next (
    if booted s = false ∨ 390 ≤ bit ∨ readyBit s bit = true ∨ s.failed.getLsbD bit = true then s
    else if bit < 256 ∧ s.ramped.contains bit = false then pushEv s (.selfTestDone bit passed)
    else if passed then nowReady { s with ready := s.ready ||| (1#512 <<< bit) } bit
    else pfEvent { s with failed := s.failed ||| (1#512 <<< bit) } { recOf 0x3E1 with addr := bit })
/-- PRESS_POWER_UP (R79): at least 500 ns after the one before. DEDUCED (log entry 137). -/
def execPressPowerUp (press : Nat) (s : State) : Next :=
  .next (
    if bootFailed s ∨ Config.presses ≤ press then s
    else if press ≠ 0 ∧ s.now < s.wakeAt + 500 then pushEv s (.pressPowerUp press)
    else
      let s1 := pushEv { s with wakeAt := s.now } (.matrixRampDone press)
      if press + 1 < Config.presses then pushEv s1 (.pressPowerUp (press + 1)) else s1)
/-- MATRIX_RAMP_DONE (R79): 64 cycles after the start at the earliest. -/
def execMatrixRampDone (press : Nat) (s : State) : Next :=
  .next (
    if bootFailed s ∨ s.ramped.contains press = true ∨ Config.presses ≤ press then s
    else if cyclesOf (s.now - s.wakeAt) < 64 then pushEv s (.matrixRampDone press)
    else pushEv { s with ramped := s.ramped ++ [press] } (.selfTestDone press (Config.selfTestPasses press)))

/-! W4 (R68, R69). -/

/-- W4BASE of a function. -/
def w4Base (s : State) (func : Nat) : Nat := (tabGet (fun _ => 0) s.w4base func).toNat
/-- A check-word mismatch that a host access meets (R69, R84, R376). DEDUCED (log entry 143). -/
def w4Bad (s : State) (func link cause boundary g at' : Nat) : State :=
  eventSend s func { recOf cause with ten := func - 1, addr := at', aux := checkAux boundary g + hostAux link func }
/-- Where the bytes of a host access lie: for the PF at a local PA, for a VF under its tenancy's tables. -/
def w4Spots (s : State) (func at' n : Nat) (w : Way) : Got (List (Spot × Nat × Nat)) :=
  if 2 ^ 56 < at' + n then .bad 0x100 0 at'
  else if func = 0 then
    if Config.hbmBytes < at' + n then .bad 0x105 0 at'
    else .ok [({ pa := at', mode := 0, peer := 0, kind := 0, checked := false, pte := 2 ^ 37 + 2 ^ 36, pteAddr := 0, size := 65536 }, at', n)]
  else spotsFind s none (func - 1) w (partsOf at' n)
/-- The marks that a VF's access makes (R209). -/
def w4Mark (s : State) (func : Nat) (w : Way) (l : List (Spot × Nat × Nat)) : State :=
  if func = 0 then s else spotsMark s none (func - 1) w l
/-- The first partial granule under local parts that does not verify. -/
def partialBad (s : State) (l : List (Spot × Nat × Nat)) : Option Nat :=
  l.findSome? fun e =>
    if e.1.mode ≠ 0 then none
    else (((granules e.1.pa e.2.2).filter fun g => !(wholeGranules e.1.pa e.2.2).contains g).find? fun g => s.spoiled.contains (2 * g)).map (64 * ·)
/-- The link of a posted write of the host: those of one link are made in their order (R72). -/
def hostLink : Instr → Option Nat
  | .registerWrite _ _ link _ _ | .w4Write _ link _ _ | .portBindingWrite link _ _ | .prodWrite _ link _ _ => some link
  | .keySlotWrite slot _ _ => some (slot / 8)
  | _ => none
/-- Whether a work item is a posted write of a link that waits. -/
def postedBy (link : Nat) (w : Work) : Bool :=
  match w with
  | .event i => hostLink i == some link
  | _ => false
/-- A posted write waits, and those of its link behind it. DEDUCED (log entry 195). -/
def hostAgain (s : State) (link : Nat) (i : Instr) : State :=
  { s with queue := s.queue.filter (fun w => !postedBy link w) ++ .event i :: s.queue.filter (postedBy link) }
/-- Whether a transfer is a write of a host link at a peer. -/
def hostWriting (link : Nat) (t : Xfer) : Bool :=
  match t.kind with
  | .unitWrite o => decide (2 ^ 59 ≤ o ∧ o < 2 ^ 60) && o % 2 == link
  | _ => false
/-- W4_WRITE (R69): discarded where it is refused, or where a partial granule does not verify. -/
def execW4Write (func link addr : Nat) (bytes : List Byte) (s : State) : Next :=
  .next (
    let at' := w4Base s func + addr
    let again := fun (s : State) => hostAgain s link (.w4Write func link addr bytes)
    if !hostUp s link then s
    else match w4Spots s func at' bytes.length .write with
      | .wait => again s
      | .bad _ _ _ => w4Refused s func link at'
      | .ok l => match spotsCan s (tagsFree s) l with
        | .wait => again s
        | .bad _ _ _ => w4Refused s func link at'
        | .ok _ => match partialBad s l with
          | some g => w4Bad s func link 0x381 5 g at'
          | none => (spotsWrite (w4Mark s func .write l) none 0 (hostOwner func link) (func - 1) bytes l).1)
/-- Whether a W4 read waits: for the link's earlier writes (R72), for another read of its function there, or for what that has asked for. -/
def readWaits (s : State) (func link addr n : Nat) : Bool :=
  s.queue.any (postedBy link) || s.xfers.any (hostWriting link) ||
    (match tabFind s.hostReading (2 * func + link) with
     | some r => r != (addr, n)
     | none => s.xfers.any fun t => t.kind == .unitRead (hostOwner func link))
/-- A W4 read is over: nothing that it had read is kept. -/
def readEnds (s : State) (func link : Nat) (o : HostOut) : State :=
  let s1 := dropFail (dropRemote s (hostOwner func link)) (hostOwner func link)
  hostSees { s1 with hostReading := tabDrop s1.hostReading (2 * func + link) } o
/-- W4_READ (R69): the bytes, or Completer Abort. One read of a function is made on a link at a time. DEDUCED (log entry 195). -/
def execW4Read (func link addr n : Nat) (s : State) : Next :=
  .next (
    let at' := w4Base s func + addr
    let again := fun (s : State) => pushEv s (.w4Read func link addr n)
    let ends := fun (s : State) (o : HostOut) => readEnds s func link o
    if bootFailed s then hostSees s (.read (List.replicate n 0))
    else if !hostUp s link then s
    else if readWaits s func link addr n then again s
    else match w4Spots s func at' n .read with
      | .wait => again s
      | .bad _ _ _ => ends (w4Refused s func link at') .abort
      | .ok l =>
        match l.findSome? fun e => if e.1.mode = 0 then hbmBad s e.1.pa e.2.2 else none with
        | some g => ends (w4Bad s func link 0x380 4 g at') .abort
        | none =>
          match remoteFail s (hostOwner func link) with
          | some _ => ends (w4Refused s func link at') .abort
          | none => match spotsRead (w4Mark s func .read l) (hostOwner func link) l with
            | (s1, .ok bs) => ends s1 (.read bs)
            | (s1, .bad _ _ _) => ends (w4Refused s1 func link at') .abort
            | (s1, .wait) => again { s1 with hostReading := tabPut s1.hostReading (2 * func + link) (addr, n) })

/-! Ingress ports (R70 to R73). -/

/-- A port as reset leaves it. -/
def portReset : InPort := { b0 := 0, b1 := 0, slots := [], prod := 0, cons := 0, refused := 0, routine := none, fetching := [], published := [] }
/-- Port `k`. -/
def portAt (s : State) (k : Nat) : InPort := tabGet (fun _ => portReset) s.ports k
/-- `s` with a port. -/
def setPort (s : State) (k : Nat) (p : InPort) : State := { s with ports := tabSet (fun _ => portReset) s.ports k p }
/-- EN of a port. -/
def portOn (p : InPort) : Bool := p.b0.getLsbD 63
/-- CH of a port. -/
def portCh (p : InPort) : Nat := bitsOf p.b0.toNat 62 60
/-- TEN of a port. -/
def portTen (p : InPort) : Nat := bitsOf p.b0.toNat 59 56
/-- Whether a function may write a port (R71). -/
def portMine (p : InPort) (func : Nat) : Bool := portOn p && (func == 0 || func == portTen p + 1)
/-- A write to a port that is refused (R71, R84). -/
def portRefused (s : State) (cause func link at' : Nat) (p : InPort) : State :=
  eventSend s func { recOf cause with ten := portTen p, addr := at', aux := link + 2 * func }

/-- PORT_BINDING_WRITE (R70): a new stream; stimuli that were published and not consumed are quarantined. DEDUCED (log entry 139). -/
def bindPort (s : State) (link port : Nat) (v : Dbl) : State :=
  let p := portAt s port
  let s1 := p.published.foldl (fun s q =>
    quarantine s { bytes := q.bytes, clock := none, card := none }
      { recOf 0x3D0 with ten := portTen p, agent := stimAgent q.bytes, addr := 4096 * port, aux := hostAux link 0 }) s
  let w := [(63, 63), (62, 60), (59, 56), (32, 32), (15, 0)].foldl (fun a f => putBits a f.1 f.2 (bitsOf v.toNat f.1 f.2)) 0
  setPort s1 port { portAt s1 port with b0 := BitVec.ofNat 64 w, prod := 0, cons := 0, routine := none, fetching := [], published := [] }
/-- PORT_BINDING_WRITE (R70). -/
def execPortBindingWrite (link port : Nat) (v : Dbl) (s : State) : Next :=
  .next (if hostUp s link = false ∨ 4096 ≤ port then s else bindPort s link port v)

/-- The slot of a count, as long as its packet is. -/
def portSlot (p : InPort) (count : Nat) : List Byte :=
  let bs := memRead p.slots (256 * (count % 8)) 256
  bs.take ((stimLen bs + 1) * 16)
/-- The stimuli from one count up to another published (R71): each slot is copied now. They acquire the link's writes at peers that are not
performed yet (R72); its other earlier writes are. -/
def publish (s : State) (func link port : Nat) (v : Dbl) : State :=
  let p := portAt s port
  let n := (v.toNat % 2 ^ 32 + 2 ^ 32 - p.prod.toNat) % 2 ^ 32
  let used := (p.prod - p.cons).toNat
  if !portMine p func then portRefused s 0x3D0 func link (4096 * port + 0x800) p
  else if n = 0 ∨ 8 < n + used then portRefused s 0x3D1 func link (4096 * port + 0x800) p
  else
    let tags := (s.xfers.filter (hostWriting link)).map (·.xtag)
    let l : List Published := (List.range n).map fun k => { bytes := portSlot p (p.prod.toNat + k), link := link, tags := tags }
    pushEvs (setPort s port { p with prod := p.prod + BitVec.ofNat 32 n, published := p.published ++ l }) (List.replicate n (.ingressAccept port))
/-- PROD_WRITE (R71). -/
def execProdWrite (func link port : Nat) (v : Dbl) (s : State) : Next :=
  .next (if hostUp s link = false ∨ 4096 ≤ port then s else publish s func link port v)

/-- A routine's first block placed in every ready Group's Placement Cache (R73, R157): a failure is reported. None while it waits for its
bytes. DEDUCED (log entry 141). -/
def prefetchBlock (s : State) (port ten va : Nat) : State × Bool :=
  let at' : Rec := { recOf 0 with ten := ten, block := va }
  match fetchImage s none (2 ^ 60 + port) ten va with
  | (s1, .wait) => (s1, false)
  | (s1, .bad c aux a) => (tenRecord s1 { at' with cause := c, addr := a, aux := aux }, true)
  | (s1, .ok img) => match mapperCheck img va with
    | some r => (tenRecord s1 { at' with cause := r.cause, addr := va, aux := r.target, inst := r.inst, word := r.word.toNat }, true)
    | none => ((readyGroups s1).foldl (fun s g => cachePut s g img) s1, true)
/-- The first of the blocks that a port has asked for is placed, or looked at again. -/
def prefetchNext (s : State) (port : Nat) : State :=
  let p := portAt s port
  match p.fetching with
  | [] => s
  | va :: r => match prefetchBlock s port (portTen p) va with
    | (s1, true) =>
      let s2 := setPort s1 port { portAt s1 port with fetching := r }
      if r.isEmpty then s2 else pushEvOnce s2 (.ingressAccept port)
    | (s1, false) => pushEvOnce s1 (.ingressAccept port)
/-- The plate of a port prefetched (R73): into the ready Group with the most free tile slots, unless it is present or being loaded; one that
is marked for eviction counts as present. DESIGN CHOICE (log entry 196). -/
def prefetchPlate (s : State) (ten num image : Nat) : State :=
  let here := fun (g : Nat) => (plateAt s g ten num).isSome || (loadOf s g ten num).isSome
  let best := (readyGroups s).foldl (fun b g => match b with
    | none => some g
    | some h => if (emptySlots s h).length < (emptySlots s g).length then some g else some h) (none : Option Nat)
  match best with
  | none => s
  | some g => if (readyGroups s).any here then s else askLoad s g ten num image [] false []
/-- The prefetches of a stimulus with O = 1 whose routine is new to its stream (R73). -/
def prefetch (s : State) (port : Nat) (p : InPort) (bs : List Byte) : State :=
  let r := stimRoutine bs
  if !stimO bs || p.routine == some r then s
  else
    let s1 := setPort s port { p with routine := some r, fetching := p.fetching ++ [r] }
    let s2 := if p.fetching.isEmpty then prefetchNext s1 port else s1
    if p.b0.getLsbD 32 then prefetchPlate s2 (portTen p) (bitsOf p.b0.toNat 15 0) (bitsOf p.b1.toNat 55 0) else s2
/-- A published packet as the port stamps it: TEN and CH of the binding, source 00, and the check word (R18, R71). DEDUCED (log entry
138). -/
def ingressStamp (s : State) (p : InPort) (bs : List Byte) : List Byte :=
  let w0 := putBits (putBits (stimWord bs 0) 27 25 (portCh p)) 13 10 (portTen p)
  stimStamp (leBytes 4 w0 ++ (bs.drop 4).take 4 ++ leBytes 4 (deviceNumber s * 2 ^ 18) ++ bs.drop 12)
/-- Whether a published stimulus waits: for a Group and its home Walker to be ready (R78), or for what it acquires (R72). -/
def ingressWaits (s : State) (q : Published) (bs : List Byte) : Bool :=
  (readyGroups s).isEmpty || !walkerReady s (homeWalker s (stimTen bs) (stimAgent bs)) ||
    s.xfers.any fun t => q.tags.contains t.xtag && hostWriting q.link t
/-- INGRESS_ACCEPT (R71, R73, R78): the oldest published stimulus goes to its home Walker; a malformed one is refused. A block that the port
has asked for is looked at first. DEDUCED (log entry 140). -/
def execIngressAccept (port : Nat) (s0 : State) : Next :=
  .next (
    let s := prefetchNext s0 port
    let p := portAt s port
    match p.published with
    | [] => s
    | raw :: rest =>
      let bs := ingressStamp s p raw.bytes
      let took := { p with published := rest, cons := p.cons + 1 }
      let st : Stim := { bytes := bs, clock := none, card := none }
      if ingressWaits s raw bs then pushEvOnce s (.ingressAccept port)
      else if stimBad bs then
        refuseStim (setPort s port { took with refused := p.refused + 1 }) st 0x212 (stimTen bs) (stimAgent bs) (4096 * port) 0
      else
        let s1 := prefetch (setPort s port took) port took bs
        walkerTakes s1 { cls := 1, rank := 4096 * raw.link + port, order := cycleNow s, ten := stimTen bs, agent := stimAgent bs,
                         stim := some st, op := none, ack := none, peer := none })

/-! Registers of W2 (R68, R74, R82, R83). -/

/-- A ring register written through a link (R74). -/
def ringWrite (s : State) (k d link : Nat) (v : Dbl) : State :=
  let r := ringAt s k
  let a := v.toNat
  let most := if ringFunc k = 0 then 1024 else 64
  let slog := bitsOf a 31 27
  let r1 : HostRing := match d with
    | 0 => { r with base := BitVec.ofNat 64 (bitsOf a 63 8 * 256) }
    | 1 => { r with ctl := BitVec.ofNat 64 (bitsOf a 63 62 * 2 ^ 62 + bitsOf a 51 32 * 2 ^ 32 +
        (if slog < 4 then 4 else if 16 < slog then 16 else slog) * 2 ^ 27 + min (bitsOf a 9 0) (most - 1)) }
    | 2 => { r with ptr := BitVec.ofNat 64 (bitsOf a 63 32 * 2 ^ 32 + bitsOf r.ptr.toNat 31 0) }
    | _ => { r with shadow := BitVec.ofNat 64 (bitsOf a 63 3 * 8) }
  let s1 := setRing s k { r1 with link := link }
  if k < 128 then pushEvOnce s1 (.egressDrain (k / 8) (k % 8)) else pushEvOnce s1 .eventRingFlush

/-- A Plate Key Table slot as reset leaves it. DESIGN CHOICE (log entry 6). -/
def keyReset : KeySlot := { bytes := [], valid := false }
/-- A write to a Plate Key Table slot: discarded with cause 0x3D3 once the table is locked (R82). -/
def keyWrite (s : State) (link slot off : Nat) (v : Dbl) : State :=
  if s.keyLock then eventSend s 0 { recOf 0x3D3 with addr := 0x50000 + 0x80 * slot + off, aux := link }
  else
    let q := tabGet (fun _ => keyReset) s.keys slot
    if off < 0x40 then { s with keys := tabSet (fun _ => keyReset) s.keys slot { q with bytes := memWrite q.bytes off (leBytes 8 v.toNat) } }
    else if off = 0x40 then { s with keys := tabSet (fun _ => keyReset) s.keys slot { q with valid := v.getLsbD 0 } }
    else s
/-- KEY_SLOT_WRITE (R82). -/
def execKeySlotWrite (slot off : Nat) (v : Dbl) (s : State) : Next :=
  .next (if hostUp s (slot / 8) = false ∨ 16 ≤ slot then s else keyWrite s (slot / 8) (slot % 8) off v)
/-- KEY_TABLE_LOCK (R82): until reset. -/
def execKeyTableLock (s : State) : Next := .next (if booted s then { s with keyLock := true } else s)

/-- The Plate Key Table as its registers show it (R82, R83). DEDUCED (log entry 144). -/
def keyTableBytes (s : State) : List Byte :=
  (List.range 8).flatMap fun i =>
    let q := tabGet (fun _ => keyReset) s.keys i
    memRead q.bytes 0 64 ++ leBytes 64 (if q.valid then 1 else 0)
/-- A report is asked for (R83): the nonce is taken, and one being built is begun again. -/
def attestAsk (s : State) : State :=
  pushEvOnce { s with attest := memWrite s.attest 0x1000 (memRead s.attest 0 32), attestStatus := 1 } .attestationComplete
/-- ATTESTATION_REQUEST (R83). -/
def execAttestationRequest (s : State) : Next := .next (if booted s then attestAsk s else s)
/-- The first 176 bytes of a report (R83). -/
def attestBody (s : State) : List Byte :=
  memRead s.attest 0x1000 32 ++ (List.range 32).map Config.firmwareDigest ++ sha256 (keyTableBytes s) ++ leBytes 64 s.failed.toNat ++
    (List.range 16).map Config.deviceSerial
/-- The signature of a report's first bytes under the identity key (R83): r, then s. Of several secret numbers the first that gives one. -/
def attestSign (body : List Byte) : List Byte :=
  match (List.range 8).findSome? fun k => ecdsaSign (sha256 body) Config.identityKey (Config.signNonce body k) with
  | none => List.replicate 64 0
  | some (r, s) => beBytes 32 r ++ beBytes 32 s
/-- ATTESTATION_COMPLETE (R83). -/
def execAttestationComplete (s : State) : Next :=
  .next (
    if s.attestStatus ≠ 1 then s
    else
      let body := attestBody s
      { s with attest := memWrite s.attest 0x100 (padTo 256 (body ++ attestSign body)), attestStatus := 2 })

/-- A write of a double of W0 (R71). -/
def w0Write (s : State) (func link off : Nat) (v : Dbl) : State :=
  let port := off / 4096
  let o := off % 4096
  let p := portAt s port
  if 4096 ≤ port then s
  else if o = 0x800 then publish s func link port v
  else if !portMine p func then portRefused s 0x3D0 func link off p
  else if o < 0x800 then setPort s port { p with slots := memWrite p.slots (o / 8 * 8) (leBytes 8 v.toNat) }
  else s
/-- Whether a function may write a CSR through W2 (R68). -/
def w2MayWrite (func num : Nat) : Bool :=
  let n := func - 1
  func == 0 || (decide (0x400 + 8 * n ≤ num) && decide (num < 0x408 + 8 * n)) || num == 0x480 + n
/-- A write of a double of W2 (R68). DEDUCED (log entry 142). -/
def w2Write (s : State) (func link off : Nat) (v : Dbl) : State :=
  let pf := func == 0
  if off < 0x8000 then (if w2MayWrite func (off / 8) then csrWrite s (off / 8) v else s)
  else if 0x20000 ≤ off ∧ off < 0x20000 + 0x20 * 17 then
    let f := (off - 0x20000) / 0x20
    if pf || f == func then ringWrite s (128 + f) (off % 0x20 / 8) link v else s
  else if 0x30000 ≤ off ∧ off < 0x31000 then
    let t := (off - 0x30000) / 0x100
    if pf || t + 1 == func then ringWrite s (8 * t + off % 0x100 / 0x20) (off % 0x20 / 8) link v else s
  else if 0x40000 ≤ off ∧ off < 0x40020 then (if pf then { s with attest := memWrite s.attest (off - 0x40000) (leBytes 8 v.toNat) } else s)
  else if off = 0x40020 then (if pf && v == 1 then attestAsk s else s)
  else if 0x50000 ≤ off ∧ off < 0x50400 then (if pf then keyWrite s link ((off - 0x50000) / 0x80) (off % 0x80) v else s)
  else if off = 0x50400 then (if pf && v.getLsbD 0 then { s with keyLock := true } else s)
  else if 0x100000 ≤ off ∧ off < 0x110000 then
    let k := (off - 0x100000) / 16
    if !pf then s
    else if off % 16 = 0 then bindPort s link k v
    else setPort s k { portAt s k with b1 := BitVec.ofNat 64 (bitsOf v.toNat 55 14 * 16384) }
  else if off = 0x7FF000 then
    { s with w4base := tabSet (fun _ => 0) s.w4base func (BitVec.ofNat 64 (bitsOf v.toNat 55 30 * 2 ^ 30)) }
  else s
/-- REGISTER_WRITE (R4, R68): a double written through a window of a function. No register takes one before the device has
started, nor where it does not start (R80). -/
def execRegisterWrite (win : Window) (func link off : Nat) (v : Dbl) (s : State) : Next :=
  .next (
    if !hostUp s link then s
    else match win with
      | .w0 => w0Write s func link off v
      | .w2 => w2Write s func link (off / 8 * 8) v)

/-! What the host reads (R68, R71, R77, R80). -/

/-- Whether a function may read a CSR through W2. -/
def w2MayRead (func num : Nat) : Bool :=
  let n := func - 1
  w2MayWrite func num || (decide (0x4A0 + 8 * n ≤ num) && decide (num ≤ 0x4A5 + 8 * n))
/-- A double of W0 as a function reads it (R71). -/
def w0Read (s : State) (func off : Nat) : Dbl :=
  let p := portAt s (off / 4096)
  let o := off % 4096
  if 4096 ≤ off / 4096 ∨ (func ≠ 0 ∧ func ≠ portTen p + 1) then 0
  else if o < 0x800 then BitVec.ofNat 64 (leNat (memRead p.slots (o / 8 * 8) 8))
  else if o = 0x800 then BitVec.ofNat 64 p.prod.toNat
  else if o = 0x808 then BitVec.ofNat 64 p.cons.toNat
  else if o = 0x810 then BitVec.ofNat 64 (bitsOf p.b0.toNat 63 56 * 2 ^ 56 + p.refused.toNat)
  else 0
/-- A double of W2 as a function reads it (R68). -/
def w2Read (s : State) (func off : Nat) : Dbl :=
  let pf := func == 0
  let ring := fun (k : Nat) =>
    let r := ringAt s k
    match off % 0x20 / 8 with
    | 0 => r.base
    | 1 => r.ctl
    | 2 => r.ptr
    | _ => r.shadow
  if bootFailed s then (if off = 8 * 0x0F1 ∧ pf = true then csrGet s 0x0F1 else 0)
  else if off < 0x8000 then (if w2MayRead func (off / 8) then csrRead s none (off / 8) else 0)
  else if 0x10000 ≤ off ∧ off < 0x10040 then (if pf then s.ready.extractLsb' (64 * ((off - 0x10000) / 8)) 64 else 0)
  else if 0x10040 ≤ off ∧ off < 0x10080 then (if pf then s.failed.extractLsb' (64 * ((off - 0x10040) / 8)) 64 else 0)
  else if 0x20000 ≤ off ∧ off < 0x20000 + 0x20 * 17 then (if pf || (off - 0x20000) / 0x20 == func then ring (128 + (off - 0x20000) / 0x20) else 0)
  else if 0x30000 ≤ off ∧ off < 0x31000 then
    (if pf || (off - 0x30000) / 0x100 + 1 == func then ring (8 * ((off - 0x30000) / 0x100) + off % 0x100 / 0x20) else 0)
  else if 0x40000 ≤ off ∧ off < 0x40200 then
    (if !pf then 0 else if off = 0x40020 then s.attestStatus else BitVec.ofNat 64 (leNat (memRead s.attest (off - 0x40000) 8)))
  else if 0x50000 ≤ off ∧ off < 0x50400 then (if pf then BitVec.ofNat 64 (leNat ((keyTableBytes s).drop (off - 0x50000) |>.take 8)) else 0)
  else if off = 0x50400 then (if pf && s.keyLock then 1 else 0)
  else if 0x100000 ≤ off ∧ off < 0x110000 then
    (if pf then (if off % 16 = 0 then (portAt s ((off - 0x100000) / 16)).b0 else (portAt s ((off - 0x100000) / 16)).b1) else 0)
  else if off = 0x7FF000 then tabGet (fun _ => 0) s.w4base func
  else 0

end Sys2Proof.Machine
end

