-- ==== Sys2Proof/Machine/Cycle.lean ====
section
/-! DEFINITION. Events that coincide (R112, R142, R190, R217, R220, R261, R303, R322, R329, R346): the order of work items within one
cycle. Items share a cycle only where they move at one ns; an item that the spec puts before one that has moved in the cycle moves
in the next. DESIGN CHOICE (log entry 200). -/

namespace Sys2Proof.Machine

/-- Whether a firing may act on two spans of bytes that share one; `none` is any bytes. -/
def bytesMeet (x y : Option (List (Nat × Nat × Nat))) : Bool :=
  match x, y with
  | some l, some m => l.any fun p => m.any fun q => spansMeet p q
  | _, _ => true

/-- What a firing is to the others of its cycle. -/
def meetsOfFiring (x : Ctx) (f : Firing) : List Meet :=
  let c := f.ctx
  .fires c f.inst :: match instrAt x.image f.inst with
    | some (.mts ..) => [.clears c]
    | some (.tileFill ..) | some (.tileReady ..) | some (.tileFree ..) | some (.tileStat ..) => [.slots x.group]
    | some (.tileDrain ..) => [.slots x.group, .enters x.press]
    | some (.mxDef ..) | some (.gvAff ..) | some (.gvInd ..) | some (.gvGo ..) | some (.cpGo ..) | some (.cpRem ..)
    | some (.engCmd ..) => [.enters x.press]
    | some (.plateEv ..) => [.marks x.group]
    | some (.preempt ..) => [.preempts]
    | some (.leaseGive ..) => [.gives]
    | _ => []

/-- What the performing of an access is: its bytes read and written, and the coherence order's rank of a store, the issuing Press
(R303). -/
def meetsOfAccess (s : State) (id : Nat) : List Meet :=
  match accAt s id with
  | none => []
  | some a => match ctxAt s a.ctx with
    | none => []
    | some x =>
      let l := some (a.parts.map spanOf)
      let slot : List Meet := if a.parts.any fun p => match p.1 with
          | .tile _ _ _ => true
          | _ => false
        then [.slots x.group] else []
      let sweeps : List Meet := if (acqScope a).isSome then [.acquires] else []
      slot ++ sweeps ++ (if onlyStores a then [.stores x.press l] else if onlyLoads a then [.loads l] else [.loads l, .stores x.press l])
/-- What an engine's access of memory is. -/
def meetsOfEngine (press : Nat) : List Meet := [.slots (press / 8), .loads none, .stores press none]

/-- What a work item is to the others of its cycle. -/
def meetsOf (s : State) (w : Work) : List Meet :=
  let op := fun (id : Nat) => match opAt s id with
    | none => []
    | some (p, _) => meetsOfEngine p
  match w with
  | .fire f => match ctxAt s f.ctx with
    | none => []
    | some x => meetsOfFiring x f
  | .event i => match i with
    | .tokenArrival c t => if t.eos then [.eos c t.inst] else [.token c t.inst]
    | .configPacketComplete c i => [.packet c i]
    | .commit c => [.commits c]
    | .preemptRequest => [.preempts]
    | .accessPerformed id => meetsOfAccess s id
    | .epilogueWrite p _ | .mxFiring p _ => meetsOfEngine p
    | .graverStream id | .copyComplete id | .tileDrainComplete id => op id
    | .plateLoadStart g _ | .plateLoadComplete g _ | .plateEvictionComplete g _ _ => [.slots g]
    | .tileWaitSatisfied => (List.range 32).map .slots
    | .impressionGather g => [.gathers g]
    | .lossOfLight .. => [.darkens]
    | .slotSweep .. => [.sweeps]
    | .stimulusArrival _ => [.offers]
    | .demotion .. => [.demotes]
    | .registerWrite .. => [.host]
    | .w4Write .. | .write .. | .amoreq .. => [.stores 256 none]
    | .w4Read .. | .loadreq .. => [.loads none]
    | _ => []

/-- Whether an item of the second kind goes before one of the first where both are of one cycle. -/
def goesFirst (done next : Meet) : Bool :=
  match next, done with
  | .host, _ => true
  | .fires c i, .fires d j => c == d && decide (i < j)
  | .clears c, .fires d _ => c == d
  | .token c i, .eos d j => c == d && i == j
  | .packet c i, .token d j => c == d && i == j
  | .commits _, .preempts => true
  | .stores _ l, .loads m => bytesMeet l m
  | .stores p l, .stores q m => decide (p < q) && bytesMeet l m
  | .slots g, .slots h => g == h
  | .enters p, .enters q => p == q
  | .marks g, .gathers h => g == h
  | .gives, .darkens => true
  | .sweeps, .acquires => true
  | .demotes, .offers => true
  | _, _ => false

/-- What has moved in the present cycle. -/
def cycleMeets (s : State) : List Meet := (s.meets.filter fun e => e.1 == s.now).map (·.2)
/-- An item takes its cycle: the present one, or the next where something that it precedes has moved. -/
def takeCycle (s : State) (l : List Meet) : State :=
  let past := cycleMeets s
  if past.any fun d => l.any (goesFirst d) then { s with now := s.now + 1, meets := l.map fun m => (s.now + 1, m) }
  else { s with meets := (l ++ past).map fun m => (s.now, m) }

end Sys2Proof.Machine
end

