-- ==== Sys2Proof/Machine/Tiles.lean ====
section
/-! DEFINITION. Tensors as an instruction or an engine reads them (R26 to R30), the tile instructions and the drain (R238 to R240), and
tile rings (R219, R241, R242). -/

namespace Sys2Proof.Machine

/-! Tensor entries (R26 to R28). -/

/-- Double `k` of a TDT entry. -/
def tdtDbl (d : List Dbl) (k : Nat) : Nat := (d.getD k 0).toNat
/-- Bytes as doubles. -/
def dblsOf (bs : List Byte) : List Dbl := (chunksOf 8 bs.length bs).map fun b => BitVec.ofNat 64 (leNat b)
/-- TYPE, as a code of R27. -/
def tdtCode (d : List Dbl) : Nat := bitsOf (tdtDbl d 1) 55 48
/-- The type of a code of R27. -/
def tyOfCode (n : Nat) : Option Ty :=
  match n with
  | 1 => some .i8
  | 2 => some .i16
  | 3 => some .i32
  | 4 => some .i64
  | 5 => some .n8
  | 6 => some .n16
  | 7 => some .n32
  | 8 => some .n64
  | 9 => some .t8
  | 10 => some .t16
  | 11 => some .t32
  | 12 => some .d8
  | 13 => some .bf16
  | 14 => some .f32
  | _ => none
/-- The type of a tensor. -/
def tdtTy (d : List Dbl) : Ty := (tyOfCode (tdtCode d)).getD .n8
/-- RDO. -/
def tdtReadOnly (d : List Dbl) : Bool := bitsOf (tdtDbl d 1) 60 60 == 1
/-- SC. -/
def tdtScaled (d : List Dbl) : Bool := bitsOf (tdtDbl d 1) 61 61 == 1
/-- BS. -/
def tdtBlocks (d : List Dbl) : Bool := bitsOf (tdtDbl d 1) 62 62 == 1
/-- E. -/
def tdtScale (d : List Dbl) : Int := signed 8 (bitsOf (tdtDbl d 1) 47 40)
/-- The extent of dimension `k`. -/
def tdtExt (d : List Dbl) (k : Nat) : Nat := bitsOf (tdtDbl d 2) (16 * k + 15) (16 * k) + 1
/-- The stride of dimension `k`. -/
def tdtStride (d : List Dbl) (k : Nat) : Int := signed 64 (tdtDbl d (3 + k))
/-- Whether an entry is invalid (R28). -/
def tdtBad (d : List Dbl) : Bool :=
  bitsOf (tdtDbl d 1) 63 63 == 0 || bitsOf (tdtDbl d 1) 39 0 != 0 || (tyOfCode (tdtCode d)).isNone ||
    bitsOf (tdtDbl d 1) 59 56 == 0 || decide (4 < bitsOf (tdtDbl d 1) 59 56) || tdtDbl d 0 % 64 != 0 ||
    (tdtCode d != 12 && (bitsOf (tdtDbl d 1) 47 40 != 0 || tdtBlocks d))
/-- Double 1 of an entry that the device makes: valid, rank 2, with a type. -/
def tdtMade (ro : Bool) (ty : Nat) : Nat := 2 ^ 63 + (if ro then 2 ^ 60 else 0) + 2 * 2 ^ 56 + ty * 2 ^ 48
/-- The slot that holds tile `i` of the plate of a context. -/
def plateSlots (s : State) (x : Ctx) : List Nat :=
  match stepAt s x.stp with
  | none => []
  | some r => match plateAt s x.group x.ten r.plate with
    | none => []
    | some p => p.slots
/-- The three tensors of a context (R30). -/
def tdtOwn (s : State) (x : Ctx) (tid : Nat) : List Dbl :=
  let n := memberCount s x
  let h := match stepAt s x.stp with
    | none => 0
    | some r => r.headsz + 1
  let l := plateSlots s x
  (if tid = 0 then [0xE0 * 2 ^ 56, tdtMade false 7, (n - 1) * 2 ^ 16 + (4 * h - 1), 4, 16 * h, 0, 0, 0]
   else if tid = 1 then [0xE8 * 2 ^ 56 + 0x1000000, tdtMade false 5, (n - 1) * 2 ^ 16 + 255, 1, 256, 0, 0, 0]
   else [0xE8 * 2 ^ 56 + 16384 * l.headD 0, tdtMade true 12, (l.length - 1) * 2 ^ 16 + 16383, 1, 16384, 0, 0, 0]).map
    (BitVec.ofNat 64)
/-- A tensor entry read and checked (R26, R28, R30). -/
def tensorRead (s : State) (x : Ctx) (owner tid : Nat) : State × Got (List Dbl) :=
  if tid < 3 then (s, .ok (tdtOwn s x tid))
  else
    let va := (tenCsr s x.ten 2 55 0 + 64 * tid) % 2 ^ 56
    if tenCsr s x.ten 3 10 0 ≤ tid then (s, .bad 0x120 0 va)
    else match vaRead s (some (x.press, x.group)) owner x.ten .read va 64 with
      | (s1, .bad c aux a) => (s1, .bad c aux a)
      | (s1, .wait) => (s1, .wait)
      | (s1, .ok bs) =>
        let d := dblsOf bs
        (s1, if tdtBad d then .bad 0x121 0 va else .ok d)
/-- The owner under which a firing waits for the tensor entry that it names. -/
def tensorOwner (c inst : Nat) : Nat := 2 ^ 51 + 128 * c + inst
/-- A firing that names a tensor goes on once its entry is read and checked (R28). -/
def withTensor (s : State) (x : Ctx) (w : Firing) (tid : Nat) (go : State → List Dbl → State) : State :=
  match tensorRead s x (tensorOwner w.ctx w.inst) tid with
  | (s1, .wait) => waitFor s1 w
  | (s1, .bad c aux a) => fireFault s1 w c { infoAt a aux with iter := w.iter, tid := tid }
  | (s1, .ok d) => go s1 d

/-! Slots and rings. -/

/-- A slot enters Filling for a context (R217). -/
def slotFill (s : State) (x : Ctx) (k tid : Nat) : State :=
  watchShard (setTile s x.group k { tileReset with state := 1, ten := BitVec.ofNat 4 x.ten, tid := BitVec.ofNat 10 tid }) 0
    (1024 * x.group + k)
/-- A slot enters another state. -/
def slotState (s : State) (g k : Nat) (v : BitVec 2) : State := modTile s g k fun t => { t with state := v }
/-- The accepted stores and atomics of a context to a slot that are not performed (R240). -/
def slotStores (s : State) (c g k : Nat) : List Nat :=
  (s.accesses.filter fun a => a.ctx == c && a.walked && !onlyLoads a && a.parts.any fun p => match p.1 with
    | .tile h j _ => h == g && j == k
    | _ => false).map (·.id)

/-- Ring `r` of a context. -/
def ringOf (x : Ctx) (r : Nat) : Option Ring := tabFind x.rings r
/-- `s` with a ring of a context changed. -/
def modRing (s : State) (c r : Nat) (f : Ring → Ring) : State := modCtx s c fun x => { x with rings := tabUpdate x.rings r f }
/-- The slot that a producer takes next, and `j` slots on. -/
def ringP (r : Ring) (j : Nat) : Nat := r.first + (r.prod + j) % r.len
/-- The slot that a consumer takes next, and `j` slots on. -/
def ringC (r : Ring) (j : Nat) : Nat := r.first + (r.cons + j) % r.len
/-- The producer index advanced. -/
def produced (r : Ring) (n : Nat) : Ring := { r with prod := (r.prod + n) % r.len }
/-- The consumer index advanced. -/
def consumed (r : Ring) (n : Nat) : Ring := { r with cons := (r.cons + n) % r.len }

/-- What a tile handle names (R238): a slot, or a ring. -/
inductive Handle where
  | slot (k : Nat)
  | ring (r : Nat)
  deriving DecidableEq, Repr
/-- A handle read (R238). -/
def handleOf (v : Nat) (rings : Bool) : Option Handle :=
  if bitsOf v 63 56 = 0xE8 ∧ bitsOf v 55 24 = 0 ∧ bitsOf v 13 0 = 0 then some (.slot (bitsOf v 23 14))
  else if rings && bitsOf v 63 56 == 0xF0 && bitsOf v 55 4 == 0 then some (.ring (bitsOf v 3 0))
  else none
/-- The slot-form handle of a slot. -/
def slotHandle (k : Nat) : Nat := 0xE8 * 2 ^ 56 + 2 ^ 14 * k
/-- Whether a value is an address in the payload window (R202). -/
def inPayload (v : Nat) : Bool := bitsOf v 63 56 == 0xE8 && bitsOf v 55 25 == 0 && bitsOf v 24 14 == 0x400
/-- The slot that a handle names and its ring, or the cause where there is none (R202, R238). -/
def handleSlot (x : Ctx) (v : Nat) (rings fills : Bool) : Except Nat (Nat × Option Nat) :=
  match handleOf v rings with
  | none => .error (if inPayload v then 0x111 else 0x183)
  | some (.slot k) => .ok (k, none)
  | some (.ring r) => match ringOf x r with
    | none => .error 0x186
    | some q => .ok (if fills then ringP q 0 else ringC q 0, some r)

/-! The tile instructions (R239, R240). -/

/-- A 64-bit value delivered. -/
def deliverWide (s : State) (m : FireMode) (w : Firing) (t : Target) (v : Nat) : State :=
  let r := openReply s m w [t]
  answer r.1 r.2 v .w64
/-- The faults on a slot's owner and kind, which come before its state (R239); `plates` are those on a plate tile. -/
def ownerFault (s : State) (x : Ctx) (k : Nat) (plates : Bool) : Option Nat :=
  let t := tileAt s x.group k
  if t.state = 0 then none else if t.ten.toNat ≠ x.ten then some 0x181 else if plates && t.pl then some 0x182 else none
/-- A firing on a tile: its operand, handle, tensor, and the owner of its slot. DEDUCED (log entry 90). -/
def tileFiring (s : State) (m : FireMode) (w : Firing) (t : Target) (tid : Nat) (rings fills : Bool)
    (go : State → Ctx → Nat → Option Nat → List Dbl → (Nat → State → State) → State) : State :=
  match oneElem w .w64, ctxAt s w.ctx with
  | some c, _ => fireFault s w c (fireInfo w)
  | none, none => s
  | none, some x =>
    let v := aFirst m w
    let bad := fun (c : Nat) (s : State) => fireFault s w c { infoAt v 0 with iter := w.iter, tid := tid }
    match handleSlot x v rings fills with
    | .error c => if w.waive = some (BitVec.ofNat 10 c) then deliverWide s m w t v else bad c s
    | .ok (k, r) => withTensor s x w tid fun s1 d =>
      match ownerFault s1 x k rings with
      | some c => bad c s1
      | none => go s1 x k r d bad

/-- TILE_FILL (R239). DEDUCED (log entry 91). -/
def execTileFill (f : FireMode) (tid : BitVec 10) (t : Target) (s : State) : Next :=
  onFire f s (passEosAfter s [t]) (nullsUnless (oneElem · .w64) s f [t]) fun w =>
    tileFiring s f w t tid.toNat true true fun s1 x k r _ _ =>
      if (tileAt s1 x.group k).state ≠ 0 then waitFor s1 w
      else
        let d := match r.bind (ringOf x) with
          | none => tid.toNat
          | some q => q.tid
        let s2 := slotFill s1 x k d
        let s3 := match r with
          | none => s2
          | some n => modRing s2 w.ctx n fun q => produced q 1
        deliverWide s3 f w t (slotHandle k)

/-- TILE_READY (R239, R240): the stores accepted before it fired are performed first. -/
def execTileReady (f : FireMode) (tid : BitVec 10) (t : Target) (s : State) : Next :=
  onFire f s (passEosAfter s [t]) (nullsUnless (oneElem · .w64) s f [t]) fun w =>
    tileFiring s f w t tid.toNat false false fun s1 x k _ _ bad =>
      let e := tileAt s1 x.group k
      if e.state ≠ 1 then bad 0x180 s1
      else if e.tid ≠ tid then bad 0x184 s1
      else
        let now := slotStores s1 w.ctx x.group k
        let left := if w.done = 0 then now else (w.part.map (·.toNat)).filter now.contains
        if left.isEmpty then deliverWide (slotState s1 x.group k 2) f w t (aFirst f w)
        else waitFor s1 { w with done := 1, part := left.map (BitVec.ofNat 64) }

/-- Whether `tile.drain` or `tile.free` waits for its slot: while it is Filling, and in the ring form, where slot C is waited for, while it
is not Ready (R219, R239). DEDUCED (log entry 191). -/
def slotAwaits (e : Tile) (ring : Option Nat) : Bool := e.state == 1 || (ring.isSome && e.state != 2)
/-- TILE_DRAIN (R239, R240): the slot is Draining, and its write enters queue CP. -/
def execTileDrain (f : FireMode) (tid : BitVec 10) (t : Target) (s : State) : Next :=
  onFire f s (passEosAfter s [t]) (nullsUnless (oneElem · .w64) s f [t]) fun w =>
    tileFiring s f w t tid.toNat true false fun s1 x k r d bad =>
      let e := tileAt s1 x.group k
      if slotAwaits e r then waitFor s1 w
      else if e.state ≠ 2 then bad 0x180 s1
      else if e.tid ≠ tid then bad 0x184 s1
      else if queueFull s1 x.press 6 then waitFor s1 w
      else
        let di := match r.bind (ringOf x) with
          | none => 0
          | some q => q.drains
        let s3 := slotState s1 x.group k 3
        let s4 := match r with
          | none => s3
          | some n => modRing s3 w.ctx n fun q => { consumed q 1 with drains := q.drains + 1 }
        let o := openReply s4 f w [t]
        enqueue (bumpId o.1) x.press
          { newOp o.1.nextId w.ctx 6 tid.toNat (.drain k r di) o.2 with data := d.flatMap fun v => leBytes 8 v.toNat }

/-- TILE_FREE (R239): the slot is Empty after the reads that it admitted (R297). -/
def execTileFree (f : FireMode) (tid : BitVec 10) (t : Target) (s : State) : Next :=
  onFire f s (passEosAfter s [t]) (nullsUnless (oneElem · .w64) s f [t]) fun w =>
    tileFiring s f w t tid.toNat true false fun s1 x k r _ bad =>
      let e := tileAt s1 x.group k
      if slotAwaits e r then waitFor s1 w
      else if e.state ≠ 2 then bad 0x180 s1
      else if e.tid ≠ tid then bad 0x184 s1
      else if slotReads s1 x.group k then waitFor s1 w
      else
        let s2 := slotState s1 x.group k 0
        let s3 := match r with
          | none => s2
          | some n => modRing s2 w.ctx n fun q => consumed q 1
        deliverWide s3 f w t (aFirst f w)

/-- A Tile Table entry as a double (R216). -/
def tileDouble (t : Tile) : Nat :=
  t.state.toNat * 2 ^ 62 + t.ten.toNat * 2 ^ 58 + t.tid.toNat * 2 ^ 48 + (if t.pl then 2 ^ 47 else 0) + (if t.off then 2 ^ 46 else 0) +
    t.oinst.toNat * 2 ^ 39 + t.oiter.toNat * 2 ^ 23 + t.osb.toNat * 2 ^ 18 + t.otag.toNat * 2 ^ 10
/-- TILE_STAT (R239). -/
def execTileStat (f : FireMode) (t : Target) (s : State) : Next :=
  onFire f s (passEosAfter s [t]) (nullsUnless (oneElem · .w64) s f [t]) fun w =>
    match oneElem w .w64, ctxAt s w.ctx with
    | some c, _ => fireFault s w c (fireInfo w)
    | none, none => s
    | none, some x =>
      let v := aFirst f w
      match handleSlot x v false false with
      | .error c => if w.waive = some (BitVec.ofNat 10 c) then deliverWide s f w t v else fireFault s w c { infoAt v 0 with iter := w.iter }
      | .ok (k, _) => match ownerFault s x k false with
        | some c => fireFault s w c { infoAt v 0 with iter := w.iter }
        | none => deliverWide s f w t (tileDouble (tileAt s x.group k))

/-! The drain (R240). -/

/-- An operation whose writes at peers are acknowledged goes on; one that failed there does its writes again at resume. -/
def opSettled (s : State) (p : Nat) (o : EngOp) (done : State → State) : State :=
  match remoteFail s (opOwner o.id) with
  | some (c, aux, pa) => opFault (modOp (dropFail s (opOwner o.id)) p o.id fun o => { o with pos := 0 }) p o c (infoAt pa aux)
  | none => if opWriting s o then opAgain s p o else done s

/-- The granules of a slot written from granule `o.pos` on, at most `n` at this event: a drain finishes its granule, then holds (R361). -/
def drainFrom (n : Nat) (s : State) (p : Nat) (o : EngOp) (x : Ctx) (k base : Nat) (done : State → State) : State :=
  match n with
  | 0 => if 256 ≤ o.pos then done s else opAgain s p o
  | n + 1 =>
    if 256 ≤ o.pos then done s
    else match engFetch s x (opOwner o.id) (slotHandle k + 64 * o.pos) 64 o.waive with
    | (s1, .bad c aux a) => opFault s1 p o c (infoAt a aux)
    | (s1, .wait) => opStall s1 p o
    | (s1, .ok bs) => match engStore s1 x o.ctx (opOwner o.id) (base + 64 * o.pos) bs o.waive with
      | (s2, .bad c aux a) => opFault s2 p o c (infoAt a aux)
      | (s2, .wait) => opStall s2 p o
      | (s2, .ok _) =>
        let o1 := { o with pos := o.pos + 1, waive := none }
        drainFrom n (modOp s2 p o.id fun _ => o1) p o1 x k base done

/-- TILE_DRAIN_COMPLETE (R240): the slot's bytes are written in ascending order; then the slot is Empty and the handle is delivered. -/
def execTileDrainComplete (id : Nat) (s : State) : Next :=
  withOp s id fun s p o x =>
    match o.kind with
    | .drain k r di =>
      let d := dblsOf o.data
      if tdtReadOnly d && o.waive != some 0x122 then opFault s p o 0x122 (infoAt (tdtDbl d 0) 0)
      else
        drainFrom 1 s p o x k ((tdtDbl d 0 + 16384 * di) % 2 ^ 64) fun s1 =>
          opSettled s1 p { o with pos := 256 } fun s2 =>
            if slotReads s2 x.group k then opAgain s2 p o
            else
              let v := match r with
                | none => slotHandle k
                | some n => 0xF0 * 2 ^ 56 + n
              settle (answer (opGone (slotState s2 x.group k 0) p o) o.reply v .w64) o.ctx
    | _ => s

/-! Rings (R241, R242). -/

/-- A descriptor in memory as it is now, for what an operation will use; zeros where it cannot be read. DESIGN CHOICE (log entry 92). -/
def peekDesc (s : State) (x : Ctx) (v : Nat) : List Dbl :=
  match (engFetch s x 0 v 64 none).2 with
  | .ok bs => dblsOf bs
  | _ => []
/-- The rings that a queued or running operation uses (R242). -/
def ringsUsed (s : State) (x : Ctx) (o : EngOp) : List Nat :=
  match o.kind with
  | .matrix a _ =>
    let d := tdtDbl (peekDesc s x a) 0
    [bitsOf d 59 56, bitsOf d 51 48] ++ if bitsOf d 61 60 = 1 then [bitsOf d 55 52] else []
  | .graverConfig a _ =>
    let d := tdtDbl (peekDesc s x a) 0
    if bitsOf d 62 62 = 1 then [bitsOf d 61 58] else []
  | .graverRun _ (some c) _ => if c.ringed then [c.ring] else []
  | .graverRun _ none _ => match tabFind x.graver o.queue with
    | some c => if c.ringed then [c.ring] else []
    | none => []
  | .drain _ (some r) _ => [r]
  | _ => []
/-- The rings of a bound matrix operation. -/
def ringsBound (u : MxBound) : List Nat := [u.cfg.aring, u.cfg.cring] ++ if u.cfg.fromRing then [u.cfg.bring] else []
/-- Whether a number names a ring of a context that a queued, running or bound operation of it uses. -/
def ringBusy (s : State) (c : Nat) (x : Ctx) (r : Nat) : Bool :=
  (ringOf x r).isSome && (((ctxOps s c).any fun o => (ringsUsed s x o).contains r) ||
    ((pressAt s x.press).units.any fun u => u.2.op.ctx == c && (ringsBound u.2).contains r))
/-- Whether slots `a` to `b` are shared with a live ring of the Group, but for ring `r` of context `c`. -/
def ringOverlap (s : State) (c g r a b : Nat) : Bool :=
  let meet := fun (q : Ring) => decide (q.first ≤ b) && decide (a < q.first + q.len)
  s.ctxs.any fun e => e.2.group == g && e.2.rings.any fun q => !(e.1 == c && q.1 == r) && meet q.2
/-- The ring entries of a Press in use. -/
def ringEntriesUsed (s : State) (p : Nat) : Nat := (s.ctxs.filter fun e => e.2.press == p).foldl (fun n e => n + e.2.rings.length) 0

/-- RING_DEF (R241, R242): a free ring entry is a party. -/
def execRingDef (f : FireMode) (tid : BitVec 10) (t : Target) (s : State) : Next :=
  onFire f s (passEosAfter s [t]) (nullsUnless (oneElem · .w64) s f [t]) fun w =>
    match oneElem w .w64, ctxAt s w.ctx with
    | some c, _ => fireFault s w c (fireInfo w)
    | none, none => s
    | none, some x =>
      let v := aFirst f w
      let r := bitsOf v 63 60
      let first := bitsOf v 49 40
      let last := first + bitsOf v 55 50
      let deliver := fun (s : State) =>
        let o := openReply s f w [t]
        answer o.1 o.2 r .w32
      if bitsOf v 59 56 ≠ 0 ∨ bitsOf v 39 0 ≠ 0 ∨ 1023 < last ∨ ringOverlap s w.ctx x.group r first last = true ∨ ringBusy s w.ctx x r = true then
        if w.waive = some 0x185 then deliver s else fireFault s w 0x185 { infoAt v 0 with iter := w.iter, tid := tid.toNat }
      else withTensor s x w tid.toNat fun s1 _ =>
        if (ringOf x r).isNone ∧ Config.ringEntries ≤ ringEntriesUsed s1 x.press then waitFor s1 w
        else
          let q : Ring := { first := first, len := last - first + 1, prod := 0, cons := 0, drains := 0, tid := tid.toNat }
          deliver (modCtx s1 w.ctx fun x => { x with rings := tabPut x.rings r q })

end Sys2Proof.Machine
end

