-- ==== Sys2Proof/Machine/Copy.lean ====
section
/-! DEFINITION. Copies (R254, R255) and the write-backs of `rest` (R311), by granules of 64 bytes. -/

namespace Sys2Proof.Machine

/-! Ranges. -/

/-- The pages under `n` bytes of a VA: where each part goes, its VA and bytes, up to the first that fails; `k` bounds them. -/
def pagesUnder (k : Nat) (s : State) (x : Ctx) (w : Way) (va n : Nat) : Got (List (Spot × Nat × Nat)) :=
  match k with
  | 0 => .ok []
  | k + 1 =>
    if n = 0 then .ok []
    else match spotFind s (some (x.press, x.group)) x.ten (va % 2 ^ 56) w with
      | .wait => .wait
      | .bad c aux a => .bad c aux a
      | .ok p =>
        let m := min n (p.size - va % p.size)
        match pagesUnder k s x w (va + m) (n - m) with
        | .ok l => .ok ((p, va % 2 ^ 56, m) :: l)
        | r => r
/-- Whether a part of a range is at a peer (R254); a page that does not translate faults at its own granule. -/
def rangeRemote (s : State) (x : Ctx) (w : Way) (v n : Nat) : Bool :=
  bitsOf v 63 56 == 0 && (partsOf v n).any fun q => match spotFind s (some (x.press, x.group)) x.ten q.1 w with
    | .ok p => p.mode != 0
    | _ => false

/-! Granules. -/

/-- The peer to which a remote copy goes. -/
def copyPeer (s : State) (x : Ctx) (dst : Nat) : Option Nat :=
  if bitsOf dst 63 56 ≠ 0 then none
  else match spotFind s (some (x.press, x.group)) x.ten (dst % 2 ^ 56) .write with
    | .ok q => if q.mode = 0 then none else some q.peer
    | _ => none
/-- What a copy reads: a granule that does not verify where it would leave for a peer is cause 0x382 (R275), and the
record names the peer as its item (R286). DESIGN CHOICE (log entry 73). -/
def copySource (x : Ctx) (o : EngOp) (r : State × EngGot (List Byte)) : State × EngGot (List Byte) :=
  match r, o.kind with
  | (s, .bad c i), .remoteCopy dst _ _ =>
    if c = 0x383 ∨ c = 0x384 then (s, .bad 0x382 { i with items := (copyPeer s x dst).toList.map (BitVec.ofNat 64) }) else (s, .bad c i)
  | r, _ => r
/-- The source read into `data` from where it stands; `n` bounds the granules. -/
def copyRead (n : Nat) (s : State) (p : Nat) (o : EngOp) (x : Ctx) (src len : Nat) (done : State → EngOp → State) : State :=
  match n with
  | 0 => done s o
  | n + 1 =>
    if len ≤ o.data.length then done s o
    else opThen p o (copySource x o (engRead s x o o.reply.iter (src + o.data.length) 64)) fun s1 bs =>
      let o1 := { o with data := o.data ++ bs, waive := none }
      copyRead n (modOp s1 p o.id fun _ => o1) p o1 x src len done
/-- The bytes of `data` written from `pos` on, at most `n` granules at this event: a copy finishes its granule, then holds (R361).
`m` is the member whose write-back it is. -/
def copyWrite (n : Nat) (s : State) (p : Nat) (o : EngOp) (x : Ctx) (dst m : Nat) (done : State → EngOp → State) : State :=
  match n with
  | 0 => if o.data.length ≤ o.pos then done s o else opAgain s p o
  | n + 1 =>
    if o.data.length ≤ o.pos then done s o
    else
      let bs := (o.data.drop o.pos).take 64
      match engWrite s x o o.reply.iter (dst + o.pos) bs with
      | (s1, .bad c i) => opFault s1 p o c { i with member := m }
      | (s1, .wait) => opStall s1 p o
      | (s1, .ok _) =>
        let o1 := { o with pos := o.pos + bs.length, waive := none }
        copyWrite n (modOp s1 p o.id fun _ => o1) p o1 x dst m done

/-- The check of a copy's addresses before its first granule (R254, R255). DEDUCED (log entry 100). -/
def copyFault (s : State) (x : Ctx) (o : EngOp) (dst src len : Nat) (rem : Bool) : Option (Nat × Nat) :=
  if !o.data.isEmpty || o.pos != 0 then none
  else if o.waive = some 0x11C then none
  else if dst % 64 ≠ 0 && o.waive != some 0x118 then some (0x118, dst)
  else if src % 64 ≠ 0 && o.waive != some 0x118 then some (0x118, src)
  else if rangeRemote s x .read src len then some (0x11C, src)
  else if !rem && rangeRemote s x .write dst len then some (0x11C, dst)
  else none

/-- The parts of a remote copy sent from part `pos` on, each as one transfer; those that are local are written. -/
def copySend (s : State) (p : Nat) (o : EngOp) (x : Ctx) (l : List (Spot × Nat × Nat)) (done : State → EngOp → State) : State :=
  match l with
  | [] => done s o
  | (q, va, n) :: r =>
    let bs := (o.data.drop o.pos).take n
    let next := fun (s : State) =>
      let o1 := { o with pos := o.pos + n }
      copySend (modOp s p o.id fun _ => o1) p o1 x r done
    if q.mode = 0 then
      opThen p o (engGot 0 (engStore s x o.ctx (opOwner o.id) va bs o.waive)) fun s1 _ => next s1
    else match linkTo s q.peer with
      | none => opFault s p o 0x300 (infoAt q.pa q.peer)
      | some k => match freeXtag s with
        | none => opAgain s p o
        | some t => next (sendFlits (addXfer (countUse (dropLinesOf s x.group q.peer q.pa n) x.group x.ten va q) t q.peer o.ctx (.copy o.id) q.pa 0 0) k (writeFlits s q.peer t q.pa q.kind bs))

/-- A copy that is performed delivers its length. -/
def copyDone (s : State) (p : Nat) (o : EngOp) (len : Nat) : State := settle (answer (opGone s p o) o.reply len .w32) o.ctx

/-- The rest of a remote copy once its source is read (R255). -/
def remoteRest (s : State) (p : Nat) (o : EngOp) (x : Ctx) (dst len : Nat) : State :=
  let go := fun (s : State) (l : List (Spot × Nat × Nat)) =>
    let s1 := spotsMark s (some (x.press, x.group)) x.ten .write l
    copySend s1 p o x (l.filter fun e => decide (dst % 2 ^ 56 + o.pos ≤ e.2.1)) fun s2 o2 => opAgain s2 p o2
  if len ≤ o.pos then
    match remoteFail s (opOwner o.id) with
    | some (c, aux, pa) => opFault (modOp (dropFail s (opOwner o.id)) p o.id fun o => { o with pos := 0 }) p o c (infoAt pa aux)
    | none =>
      if (s.xfers.any fun t => t.kind == .copy o.id && !t.acc) || opWriting s o then opAgain s p o else copyDone s p o len
  else if bitsOf dst 63 56 ≠ 0 then
    if o.waive = some 0x11C then copyWrite 1 s p o x dst 0 fun s1 o1 => copyDone s1 p o1 len
    else opFault s p o 0x11C (infoAt dst 0)
  else match pagesUnder (len / 4096 + 2) s x .write dst len with
    | .wait => opStall s p o
    | .bad c aux a => opFault s p o c (infoAt a aux)
    | .ok l =>
      let peers := (l.map fun e => e.1.peer).eraseDups
      if ((l.any fun e => e.1.mode == 0) || peers.length != 1) && o.waive != some 0x11C then opFault s p o 0x11C (infoAt dst 0)
      else go s l

/-- COPY_COMPLETE (R254, R255, R311): a copy or write-back does its work from where it stands. DESIGN CHOICE (log entry 16). -/
def execCopyComplete (id : Nat) (s : State) : Next :=
  withOp s id fun s p o x =>
    match o.kind with
    | .copy dst src len =>
      match copyFault s x o dst src len false with
      | some (c, a) => opFault s p o c (infoAt a 0)
      | none => copyRead (len / 64 + 1) s p o x src len fun s1 o1 =>
        copyWrite 1 s1 p o1 x dst 0 fun s2 o2 => opSettled s2 p o2 fun s3 => copyDone s3 p o2 len
    | .remoteCopy dst src len =>
      match copyFault s x o dst src len true with
      | some (c, a) => opFault s p o c (infoAt a 0)
      | none => copyRead (len / 64 + 1) s p o x src len fun s1 o1 => remoteRest s1 p o1 x dst len
    | .restWrite dst bytes =>
      let o1 := { o with data := bytes }
      copyWrite 1 s p o1 x dst o.ringed fun s1 o2 =>
        opSettled s1 p o2 fun s2 => settle (opGone s2 p o2) o.ctx
    | _ => s

/-- The checks of a copy's two addresses: widths, single elements (R163, R225). -/
def copyArgs (w : Firing) : Option Nat :=
  match operandFault w (fun q => if q == .p then none else some .w64) [] .pass with
  | some c => some c
  | none => if manyElems w && !passed w.waive 0x11B then some 0x11B else none
/-- A copy asked for by its two addresses. -/
def copyAsk (f : FireMode) (n : Nat) (t : Target) (rem : Bool) (s : State) (w : Firing) : State :=
  match copyArgs w with
  | some c => fireFault s w c (fireInfo w)
  | none =>
    let j := (firedElems f w).headD 0
    let dst := elemAt w.a j
    let src := elemAt w.b j
    if rem then queueOp s f w [t] 7 0 (.remoteCopy dst src (64 * (n + 1))) else queueOp s f w [t] 6 0 (.copy dst src (64 * (n + 1)))

/-- CP_GO (R254). -/
def execCpGo (f : FireMode) (n : BitVec 10) (t : Target) (s : State) : Next :=
  onFire f s (passEosAfter s [t]) (nullsUnless copyArgs s f [t]) (copyAsk f n.toNat t false s)
/-- CP_REM (R255). -/
def execCpRem (f : FireMode) (n : BitVec 10) (t : Target) (s : State) : Next :=
  onFire f s (passEosAfter s [t]) (nullsUnless copyArgs s f [t]) (copyAsk f n.toNat t true s)

end Sys2Proof.Machine
end

