-- ==== Sys2Proof/Machine/Emit.lean ====
section
/-! DEFINITION. Emitting stimuli (R306 to R308), `rest` (R311), and the agent instructions (R312, R313). -/

namespace Sys2Proof.Machine

/-- The widths of the ports of an instruction of this chapter: port a, and 32 bits on port b (R304). -/
def portWidths (wa : Width) (q : Port) : Option Width :=
  match q with
  | .a => some wa
  | .b => some .w32
  | _ => none
/-- The first failing check of operands that must each hold one element (R304). -/
def onesFault (w : Firing) (wa : Width) : Option Nat :=
  match operandFault w (portWidths wa) [] .pass with
  | some c => some c
  | none => if manyElems w && !passed w.waive 0x11B then some 0x11B else none
/-- A meaning of this chapter: an EOS is consumed, a null is answered with a null (R304). -/
def onRequest (m : FireMode) (ts : List Target) (s : State) (wa : Width) (go : Firing → State) : Next :=
  onFire m s (fun _ _ => s) (nullsUnless (onesFault · wa) s m ts) fun w =>
    match onesFault w wa with
    | some c => fireFault s w c (fireInfo w)
    | none => go w
/-- The first element of port b for which the mode holds. -/
def bFirst (m : FireMode) (w : Firing) : Nat := elemAt w.b ((firedElems m w).headD 0)

/-! Emitting (R306 to R308). -/

/-- The checks of an emission in their order. -/
def emitOrder : List Nat := [0x118, 0x280, 0x212, 0x220, 0x221, 0x222, 0x287]
/-- Whether a resumed emission has a check behind it (R367). -/
def emitPassed (w : Firing) (cause : Nat) : Bool :=
  let place := fun (c : Nat) => emitOrder.findIdx? fun d => d == if 0x280 ≤ c ∧ c ≤ 0x286 then 0x280 else c
  match w.waive.bind fun c => place c.toNat, place cause with
  | some i, some j => decide (j ≤ i)
  | _, _ => false
/-- The owner under which an emission waits for a peer. -/
def emitOwner (c inst : Nat) : Nat := 2 ^ 53 + 128 * c + inst

/-- Whether the packet may be read: the stores of the block entry are performed, but for the Lane File (R190, R307). -/
def emitReady (s : State) (c : Nat) (x : Ctx) (v : Nat) : Bool :=
  bitsOf v 63 56 == 0xE0 ||
    ((blkMask x.image &&& ~~~x.lsids) == 0 && !(s.accesses.any fun b => b.ctx == c && !onlyLoads b && !b.sent))
/-- The 16-byte units of a packet in an aperture, or its bytes at a VA (R307). -/
def packetRead (s : State) (x : Ctx) (owner v n : Nat) : State × Got (List Byte) :=
  if bitsOf v 63 56 = 0 then vaRead s (some (x.press, x.group)) owner x.ten .read v n
  else (List.range (n / 16)).foldl (fun r k => match r with
    | (s, .ok bs) => match engFetch s x owner (v + 16 * k) 16 none with
      | (s1, .ok cs) => (s1, .ok (bs ++ cs))
      | q => q
    | q => q) (s, .ok [])
/-- How the race checker sees the read of a packet (R331). DEDUCED (log entry 108). -/
def emitRace (w : Firing) (v : Nat) : RaceAcc :=
  { kind := 0, writes := false, stores := false, sync := false, acq := none, rel := none, queue := none, inst := w.inst, iter := w.iter,
    va := v % 2 ^ 56 }

/-- A packet as its check sees it (R307): with source 01 in word 2, and for `emit.x` without word 1, which it does not read. -/
def emitSeen (sink : Bool) (bs : List Byte) : List Byte :=
  bs.take 4 ++ (if sink then leBytes 4 0 else (bs.drop 4).take 4) ++ leBytes 4 (putBits (stimWord bs 2) 17 16 1) ++ bs.drop 12
/-- The copy of a packet with its word 2 and check word (R18, R307). -/
def emitStamp (s : State) (bs : List Byte) : List Byte :=
  stimStamp (bs.take 8 ++ leBytes 4 (deviceNumber s * 2 ^ 18 + 2 ^ 16) ++ bs.drop 12)
/-- The bytes of a firing's kept copy. DESIGN CHOICE (log entry 109). -/
def keptBytes (w : Firing) : List Byte := w.part.flatMap fun d => leBytes 8 d.toNat
/-- A firing that keeps its copy. -/
def keepBytes (w : Firing) (bs : List Byte) : Firing := { w with done := 1, part := dblsOf bs }

/-- The destination on port b: a device, or a sink ring; none where it is malformed (R306). -/
def emitDest (s : State) (x : Bool) (y : Nat) : Option Nat :=
  if x then (if y < 8 then some y else none)
  else if y = 2 ^ 32 - 1 then some (deviceNumber s)
  else if y < 2 ^ 14 then some y
  else none

/-- The forms of R306. -/
inductive EmitForm where
  | held | through | sink
  deriving DecidableEq, Repr

/-- A checked copy goes to the held area, or on its way (R306 to R308). -/
def emitPlace (form : EmitForm) (m : FireMode) (ts : List Target) (s : State) (w : Firing) (x : Ctx) (bs : List Byte) (dest : Nat) : State :=
  let n := bs.length
  let far := form = .sink ∨ dest ≠ deviceNumber s
  let scope := if far then 4 else 3
  let full := match stepAt s x.stp with
    | none => false
    | some r => decide (Config.heldArea ≤ r.held.length)
  if form ≠ .through ∧ full = true ∧ emitPassed w 0x222 = false then fireFault s w 0x222 (fireInfo w)
  else if form = .through ∧ dest ≠ deviceNumber s ∧ linkTo s dest = none then fireFault s w 0x300 { infoAt 0 dest with iter := w.iter }
  else if form = .through ∧ earlierDone s w.ctx (x.entry + 1) 0 scope = false then waitFor s w
  else if form = .through ∧ dest ≠ deviceNumber s ∧ freeXtag s = none then waitFor s w
  else
    let released := if emitPassed w 0x287 then (Raced.ok s, none) else ctxRelease s w.ctx scope
    match released with
    | (.wait, _) => waitFor (slotWaits s w.ctx) w
    | (.trap s1 c aux items, _) =>
      fireFault s1 w c { noInfo with iter := w.iter, aux := BitVec.ofNat 64 aux, items := items.map (BitVec.ofNat 64) }
    | (.ok s1, clock) =>
      let out := emitStamp s bs
      let st : Stim := { bytes := out, clock := clock, card := none }
      let r := openReply s1 m w ts
      match form with
      | .held | .sink =>
        let h : Held := { stim := st, dev := dest, sink := if form = .sink then some dest else none }
        answer (modStep r.1 x.stp fun q => { q with held := q.held ++ [h] }) r.2 n .w32
      | .through =>
        if dest = deviceNumber s then walkerPut r.1 2 x.ten (stimAgent out) (some st) none (some r.2)
        else match linkTo s dest, freeXtag r.1 with
          | some l, some t => sendFlits (addXfer r.1 t dest w.ctx (.emitNow r.2 w) 0 0 0) l (stimFlits s dest t out)
          | _, _ => r.1

/-- The checks of the copy (R307), then its placing. -/
def emitCheck (form : EmitForm) (m : FireMode) (ts : List Target) (s : State) (w : Firing) (x : Ctx) : State :=
  let bs := keptBytes w
  let v := aFirst m w
  let bad := fun (c : Nat) => fireFault s w c { infoAt v 0 with iter := w.iter }
  let dest := emitDest s (form == .sink) (bFirst m w)
  if stimBad (emitSeen (form == .sink) bs) && !emitPassed w 0x212 then bad 0x212
  else if stimTen bs ≠ x.ten && !emitPassed w 0x220 then bad 0x220
  else if dest.isNone && !emitPassed w 0x221 then bad 0x221
  else emitPlace form m ts s w x bs (dest.getD (bFirst m w % (if form = .sink then 8 else 2 ^ 14)))

/-- The packet copied when its turn comes (R307). -/
def emitGo (form : EmitForm) (m : FireMode) (ts : List Target) (s : State) (w : Firing) : State :=
  match ctxAt s w.ctx with
  | none => s
  | some x =>
    let v := aFirst m w
    let owner := emitOwner w.ctx w.inst
    if w.done = 1 then emitCheck form m ts s w x
    else if v % 16 ≠ 0 && !emitPassed w 0x118 then fireFault s w 0x118 { infoAt v 0 with iter := w.iter }
    else if !emitReady s w.ctx x v then waitFor s w
    else
      let whole := match packetRead s x owner v 16 with
        | (s1, .ok h) => packetRead s1 x (owner + 2 ^ 50) v ((stimLen h + 1) * 16)
        | r => r
      match whole with
      | (s1, .wait) => waitFor s1 w
      | (s1, .bad c aux a) => fireFault s1 w c { infoAt a aux with iter := w.iter }
      | (s1, .ok bs) =>
        match raceAccess s1 w.ctx (emitRace w v) (!emitPassed w 0x280) (engLines s1 x v bs.length .read) with
        | .wait => waitFor (slotWaits s1 w.ctx) w
        | .trap s2 c aux items =>
          fireFault s2 w c { infoAt v aux with iter := w.iter, items := items.map (BitVec.ofNat 64) }
        | .ok s2 => emitCheck form m ts s2 (keepBytes w bs) x

/-- EMIT (R307). -/
def execEmit (f : FireMode) (t u : Target) (s : State) : Next := onRequest f [t, u] s .w64 (emitGo .held f [t, u] s)
/-- EMIT_T (R307). -/
def execEmitT (f : FireMode) (t u : Target) (s : State) : Next := onRequest f [t, u] s .w64 (emitGo .through f [t, u] s)
/-- EMIT_X (R307). -/
def execEmitX (f : FireMode) (t u : Target) (s : State) : Next := onRequest f [t, u] s .w64 (emitGo .sink f [t, u] s)

/-! `rest` (R311). -/

/-- Members named one after another; the first that is not below N, or is named again, faults. -/
def restName (s : State) (w : Firing) (x : Ctx) (ms : List Nat) : State :=
  let n := memberCount s x
  match ms with
  | [] => sinkBits s w.ctx (inputBits w)
  | _ =>
    let bad := fun (m : Nat) (seen : List Nat) => decide (n ≤ m) || seen.contains m
    let at' := (List.range ms.length).find? fun k => match ms[k]? with
      | none => false
      | some m => bad m (x.rests ++ ms.take k)
    match (if w.waive = some 0x224 then none else at') with
    | some k => fireFault s w 0x224 { noInfo with iter := ms.getD k 0 }
    | none => sinkBits (modCtx s w.ctx fun x => { x with rests := x.rests ++ ms.filter fun m => decide (m < n) }) w.ctx (inputBits w)
/-- REST (R311): with mode `always` every member is named. DEDUCED (log entry 113). -/
def execRest (f : FireMode) (s : State) : Next :=
  onFire f s (fun _ _ => s) (fun _ => s) fun w =>
    match ctxAt s w.ctx with
    | none => s
    | some x =>
      restName s w x (if f = .always then List.range (memberCount s x) else (firedElems f w).map fun j => (w.iter + j) % 65536)

/-! Agents (R312, R313). -/

/-- A request to the home Walker of an agent of the context's tenancy; a bit set that is to be zero faults (R312). -/
def agentAsk (m : FireMode) (ts : List Target) (s : State) (w : Firing) (bad : Bool) (agent : Nat) (op : AgentOp) : State :=
  match ctxAt s w.ctx with
  | none => s
  | some x =>
    if bad && w.waive != some 0x225 then fireFault s w 0x225 (fireInfo w)
    else
      let r := openReply s m w ts
      walkerPut r.1 2 x.ten agent none (some (op, r.2)) none
/-- BIND (R313). -/
def execBind (f : FireMode) (t u : Target) (s : State) : Next :=
  onRequest f [t, u] s .w32 fun w =>
    let a := aFirst f w
    let b := bFirst f w
    agentAsk f [t, u] s w (bitsOf a 31 28 != 0 || bitsOf b 31 16 != 0) (bitsOf a 27 0) (.bind (bitsOf b 15 0))
/-- HINT (R313). -/
def execHint (f : FireMode) (t u : Target) (s : State) : Next :=
  onRequest f [t, u] s .w64 fun w =>
    let a := aFirst f w
    agentAsk f [t, u] s w (bitsOf a 63 40 != 0 || bitsOf a 32 28 != 0) (bitsOf a 27 0)
      (.hint (bitsOf a 39 39 == 1) (bitsOf a 38 38 == 1) (bitsOf a 37 33))
/-- AQ (R313). -/
def execAq (f : FireMode) (t u : Target) (s : State) : Next :=
  onRequest f [t, u] s .w64 fun w =>
    let a := aFirst f w
    agentAsk f [t, u] s w (bitsOf a 63 63 != 0 || bitsOf a 60 28 != 0) (bitsOf a 27 0) (.query (bitsOf a 62 62 == 1) (bitsOf a 61 61 == 1))

end Sys2Proof.Machine
end

