-- ==== Sys2Proof/Machine/Spawn.lean ====
section
/-! DEFINITION. Spawning child contexts (R106, R107, R309, R310). -/

namespace Sys2Proof.Machine

/-- Elements j to j + n - 1 of a firing as a firing of their own. -/
def cutFiring (f : Firing) (j n : Nat) : Firing :=
  let cut := fun (t : Option Token) => t.map fun t => if t.standing then t else piece t j n
  { f with iter := (f.iter + j) % 65536, len := n, a := cut f.a, b := cut f.b, c := cut f.c, p := cut f.p }

/-- The spawn requests of a Press looked at, and their starvation counted (R107). -/
def spawnKick (s : State) (p : Nat) : State :=
  if (pressAt s p).spawns.isEmpty then s else pushEvOnce (pushEvOnce s (.spawnStart p)) (.spawnStarve p)

/-- The ns for which spawn requests of a Press have waited without a freed tag (R107). -/
def starvedFor (s : State) (p : Nat) : Nat :=
  let r := pressAt s p
  r.starved + (if r.spawns.isEmpty then 0 else s.now - r.starveSince)
/-- The waiting spawn requests of a Press changed: the count runs while there is one, and stands still while there is none (R107). -/
def setSpawns (s : State) (p : Nat) (f : List (Firing × Nat) → List (Firing × Nat)) : State :=
  modPress s p fun r => { r with spawns := f r.spawns, starved := starvedFor s p, starveSince := s.now }
/-- The count restarts (R107). -/
def starveRestart (s : State) (p : Nat) : State := modPress s p fun r => { r with starved := 0, starveSince := s.now }

/-- SPAWN (R309): each element asks for a child. -/
def execSpawn (f : FireMode) (t : Target) (_k : BitVec 14) (s : State) : Next :=
  onFire f s (fun _ _ => s) (nullsUnless (fun w => operandFault w (portWidths .w32) [] .pass) s f [t]) fun w =>
    match operandFault w (portWidths .w32) [] .pass, ctxAt s w.ctx with
    | some c, _ => fireFault s w c (fireInfo w)
    | none, none => s
    | none, some x =>
      let l := (firedElems f w).map fun j => (cutFiring w j 1, s.now)
      spawnKick (setSpawns s x.press (· ++ l)) x.press

/-- The owner under which the header of a child's first block waits for a peer. -/
def spawnOwner (c : Nat) : Nat := 2 ^ 54 + c
/-- Where a request's instruction sends the child (R309): IMM14 in units of 16 bytes from the block's header. DEDUCED (log entry 111). -/
def spawnAt (x : Ctx) (f : Firing) : Nat × List Target :=
  match instrAt x.image f.inst with
  | some (.spawn _ t k) => (wrap 56 ((x.block : Int) + 16 * k.toInt), [t])
  | _ => (x.block, [])
/-- The fire mode of a request's instruction. -/
def spawnMode (x : Ctx) (f : Firing) : FireMode :=
  match instrAt x.image f.inst with
  | some i => fireMode i
  | none => .always
/-- A child begins (R309): it shares its step, and takes the registers of its parent as fixed at the last commit. -/
def childStart (s : State) (x : Ctx) (f : Firing) (tag at' : Nat) (ts : List Target) (joins : Option (Nat × Nat × Nat)) : State :=
  let r := openReply s (spawnMode x f) f ts
  let id := r.1.nextId
  let c : Ctx := { ctxNew x.press tag x.ten x.group x.n x.stp with
    spawned := true, parent := some r.2, g := tabSet (fun _ => 0) x.g 0 (BitVec.ofNat 32 (elemAt f.a 0)), b := x.b, eenable := x.eenable }
  let s1 := setCtx (bumpId r.1) id c
  let s2 := match joins with
    | none => s1
    | some (d, k, v) => match freeSlot s1 d with
      | none => s1
      | some n => startActor s1 id d n [(k, v)]
  match ctxAt s2 id with
  | none => s2
  | some y => enterBlock s2 id y at'

/-- A spawn request waits on. -/
def spawnWaits (s : State) (p : Nat) : State := pushEvOnce s (.spawnStart p)
/-- The first request whose context is not frozen starts its child, once the child's header is read (R123, R309). A request that faults is
made again at resume. DEDUCED (log entry 110). -/
def spawnTry (s : State) (p : Nat) (f : Firing) (x : Ctx) (tag : Nat) : State :=
  let without := fun (s : State) => setSpawns s p (dropFirst fun e => e.1 == f)
  let dest := spawnAt x f
  match vaRead s (some (x.press, x.group)) (spawnOwner f.ctx) x.ten .exec dest.1 16 with
  | (s1, .wait) => spawnWaits s1 p
  | (s1, .bad c aux a) => spawnKick (fireFault (without s1) f c { infoAt a aux with iter := f.iter }) p
  | (s1, .ok bs) =>
    if !blkSpawn (wordsOf bs) && f.waive != some 0x223 then
      spawnKick (fireFault (without s1) f 0x223 { infoAt dest.1 0 with iter := f.iter }) p
    else
      let wantSlot := match domOf s1 x.ten with
        | none => false
        | some d => (freeSlot s1 d).isNone
      if wantSlot then spawnWaits s1 p
      else match (if f.waive = some 0x287 then (Raced.ok s1, none) else ctxRelease s1 f.ctx 1) with
        | (.wait, _) => spawnWaits (slotWaits s1 f.ctx) p
        | (.trap s2 c aux items, _) =>
          spawnKick (fireFault (without s2) f c { infoAt 0 aux with iter := f.iter, items := items.map (BitVec.ofNat 64) }) p
        | (.ok s2, rec) => match ctxAt s2 f.ctx with
          | none => spawnKick (without s2) p
          | some y => spawnKick (childStart (without s2) y f tag dest.1 dest.2 rec) p

/-- SPAWN_START (R309): the oldest spawn request takes a free spawn tag. -/
def execSpawnStart (p : Nat) (s : State) : Next :=
  .next (
    let live := (pressAt s p).spawns.find? fun e => !ctxFrozen s e.1.ctx
    match live, freeTag s p true with
    | some e, some tag => match ctxAt s e.1.ctx with
      | none => s
      | some x => spawnTry s p e.1 x tag
    | _, _ => if (pressAt s p).spawns.isEmpty then s else spawnWaits s p)

/-- The contexts of a Press that hold spawn tags, by tag (R107, R365). -/
def spawnHolders (s : State) (p : Nat) : List Dbl :=
  let l := (s.ctxs.filter fun e => e.2.press == p && e.2.spawned && decide (e.2.tag < 256)).map fun e =>
    (e.2.tag, match memberAt s e.2.stp 0 with
      | some m => m.agent
      | none => 0)
  (l.mergeSort fun a b => decide (a.1 ≤ b.1)).map fun e => BitVec.ofNat 64 (e.1 * 2 ^ 56 + e.2 % 2 ^ 28)
/-- SPAWN_STARVE (R107): the oldest waiting spawn faults when the count reaches Spawn Starve Cycles, and the count restarts. -/
def execSpawnStarve (p : Nat) (s : State) : Next :=
  .next (
    let r := pressAt s p
    match r.spawns with
    | [] => s
    | e :: _ =>
      if cyclesOf (starvedFor s p) < csrBits s 0x307 30 0 then pushEvOnce s (.spawnStarve p)
      else
        let l := spawnHolders s p
        let word := match ctxAt s e.1.ctx with
          | none => 0
          | some x => (wordFor x.image e.1.inst e.1.iter).1
        let s1 := starveRestart s p
        pushEvOnce (takeFault s1 e.1.ctx 0x070
          { noInfo with inst := e.1.inst, iter := e.1.iter, word := word, ntok := l.length, items := l.take 8 } none) (.spawnStarve p))

/-! The end of a child (R310). -/

/-- A spawn tag has been freed: the count of R107 restarts. -/
def spawnTagFreed (s : State) (p : Nat) : State := spawnKick (starveRestart s p) p
/-- The clock of an ended actor joined by another (R338). -/
def joinFinal (s : State) (parent : Ctx) (child : Actor) : State :=
  match parent.actor with
  | none => s
  | some a => modSlot s a.dom a.slot fun r => { r with vc := vcJoin r.vc (slotAt s child.dom child.slot).vc }

end Sys2Proof.Machine
end

