-- ==== Sys2Proof/Machine/Cohort.lean ====
section
/-! DEFINITION. Cohorts (R314 to R318): their operations at a context, on the way to the home, and at the home. -/

namespace Sys2Proof.Machine

/-! At the context. -/

/-- The home device that a cohort word names (R314). -/
def cohHome (s : State) (w : Nat) : Nat := if bitsOf w 49 49 = 1 then deviceNumber s else bitsOf w 63 50
/-- The agent of a cohort word. -/
def cohAgent (w : Nat) : Nat := bitsOf w 43 16
/-- Whether a cohort word is malformed; a query names no agent. DEDUCED (log entry 116). -/
def cohBad (query : Bool) (w : Nat) : Bool :=
  (bitsOf w 49 49 == 1 && bitsOf w 63 50 != 0) || bitsOf w 45 44 != 0 || bitsOf w 15 12 != 0 || (query && cohAgent w != 0)
/-- Whether an operation is an arrival: `cbar` (2) or a `cred` (8 to 13). DEDUCED (log entry 114). -/
def cohArrives (xop : Nat) : Bool := xop == 2 || decide (8 ≤ xop)
/-- Whether an agent is a member of the impression of a context. -/
def inImpression (s : State) (x : Ctx) (agent : Nat) : Bool :=
  match stepAt s x.stp with
  | none => false
  | some r => r.members.any fun m => m.agent == agent

/-- The checks of a firing's tokens (R304): widths, and single elements where it is no arrival. -/
def cohTokens (xop : Nat) (w : Firing) : Option Nat :=
  match operandFault w (portWidths .w64) [] .pass with
  | some c => some c
  | none => if !cohArrives xop && manyElems w && !passed w.waive 0x11B then some 0x11B else none
/-- The first failing check of a firing at its context, with its element (R304, R314, R316). DEDUCED (log entry 117). -/
def cohFault (s : State) (m : FireMode) (w : Firing) (x : Ctx) (xop : Nat) : Option (Nat × Nat) :=
  let js := firedElems m w
  let first := fun (c : Nat) (p : Nat → Bool) => if passed w.waive c then none else (js.find? p).map fun j => (c, j)
  match cohTokens xop w with
  | some c => some (c, js.headD 0)
  | none => match first 0x226 fun j => cohBad (xop == 3) (elemAt w.a j) with
    | some r => some r
    | none => if cohArrives xop then first 0x229 fun j => !inImpression s x (cohAgent (elemAt w.a j)) else none

/-- Consecutive elements that name one cohort: first element and count. DESIGN CHOICE (log entry 115). -/
def cohPieces (key : Nat → Nat) (js : List Nat) : List (Nat × Nat) :=
  match js with
  | [] => []
  | j :: r => match cohPieces key r with
    | [] => [(j, 1)]
    | (k, n) :: l => if key j = key k then (j, k + n - j) :: l else (j, 1) :: (k, n) :: l

/-- Whether the accesses before an arrival are performed at its scope: those of earlier entries, and those of its own entry that wait
for no instruction that has yet to act (R293, R316). -/
def arrivalReady (s : State) (c : Nat) (x : Ctx) (scope : Nat) : Bool :=
  earlierDone s c x.entry 0 scope &&
    !(s.accesses.any fun a => a.ctx == c && (!a.walked || a.sent || (readyBut s x a && !waitsOthers s x a))) &&
    !(s.xfers.any fun t => t.ctx == c && (match t.kind with
      | .store _ => if scope = 4 then !t.vis else !t.acc
      | _ => false))
/-- The bytes of an operation for another home: its name, then agent and value of each element. -/
def cohBytes (op : CohortOp) : List Byte :=
  let wv := match op.waive with
    | none => 0
    | some c => c.toNat
  leBytes 8 (op.coh + op.ch * 2 ^ 12 + op.ten * 2 ^ 16 + op.sb.toNat * 2 ^ 20) ++
    leBytes 4 (2 ^ 31 + op.xop * 2 ^ 24 + op.agents.length * 2 ^ 16 + wv) ++ leBytes 4 0 ++
    (op.agents.zipIdx.flatMap fun a => leBytes 4 a.1 ++ leBytes 4 (op.vals.getD a.2 0).toNat)
/-- The flits that carry it: AMOREQ in IDX order (DESIGN CHOICE, log entry 29). -/
def cohFlits (s : State) (d xtag : Nat) (bs : List Byte) : List Flit :=
  (chunksOf 128 bs.length bs).zipIdx.map fun c => mkFlit s false 0x05 d xtag c.2 c.1

/-- An operation on its way to its home (R314). -/
def cohSend (s : State) (op : CohortOp) (home entry : Nat) : State :=
  if home = op.dev then pushEv { s with cohortOps := s.cohortOps ++ [op] } .cohortOpAtHome
  else match linkTo s home, freeXtag s with
    | some l, some t =>
      let s1 := { s with cohortOps := s.cohortOps ++ [{ op with xtag := t + 1 }] }
      sendFlits (addXfer s1 t home (match op.firing with
        | some w => w.ctx
        | none => 0) (.cohort op.id) entry 0 0) l (cohFlits s home t (cohBytes op))
    | _, _ => s

/-- A firing of one cohort: an arrival's release is made, and the operation leaves. -/
def cohPiece (m : FireMode) (ts : List Target) (xop : Nat) (s : State) (w : Firing) : State :=
  if ctxFrozen s w.ctx then parkWork s w.ctx (.fire w)
  else match ctxAt s w.ctx with
    | none => s
    | some x =>
      let js := firedElems m w
      let word := elemAt w.a (js.headD 0)
      let home := cohHome s word
      let far := home ≠ deviceNumber s
      let scope := if home = deviceNumber s then 3 else 4
      let frees := cohArrives xop && !passed w.waive 0x280
      if far ∧ linkTo s home = none then fireFault s w 0x300 { infoAt word home with iter := w.iter }
      else if (frees && !arrivalReady s w.ctx x scope) = true ∨ (far ∧ freeXtag s = none) then waitFor s w
      else match (if frees then (ctxRelease s w.ctx scope).1 else .ok s) with
        | .wait => waitFor (slotWaits s w.ctx) w
        | .trap s1 c aux items =>
          fireFault s1 w c { noInfo with iter := w.iter, aux := BitVec.ofNat 64 aux, items := items.map (BitVec.ofNat 64) }
        | .ok s1 =>
          let r := openReply s1 m w ts
          cohSend (bumpId r.1)
            { id := r.1.nextId, dev := deviceNumber s, ten := x.ten, xop := xop, agents := js.map fun j => cohAgent (elemAt w.a j),
              vals := js.map fun j => BitVec.ofNat 32 (elemAt w.b j), sb := inputBits w, coh := bitsOf word 11 0, ch := bitsOf word 48 46,
              reply := some r.2, firing := some w, waive := w.waive, xtag := 0 } home x.entry

/-- A cohort instruction (R315, R316). -/
def cohort (xop : Nat) (m : FireMode) (ts : List Target) (s : State) : Next :=
  onFire m s (fun _ _ => s) (nullsUnless (cohTokens xop) s m ts) fun w =>
    match ctxAt s w.ctx with
    | none => s
    | some x =>
      match cohFault s m w x xop with
      | some (c, j) =>
        fireFault s w c { infoAt (if c = 0x092 then 0 else elemAt w.a j) 0 with iter := (w.iter + j) % 65536 }
      | none =>
        (cohPieces (fun j => cohHome s (elemAt w.a j) * 4096 + bitsOf (elemAt w.a j) 11 0) (firedElems m w)).foldl
          (fun s p => cohPiece m ts xop s (if p.2 = w.len then w else cutFiring w p.1 p.2)) s

/-- JOIN (R315). -/
def execJoin (f : FireMode) (t u : Target) (s : State) : Next := cohort 0 f [t, u] s
/-- LEAVE (R315). -/
def execLeave (f : FireMode) (t u : Target) (s : State) : Next := cohort 1 f [t, u] s
/-- CBAR (R316). -/
def execCbar (f : FireMode) (t u : Target) (s : State) : Next := cohort 2 f [t, u] s
/-- CQ (R318). -/
def execCq (f : FireMode) (t u : Target) (s : State) : Next := cohort 3 f [t, u] s
/-- CRED_ADD_I32 (R316). -/
def execCredAddI32 (f : FireMode) (t u : Target) (s : State) : Next := cohort 8 f [t, u] s
/-- CRED_ADD_F32 (R316). -/
def execCredAddF32 (f : FireMode) (t u : Target) (s : State) : Next := cohort 9 f [t, u] s
/-- CRED_MAX_I32 (R316). -/
def execCredMaxI32 (f : FireMode) (t u : Target) (s : State) : Next := cohort 10 f [t, u] s
/-- CRED_MAX_F32 (R316). -/
def execCredMaxF32 (f : FireMode) (t u : Target) (s : State) : Next := cohort 11 f [t, u] s
/-- CRED_MIN_I32 (R316). -/
def execCredMinI32 (f : FireMode) (t u : Target) (s : State) : Next := cohort 12 f [t, u] s
/-- CRED_MIN_F32 (R316). -/
def execCredMinF32 (f : FireMode) (t u : Target) (s : State) : Next := cohort 13 f [t, u] s

/-! At the home. -/

/-- A cohort that is dissolved. -/
def cohortReset : Cohort := { ten := 0, ch := 0, gen := 0, members := [], round := none }
/-- Cohort `n` of this home. -/
def cohortAt (s : State) (n : Nat) : Cohort := tabGet (fun _ => cohortReset) s.cohorts n
/-- `s` with it. -/
def setCohort (s : State) (n : Nat) (c : Cohort) : State := { s with cohorts := tabSet (fun _ => cohortReset) s.cohorts n c }
/-- A member's name in a round: its device and agent. -/
def cohKey (dev agent : Nat) : Nat := dev * 2 ^ 28 + agent

/-- Two contributions combined (R316): the result and its bits. -/
def cohCombine (xop : Nat) (a b : Nat) : Nat × BitVec 5 :=
  match xop with
  | 8 => ((a + b) % 2 ^ 32, 0)
  | 9 => fAdd .f32 a b
  | 10 => (if signed 32 a < signed 32 b then b else a, 0)
  | 11 => fMinMax .f32 true a b
  | 12 => (if signed 32 b < signed 32 a then b else a, 0)
  | _ => fMinMax .f32 false a b
/-- Contributions combined in their order; one alone is the result, and a NaN is made anew there as in a reduction (R38). DEDUCED (log entry
120). -/
def cohFold (xop : Nat) (l : List (Nat × BitVec 5)) : Nat × BitVec 5 :=
  match l with
  | [] => (0, 0)
  | [e] =>
    let v := if xop = 9 ∨ xop = 11 ∨ xop = 13 then deliverElem .f32 e.1 else (e.1, 0)
    (v.1, e.2 ||| v.2)
  | e :: r => r.foldl (fun b e =>
    let v := cohCombine xop b.1 e.1
    (v.1, b.2 ||| e.2 ||| v.2)) e

/-- The stimulus of a completed round to a member (R317). -/
def cohStim (s : State) (n : Nat) (c : Cohort) (xop agent : Nat) (v : Nat × BitVec 5) : List Byte :=
  let red := xop ≠ 2
  stimStamp (stimHead (if red then 2 else 1) c.ch (if red then 0xF3 else 0xF2) 0 c.ten false agent (deviceNumber s) 3 ++
    leBytes 8 (deviceNumber s * 2 ^ 50 + n) ++ leBytes 8 (c.gen.toNat * 2 ^ 48 + (if red then v.2.toNat else 0)) ++
    (if red then leBytes 16 v.1 else []))
/-- The open round completes once every member has arrived (R316). -/
def roundDone (s : State) (n : Nat) (c : Cohort) : State :=
  match c.round with
  | none => s
  | some r =>
    let of := fun (m : Nat × Nat) => r.arrived.find? fun a => a.1 == cohKey m.1 m.2
    if c.members.any fun m => (of m).isNone then s
    else
      let v := cohFold r.xop (c.members.filterMap fun m => (of m).map fun a => (a.2.1.toNat, a.2.2))
      c.members.foldl (fun s m => releaseStim s 4 c.ten m.1 { bytes := cohStim s n c r.xop m.2 v, clock := none, card := none })
        (setCohort s n { c with gen := c.gen + 1, round := none })

/-- The status of a cohort (R318). -/
def cohStatus (c : Cohort) : Nat :=
  if c.members.isEmpty then 0
  else
    let st := match c.round with
      | none => 2 ^ 46
      | some r => (if r.xop = 2 then 2 * 2 ^ 46 else 3 * 2 ^ 46 + (r.xop - 8) * 2 ^ 43) + r.arrived.length * 2 ^ 24
    c.gen.toNat * 2 ^ 48 + st + c.members.length
/-- A member leaves: the last member takes its place (R315). DEDUCED (log entry 118). -/
def cohLeave (l : List (Nat × Nat)) (m : Nat × Nat) : List (Nat × Nat) :=
  match l.getLast? with
  | none => []
  | some e => if e == m then l.dropLast else mapWhere (fun k => k == m) (fun _ => e) l.dropLast

/-- The first failing check of an operation at its home (R314 to R316). DEDUCED (log entry 119). -/
def cohRefuses (s : State) (op : CohortOp) : Option Nat :=
  let c := cohortAt s op.coh
  let ms := op.agents.map fun a => (op.dev, a)
  let keys := op.agents.map (cohKey op.dev)
  let member := fun (m : Nat × Nat) => c.members.contains m
  let bad := fun (k : Nat) (b : Bool) => if b && (k == 0x226 || !passed op.waive k) then some k else none
  let again := match c.round with
    | none => false
    | some r => keys.any fun k => r.arrived.any fun a => a.1 == k
  let other := match c.round with
    | none => false
    | some r => r.xop != op.xop
  [ bad 0x226 (csrBits s 0x390 0 0 == 0 && op.waive != some 0x226 && !passed op.waive 0x227),
    bad 0x227 (!c.members.isEmpty && c.ten != op.ten),
    bad 0x228 ((op.xop == 1 || cohArrives op.xop) && !(ms.all member)),
    bad 0x22A (cohArrives op.xop && (again || keys.eraseDups.length != keys.length)),
    bad 0x22B (cohArrives op.xop && other),
    bad 0x22C (op.xop == 0 && decide (65536 ≤ c.members.length) && !(ms.all member)) ].findSome? id

/-- The arrivals of an operation recorded: those of members that have not arrived, in a round of the same operation. -/
def cohArrive (s : State) (op : CohortOp) (c : Cohort) : State :=
  let r := c.round.getD { xop := op.xop, arrived := [] }
  if r.xop ≠ op.xop then s
  else
    let l := (op.agents.zip op.vals).foldl (fun (l : List (Nat × Word × BitVec 5)) a =>
      if c.members.contains (op.dev, a.1) && !(l.any fun e => e.1 == cohKey op.dev a.1) then l ++ [(cohKey op.dev a.1, a.2, op.sb)] else l)
      r.arrived
    if l.isEmpty then s
    else
      let c1 := { c with round := some { r with arrived := l } }
      roundDone (setCohort s op.coh c1) op.coh c1

/-- An operation applied at its home (R315, R316): the next state and what it delivers. DEDUCED (log entry 120). -/
def cohApply (s : State) (op : CohortOp) : State × Nat :=
  let c := cohortAt s op.coh
  let m := (op.dev, op.agents.headD 0)
  match op.xop with
  | 0 =>
    let c1 := if c.members.isEmpty then { cohortReset with ten := op.ten, ch := op.ch } else c
    let l := if c1.members.contains m || decide (65536 ≤ c1.members.length) then c1.members else c1.members ++ [m]
    (setCohort s op.coh { c1 with members := l }, l.length)
  | 1 =>
    if !c.members.contains m then (s, c.members.length)
    else
      let l := cohLeave c.members m
      let c1 := { c with members := l, round := c.round.map fun r =>
        { r with arrived := r.arrived.filter fun a => a.1 != cohKey m.1 m.2 } }
      if l.isEmpty then (setCohort s op.coh cohortReset, 0) else (roundDone (setCohort s op.coh c1) op.coh c1, l.length)
  | 3 => (s, cohStatus c)
  | _ => (cohArrive s op c, c.gen.toNat)

/-- The request flit of an operation that came from another device, as its answer names it. -/
def cohRequest (s : State) (op : CohortOp) : Flit :=
  { mkFlit s false 0x05 0 (op.xtag - 1) 0 [] with src := BitVec.ofNat 14 op.dev }
/-- An operation of this device is refused: the context that fired it faults (R314). -/
def cohRefused (s : State) (op : CohortOp) (cause aux : Nat) : State :=
  match op.reply, op.firing with
  | some r, some w =>
    let word := elemAt w.a 0
    fireFault (closeReply s r) w cause { infoAt word aux with iter := w.iter }
  | _, _ => s
/-- An operation of this device has been applied: its result is delivered. -/
def cohAnswered (s : State) (op : CohortOp) (v : Nat) : State :=
  match op.reply with
  | none => s
  | some r => settle (answer s r v (if op.xop = 3 then .w64 else .w32)) r.ctx

/-- COHORT_OP_AT_HOME (R315): the oldest operation that has reached this home is applied. -/
def execCohortOpAtHome (s : State) : Next :=
  .next (match s.cohortOps.find? fun o => o.dev != deviceNumber s || o.xtag == 0 with
    | none => s
    | some op =>
      let s1 := { s with cohortOps := s.cohortOps.filter fun o => o.id != op.id }
      match cohRefuses s1 op with
      | some c => if op.dev = deviceNumber s then cohRefused s1 op c 0 else sendNak s1 (cohRequest s1 op) c
      | none =>
        let r := cohApply s1 op
        if op.dev = deviceNumber s then cohAnswered r.1 op r.2 else sendAnswer r.1 (cohRequest s1 op) 0x06 (leBytes 8 r.2))

end Sys2Proof.Machine
end

