-- ==== Sys2Proof/Machine/Distribute.lean ====
section
/-! DEFINITION. Plate distribution (R283, R284): the publisher, and what a device of the chain does with a chunk. -/

namespace Sys2Proof.Machine

/-! Chunks and the chain. -/

/-- The device of a chain entry. -/
def chainDev (e : Nat) : Nat := bitsOf e 63 50
/-- The local PA of a chain entry's buffer. -/
def chainPa (e : Nat) : Nat := bitsOf e 33 0 * 16384
/-- The chain entries in the bytes of a chunk's PLATE flits. -/
def chunkChain (h : List Byte) : List Nat := (chunksOf 8 (bitsOf (headNat h 0 8) 40 34) (h.drop 16)).map leNat
/-- The PLATE flits of a chunk, as many as the chain takes, and its DATA flits. -/
def chunkFlits (s : State) (dev xtag : Nat) (head data : List Byte) : List Flit :=
  ((chunksOf 128 head.length head).zipIdx.map fun c => mkFlit s false 0x0A dev xtag c.2 c.1) ++
    (chunksOf 128 data.length data).zipIdx.map fun c => mkFlit s false 0x02 dev xtag c.2 c.1
/-- The bytes of a chunk at a local PA; the first granule whose check word does not match (R275). -/
def chunkRead (s : State) (pa : Nat) : Except Nat (List Byte) :=
  match hbmBad s pa 65536 with
  | some g => .error g
  | none => .ok (hbmRead s pa 65536)
/-- A granule withheld at the optical egress towards a device (R275, R286, R376): ADDR names the device as link events do, AUX the granule.
DEDUCED (log entry 147). -/
def egressBad (s : State) (peer g : Nat) : State := pfEvent s { recOf 0x382 with addr := peer * 2 ^ 42 + (routeOf s peer).getD 0, aux := checkAux 6 g }

/-! The publisher. -/

/-- The owner of the transfer that carries the publisher's chunk. -/
def distOwner : Nat := 2 ^ 56
/-- Whether a descriptor is broken (R283); `d` are its bytes. DEDUCED (log entry 151). -/
def distBroken (s : State) (d : List Byte) : Bool :=
  let n := bitsOf (headNat d 16 8) 39 32
  let entries := (chunksOf 16 n (d.drop 64))
  let devs := entries.map fun e => chainDev (headNat e 0 8)
  bitsOf (headNat d 0 8) 63 48 != 0 || headNat d 0 8 % 16384 != 0 || bitsOf (headNat d 8 8) 63 32 != 0 || headNat d 8 8 % 65536 != 0 ||
    headNat d 8 8 == 0 || decide (Config.hbmBytes < headNat d 0 8 + headNat d 8 8) || bitsOf (headNat d 16 8) 63 40 != 0 ||
    bitsOf (headNat d 16 8) 15 4 != 0 || n == 0 || decide (64 < n) || !zeroAt d 24 40 ||
    (entries.any fun e => bitsOf (headNat e 0 8) 43 34 != 0) || devs.contains (deviceNumber s) || devs.eraseDups.length != devs.length

/-- What a device of the chain has come to (R284): DONE and RES written back; once all have reported, DONE of the control is set. -/
def distResult (s : State) (dev res : Nat) : State :=
  match s.dist with
  | none => s
  | some d =>
    match d.chain.findIdx? fun e => chainDev e.1 == dev && e.2.isNone with
    | none => s
    | some i =>
      let chain := mapWhere (fun e => chainDev e.1 == dev) (fun e => (e.1, some res)) d.chain
      let s1 := hbmPutDbl s (d.desc + 0x48 + 16 * i) (2 ^ 63 + res % 1024)
      if chain.all fun e => e.2.isSome then csrPoke { s1 with dist := none } 0x379 62 62 1
      else { s1 with dist := some { d with chain := chain } }
/-- The publisher cannot send a chunk: every device that has not reported gets RES 0x300. -/
def distStops (s : State) : State :=
  match s.dist with
  | none => s
  | some d => (d.chain.filter fun e => e.2.isNone).foldl (fun s e => distResult s (chainDev e.1) 0x300) s
/-- The next chunk sent, once the one before is accepted and a transfer tag is free. -/
def distPump (s : State) : State :=
  match s.dist with
  | none => s
  | some d =>
    if d.sent || decide (d.chunks ≤ d.next) then s
    else match d.chain with
      | [] => s
      | e :: _ => match linkTo s (chainDev e.1), freeXtag s with
        | none, _ => distStops s
        | some _, none => s
        | some l, some x => match chunkRead s (d.src + 65536 * d.next) with
          | .error g => distStops (egressBad s (chainDev e.1) g)
          | .ok data =>
            let head := plateHead d.ten d.num (deviceNumber s) d.chain.length d.next d.chunks ++ d.chain.flatMap fun e => leBytes 8 e.1
            sendFlits (addXfer { s with dist := some { d with sent := true } } x (chainDev e.1) 0 (.unitWrite distOwner) 0 0 0) l
              (chunkFlits s (chainDev e.1) x head data)
/-- The publisher's chunk is accepted. DEDUCED (log entry 152). -/
def distAccepted (s : State) : State :=
  distPump { s with dist := s.dist.map fun d => { d with sent := false, next := d.next + 1 } }

/-- DISTRIBUTION_START (R283, R284). -/
def execDistributionStart (s : State) : Next :=
  .next (
    let pa := csrBits s 0x378 47 6 * 64
    let s0 := csrPoke (csrPoke { s with dist := none } 0x379 62 62 0) 0x379 9 0 0
    if !stackReady s pa then pushEv s .distributionStart
    else
      let d := hbmRead s pa (64 + 16 * 64)
      match hbmBad s pa 64 with
      | some g => csrPoke (pfEvent s0 { recOf 0x383 with addr := pa, aux := checkAux 0 g }) 0x379 9 0 0x383
      | none =>
        if distBroken s d then csrPoke s0 0x379 9 0 0x350
        else
          let n := bitsOf (headNat d 16 8) 39 32
          let r : Dist := { desc := pa, src := headNat d 0 8, chunks := headNat d 8 8 / 65536, next := 0, sent := false,
                            ten := bitsOf (headNat d 16 8) 3 0, num := bitsOf (headNat d 16 8) 31 16,
                            chain := (chunksOf 16 n (d.drop 64)).map fun e => (headNat e 0 8, none) }
          distPump { s0 with dist := some r })
/-- DISTRIBUTION_REPORT (R284). -/
def execDistributionReport (dev res : Nat) (s : State) : Next := .next (distResult s dev res)

/-! A device of the chain. -/

/-- The owner of the transfer that carries a chunk forwarded. -/
def forwardOwner : Nat := 2 ^ 57
/-- What a chunk is kept under: on arrival its source and tag, while it waits to be forwarded, and while its transfer is on its way. -/
def arrivalKey (src xtag : Nat) : Nat := 4096 * src + xtag
/-- The key of chunks that wait to be forwarded. -/
def waitingKey : Nat := 2 ^ 30
/-- The key of a chunk on its way under a tag of this device. -/
def forwardKey (xtag : Nat) : Nat := 2 ^ 31 + xtag
/-- `s` without a chunk. -/
def dropChunk (s : State) (key : Nat) : State := { s with chunks := s.chunks.filter fun c => c.1 != key }

/-- The distribution that a chunk is of: its publisher, plate number and tenancy as one number. -/
def chunkOf (head : List Byte) : Nat := bitsOf (headNat head 0 8) 33 0
/-- The chain stops at this device: every later device gets RES 0x300, and no later chunk is forwarded. -/
def chunkStops (s : State) (head : List Byte) : State :=
  let d0 := headNat head 0 8
  if s.chainStopped.contains (chunkOf head) then s
  else { s with chainStopped := s.chainStopped ++ [chunkOf head] } |> fun s => ((chunkChain head).drop 1).foldl (fun s e => plateReport s (bitsOf d0 3 0) (bitsOf d0 19 4) (bitsOf d0 33 20) (chainDev e) 0x300) s
/-- The chunks that wait to be forwarded go, in their order, as tags free. -/
def chunkPump (n : Nat) (s : State) : State :=
  match n with
  | 0 => s
  | n + 1 =>
    match s.chunks.find? fun c => c.1 == waitingKey with
    | none => s
    | some (_, c, head) =>
      let s1 := { s with chunks := dropFirst (fun c => c.1 == waitingKey) s.chunks }
      match (if s.chainStopped.contains (chunkOf head) then [] else chunkChain head) with
      | me :: next :: rest =>
        (match linkTo s (chainDev next), freeXtag s with
        | none, _ => chunkPump n (chunkStops s1 head)
        | some _, none => s
        | some l, some x => match chunkRead s (chainPa me + 65536 * c) with
          | .error g => chunkPump n (chunkStops (egressBad s1 (chainDev next) g) head)
          | .ok data =>
            let d0 := headNat head 0 8
            let h := plateHead (bitsOf d0 3 0) (bitsOf d0 19 4) (bitsOf d0 33 20) (rest.length + 1) c (headNat head 12 4) ++
              (next :: rest).flatMap fun e => leBytes 8 e
            let s2 := addXfer { s1 with chunks := s1.chunks ++ [(forwardKey x, c, head)] } x (chainDev next) 0 (.unitWrite forwardOwner) 0 0 0
            chunkPump n (sendFlits s2 l (chunkFlits s (chainDev next) x h data)))
      | _ => chunkPump n s1

/-- After its last chunk a device loads the plate, if it is to, and reports (R284). DEDUCED (log entry 153). -/
def chunkLast (s : State) (head : List Byte) (me : Nat) : State :=
  let d0 := headNat head 0 8
  let ten := bitsOf d0 3 0
  let num := bitsOf d0 19 4
  let pub := bitsOf d0 33 20
  let g := bitsOf me 48 44
  let report := fun (res : Nat) => plateReport s ten num pub (deviceNumber s) res
  if bitsOf me 49 49 = 0 then report 0
  else if !groupReady s g then report 0x217
  else if (loadOf s g ten num).isNone && plateHere s g ten num then report 0x203
  else
    let s1 := askLoad s g ten num (2 ^ 60 + chainPa me) [] false []
    match loadOf s1 g ten num with
    | none => s1
    | some l => modLoad s1 g l.id fun l => { l with reports := l.reports ++ [pub] }

end Sys2Proof.Machine
end

