-- ==== Sys2Proof/Machine/Flits.lean ====
section
/-! DEFINITION. Flits as they arrive (R272, R273, R275 to R281, R284): requests performed at their target, answers, refusals and
timeouts at the issuer, link control, and the Shard Watch over what is incoming (R378). -/

namespace Sys2Proof.Machine

/-! Requests at their target (R280). -/

/-- Whether peers may reach `n` bytes at a local PA (R265, R281). -/
def windowOk (s : State) (pa n : Nat) : Bool :=
  decide (csrBits s 0x37A 47 16 * 65536 ≤ pa) && decide (pa + n ≤ csrBits s 0x37B 47 16 * 65536) && decide (pa + n ≤ Config.hbmBytes)
/-- Bytes written at a local PA, partial granules merged once their check words are verified (R69); the granule that fails. -/
def mergePut (s : State) (pa : Nat) (bs : List Byte) : Except Nat State :=
  let n := bs.length
  match ((granules pa n).filter fun g => !(wholeGranules pa n).contains g).find? fun g => s.spoiled.contains (2 * g) with
  | some g => .error (64 * g)
  | none => .ok (hbmFresh (hbmWrite s pa bs) pa n)
/-- How the race checker sees an access of a peer. -/
def peerRace (kind pa : Nat) (writes stores sync : Bool) : RaceAcc :=
  { kind := kind, writes := writes, stores := stores, sync := sync, acq := none, rel := none, queue := none, inst := 0xFF, iter := 0, va := pa }

/-- A WRITE with all its bytes (R273, R280): refused outside the window, else performed and acknowledged *acc* and *vis*. A partial
granule that does not verify withholds it (R69). DEDUCED (log entry 146). -/
def peerWrite (s : State) (n : Nat) (f : Flit) (pa flags : Nat) (bs : List Byte) : State :=
  if !windowOk s pa bs.length then sendNak s f 0x302
  else match mergePut s pa bs with
    | .error g => pfEvent s { recOf 0x381 with addr := pa, aux := checkAux 5 g }
    | .ok _ =>
      let rel := flags.testBit 2
      let s1 := proxyAccess s n (peerRace (if rel then 5 else 1) pa true true rel) (rel && flags.testBit 3) pa bs.length
      match mergePut s1 pa bs with
      | .error _ => s1
      | .ok s2 => sendAck (sendAck s2 f false) f true

/-- What is being received under a source and tag. -/
def inAt (s : State) (f : Flit) : Option InXfer := s.inXfers.find? fun x => x.src == f.src.toNat && x.xtag == f.xtag.toNat
/-- `s` without it. -/
def dropIn (s : State) (f : Flit) : State :=
  { s with inXfers := s.inXfers.filter fun x => !(x.src == f.src.toNat && x.xtag == f.xtag.toNat) }
/-- A transfer of several flits begins; the Shard Watch looks at it (R378). -/
def inBegin (s : State) (n : Nat) (f : Flit) (pa total flags : Nat) (got : List Byte) : State :=
  let s1 := dropIn s f
  let x : InXfer := { nbr := n, src := f.src.toNat, xtag := f.xtag.toNat, pa := pa, total := total, flags := BitVec.ofNat 32 flags, got := got,
                      started := s.now }
  watchShard { s1 with inXfers := s1.inXfers ++ [x] } 1 (arrivalKey f.src.toNat f.xtag.toNat)
/-- More of its bytes come. -/
def inMore (s : State) (f : Flit) (bs : List Byte) : State :=
  touchShard { s with inXfers := mapWhere (fun x => x.src == f.src.toNat && x.xtag == f.xtag.toNat) (fun x => { x with got := x.got ++ bs }) s.inXfers }
    1 (arrivalKey f.src.toNat f.xtag.toNat)
/-- The flag with which a plate chunk is kept among the transfers. -/
def plateFlag : Nat := 2 ^ 31

/-- A flit at its destination goes on to `k`; while the HBM stack that it needs is not ready it waits at the receiver (R78). DEDUCED (log
entry 148). -/
def atTarget (s : State) (n : Nat) (f : Flit) (pa : Nat) (ev : Instr) (k : State → State) : Next :=
  .next (if f.dst.toNat = deviceNumber s && decide (pa < Config.hbmBytes) && !stackReady s pa then pushEv s ev else receiveFlit s n f k)

/-- WRITE (R272, R273). -/
def execWrite (nbr : Nat) (flit : Flit) (s : State) : Next :=
  let pa := payNat flit 0 8
  let total := bitsOf (payNat flit 8 4) 16 0
  let flags := payNat flit 12 4 % 16
  atTarget s nbr flit pa (.write nbr flit) fun s =>
    if total ≤ 112 then peerWrite s nbr flit pa flags ((padTo 128 flit.payload).drop 16 |>.take total)
    else inBegin s nbr flit pa total flags []

/-- The bytes of a chunk are all here (R284): they go into the device's buffer, the chunk is acknowledged and forwarded, and after the
last one the device loads the plate and reports. DEDUCED (log entry 150). -/
def chunkDone (s : State) (n : Nat) (f : Flit) (x : InXfer) (bs : List Byte) : State :=
  let key := arrivalKey x.src x.xtag
  match s.chunks.find? fun c => c.1 == key with
  | none => s
  | some (_, c, head) =>
    let s1 := dropChunk s key
    let d0 := headNat head 0 8
    if !windowOk s x.pa bs.length then
      chunkStops (plateReport (sendNak s1 f 0x302) (bitsOf d0 3 0) (bitsOf d0 19 4) (bitsOf d0 33 20) (deviceNumber s) 0x302) head
    else
      let s2 := hbmFresh (hbmWrite s1 x.pa bs) x.pa bs.length
      let s3 := proxyAccess s2 n (peerRace 1 x.pa true true false) false x.pa bs.length
      let s4 := sendAck (sendAck s3 f false) f true
      let s5 := chunkPump 8 { s4 with chunks := s4.chunks ++ [(waitingKey, c, head)] }
      if c + 1 = headNat head 12 4 then chunkLast s5 head ((chunkChain head).headD 0) else s5
/-- DATA (R273): the next bytes of a WRITE or of a chunk; with the last of them it is performed. -/
def execData (nbr : Nat) (flit : Flit) (s : State) : Next :=
  match inAt s flit with
  | none => .next (receiveFlit s nbr flit id)
  | some x =>
    atTarget s nbr flit x.pa (.data nbr flit) fun s =>
      if flit.idx.toNat * 128 ≠ x.got.length then s
      else
        let got := (x.got ++ flit.payload).take x.total
        if got.length < x.total then inMore s flit flit.payload
        else if plateFlag ≤ x.flags.toNat then chunkDone (dropIn s flit) nbr flit x got
        else peerWrite (dropIn s flit) nbr flit x.pa x.flags.toNat got

/-- LOADREQ (R275, R280): the bytes are read and sent; a granule that does not verify is withheld. -/
def execLoadreq (nbr : Nat) (flit : Flit) (s : State) : Next :=
  let pa := payNat flit 0 8
  let n := payNat flit 8 4
  let flags := payNat flit 12 4
  atTarget s nbr flit pa (.loadreq nbr flit) fun s =>
    if n = 0 ∨ 128 < n ∨ windowOk s pa n = false then sendNak s flit 0x302
    else
      let acq := flags.testBit 2
      let s1 := proxyAccess s nbr (peerRace (if acq then 4 else 0) pa false false acq) false pa n
      match hbmBad s1 pa n with
      | some g => egressBad s1 flit.src.toNat g
      | none => sendAnswer s1 flit 0x04 (hbmRead s1 pa n)

/-- What an AMOREQ asks for, by the bits of R153: `cas` where a new value stands behind the operand. None where this revision lacks it.
DESIGN CHOICE (log entry 65). -/
def amoAsked (f : Flit) : Option (AccKind × Nat) :=
  let w := payNat f 8 4
  if 24 < f.payload.length then some (.cas (bitsOf w 8 8 == 1), if bitsOf w 8 8 = 1 then 8 else 4)
  else if bitsOf w 8 6 = 7 then none
  else match bitsOf w 5 3 with
    | 0 => some (.amo (BitVec.ofNat 3 (bitsOf w 8 6)) .i32, 4)
    | 1 => some (.amo (BitVec.ofNat 3 (bitsOf w 8 6)) .n32, 4)
    | 2 => some (.amo (BitVec.ofNat 3 (bitsOf w 8 6)) .i64, 8)
    | 3 => some (.amo (BitVec.ofNat 3 (bitsOf w 8 6)) .f32, 4)
    | 4 => some (.amo (BitVec.ofNat 3 (bitsOf w 8 6)) .t16, 2)
    | _ => none
/-- Whether an AMOREQ releases at system scope. -/
def amoReleases (f : Flit) : Bool :=
  let w := payNat f 8 4
  if 24 < f.payload.length then bitsOf w 7 7 == 1 && bitsOf w 5 5 == 1 else bitsOf w 2 2 == 1 && bitsOf w 0 0 == 1
/-- The new value that a peer's atomic writes over `old`; none where a `cas` does not match, or the enable bits that came with the request
catch the result (R50, R231, R232). -/
def amoResult (k : AccKind) (enable : BitVec 5) (n old y z : Nat) : Option Nat :=
  match k with
  | .amo op ty =>
    let r := amoNew op ty old y
    if r.2 &&& enable = 0 then some r.1 else none
  | .cas _ => if old = y % 2 ^ (8 * n) then some (z % 2 ^ (8 * n)) else none
  | _ => none
/-- An atomic performed for a peer (R280). DEDUCED (log entry 87). -/
def peerAtomic (s : State) (nbr : Nat) (f : Flit) : State :=
  let pa := payNat f 0 8
  match amoAsked f with
  | none => sendNak s f 0x301
  | some (k, n) =>
    if !windowOk s pa n then sendNak s f 0x302
    else match hbmBad s pa n with
      | some g => egressBad s f.src.toNat g
      | none =>
        let old := leNat (hbmRead s pa n)
        let new := amoResult k (BitVec.ofNat 5 (bitsOf (payNat f 8 8) 13 9)) n old (payNat f 16 8) (payNat f 24 8)
        let kind := match k with
          | .cas _ => 3
          | _ => 2
        let s1 := proxyAccess s nbr (peerRace kind pa true new.isSome true) (amoReleases f) pa n
        let s2 := match new with
          | none => s1
          | some v => hbmWrite s1 pa (leBytes n v)
        sendAnswer s2 f 0x06 (leBytes 8 old)

/-- The cohort operation in the bytes of a request (DESIGN CHOICE, log entry 29). -/
def peerCohort (s : State) (f : Flit) (bs : List Byte) : State :=
  let d := headNat bs 0 8
  let w := headNat bs 8 4
  let n := bitsOf w 23 16
  let es := chunksOf 8 n (bs.drop 16)
  let waive := bitsOf w 9 0
  let op : CohortOp :=
    { id := s.nextId, dev := f.src.toNat, ten := bitsOf d 19 16, xop := bitsOf w 30 24 % 16, agents := es.map fun e => headNat e 0 4,
      vals := es.map fun e => BitVec.ofNat 32 (headNat e 4 4), sb := BitVec.ofNat 5 (bitsOf d 24 20), coh := bitsOf d 11 0,
      ch := bitsOf d 14 12, reply := none, firing := none, waive := if waive = 0 then none else some (BitVec.ofNat 10 waive),
      xtag := f.xtag.toNat + 1 }
  pushEv (bumpId { s with cohortOps := s.cohortOps ++ [op] }) .cohortOpAtHome
/-- The bytes of a cohort request in all, by its first flit. -/
def cohortTotal (f : Flit) : Nat := 16 + 8 * bitsOf (payNat f 8 4) 23 16
/-- AMOREQ (R280): an atomic, or the next flit of a cohort operation. -/
def execAmoreq (nbr : Nat) (flit : Flit) (s : State) : Next :=
  let cohort := (inAt s flit).isSome || bitsOf (payNat flit 8 4) 31 31 == 1
  if cohort then .next (receiveFlit s nbr flit fun s =>
    match inAt s flit with
    | none =>
      if cohortTotal flit ≤ 128 then peerCohort s flit flit.payload else inBegin s nbr flit 0 (cohortTotal flit) 0 flit.payload
    | some x =>
      let got := x.got ++ flit.payload
      if got.length < x.total then inMore s flit flit.payload else peerCohort (dropIn s flit) flit got)
  else atTarget s nbr flit (payNat flit 0 8) (.amoreq nbr flit) fun s => peerAtomic s nbr flit

/-- A stimulus from a peer reaches its home Walker (R85), which acknowledges it once it takes it. DEDUCED (log entry 149). -/
def peerStim (s : State) (f : Flit) (bs : List Byte) : State :=
  walkerTakes s { cls := 3, rank := 0, order := cycleNow s, ten := stimTen bs, agent := stimAgent bs, stim := some { bytes := bs, clock := none, card := none },
                  op := none, ack := none, peer := some (f.src.toNat, f.xtag.toNat) }
/-- STIM (R272, R280): a stimulus longer than one flit comes in IDX order. -/
def execStim (nbr : Nat) (flit : Flit) (s : State) : Next :=
  .next (receiveFlit s nbr flit fun s =>
    match inAt s flit with
    | none =>
      let total := (stimLen flit.payload + 1) * 16
      if total ≤ flit.payload.length ∨ flit.idx ≠ 0 then peerStim s flit (flit.payload.take (max 16 total))
      else inBegin s nbr flit 0 total 0 flit.payload
    | some x =>
      let got := (x.got ++ flit.payload).take x.total
      if got.length < x.total then inMore s flit flit.payload else peerStim (dropIn s flit) flit got)

/-- PLATE (R284): the next flit of a chunk's header, or a report to this publisher. With the whole header the chunk's DATA may come. -/
def execPlate (nbr : Nat) (flit : Flit) (s : State) : Next :=
  .next (receiveFlit s nbr flit fun s =>
    let key := arrivalKey flit.src.toNat flit.xtag.toNat
    let had := match s.chunks.find? fun c => c.1 == key with
      | some (_, _, h) => if flit.idx = 0 then [] else h
      | none => []
    let head := had ++ flit.payload
    let count := bitsOf (headNat head 0 8) 40 34
    if count = 0 then pushEv s (.distributionReport (headNat head 8 4) (headNat head 12 4))
    else
      let c := headNat head 8 4
      let s0 := if c = 0 then { s with chainStopped := s.chainStopped.filter fun k => k != chunkOf head } else s
      let s1 := { dropChunk s0 key with chunks := (dropChunk s0 key).chunks ++ [(key, c, head)] }
      if head.length < 16 + 8 * count then s1
      else inBegin s1 nbr flit (chainPa ((chunkChain head).headD 0) + 65536 * c) 65536 plateFlag [])

/-! Answers at the issuer (R273, R281). -/

/-- The outstanding transfer of a tag. -/
def xferAt (s : State) (xtag : Nat) : Option Xfer := s.xfers.find? fun x => x.xtag == xtag
/-- `s` without a transfer; stimuli and chunks that waited for a tag go. -/
def dropXfer (s : State) (xtag : Nat) : State :=
  let s1 := { s with xfers := s.xfers.filter fun x => x.xtag != xtag }
  chunkPump 8 (distPump (stimsOut s1.unsent.length s1))
/-- `s` without the transfers of an access. -/
def dropAccXfers (s : State) (acc : Nat) : State :=
  { s with xfers := s.xfers.filter fun x => match x.kind with
      | .store a | .load a | .atomic a => a != acc
      | .lineFill a _ _ => a != acc
      | _ => true }
/-- Whether a transfer of an access is outstanding, but for stores that are acknowledged *acc*. -/
def accOwed (s : State) (acc : Nat) : Bool :=
  s.xfers.any fun x => match x.kind with
    | .store a => a == acc && !x.acc
    | .load a | .atomic a => a == acc
    | .lineFill a _ _ => a == acc
    | _ => false

/-- An answer with bytes has come for a part of an access; once nothing is owed the access is performed. -/
def partGot (s : State) (x : Xfer) (acc : Nat) (bs : List Byte) : State :=
  let s1 := modAcc (dropXfer s x.xtag) acc fun a => { a with got := a.got ++ [(x.need, bs)] }
  if accOwed s1 acc then s1 else pushEv s1 (.accessPerformed acc)
/-- The line that an access asked for has come; it is the Group's copy too, unless the Group has dropped its copies since (R213, R302). -/
def lineGiven (s : State) (x : Xfer) (acc line : Nat) (stale : Bool) (bs : List Byte) : State :=
  let s1 := partGot s { x with need := 16 + line / 64 } acc bs
  match (if stale then none else (accAt s acc).bind fun a => ctxAt s a.ctx) with
  | none => s1
  | some c => modGroup s1 c.group fun g =>
    { g with lines := (g.lines.filter fun l => !(l.peer == x.peer && l.pa == line)) ++ [{ peer := x.peer, pa := line, bytes := bs }] }
/-- LOADRSP (R280). -/
def execLoadrsp (nbr : Nat) (flit : Flit) (s : State) : Next :=
  .next (receiveFlit s nbr flit fun s =>
    match xferAt s flit.xtag.toNat with
    | none => s
    | some x => match x.kind with
      | .load acc => partGot s x acc flit.payload
      | .lineFill acc line stale => lineGiven s x acc line stale (padTo 64 flit.payload)
      | .unitRead owner =>
        let s1 := dropXfer s x.xtag
        { s1 with remoteBuf := s1.remoteBuf ++ [(owner, x.peer, x.entry, padTo x.lsid flit.payload)] }
      | _ => s)

/-- AMORSP (R280): the old value of an atomic, or what a cohort operation delivers. -/
def execAmorsp (nbr : Nat) (flit : Flit) (s : State) : Next :=
  .next (receiveFlit s nbr flit fun s =>
    match xferAt s flit.xtag.toNat with
    | none => s
    | some x => match x.kind with
      | .atomic acc => partGot s x acc (padTo (match accAt s acc with
          | none => 8
          | some a => a.size) flit.payload)
      | .cohort id => match s.cohortOps.find? fun o => o.id == id with
        | none => dropXfer s x.xtag
        | some op => cohAnswered { dropXfer s x.xtag with cohortOps := (dropXfer s x.xtag).cohortOps.filter fun o => o.id != id } op (payNat flit 0 8)
      | _ => s)

/-- The effect of an ACK *acc* on what a transfer carries. -/
def xferAcked (s : State) (x : Xfer) : State :=
  match x.kind with
  | .store acc =>
    if accOwed s acc then s
    else match accAt s acc with
      | none => s
      | some a => if a.sent then settle (accDone { s with settling := s.settling ++ [a] } a [] 0) a.ctx else s
  | .emitNow r w => answerDone s r (keptBytes w).length
  | .unitWrite owner =>
    if owner = distOwner then distAccepted s else if owner = forwardOwner then dropChunk s (forwardKey x.xtag) else s
  | _ => s
/-- The effect of an ACK *vis*: a store at a peer has settled once all its parts have. -/
def xferSeen (s : State) (x : Xfer) : State :=
  match x.kind with
  | .store acc => if s.xfers.any fun y => y.kind == .store acc then s else { s with settling := s.settling.filter fun a => a.id != acc }
  | _ => s
/-- Whether a transfer is over with its ACK *acc* (R308). -/
def accEnds (k : XferKind) : Bool :=
  match k with
  | .heldStim _ _ => true
  | _ => false
/-- ACK (R273): *acc*, then *vis*, with which the transfer is over. -/
def execAck (nbr : Nat) (flit : Flit) (s : State) : Next :=
  .next (receiveFlit s nbr flit fun s =>
    match xferAt s flit.xtag.toNat with
    | none => s
    | some x =>
      if x.peer ≠ flit.src.toNat then s
      else if payNat flit 0 4 = 1 then (if x.acc then xferSeen (dropXfer s x.xtag) x else s)
      else if x.acc then s
      else if accEnds x.kind then dropXfer s x.xtag
      else xferAcked { s with xfers := mapWhere (fun y => y.xtag == x.xtag) (fun y => { y with acc := true }) s.xfers } x)

/-- AUX of causes 0x300 to 0x303 (R365). DEDUCED (log entry 68). -/
def xferAux (x : Xfer) (frev : Nat) : Nat :=
  x.peer % 2 ^ 14 + frev % 256 * 2 ^ 14 + x.xtag % 4096 * 2 ^ 22 + (if x.acc then 2 ^ 34 else 0)
/-- The PA that a transfer of an access goes to. -/
def xferPa (a : Access) (x : Xfer) : Nat :=
  match x.kind, (a.parts.drop x.need).head? with
  | .lineFill _ line _, _ => line
  | _, some (.remote _ pa _, _, _, _) => pa
  | _, _ => 0
/-- An access fails at its peer (R281): it is requested anew at resume. A store that was acknowledged before is no longer (R285). -/
def accFails (s : State) (x : Xfer) (acc cause aux : Nat) : State :=
  let late := s.settling.filter fun a => a.id == acc
  let s0 := if late.isEmpty then s else { s with settling := s.settling.filter fun a => a.id != acc, accesses := s.accesses ++ late }
  let s1 := dropAccXfers s0 acc
  match accAt s1 acc with
  | none => s1
  | some a =>
    let b := { a with sent := false, got := [] }
    accFault (modAcc s1 acc fun _ => b) { b with addr := BitVec.ofNat 64 (xferPa a x) } cause aux 0 [] (.accessPerformed acc)
/-- A unit's request fails at its peer. DEDUCED (log entry 176). -/
def unitFails (s : State) (owner cause aux pa : Nat) : State := { s with remoteBad := s.remoteBad ++ [(owner, cause, aux, pa)] }
/-- A transfer fails with a cause (R281): by NAK, or as no answer came in time. -/
def xferFails (s : State) (x : Xfer) (cause frev : Nat) : State :=
  let aux := xferAux x frev
  let s1 := dropXfer s x.xtag
  match x.kind with
  | .store acc | .load acc | .atomic acc => accFails s1 x acc cause aux
  | .lineFill acc _ _ => accFails s1 x acc cause aux
  | .copy id =>
    unitFails { s1 with xfers := s1.xfers.filter fun y => y.kind != .copy id } (opOwner id) cause aux x.entry
  | .emitNow r w => fireFault (closeReply s1 r) w cause { infoAt 0 aux with iter := w.iter }
  | .heldStim ten st => stimLost s1 ten cause aux st
  | .cohort id => match s1.cohortOps.find? fun o => o.id == id with
    | none => s1
    | some op => cohRefused { s1 with cohortOps := s1.cohortOps.filter fun o => o.id != id } op cause
        (if 0x300 ≤ cause ∧ cause ≤ 0x303 then aux else 0)
  | .unitRead owner => unitFails s1 owner cause aux x.entry
  | .unitWrite owner =>
    if owner = distOwner then distStops { s1 with dist := s1.dist.map fun d => { d with sent := false } }
    else if owner = forwardOwner then
      match s1.chunks.find? fun c => c.1 == forwardKey x.xtag with
      | none => s1
      | some (_, _, head) => chunkStops (dropChunk s1 (forwardKey x.xtag)) head
    else if 2 ^ 59 ≤ owner ∧ owner < 2 ^ 60 then w4Refused s1 ((owner - 2 ^ 59) / 2) (owner % 2) x.entry
    else unitFails s1 owner cause aux x.entry
/-- NAK (R281): from the peer, or cause 0x300 from a device on the path. -/
def execNak (nbr : Nat) (flit : Flit) (s : State) : Next :=
  .next (receiveFlit s nbr flit fun s =>
    let cause := bitsOf (payNat flit 0 4) 9 0
    match (if payNat flit 8 8 = 1 then none else xferAt s flit.xtag.toNat) with
    | none => s
    | some x => if x.peer ≠ flit.src.toNat ∧ cause ≠ 0x300 then s else xferFails s x cause (bitsOf (payNat flit 4 4) 7 0))

/-- Whether a request waits for a replay or for a restripe of its link (R281). -/
def xferHeld (s : State) (x : Xfer) : Bool :=
  s.links.any fun e => (e.2.stopped || e.2.asked.isSome || decide (csrBits s 0x376 31 16 ≤ s.now - e.2.lastAck)) &&
    e.2.replay.any fun f => !f.resp && f.xtag.toNat == x.xtag && f.src.toNat == deviceNumber s
/-- Whether the answer that a transfer is to have has not come within Remote Timeout of its sending (R281). -/
def xferLate (s : State) (x : Xfer) : Bool := !x.acc && !xferHeld s x && x.sentAt != 0 && decide (csrBits s 0x377 31 0 < s.now + 1 - x.sentAt)
/-- REMOTE_TIMEOUT (R281). -/
def execRemoteTimeout (s : State) : Next :=
  .next (
    let s1 := (s.xfers.filter (xferLate s)).foldl (fun s x => if s.xfers.contains x then xferFails s x 0x303 0 else s) s
    let s2 := chunkPump 8 (distPump (stimsOut s1.unsent.length s1))
    if s2.xfers.isEmpty then s2 else pushEvOnce s2 .remoteTimeout)

/-! Transit, link control and replay. -/

/-- FLIT_TRANSIT (R279). -/
def execFlitTransit (nbr : Nat) (flit : Flit) (s : State) : Next := .next (receiveFlit s nbr flit id)
/-- Whether a flit type is pilot-only (R272). -/
def pilotKind (f : Flit) : Bool := decide (16 ≤ f.kind.toNat) && decide (f.kind.toNat ≤ 0x13)
/-- RESERVED_TYPE_FLIT (R272): discarded and counted; one of a virtual channel has used its SEQ. DEDUCED (log entry 159). -/
def execReservedTypeFlit (nbr : Nat) (pilot : Bool) (flit : Flit) (s : State) : Next :=
  .next (
    let count := fun (s : State) => modLink s nbr fun l => { l with discards := l.discards + 1 }
    if !nbrLive s nbr then s
    else if pilot || pilotKind flit then count s
    else match linkTake s nbr flit with
      | none => s
      | some s1 => count (if flit.dst.toNat = deviceNumber s then s1 else bufferFreed s1 (some (nbr, flitVc flit))))

/-- FREED of a virtual channel as a LINKCTL reports it; one that would lower the allowance is stale (R277). -/
def freedTake (f : Flit) (l : Link) (v : Nat) : Link :=
  let fr := BitVec.ofNat 16 (payNat f (8 + 2 * v) 2)
  let l1 := { l with freedIn := tabSet (fun _ => 0) l.freedIn v fr }
  if (allowance l1 v).toNat < (allowance l v).toNat then l else l1
/-- LINKCTL (R276, R277). -/
def execLinkctl (nbr : Nat) (flit : Flit) (s : State) : Next :=
  .next (
    if !pilotOk s nbr flit then s
    else
      let l := linkAcked (linkAt s nbr) s.now (BitVec.ofNat 24 (payNat flit 0 4))
      linkPump (setLink s nbr ((List.range 8).foldl (freedTake flit) l)) nbr)

/-- The links of the fabric in use that are not down. -/
def linksUp (s : State) : List Nat := (((fabricOf s).nbrs.map (·.1)).filter (nbrLive s)).filter fun n => !(linkAt s n).down
/-- REPLAY_TIMEOUT (R276, R285): what is unacknowledged for RTO is sent again; a replay waits for a restripe in progress. -/
def execReplayTimeout (s : State) : Next :=
  .next (
    let late := fun (s : State) (n : Nat) =>
      let l := linkAt s n
      !l.replay.isEmpty && !l.stopped && l.asked.isNone && decide (csrBits s 0x376 31 16 ≤ s.now - l.lastAck)
    let s1 := (linksUp s).foldl (fun s n => if late s n then linkReplay s n else s) s
    if (linksUp s1).any fun n => !(linkAt s1 n).replay.isEmpty then pushEvOnce s1 .replayTimeout else s1)
/-- LINKCTL_BEACON (R276): every 256 ns. -/
def execLinkctlBeacon (s : State) : Next :=
  .next (
    let s1 := (linksUp s).foldl (fun s n => if 256 ≤ s.now - (linkAt s n).beacon then sendLinkctl s n else s) s
    if (linksUp s1).isEmpty then s1 else pushEvOnce s1 .linkctlBeacon)

/-! The Shard Watch (R378). -/

/-- Whether an object still makes no progress: a slot in Filling, a transfer not complete, an operation held on withheld data; with its
tenancy and address. -/
def shardStalls (s : State) (kind obj : Nat) : Option (Option Nat × Nat) :=
  match kind with
  | 0 =>
    let t := tileAt s (obj / 1024) (obj % 1024)
    if t.state = 1 then some (some t.ten.toNat, 0xEC * 2 ^ 56 + obj / 1024 * 2 ^ 49 + obj % 1024 * 16384) else none
  | 1 => (s.inXfers.find? fun x => arrivalKey x.src x.xtag == obj).map fun x => (none, x.pa)
  | _ =>
    let held := fun (o : EngOp) => o.id == obj && o.held
    let op := s.presses.findSome? fun p => match p.2.running.find? held with
      | some o => some o
      | none => ((p.2.queues.flatMap (·.2)) ++ p.2.units.map (·.2.op)).find? held
    op.bind fun o => (ctxAt s o.ctx).map fun x => (some x.ten, match o.kind with
      | .matrix d _ | .graverConfig d _ => d
      | .copy _ src _ | .remoteCopy _ src _ => src
      | .drain k _ _ => 0xE8 * 2 ^ 56 + k * 16384
      | .restWrite d _ => d
      | .graverRun _ _ a => a
      | .marker _ => 0)
/-- SHARD_WATCH_EXPIRY (R378): an object that makes no progress for the time is reported once; each later stall is reported again. -/
def execShardWatchExpiry (kind obj : Nat) (s : State) : Next :=
  .next (match s.shards.find? fun h => h.kind == kind && h.obj == obj with
    | none => s
    | some h =>
      let same := fun (g : Shard) => g.kind == kind && g.obj == obj
      match shardStalls s kind obj with
      | none => { s with shards := s.shards.filter fun g => !same g }
      | some (ten, addr) =>
        let v := csrBits s 0x3D9 31 0
        let time := if v < 1000 then 1000 else if 10 ^ 9 < v then 10 ^ 9 else v
        let again := fun (s : State) => pushEvOnce s (.shardWatchExpiry kind obj)
        if v = 0 ∨ h.told = true ∨ s.now - h.since < time then again s
        else
          let s1 := { s with shards := mapWhere same (fun g => { g with told := true }) s.shards }
          let r := { recOf 0x387 with addr := addr }
          again (match ten with
            | some t => tenRecord s1 { r with ten := t }
            | none => pfEvent s1 r))

end Sys2Proof.Machine
end

