-- ==== Sys2Proof/Machine/Stripe.lean ====
section
/-! DEFINITION. Wavelengths and stripes (R263, R267, R274, R278, R285): losing light, restriping, and what leases make of it. -/

namespace Sys2Proof.Machine

/-- STATE of Fabric Control (R265). -/
def fabricState (s : State) : Nat := csrBits s 0x371 60 58
/-- The valid neighbours of the fabric in use. -/
def nbrNums (s : State) : List Nat := ((fabricOf s).nbrs.map (·.1)).filter (nbrLive s)
/-- The neighbour whose wavelength `j` is. -/
def waveNbr (s : State) (j : Nat) : Nat := bitsOf (mapWord (fabricOf s) j) 7 0
/-- Whether ELS `e` feeds wavelength `j` (R263). -/
def elsFeeds (e j : Nat) : Bool := j / 64 / 16 == e / 16 && j % 64 / 4 == e % 16
/-- Whether the ELS that feeds wavelength `j` and the optical engine of its fibre are ready (R77, R78): engine k serves fibres 4k to 4k + 3.
DESIGN CHOICE (log entry 199). -/
def waveReady (s : State) (j : Nat) : Bool := readyBit s (312 + 16 * (j / 1024) + j % 64 / 4) && readyBit s (296 + j / 256)
/-- The bit of wavelength `j` in the masks of its neighbour. -/
def waveBit (s : State) (j : Nat) : BitVec 64 := waveMask (fabricOf s) (waveNbr s j) fun k => k == j
/-- The wavelengths of a neighbour that count against Lit Budget (R267). -/
def nbrLit (s : State) (n : Nat) : Nat :=
  ((nbrWaves (fabricOf s) n).filter fun j => waveAt s j == .locking || waveAt s j == .live || waveAt s j == .retiring).length
/-- The payload of LEASE (DESIGN CHOICE, log entry 30): 1 ask, 2 grant, 3 report, 4 light lost while
locking; the sender's lit count; the wavelengths concerned. -/
def leasePayload (code lit : Nat) (m : BitVec 64) : List Byte := leBytes 4 code ++ leBytes 4 lit ++ leBytes 8 m.toNat
/-- A lit count has fallen: peers are told, and what is pending may be asked again (R268). -/
def litFell (s : State) : State :=
  let s1 := { s with leases := s.leases.map fun r => { r with stale := false } }
  let s2 := (nbrNums s).foldl (fun s n => if (linkAt s n).down then s else sendPilot s n 0x12 (leasePayload 3 (litCount s) 0)) s1
  if s2.leases.isEmpty then s2 else pushEvOnce s2 .leaseArbitrate
/-- Gives and revokes none of whose wavelengths is LIVE any more deliver how many have become RETIRING (R319). DEDUCED (log entry 123). -/
def retiresDone (s : State) : State :=
  let live := fun (r : Retire) => r.waves.any fun j => waveAt s j == .live
  (s.retires.filter fun r => !live r).foldl (fun s r => match r.reply with
    | none => s
    | some q => settle (answer s q (r.waves.filter fun j => waveAt s j == .retiring).length .w32) q.ctx)
    { s with retires := s.retires.filter live }

/-- The payload of RESTRIPE (R272). DESIGN CHOICE (log entry 33). -/
def stripePayload (epoch : Nat) (first : BitVec 24) (live lost : BitVec 64) (expect : BitVec 24) : List Byte :=
  leBytes 4 epoch ++ leBytes 4 first.toNat ++ leBytes 8 live.toNat ++ leBytes 8 lost.toNat ++ leBytes 8 expect.toNat
/-- A restripe asked of the peer (R274, R278): after a loss nothing is dealt until the new epoch, which begins at the oldest
unacknowledged flit of this end, or, where the receiver has seen the loss, at the flit that it expects. -/
def stripeAsk (s : State) (n : Nat) (live lost : BitVec 64) (els : Option Nat) : State :=
  let l := linkAt s n
  let first := if lost ≠ 0 ∧ els = none then l.expect else l.acked
  sendPilot (setLink s n { l with asked := some (live, els, lost), stopped := l.stopped || lost != 0 }) n 0x11
    (stripePayload (l.epoch + 1) first live lost l.expect)
/-- The wavelengths of a link whose loss is not yet taken out of the stripe. -/
def lostMask (l : Link) : BitVec 64 := l.lost.foldl (fun m e => m ||| e.1) 0
/-- What is unacknowledged is sent again over a new stripe from which nothing was lost, where replay is armed (R276, R285). DEDUCED (log
entry 198). -/
def stripeReplay (s : State) (n : Nat) : State :=
  let l := linkAt s n
  if csrBits s 0x3D8 1 1 = 0 ∨ csrBits s 0x376 7 0 ≤ l.replays ∨ l.stopped = true then s else linkReplay s n
/-- The next restripe that this end has cause for: wavelengths lost, given back, or granted and locked. -/
def stripeNext (s : State) (n : Nat) : State :=
  let l := linkAt s n
  let give := s.retires.find? fun r => r.nbr == n && r.waves.any fun j => waveAt s j == .live
  if l.down || l.held || l.asked.isSome then s
  else match l.lost, give with
    | (m, els) :: _, _ => stripeAsk s n (l.live &&& ~~~(lostMask l)) m els
    | [], some r => stripeAsk s n (l.live &&& ~~~(waveMask (fabricOf s) n fun j => r.waves.contains j)) 0 none
    | [], none => if l.grow != 0 && (l.grow &&& ~~~l.locked) == 0 then stripeAsk s n (l.live ||| l.grow) 0 none else s
/-- An end takes a new epoch (R267, R274): lost wavelengths are FAILED, those left out retire, and locked ones that join are LIVE. After
a loss the lane skew is realigned, and the event of R388 written, with the ELS of this end that reported it. -/
def stripeSwitch (s : State) (n epoch : Nat) (live lost : BitVec 64) (e : Nat) : State :=
  let f := fabricOf s
  let els := ((linkAt s n).lost.find? fun q => q.1 &&& lost != 0).bind (·.2)
  let gone := (nbrWaves f n).filter fun j => waveAt s j == .live && !((maskWaves f n (live ||| lost)).contains j)
  let s1 := setWaves s ((maskWaves f n lost).filter fun j => waveAt s j != .dark) .failed
  let s2 := setWaves s1 gone .retiring
  let s3 := setWaves s2 ((maskWaves f n live).filter fun j => waveAt s j == .locking) .live
  let s4 := modLink s3 n fun l =>
    { l with live := live, epoch := epoch, words := 0, lost := (l.lost.map fun q => (q.1 &&& ~~~lost, q.2)).filter fun q => q.1 != 0, asked := none, grow := l.grow &&& ~~~(live ||| lost),
             locked := l.locked &&& ~~~(live ||| lost), stopped := l.stopped || lost != 0 }
  let s5 := pushEvs (retiresDone (devCount s4 0x207 1)) (gone.map .wavelengthDark)
  let s6 := if lost = 0 then stripeReplay s5 n
    else pushEvOnce (litFell (pfEvent s5 (linkRec s5 0x330 n e (dataWaves s5 n).length els lost live))) (.realignComplete n)
  stripeNext s6 n

/-- Whether a live mask names granted wavelengths that have not locked at this end (R267). -/
def lockOwed (s : State) (n : Nat) (live : BitVec 64) : Bool :=
  (maskWaves (fabricOf s) n (live &&& ~~~(linkAt s n).locked)).any fun j => waveAt s j == .locking
/-- RESTRIPE (R274, R278, R285): the answer to this end's request, or a request that is answered and takes effect, once every wavelength
that joins has locked here too. While both have asked, that of the lower device number goes first. -/
def execRestripe (nbr : Nat) (flit : Flit) (s : State) : Next :=
  .next (
    if !pilotOk s nbr flit then s
    else
      let epoch := payNat flit 0 4
      let first := payNat flit 4 4
      let live := BitVec.ofNat 64 (payNat flit 8 8)
      let lost := BitVec.ofNat 64 (payNat flit 16 8)
      let l := linkAcked (linkAt s nbr) s.now (BitVec.ofNat 24 (payNat flit 24 8))
      let s1 := setLink s nbr l
      let take := fun (s : State) =>
        stripeSwitch (sendPilot s nbr 0x11 (stripePayload epoch (BitVec.ofNat 24 first) live lost l.expect)) nbr epoch live lost first
      match l.asked with
      | none => if lockOwed s nbr live then pushEvOnce s1 (.restripe nbr flit) else take s1
      | some (lv, _, lo) =>
        if lv = live ∧ lo = lost then stripeSwitch s1 nbr epoch live lost first
        else if deviceNumber s < nbrPeer (fabricOf s) nbr then s1
        else if lockOwed s nbr live then pushEvOnce s1 (.restripe nbr flit)
        else take s1)

/-- The wavelengths of a neighbour that a loss of light takes: those seen dark, or all that the ELS that failed feeds (R263, R278). -/
def lossWaves (s : State) (n : Nat) (lost : Dbl) (els : Option Nat) : List Nat :=
  let f := fabricOf s
  let js := match els with
    | none => maskWaves f n lost
    | some e => (nbrWaves f n).filter (elsFeeds e)
  js.filter fun j => waveAt s j == .locking || waveAt s j == .live || waveAt s j == .retiring
/-- Light lost on LOCKING wavelengths: they are FAILED, and leave the grant, whose rest goes on (R285). -/
def grantDrops (s : State) (n : Nat) (js : List Nat) : State :=
  let m := waveMask (fabricOf s) n fun j => js.contains j
  modLink (setWaves s js .failed) n fun l => { l with grow := l.grow &&& ~~~m, locked := l.locked &&& ~~~m }
/-- LOSS_OF_LIGHT (R278, R285): the wavelengths are FAILED; the link restripes, or is down where its pilot is lost or restriping is not
armed. The peer is told of those that were LOCKING. DEDUCED (log entry 124). -/
def execLossOfLight (nbr : Nat) (lost : Dbl) (els : Option Nat) (s : State) : Next :=
  .next (
    let f := fabricOf s
    let js := lossWaves s nbr lost els
    if !nbrLive s nbr || (linkAt s nbr).down || js.isEmpty then s
    else
      let m := waveMask f nbr fun j => js.contains j
      let carried := js.filter fun j => waveAt s j != .locking
      let dropped := waveMask f nbr fun j => js.contains j && waveAt s j == .locking
      let s0 := grantDrops s nbr js
      let s1 := if dropped = 0 then s0 else sendPilot s0 nbr 0x12 (leasePayload 4 (litCount s0) dropped)
      if js.any (fun j => nbrPilot f nbr == some j) || (!carried.isEmpty && csrBits s 0x3D8 0 0 == 0) then
        litFell (retiresDone (linkDown s1 nbr m els))
      else if carried.isEmpty then stripeNext (litFell s1) nbr
      else
        let gone := waveMask f nbr fun j => carried.contains j
        retiresDone (stripeNext (litFell (modLink s1 nbr fun l => { l with lost := l.lost ++ [(gone, els)], stopped := true })) nbr))

/-- REALIGN_COMPLETE (R278): the skew of the lanes is set right; what is unacknowledged is replayed over the new stripe, then new flits
go. -/
def execRealignComplete (nbr : Nat) (s : State) : Next :=
  .next (
    let l := linkAt s nbr
    if !l.stopped || l.down then s
    else if l.asked.isSome then pushEvOnce s (.realignComplete nbr)
    else linkPump (linkReplay (setLink s nbr { l with stopped := false }) nbr) nbr)

/-- WAVELENGTH_LOCKED (R267, R268): once all granted wavelengths have locked they join the stripe. -/
def execWavelengthLocked (j : Nat) (s : State) : Next :=
  .next (
    let n := waveNbr s j
    let b := waveBit s j
    if waveAt s j != .locking || (linkAt s n).grow &&& b == 0 then s
    else if !waveReady s j then pushEv s (.wavelengthLocked j)
    else stripeNext (modLink s n fun l => { l with locked := l.locked ||| b }) n)

/-- WAVELENGTH_DARK (R267, R269): the last word of a retiring wavelength has come. -/
def execWavelengthDark (j : Nat) (s : State) : Next :=
  .next (if waveAt s j != .retiring then s else litFell (setWave s j .dark))

/-- LIGHT_RESTORED (R267): a failed wavelength may be granted again; event 0x331 (R388). -/
def execLightRestored (j : Nat) (s : State) : Next :=
  .next (
    if waveAt s j != .failed then s
    else
      let n := waveNbr s j
      let s1 := setWave s j .dark
      let s2 := pfEvent s1 (linkRec s1 0x331 n 0 (dataWaves s1 n).length none (waveBit s1 j) (linkAt s1 n).live)
      if s2.leases.isEmpty then s2 else pushEvOnce s2 .leaseArbitrate)

end Sys2Proof.Machine
end

