-- ==== Sys2Proof/Machine/Lease.lean ====
section
/-! DEFINITION. Leases (R268 to R270, R319): the instructions, the arbiter, and rebalancing. -/

namespace Sys2Proof.Machine

/-! The instructions (R319). -/

/-- The neighbour and the number of wavelengths of a request. -/
def leaseNbr (v : Nat) : Nat := bitsOf v 7 0
/-- The k of a request. -/
def leaseCount (v : Nat) : Nat := bitsOf v 31 20
/-- LIVE wavelengths of a neighbour besides its pilot. -/
def liveWaves (s : State) (n : Nat) : List Nat := (dataWaves s n).filter fun j => waveAt s j == .live
/-- Whether a `lease.req` is illegal (R268). -/
def reqIllegal (s : State) (v : Nat) : Bool :=
  bitsOf v 19 8 != 0 || !nbrLive s (leaseNbr v) || leaseCount v == 0 ||
    decide ((nbrWaves (fabricOf s) (leaseNbr v)).length ≤ leaseCount v)
/-- Whether a `lease.give` or `lease.rev` is illegal. -/
def giveIllegal (s : State) (v : Nat) : Bool :=
  bitsOf v 19 8 != 0 || !nbrLive s (leaseNbr v) || leaseCount v == 0 || decide ((liveWaves s (leaseNbr v)).length < leaseCount v)
/-- Whether a tenancy has LEASE set (R305). -/
def leaseAllowed (s : State) (x : Ctx) : Bool := csrBits s 0x0F8 (16 + x.ten) (16 + x.ten) == 1

/-- A lease request that passes its checks: 0x310, then what the tenancy is not permitted. DEDUCED (log entry 121). -/
def leaseAsk (m : FireMode) (ts : List Target) (s : State) (illegal : Nat → Bool) (allowed : Ctx → Bool) (denied : Nat)
    (go : State → Firing → Reply → Nat → State) : Next :=
  onRequest m ts s .w32 fun w =>
    match ctxAt s w.ctx with
    | none => s
    | some x =>
      let v := aFirst m w
      if illegal v && !passed w.waive 0x310 then fireFault s w 0x310 { infoAt v 0 with iter := w.iter }
      else if !allowed x && !passed w.waive denied then fireFault s w denied { infoAt v 0 with iter := w.iter }
      else
        let r := openReply s m w ts
        if illegal v then answer r.1 r.2 0 .w32 else go r.1 w r.2 v

/-- LEASE_REQ (R268, R319). -/
def execLeaseReq (f : FireMode) (t u : Target) (s : State) : Next :=
  leaseAsk f [t, u] s (reqIllegal s) (leaseAllowed s) 0x312 fun s w r v =>
    let q : LeaseReq := { id := s.nextId, reply := r, firing := w, nbr := leaseNbr v, owes := leaseCount v, asked := 0, stale := false,
                          answered := false, since := s.now }
    pushEvOnce (pushEvOnce (bumpId { s with leases := s.leases ++ [q] }) .leaseArbitrate) .leaseAgeExpiry
/-- The LIVE wavelengths of highest j that are not leaving already; they begin to leave (R269). -/
def leaseDrop (s : State) (n k : Nat) (r : Option Reply) : State :=
  let js := ((liveWaves s n).filter fun j => !(s.retires.any fun q => q.waves.contains j)).reverse.take k
  stripeNext (retiresDone { s with retires := s.retires ++ [{ nbr := n, reply := r, waves := js }] }) n
/-- LEASE_GIVE (R269, R319). -/
def execLeaseGive (f : FireMode) (t u : Target) (s : State) : Next :=
  leaseAsk f [t, u] s (giveIllegal s) (leaseAllowed s) 0x312 fun s _ r v => leaseDrop s (leaseNbr v) (leaseCount v) (some r)
/-- LEASE_REV (R269, R319). -/
def execLeaseRev (f : FireMode) (t u : Target) (s : State) : Next :=
  leaseAsk f [t, u] s (giveIllegal s) (supervisor s) 0x311 fun s _ r v => leaseDrop s (leaseNbr v) (leaseCount v) (some r)

/-- The status of the lease towards a neighbour (R319). -/
def leaseStatus (s : State) (n : Nat) : Nat :=
  if !nbrLive s n then 0
  else
    let f := fabricOf s
    let count := fun (w : Wave) => ((nbrWaves f n).filter fun j => waveAt s j == w).length
    let owed := (s.leases.filter fun q => q.nbr == n).foldl (fun k q => k + q.owes) 0
    (liveWaves s n).length * 2 ^ 52 + owed % 4096 * 2 ^ 40 + nbrShare f n % 256 * 2 ^ 32 + count .locking * 2 ^ 20 + count .failed * 2 ^ 8 + 1
/-- LEASE_Q (R319). -/
def execLeaseQ (f : FireMode) (t u : Target) (s : State) : Next :=
  onRequest f [t, u] s .w32 fun w =>
    let v := aFirst f w
    if bitsOf v 31 8 ≠ 0 && !passed w.waive 0x310 then fireFault s w 0x310 { infoAt v 0 with iter := w.iter }
    else
      let r := openReply s f w [t, u]
      answer r.1 r.2 (leaseStatus s (leaseNbr v)) .w64

/-! The arbiter (R268). -/

/-- `s` with a pending request changed. -/
def modLease (s : State) (id : Nat) (f : LeaseReq → LeaseReq) : State := { s with leases := mapWhere (fun q => q.id == id) f s.leases }
/-- Wavelengths that may yet be lit: Lit Budget less those lit and those asked for. DEDUCED (log entry 122). -/
def litRoom (s : State) : Nat := csrBits s 0x374 12 0 - litCount s - s.leases.foldl (fun n q => n + maskCount q.asked) 0
/-- One pending request asked of its peer, if wavelengths and budget allow. -/
def leaseServe (s : State) (q : LeaseReq) : State :=
  let f := fabricOf s
  let l := linkAt s q.nbr
  let js := ((nbrWaves f q.nbr).filter fun j => waveAt s j == .dark && nbrPilot f q.nbr != some j).take (min q.owes (litRoom s))
  if q.stale || l.down || l.held || js.isEmpty || (s.leases.any fun r => r.nbr == q.nbr && r.asked != 0) then s
  else
    let m := waveMask f q.nbr fun j => js.contains j
    sendPilot (modLease s q.id fun q => { q with asked := m }) q.nbr 0x12 (leasePayload 1 (litCount s) m)
/-- LEASE_ARBITRATE (R268): the pending requests in the order of their age. -/
def execLeaseArbitrate (s : State) : Next :=
  .next (if fabricState s ≠ 1 then s else s.leases.foldl leaseServe s)

/-- A peer's ask (R268): it is granted what this device's Lit Budget allows, lowest j first; that locks at this end too (R267). -/
def leaseGrant (s : State) (n : Nat) (m : BitVec 64) : State :=
  let f := fabricOf s
  let js := ((maskWaves f n m).filter fun j => waveAt s j == .dark).take (litRoom s)
  let m' := waveMask f n fun j => js.contains j
  let s1 := pushEvs (modLink (setWaves s js .locking) n fun l => { l with grow := l.grow ||| m' }) (js.map .wavelengthLocked)
  sendPilot s1 n 0x12 (leasePayload 2 (litCount s1) m')
/-- The answer to an ask (R268): what is granted begins to lock; the first answer is delivered (R319). -/
def leaseGranted (s : State) (n : Nat) (m : BitVec 64) : State :=
  match s.leases.find? fun q => q.nbr == n && q.asked != 0 with
  | none => s
  | some q =>
    let js := (maskWaves (fabricOf s) n (m &&& q.asked)).filter fun j => waveAt s j == .dark
    let k := js.length
    let s1 := modLink (setWaves s js .locking) n fun l => { l with grow := l.grow ||| waveMask (fabricOf s) n fun j => js.contains j }
    let s2 := pushEvs s1 (js.map .wavelengthLocked)
    let s3 := if q.answered then s2 else settle (answer s2 q.reply k .w32) q.reply.ctx
    let s4 := if q.owes ≤ k then { s3 with leases := s3.leases.filter fun r => r.id != q.id }
      else modLease s3 q.id fun q => { q with owes := q.owes - k, asked := 0, stale := true, answered := true }
    if s4.leases.isEmpty then s4 else pushEvOnce s4 .leaseArbitrate
/-- LEASE (R268, R285): an ask, a grant, a report that the peer's lit count has fallen, or light lost there on LOCKING wavelengths. -/
def execLease (nbr : Nat) (flit : Flit) (s : State) : Next :=
  .next (
    let m := BitVec.ofNat 64 (payNat flit 8 8)
    if !pilotOk s nbr flit then s
    else match payNat flit 0 4 with
      | 1 => leaseGrant s nbr m
      | 2 => leaseGranted s nbr m
      | 3 =>
        let s1 := { s with leases := mapWhere (fun q => q.nbr == nbr) (fun q => { q with stale := false }) s.leases }
        if s1.leases.isEmpty then s1 else pushEvOnce s1 .leaseArbitrate
      | 4 =>
        let js := (maskWaves (fabricOf s) nbr m).filter fun j => waveAt s j == .locking
        if js.isEmpty then s else stripeNext (litFell (grantDrops s nbr js)) nbr
      | _ => s)

/-! Rebalancing (R270). -/

/-- The neighbour with the largest surplus of lit wavelengths over its share, the lower number at a tie; with its surplus. -/
def mostSurplus (s : State) : Option (Nat × Nat) :=
  (nbrNums s).foldl (fun b n =>
    let k := nbrLit s n - nbrShare (fabricOf s) n
    if k = 0 then b
    else match b with
      | none => some (n, k)
      | some (_, j) => if j < k then some (n, k) else b) none
/-- LEASE_AGE_EXPIRY (R270): for a request past Lease Age Limit the arbiter revokes, if that is armed. -/
def execLeaseAgeExpiry (s : State) : Next :=
  .next (
    if s.leases.isEmpty then s
    else
      let s1 := pushEvOnce s .leaseAgeExpiry
      let busy := (s.retires.any fun r => r.reply.isNone) || s.waves.any fun w => w.2 == .retiring
      match s.leases.find? fun q => decide (csrBits s 0x375 31 0 < s.now - q.since), mostSurplus s with
      | some q, some (n, k) =>
        if csrBits s 0x3D8 4 4 = 0 ∨ busy = true ∨ fabricState s ≠ 1 then s1 else leaseDrop s1 n (min q.owes k) none
      | _, _ => s1)

end Sys2Proof.Machine
end

