-- ==== Sys2Proof/Machine/Fabric.lean ====
section
/-! DEFINITION. The Fabric Image (R264 to R266), its load, and the reconfiguration of a running fabric (R282). -/

namespace Sys2Proof.Machine

/-! The image (R264, R265). -/

/-- Entries of `size` bytes of a table at `base` that are not zero, by index from `i` on; `n` are left. -/
def imageTable (s : State) (base size i n : Nat) : List (Nat × Nat) :=
  match n with
  | 0 => []
  | n + 1 =>
    let v := leNat (hbmRead s (base + size * i) size)
    if v = 0 then imageTable s base size (i + 1) n else (i, v) :: imageTable s base size (i + 1) n
/-- The image that lies at a local PA. -/
def fabricImage (s : State) (base : Nat) : Fabric :=
  { circuit := (imageTable s base 4 0 4096).map fun e => (e.1, BitVec.ofNat 32 e.2),
    nbrs := (imageTable s (base + 0x4000) 8 0 256).map fun e => (e.1, BitVec.ofNat 64 e.2),
    routes := (imageTable s (base + 0x5000) 4 0 16384).map fun e => (e.1, BitVec.ofNat 32 e.2) }
/-- The valid neighbours of an image. -/
def imageNbrs (f : Fabric) : List Nat := (f.nbrs.map (·.1)).filter (nbrValid f)
/-- The pilot wavelengths of a neighbour. -/
def imagePilots (f : Fabric) (n : Nat) : List Nat := (nbrWaves f n).filter fun j => bitsOf (mapWord f j) 30 30 == 1
/-- Whether an image is invalid (R265). -/
def imageBad (s : State) (base : Nat) (f : Fabric) : Bool :=
  let valid := imageNbrs f
  let peers := valid.map (nbrPeer f)
  (f.circuit.any fun e => bitsOf e.2.toNat 29 8 != 0) || (f.nbrs.any fun e => bitsOf e.2.toNat 62 56 != 0 || bitsOf e.2.toNat 41 8 != 0) ||
    (f.routes.any fun e => bitsOf e.2.toNat 30 10 != 0) || ((hbmRead s (base + 0x4800) 0x800).any fun b => b != 0) ||
    (valid.any fun n => (imagePilots f n).length != 1) ||
    (f.circuit.any fun e => bitsOf e.2.toNat 31 31 == 1 && !valid.contains (bitsOf e.2.toNat 7 0)) ||
    (f.routes.any fun e => bitsOf e.2.toNat 31 31 == 1 && !valid.contains (bitsOf e.2.toNat 7 0)) ||
    peers.eraseDups.length != peers.length || peers.contains (deviceNumber s) || bitsOf (routeWord f (deviceNumber s)) 31 31 == 1 ||
    decide (csrBits s 0x374 12 0 < valid.length) ||
    (valid.any fun n => decide (64 < (nbrWaves f n).length) || nbrShare f n == 0 || decide (64 < nbrShare f n))

/-- `s` with STATE of Fabric Control. -/
def setFabricState (s : State) (v : Nat) : State := csrPoke s 0x371 60 58 v
/-- `s` with ERR of Fabric Control. -/
def setFabricErr (s : State) (v : Nat) : State := csrPoke s 0x371 9 0 v
/-- A write of Fabric Control that is not acted on in the present state (R266). -/
def fabricRefused (s : State) : State := pfEvent (setFabricErr s 0x341) { recOf 0x341 with aux := fabricState s }
/-- The image under Fabric Image Base, if it is read and valid; while its HBM is not ready the event is looked at again. DEDUCED (log
entry 154). -/
def withImage (s : State) (again : Instr) (go : State → Fabric → State) : State :=
  let base := csrBits s 0x370 47 12 * 4096
  if Config.hbmBytes < base + 0x15000 then setFabricErr s 0x340
  else if !stackReady s base then pushEv s again
  else match hbmBad s base 0x15000 with
    | some g => setFabricErr (pfEvent s { recOf 0x383 with addr := base, aux := checkAux 0 g }) 0x383
    | none =>
      let f := fabricImage s base
      if imageBad s base f then setFabricErr s 0x340 else go (setFabricErr s 0) f

/-- A neighbour's pilot is lit, and with it the wavelengths of a lease that survives; the link waits for their lock. DEDUCED (log entry
155). -/
def lightPilot (f : Fabric) (s : State) (n : Nat) (keep : BitVec 64) : State :=
  let m := waveMask f n fun j => nbrPilot f n == some j
  modLink (setWaves s (maskWaves f n (m ||| keep)) .locking) n fun l => { l with held := true, live := m ||| keep }
/-- FABRIC_LOAD (R265, R266). -/
def execFabricLoad (s : State) : Next :=
  .next (
    if fabricState s ≠ 0 then fabricRefused s
    else withImage s .fabricLoad fun s f =>
      let s1 := { s with fabric := some f, waves := [], links := [] }
      pushEvOnce ((imageNbrs f).foldl (fun s n => lightPilot f s n 0) s1) .pilotsLocked)

/-- PILOTS_LOCKED (R265, R282): once every pilot that was lit has locked, the fabric runs. -/
def execPilotsLocked (s : State) : Next :=
  .next (
    let f := fabricOf s
    let held := (nbrNums s).filter fun n => (linkAt s n).held
    let unlocked := held.any fun n => match nbrPilot f n with
      | none => false
      | some j => !((waveAt s j == .locking && waveReady s j) || waveAt s j == .live)
    if s.fabric.isNone ∨ ¬(fabricState s = 0 ∨ fabricState s = 4) then s
    else if unlocked then pushEv s .pilotsLocked
    else
      let s1 := held.foldl (fun s n =>
        let js := (maskWaves f n (linkAt s n).live).filter fun j => waveAt s j == .locking
        modLink (setWaves s js .live) n fun l => { l with held := false, drained := false, live := waveMask f n fun j => js.contains j }) s
      let s2 := setFabricState s1 1
      let s3 := held.foldl (fun s n => linkPump s n) s2
      let s4 := if s3.leases.isEmpty then s3 else pushEvOnce s3 .leaseArbitrate
      pushEvOnce s4 .linkctlBeacon)

/-! Reconfiguration (R282). -/

/-- The entries of a route table that go by a neighbour. -/
def routesBy (f : Fabric) (n : Nat) : Tab Word := f.routes.filter fun e => bitsOf e.2.toNat 31 31 == 1 && bitsOf e.2.toNat 7 0 == n
/-- The Circuit Map entries of a neighbour. -/
def circuitOf (f : Fabric) (n : Nat) : Tab Word := f.circuit.filter fun e => bitsOf e.2.toNat 31 31 == 1 && bitsOf e.2.toNat 7 0 == n
/-- Whether a neighbour is affected by a change of image. -/
def nbrChanges (f g : Fabric) (n : Nat) : Bool :=
  nbrDbl f n != nbrDbl g n || circuitOf f n != circuitOf g n || routesBy f n != routesBy g n
/-- The neighbours of either image that a change affects. -/
def nbrsChanged (f g : Fabric) : List Nat := ((imageNbrs f ++ imageNbrs g).eraseDups).filter (nbrChanges f g)
/-- The payload of DRAIN (DESIGN CHOICE, log entry 32): 0 the marker, 1 its answer. -/
def drainPayload (answer : Bool) : List Byte := leBytes 4 (if answer then 1 else 0)

/-- FABRIC_RECONFIGURE (R266, R282): the affected neighbours begin to drain. -/
def execFabricReconfigure (s : State) : Next :=
  .next (
    if fabricState s ≠ 1 then fabricRefused s
    else withImage s .fabricReconfigure fun s g =>
      let f := fabricOf s
      let s1 := setFabricState { s with nextFabric := some g } 2
      pushEvOnce (((nbrsChanged f g).filter (nbrValid f)).foldl (fun s n =>
        sendPilot (modLink s n fun l => { l with held := true, drained := false }) n 0x13 (drainPayload false)) s1) .reconfDrainDone)
/-- DRAIN (R282): a marker is answered; an answer is what this end waits for. -/
def execDrain (nbr : Nat) (flit : Flit) (s : State) : Next :=
  .next (
    if !pilotOk s nbr flit then s
    else if payNat flit 0 4 = 1 then modLink s nbr fun l => { l with drained := true }
    else sendPilot s nbr 0x13 (drainPayload true))

/-- A give or revoke towards a neighbour ends: what it named has gone dark. -/
def retiresEnd (s : State) (n : Nat) : State :=
  (s.retires.filter fun r => r.nbr == n).foldl (fun s r => match r.reply with
    | none => s
    | some q => settle (answer s q r.waves.length .w32) q.ctx) { s with retires := s.retires.filter fun r => r.nbr != n }
/-- RECONF_DRAIN_DONE (R282): once the peers have answered and the replay buffers are empty, the affected wavelengths go dark. -/
def execReconfDrainDone (s : State) : Next :=
  .next (
    let f := fabricOf s
    let held := (nbrNums s).filter fun n => (linkAt s n).held
    let done := fun (n : Nat) =>
      let l := linkAt s n
      l.down || (l.drained && l.replay.isEmpty)
    if fabricState s ≠ 2 then s
    else if !held.all done then pushEv s .reconfDrainDone
    else
      let s1 := held.foldl (fun s n =>
        let keep := waveMask f n fun j => waveAt s j == .live
        let s1 := setWaves s ((nbrWaves f n).filter fun j => waveAt s j != .failed) .dark
        retiresEnd (modLink s1 n fun l => { l with live := keep, lost := [], grow := 0, locked := 0, asked := none, stopped := false }) n) s
      let s2 := { s1 with leases := mapWhere (fun q => held.contains q.nbr) (fun q => { q with asked := 0, stale := false }) s1.leases }
      setFabricState (litFell s2) 3)

/-- A held flit routed by the new table; a request of this device without a route fails (R281), another is dropped in transit. DEDUCED
(log entry 157). -/
def reroute (s : State) (o : Outgoing) : State :=
  let f := o.flit
  match linkTo s f.dst.toNat with
  | some n => sendFrom s n f o.came
  | none =>
    if f.src.toNat = deviceNumber s then
      match (if f.resp then none else xferAt s f.xtag.toNat) with
      | none => s
      | some x => xferFails s x 0x300 0
    else discardFlit s f o.came
/-- A pending lease request whose neighbour is gone gives 0x310 (R285), to a context that its first answer has let go on too. DEDUCED (log
entry 158). -/
def leaseGone (s : State) : State :=
  let gone := s.leases.filter fun q => !nbrLive s q.nbr
  gone.foldl (fun s q =>
    if q.answered then takeFault s q.firing.ctx 0x310 { infoAt (elemAt q.firing.a 0) 0 with iter := q.firing.iter, inst := q.firing.inst } none
    else fireFault (closeReply s q.reply) q.firing 0x310 { infoAt (elemAt q.firing.a 0) 0 with iter := q.firing.iter })
    { s with leases := s.leases.filter fun q => nbrLive s q.nbr }
/-- FABRIC_RESUME (R266, R282): the new image is taken, the pilots and the leases that survive relock, and held requests are routed anew,
in their order. DEDUCED (log entry 156). -/
def execFabricResume (s : State) : Next :=
  .next (
    if fabricState s ≠ 3 then fabricRefused s
    else match s.nextFabric with
      | none => fabricRefused s
      | some g =>
        let f := fabricOf s
        let ns := nbrsChanged f g
        let waiting := ns.flatMap fun n => (linkAt s n).waiting
        let s1 := setFabricState { s with fabric := some g, nextFabric := none } 4
        let s2 := ns.foldl (fun s n =>
          let old := linkAt s n
          let same := nbrValid f n && nbrValid g n && nbrPeer f n == nbrPeer g n
          let l := if same && !old.down then { old with waiting := [], replays := 0, drained := false } else linkReset
          let keep := if same && circuitOf f n == circuitOf g n then old.live else 0
          let s1 := setLink (if same && !old.down then s else buffersForgotten s n) n l
          if nbrValid g n then lightPilot g s1 n keep else s1) s1
        pushEvOnce (leaseGone (waiting.foldl reroute s2)) .pilotsLocked)

end Sys2Proof.Machine
end

