-- ==== Sys2Proof/Machine/Graver.lean ====
section
/-! DEFINITION. The Gravers (R249 to R253): configurations, index streams, and the four modes of a run. -/

namespace Sys2Proof.Machine

/-! Streams of tokens that an operation takes in the order of their iterations (R184, R251, R252). -/

/-- The token of a stream's node with its elements for which the mode does not hold as nulls: they are present without a value. -/
def streamPieces (m : FireMode) (w : Firing) (t : Option Token) : List Token :=
  match t with
  | none => []
  | some t =>
    if t.nul || t.standing then [t]
    else (segments 0 ((firedMask m w).map fun b => if b then some [] else none)).map fun e =>
      let p := piece t e.2.1 e.2.2
      if e.1.isSome then p else { p with nul := true }
/-- An iteration counted from S0. -/
def offFrom (s0 i : Nat) : Nat := (i + 65536 - s0) % 65536
/-- The token that covers offset `off` from S0, and its element there. -/
def streamFind (s0 : Nat) (l : List Token) (off : Nat) : Option (Token × Nat) :=
  l.findSome? fun t =>
    let o := offFrom s0 t.iter
    if o ≤ off ∧ off < o + t.vals.length then some (t, off - o) else none
/-- The tokens of a stream that cover an offset from `off` on. -/
def streamRest (s0 : Nat) (l : List Token) (off : Nat) : List Token :=
  l.filter fun t => decide (off < offFrom s0 t.iter + t.vals.length)

/-- The operation of an instruction whose stream is open. -/
def openStream (s : State) (c inst : Nat) : Option EngOp :=
  (ctxOps s c).find? fun o => o.reply.inst == inst && o.closed.isNone && (match o.kind with
    | .graverConfig _ ind => ind
    | .graverRun st _ _ => st
    | _ => false)
/-- `s` with an operation changed, in its queue or in work. -/
def modOpAny (s : State) (p id : Nat) (f : EngOp → EngOp) : State :=
  modPress s p fun r =>
    { r with running := mapWhere (fun o => o.id == id) f r.running,
             queues := r.queues.map fun e => (e.1, mapWhere (fun o => o.id == id) f e.2) }

/-! Configurations (R249 to R251). -/

/-- Field `k` of a double of four 16-bit fields. -/
def quarter (d k : Nat) : Nat := bitsOf d (16 * k + 15) (16 * k)
/-- Whether a Graver descriptor breaks R250. -/
def gvBad (d : List Dbl) (ind : Bool) (tid : Nat) : Bool :=
  let d0 := tdtDbl d 0
  let n := bitsOf d0 55 54 + 1
  let high := [n, n + 1, n + 2, n + 3].filter fun k => decide (k < 4)
  bitsOf d0 57 56 != 0 || bitsOf d0 47 0 != 0 || decide (31 < bitsOf d0 53 48) || (bitsOf d0 62 62 == 0 && bitsOf d0 61 58 != 0) ||
    (d.drop 4).any (· != 0) || tid == 2 ||
    (high.any fun k => quarter (tdtDbl d 1) k != 0 || quarter (tdtDbl d 2) k != 0 || quarter (tdtDbl d 3) k != 0) ||
    decide (65536 < ((List.range n).map fun k => quarter (tdtDbl d 2) k + 1).foldl (· * ·) 1) ||
    (ind && (n == 1 || quarter (tdtDbl d 1) 1 != 0 || quarter (tdtDbl d 2) 1 != 0 || quarter (tdtDbl d 3) 1 != 0))
/-- A configuration read from its descriptor and tensor entry. -/
def gvConfig (d e : List Dbl) (ind : Bool) (tid : Nat) : GvConfig :=
  let d0 := tdtDbl d 0
  let n := bitsOf d0 55 54 + 1
  let cnt := (List.range n).map fun k => quarter (tdtDbl d 2) k + 1
  { store := bitsOf d0 63 63 == 1, ringed := bitsOf d0 62 62 == 1, ring := bitsOf d0 61 58, indirect := ind, ndim := n,
    run := bitsOf d0 53 48 + 1, start := (List.range n).map (quarter (tdtDbl d 1)), cnt := cnt,
    step := (List.range n).map fun k => signed 16 (quarter (tdtDbl d 3) k), tid := tid, tdt := e, total := cnt.foldl (· * ·) 1,
    queries := [] }
/-- The value of a configuration's index stream: its elements with values, in order. DEDUCED (log entry 94). -/
def indexValues (s0 n : Nat) (l : List Token) : List Dbl :=
  (List.range n).filterMap fun k => match streamFind s0 l k with
    | none => none
    | some (t, j) => if t.nul then none else some (t.vals.getD j 0)

/-- A configuration made (R249): the context's most recent one on its Graver. -/
def gvMade (s : State) (o : EngOp) (c : GvConfig) : State := modCtx s o.ctx fun x => { x with graver := tabPut x.graver o.queue c }

/-- The elements that the tokens of a stream hold. -/
def streamHas (l : List Token) : Nat := l.foldl (fun n t => n + t.vals.length) 0
/-- The length of a stream whose end has a bound: 65,536 where the bound is S0 again and every element is there. -/
def streamLen (s0 bound : Nat) (l : List Token) : Nat := if offFrom s0 bound = 0 ∧ streamHas l = 65536 then 65536 else offFrom s0 bound
/-- The end of an index stream (R184, R251): its values go into the configuration. A piece that repeats an element, or lies beyond
the bound, faults, and so does a gap. -/
def gvIndexed (s : State) (p : Nat) (o : EngOp) (x : Ctx) (bound : Nat) : State :=
  let s0 := o.ringed
  let n := streamLen s0 bound o.stream
  let past := o.stream.find? fun t => decide (n < offFrom s0 t.iter + t.vals.length)
  let gap := (List.range n).find? fun k => (streamFind s0 o.stream k).isNone
  let at' := fun (i : Nat) => { noInfo with iter := i % 65536 }
  let free := o.waive.isSome
  match (if free then none else past), (if free then none else gap) with
  | some t, _ => opFault s p o 0x053 (at' t.iter)
  | none, some k => opFault s p o 0x050 (at' (s0 + k))
  | none, none =>
    let q := indexValues s0 n o.stream
    match tabFind x.graver (16 + o.queue) with
      | none => settle (opGone s p o) o.ctx
      | some c =>
        let s1 := modCtx s o.ctx fun x => { x with graver := tabDrop x.graver (16 + o.queue) }
        settle (opGone (gvMade s1 o { c with queries := q, total := c.total * q.length }) p o) o.ctx

/-- A configuration's descriptor and tensor entry read and checked (R250); an indirect one then waits for the end of its index
stream, its Graver free for others. -/
def gvConfigure (s : State) (p : Nat) (o : EngOp) (x : Ctx) (desc : Nat) (ind : Bool) : State :=
  opThen p o (engGot o.reply.iter (engFetch s x (opOwner o.id) desc 64 o.waive)) fun s1 bs =>
    let d := dblsOf bs
    if gvBad d ind o.tid && o.waive != some 0x18A then opFault s1 p o 0x18A (infoAt desc 0)
    else opThen p o (engGot o.reply.iter (tensorRead s1 x (opOwner o.id) o.tid)) fun s2 e =>
      let c := gvConfig d e ind o.tid
      if c.ringed && (ringOf x c.ring).isNone && o.waive != some 0x186 then opFault s2 p o 0x186 (infoAt desc 0)
      else if ind then
        let s3 := answer (modCtx s2 o.ctx fun x => { x with graver := tabPut x.graver (16 + o.queue) c }) o.reply 0 .w32
        settle (opAgain (modOp s3 p o.id fun o => { o with pos := 1, waive := none }) p o) o.ctx
      else settle (answer (opGone (gvMade s2 o c) p o) o.reply c.total .w32) o.ctx

/-! Elements (R251). -/

/-- The counters of element `e` of a pattern whose dimensions have the counts `l`, dimension 0 first. -/
def digits (e : Nat) (l : List Nat) : List Nat :=
  match l with
  | [] => []
  | n :: r => e % n :: digits (e / n) r
/-- The indices of element `e`. -/
def gvIndices (c : GvConfig) (e : Nat) : List Int :=
  let cnt := if c.indirect then c.cnt.zipIdx.map fun q => if q.2 = 1 then c.queries.length else q.1 else c.cnt
  (digits e cnt).zipIdx.map fun t =>
    if c.indirect && t.2 == 1 then signed 32 ((c.queries.getD t.1 0).toNat % 2 ^ 32)
    else (c.start.getD t.2 0 : Int) + t.1 * c.step.getD t.2 0
/-- The extent of a dimension: one at and above RANK (R26). DEDUCED (log entry 98). -/
def gvExt (c : GvConfig) (k : Nat) : Nat := if k < bitsOf (tdtDbl c.tdt 1) 59 56 then tdtExt c.tdt k else 1
/-- The address of element `e`; none where an index is beyond its extent (R251). -/
def gvAddr (c : GvConfig) (e : Nat) : Option Nat :=
  let is := (gvIndices c e).zipIdx
  if is.any fun q => decide (q.1 < 0) || decide ((gvExt c q.2 : Int) ≤ q.1) then none
  else some (wrap 64 ((tdtDbl c.tdt 0 : Int) + (is.map fun q => q.1 * tdtStride c.tdt q.2).foldl (· + ·) 0))
/-- Bytes of an element. -/
def gvSize (c : GvConfig) : Nat := memSize (tdtTy c.tdt)
/-- The fault of an element's address by itself: an index, or an aperture's alignment (R201, R251). -/
def elemFault (o : EngOp) (c : GvConfig) (a : Option Nat) : Option Nat :=
  match a with
  | none => if o.waive = some 0x18B then none else some 0x18B
  | some v =>
    if v % gvSize c = 0 then none
    else if bitsOf v 63 56 = 0xE0 then (if passed o.waive 0x131 then none else some 0x131)
    else if bitsOf v 63 56 = 0xE8 ∨ bitsOf v 63 56 = 0xEC then some 0x118
    else none
/-- Element `e` read. -/
def gvRead (s : State) (x : Ctx) (o : EngOp) (c : GvConfig) (iter e : Nat) : State × EngGot Nat :=
  let a := gvAddr c e
  match elemFault o c a, a with
  | some k, _ => (s, .bad k { infoAt (a.getD (tdtDbl c.tdt 0)) 0 with iter := iter % 65536 })
  | none, none => (s, .ok 0)
  | none, some v => match engRead s x o iter v (gvSize c) with
    | (s1, .ok bs) => (s1, .ok (leNat bs))
    | (s1, .wait) => (s1, .wait)
    | (s1, .bad k i) => (s1, .bad k i)
/-- Element `e` written with a value and the bits of its token (R48, R252). DEDUCED (log entry 99). -/
def gvWrite (s : State) (x : Ctx) (o : EngOp) (c : GvConfig) (iter e v : Nat) (sb : BitVec 5) : State × EngGot Unit :=
  let a := gvAddr c e
  let info := { infoAt (a.getD (tdtDbl c.tdt 0)) 0 with iter := iter % 65536 }
  if tdtReadOnly c.tdt && o.waive != some 0x122 then (s, .bad 0x122 info)
  else match elemFault o c a, a with
    | some k, _ => (s, .bad k info)
    | none, none => (s, .ok ())
    | none, some q => match engWrite s x o iter q (leBytes (gvSize c) v) with
      | (s1, .ok _) =>
        let s2 := sinkBits s1 o.ctx sb
        (match engPlace s x q (gvSize c) false o.waive with
         | .ok (.tile g k _) => offend s2 g k o.reply.inst (iter % 65536) sb x.tag
         | _ => s2, .ok ())
      | (s1, .wait) => (s1, .wait)
      | (s1, .bad k i) => (s1, .bad k i)

/-! The four modes of a run (R252, R253). -/

/-- The end of a run that delivers N. DEDUCED (log entry 96). DEDUCED (log entry 105). -/
def gvDone (s : State) (p : Nat) (o : EngOp) (c : GvConfig) : State := settle (answer (opGone s p o) o.reply c.total .w32) o.ctx

/-- Elements `e` and on read for one run or slot, up to `n` of them: their values in order, where it stopped, and how. -/
def gvReads (n : Nat) (s : State) (x : Ctx) (o : EngOp) (c : GvConfig) (start e : Nat) : State × List Nat × Nat × EngGot Unit :=
  match n with
  | 0 => (s, [], e, .ok ())
  | n + 1 => match gvRead s x o c (start + e) e with
    | (s1, .ok v) =>
      let r := gvReads n s1 x { o with waive := none } c start (e + 1)
      (r.1, v :: r.2.1, r.2.2)
    | (s1, .wait) => (s1, [], e, .wait)
    | (s1, .bad k i) => (s1, [], e, .bad k i)

/-- A loader with RG = 0: its next run of tokens, and EOS behind the last (R252). A run is cut where an element faults (R253), and not
where one waits: what is read of it is kept in `data`. -/
def gvLoad (s : State) (p : Nat) (o : EngOp) (x : Ctx) (c : GvConfig) (start : Nat) : State :=
  let send := fun (s : State) (t : Token) => sendTokens s o.ctx o.reply.inst 0 o.reply.targets t
  let stop := min c.total ((o.pos / c.run + 1) * c.run)
  let r := gvReads (stop - o.pos) s x o c start o.pos
  let first := o.pos - o.data.length / 8
  let data := o.data ++ r.2.1.flatMap fun v => leBytes 8 (widen (tdtTy c.tdt) v)
  let whole := match r.2.2.2 with
    | .wait => false
    | _ => true
  let s1 := if whole && !data.isEmpty then
      send r.1 (freshToken (start + first) (dblsOf data) (memWidth (tdtTy c.tdt)) (tdtScaled c.tdt) o.reply.sb)
    else r.1
  let o1 := { o with pos := r.2.2.1, data := if whole then [] else data, waive := if r.2.2.1 = o.pos then o.waive else none }
  let s2 := modOp s1 p o.id fun _ => o1
  opThen p o1 (s2, r.2.2.2) fun s3 _ =>
    if o1.pos < c.total then opAgain s3 p o1
    else settle (closeReply (send (opGone s3 p o1)
      { freshToken 0 [BitVec.ofNat 64 ((start + c.total) % 65536)] .w32 false 0 with eos := true }) o.reply) o.ctx

/-- A whole slot is written to by an operation: it must be Filling for the context's tenancy (R217, R218), and the operation waits for that
state (R218). -/
def fillWrites (s : State) (p : Nat) (o : EngOp) (x : Ctx) (k : Nat) (again : State → State) (go : State → State) : State :=
  let e := tileAt s x.group k
  if e.state ≠ 0 ∧ e.ten.toNat ≠ x.ten ∧ o.waive ≠ some 0x181 then opFault s p o 0x181 (infoAt (slotHandle k) 0)
  else if e.state = 1 ∨ o.waive = some 0x181 then go s else again s
/-- A loader with RG = 1: it fills the next slot of its ring (R219, R252), a ring write, so a sink of the start token's bits (R48). `ringed`
is one more than the slot that it fills. -/
def gvFill (s : State) (p : Nat) (o : EngOp) (x : Ctx) (c : GvConfig) (start : Nat) : State :=
  if c.total ≤ o.pos ∧ o.ringed = 0 then gvDone s p o c
  else match ringOf x c.ring with
    | none => gvDone s p o c
    | some q =>
      if o.ringed = 0 then
        let k := ringP q 0
        if (tileAt s x.group k).state ≠ 0 then opAgain s p o
        else
          let s1 := modRing (slotFill s x k q.tid) o.ctx c.ring fun q => produced q 1
          opAgain (modOp s1 p o.id fun o => { o with ringed := k + 1, data := [] }) p o
      else
        let k := o.ringed - 1
        let again := fun (s : State) => opAgain s p o
        let first := o.pos - o.data.length / gvSize c
        let room := (16384 - o.data.length) / gvSize c
        let r := gvReads (min room (c.total - o.pos)) s x o c start o.pos
        let data := o.data ++ r.2.1.flatMap (leBytes (gvSize c))
        let o1 := { o with pos := r.2.2.1, data := data, waive := if r.2.2.1 = o.pos then o.waive else none }
        opThen p o1 (modOp r.1 p o.id fun _ => o1, r.2.2.2) fun s1 _ =>
          fillWrites s1 p o1 x k again fun s2 =>
            let s3 := sramFresh (slotWrite s2 x.group k 0 (padTo 16384 data)) (slotAddr x.group k 0) 16384
            let s4 := sinkBits (offend s3 x.group k o.reply.inst (start + first) o.reply.sb x.tag) o.ctx o.reply.sb
            opAgain (modOp (slotState s4 x.group k 2) p o.id fun o => { o with ringed := 0, data := [] }) p o

/-- Elements of the token that is due written from `o.pos` on, up to `n` of them. -/
def gvStores (n : Nat) (s : State) (p : Nat) (o : EngOp) (x : Ctx) (c : GvConfig) (s0 j : Nat) (t : Token) (done : State → State) : State :=
  match n with
  | 0 => done s
  | n + 1 =>
    let next := fun (s : State) =>
      let o1 := { o with pos := o.pos + 1, waive := none, reply := { o.reply with sb := o.reply.sb ||| tokenBits (some t) } }
      gvStores n (modOp s p o.id fun _ => o1) p o1 x c s0 (j + 1) t done
    if t.nul ∨ c.total ≤ o.pos then next s
    else opThen p o (gvWrite s x o c (s0 + o.pos) o.pos (elemAt (some t) j) t.sb) fun s1 _ => next s1

/-- A storer with RG = 0: the tokens of its stream in the order of their iterations; at EOS the bound is S0 + N, and every element has come
(R184, R252). -/
def gvStore (s : State) (p : Nat) (o : EngOp) (x : Ctx) (c : GvConfig) : State :=
  let s0 := o.reply.iter
  let bad := fun (k i : Nat) => opFault s p o k { noInfo with iter := i % 65536 }
  let left := streamRest s0 o.stream o.pos
  match left.find? fun t => t.ew != memWidth (tdtTy c.tdt) && !t.nul with
  | some t =>
    if passed o.waive 0x092 then
      opAgain (modOp s p o.id fun o => { o with stream := o.stream.map fun u => { u with ew := memWidth (tdtTy c.tdt) } }) p o
    else bad 0x092 t.iter
  | none => match streamFind s0 left o.pos with
    | some (t, j) =>
      gvStores (t.vals.length - j) s p o x c s0 j t fun s1 => match opAt s1 o.id with
        | none => s1
        | some q => opAgain (modOp s1 p o.id fun q => { q with stream := streamRest s0 q.stream q.pos }) p q.2
    | none => match o.closed with
      | none => opAgain s p o
      | some b =>
        if o.waive.isNone && !left.isEmpty then bad 0x050 ((left.map (·.iter)).headD 0)
        else if o.waive.isNone && offFrom s0 b != c.total % 65536 || (o.waive.isNone && decide (c.total < o.pos)) then bad 0x18B b
        else if o.waive.isNone && decide (o.pos < c.total) then bad 0x050 (s0 + o.pos)
        else opSettled s p o fun s1 => gvDone s1 p o c

/-- The elements that a slot holds written from `o.pos` on. -/
def gvSpill (n : Nat) (s : State) (p : Nat) (o : EngOp) (x : Ctx) (c : GvConfig) (start : Nat) (done : State → State) : State :=
  match n with
  | 0 => done s
  | n + 1 => match gvSize c * o.pos % 16384 with
    | off =>
      let v := leNat ((o.data.drop off).take (gvSize c))
      opThen p o (gvWrite s x o c (start + o.pos) o.pos v o.reply.sb) fun s1 _ =>
        let o1 := { o with pos := o.pos + 1, waive := none }
        gvSpill n (modOp s1 p o.id fun _ => o1) p o1 x c start done
/-- A storer with RG = 1: it drains the slots of its ring as their consumer (R219, R252), releasing each that it has read; what it writes
carries the start token's bits (R48). `ringed` is one more than the slot. -/
def gvDrain (s : State) (p : Nat) (o : EngOp) (x : Ctx) (c : GvConfig) (start : Nat) : State :=
  if c.total ≤ o.pos ∧ o.ringed = 0 then opSettled s p o fun s1 => gvDone s1 p o c
  else match ringOf x c.ring with
    | none => gvDone s p o c
    | some q =>
      if o.ringed = 0 then
        let k := ringC q 0
        if (tileAt s x.group k).state ≠ 2 then opAgain s p o
        else opThen p o (engGot (start + o.pos) (engFetch s x (opOwner o.id) (slotHandle k) 16384 o.waive)) fun s1 bs =>
          opAgain (modOp s1 p o.id fun o => { o with ringed := k + 1, data := bs, waive := none }) p o
      else
        let k := o.ringed - 1
        let per := 16384 / gvSize c
        let stop := min c.total ((o.pos / per + 1) * per)
        if slotReads s x.group k || (tileAt s x.group k).state != 2 then opAgain s p o
        else gvSpill (stop - o.pos) s p o x c start fun s1 =>
          let s2 := modRing (slotState s1 x.group k 0) o.ctx c.ring fun q => consumed q 1
          opAgain (modOp s2 p o.id fun o => { o with ringed := 0, data := [] }) p o

/-- A run at work: it takes its configuration as it starts (R249). -/
def gvRun (s : State) (p : Nat) (o : EngOp) (x : Ctx) (st : Bool) (cfg : Option GvConfig) (start : Nat) : State :=
  match cfg with
  | none => match tabFind x.graver o.queue with
    | none =>
      if o.waive = some 0x18C then settle (answer (opGone s p o) o.reply 0 .w32) o.ctx else opFault s p o 0x18C { noInfo with iter := o.reply.iter }
    | some c =>
      let s1 := modCtx s o.ctx fun x => { x with graver := tabDrop x.graver o.queue }
      opAgain (modOp s1 p o.id fun o => { o with kind := .graverRun st (some c) start, tid := c.tid }) p o
  | some c =>
    if c.store then (if c.ringed then gvDrain s p o x c start else gvStore s p o x c)
    else if c.ringed then gvFill s p o x c start
    else gvLoad s p o x c start

/-- GRAVER_STREAM (R249 to R253): a Graver operation does its next piece of work. -/
def execGraverStream (id : Nat) (s : State) : Next :=
  withOp s id fun s p o x =>
    match o.kind with
    | .graverConfig desc ind =>
      if o.pos = 0 then gvConfigure s p o x desc ind
      else match o.closed with
        | none => opAgain s p o
        | some b => gvIndexed s p o x b
    | .graverRun st cfg start => gvRun s p o x st cfg start
    | _ => s

/-! The instructions (R249). -/

/-- A Graver configuration asked for by port a. -/
def gvAsk (f : FireMode) (tid : Nat) (t : Target) (g : Nat) (ind : Bool) (s : State) (w : Firing) : State :=
  match oneElem { w with b := none } .w64 with
  | some c => fireFault s w c (fireInfo w)
  | none =>
    let v := aFirst f w
    if v % 64 ≠ 0 && w.waive != some 0x118 then fireFault s w 0x118 { infoAt v 0 with iter := w.iter }
    else queueOp s f w [t] (2 + g) tid (.graverConfig (v / 64 * 64) ind)

/-- GV_AFF (R249). -/
def execGvAff (f : FireMode) (tid : BitVec 10) (t : Target) (g : BitVec 2) (s : State) : Next :=
  onFire f s (passEosAfter s [t]) (nullsUnless (oneElem · .w64) s f [t]) (gvAsk f tid.toNat t g.toNat false s)

/-- Index tokens kept until their operation is there. -/
def indexWait (s : State) (w : Firing) (x : Ctx) : State :=
  let t := streamAt x w.inst
  setStream s w.ctx w.inst { t with late := t.late ++ [w] }
/-- An index stream's tokens that have come before the operation are given to it, with the stream's end (R251). -/
def indexGive (s : State) (c inst : Nat) : State :=
  match ctxAt s c, openStream s c inst with
  | some x, some o =>
    let l := (streamAt x inst).late
    let s1 := setStream s c inst streamReset
    let toks := l.filterMap (·.b)
    modOpAny s1 x.press o.id fun o =>
      { o with stream := o.stream ++ toks, closed := boundOf x inst .b, ringed := streamStart x.image }
  | _, _ => s
/-- Tokens of the index stream on port b (R251): their width, and that no element repeats. One behind 65,536 elements makes the stream too
long. -/
def indexToken (s : State) (w : Firing) : State :=
  match ctxAt s w.ctx, (if nullOperand w then none else operandFault w (fun q => if q == .b then some .w32 else none) [] .pass) with
  | none, _ => s
  | some _, some c => fireFault s w c (fireInfo w)
  | some x, none => match openStream s w.ctx w.inst, w.b with
    | some o, some t =>
      if (o.stream.any fun u => (List.range t.vals.length).any fun j => (offsetIn u ((t.iter + j) % 65536)).isSome) && w.waive != some 0x053 && w.waive != some 0x18B then
        fireFault s w (if streamHas o.stream = 65536 then 0x18B else 0x053) (fireInfo w)
      else modOpAny s x.press o.id fun o => { o with stream := o.stream ++ [t] }
    | _, _ => indexWait s w x

/-- GV_IND (R249, R251): port a asks for the configuration; the stream on port b is its own. DEDUCED (log entry 93). -/
def execGvInd (f : FireMode) (tid : BitVec 10) (t : Target) (g : BitVec 2) (s : State) : Next :=
  match s.cur with
  | none => .fault .noFiring
  | some w =>
    if w.a.isNone && w.b.isSome then
      .next (match w.eos with
        | some _ => indexGive s w.ctx w.inst
        | none => indexToken s w)
    else onFire f s (passEosAfter s [t]) (nullsUnless (oneElem · .w64) s f [t]) fun w =>
      indexGive (gvAsk f tid.toNat t g.toNat true s w) w.ctx w.inst

/-- What the configuration says that the next run of a context on a Graver will take: storer, ringed (R249). DEDUCED (log entry 95). -/
def goMode (s : State) (c : Nat) (q : Nat) : Option (Bool × Bool) :=
  match ctxAt s c with
  | none => none
  | some x =>
    let made := (ctxOps s c).reverse.findSome? fun o => match o.kind with
      | .graverConfig a _ => if o.queue = q then some a else none
      | _ => none
    match made with
    | some a =>
      let d := tdtDbl (peekDesc s x a) 0
      some (bitsOf d 63 63 == 1, bitsOf d 62 62 == 1)
    | none => (tabFind x.graver q).map fun c => (c.store, c.ringed)

/-- Tokens, or the end, of the stream of a storer: they go to its operation, which the first of them makes (R252). Its output carries the
bits of their predicates too (R47). -/
def goStream (s : State) (f : FireMode) (t : Target) (q : Nat) (w : Firing) : State :=
  match ctxAt s w.ctx with
  | none => s
  | some x =>
    let l := if w.eos.isSome then [] else streamPieces f w w.a
    let sb := if w.eos.isSome then 0 else tokenBits w.p
    if w.eos.isSome && firesLater s w.ctx w.inst then waitFor s w
    else match openStream s w.ctx w.inst with
    | some o =>
      if (o.stream.any fun u => l.any fun t => (List.range t.vals.length).any fun j => (offsetIn u ((t.iter + j) % 65536)).isSome) ||
          (l.any fun t => decide (iterOffset x.image t.iter < o.pos)) then
        if w.waive = some 0x053 then s else fireFault s w 0x053 (fireInfo w)
      else modOpAny s x.press o.id fun o => { o with stream := o.stream ++ l, closed := w.eos, reply := { o.reply with sb := o.reply.sb ||| sb } }
    | none =>
      if queueFull s x.press q then waitFor s w
      else
        let r := openReply s f w [t]
        let reply := { r.2 with iter := streamStart x.image, runs := [(0, 1)], standing := false, sb := sb }
        enqueue (bumpId r.1) x.press
          { newOp r.1.nextId w.ctx q 0 (.graverRun true none 0) reply with stream := l, closed := w.eos }

/-- GV_GO (R249, R252): a start token, or the stream of a storer. DEDUCED (log entry 97). -/
def execGvGo (f : FireMode) (t : Target) (g : BitVec 2) (s : State) : Next :=
  match s.cur with
  | none => .fault .noFiring
  | some w =>
    let q := 2 + g.toNat
    let mode := goMode s w.ctx q
    if (openStream s w.ctx w.inst).isSome || mode == some (true, false) then .next (goStream s f t q w)
    else onFire f s (passEosAfter s [t]) (nullsUnless (oneElem · .w32) s f [t]) fun w =>
      match oneElem w .w32 with
      | some c => fireFault s w c (fireInfo w)
      | none => queueOp s f w [t] q 0 (.graverRun (mode == some (true, true)) none (aFirst f w % 65536))

end Sys2Proof.Machine
end

