-- ==== Sys2Proof/Machine/Logic.lean ====
section
/-! DEFINITION. Logic, shift and bit operations (R167). -/

namespace Sys2Proof.Machine

/-- A logic operation on two raw values of a width. -/
def logicOp (r : RawTy) (g : Nat → Nat → Nat → Nat) : CompOp :=
  plainOp (rawWidth r) (rawWidth r) fun x y _ => (g (widthBits (rawWidth r)) x y, 0)
/-- A shift by the 32-bit amount on port b, modulo the width; the amount takes no part in scale agreement (R161, R162). -/
def shiftOp (r : RawTy) (g : Nat → Nat → Nat → Nat) : CompOp :=
  { logicOp r (fun w x y => g w x (y % w)) with wb := .w32, agree := [.a] }
/-- All bits of a width but those of `y`. -/
def flip (w y : Nat) : Nat := 2 ^ w - 1 - y

/-- AND (R167). -/
def execAnd (f : FireMode) (t u : Target) (r : RawTy) (s : State) : Next := compute (logicOp r fun _ x y => x &&& y) f [t, u] s
/-- OR (R167). -/
def execOr (f : FireMode) (t u : Target) (r : RawTy) (s : State) : Next := compute (logicOp r fun _ x y => x ||| y) f [t, u] s
/-- XOR (R167). -/
def execXor (f : FireMode) (t u : Target) (r : RawTy) (s : State) : Next := compute (logicOp r fun _ x y => x ^^^ y) f [t, u] s
/-- ANDN (R167). -/
def execAndn (f : FireMode) (t u : Target) (r : RawTy) (s : State) : Next :=
  compute (logicOp r fun w x y => x &&& flip w y) f [t, u] s
/-- ORN (R167). -/
def execOrn (f : FireMode) (t u : Target) (r : RawTy) (s : State) : Next :=
  compute (logicOp r fun w x y => x ||| flip w y) f [t, u] s
/-- XNOR (R167). -/
def execXnor (f : FireMode) (t u : Target) (r : RawTy) (s : State) : Next :=
  compute (logicOp r fun w x y => flip w (x ^^^ y)) f [t, u] s

/-- SHL (R167). -/
def execShl (f : FireMode) (t u : Target) (r : RawTy) (s : State) : Next :=
  compute (shiftOp r fun w x n => x * 2 ^ n % 2 ^ w) f [t, u] s
/-- SHR (R167). -/
def execShr (f : FireMode) (t u : Target) (r : RawTy) (s : State) : Next := compute (shiftOp r fun _ x n => x / 2 ^ n) f [t, u] s
/-- SAR (R167). -/
def execSar (f : FireMode) (t u : Target) (r : RawTy) (s : State) : Next :=
  compute (shiftOp r fun w x n => wrap w (signed w x / (2 ^ n : Nat))) f [t, u] s
/-- ROTL (R167). -/
def execRotl (f : FireMode) (t u : Target) (r : RawTy) (s : State) : Next :=
  compute (shiftOp r fun w x n => x * 2 ^ n % 2 ^ w + x / 2 ^ (w - n)) f [t, u] s

/-- One bits of the low `n` bits. -/
def onesOf (n x : Nat) : Nat := ((List.range n).filter fun i => x.testBit i).length
/-- Zero bits below the lowest one bit of the low `n` bits from bit `i` on. -/
def zerosFrom (x i n : Nat) : Nat :=
  match n with
  | 0 => 0
  | n + 1 => if x.testBit i then 0 else zerosFrom x (i + 1) n + 1
/-- The low `n` bits in the opposite order. -/
def reverseBits (n x : Nat) : Nat := (List.range n).foldl (fun v i => 2 * v + bitsOf x i i) 0

/-- POPC (R167). -/
def execPopc (f : FireMode) (t u : Target) (r : RawTy) (s : State) : Next := compute (logicOp r fun w x _ => onesOf w x) f [t, u] s
/-- CLZ (R167). -/
def execClz (f : FireMode) (t u : Target) (r : RawTy) (s : State) : Next :=
  compute (logicOp r fun w x _ => w - bitLen x) f [t, u] s
/-- CTZ (R167). -/
def execCtz (f : FireMode) (t u : Target) (r : RawTy) (s : State) : Next :=
  compute (logicOp r fun w x _ => zerosFrom x 0 w) f [t, u] s
/-- BREV (R167). -/
def execBrev (f : FireMode) (t u : Target) (r : RawTy) (s : State) : Next :=
  compute (logicOp r fun w x _ => reverseBits w x) f [t, u] s

end Sys2Proof.Machine
end

