-- ==== Sys2Proof/Machine/Share.lean ====
section
/-! DEFINITION. The Share Table: in which cycles the contexts of a tenancy may fire in a Press (R104, R105), and when a matrix operation is
able to start a firing (R246). -/

namespace Sys2Proof.Machine

/-! What a firing of a matrix unit needs (R246). -/

/-- Whether a path has 8-bit weights. -/
def d8Path (c : MxConfig) : Bool := decide (c.path < 2)
/-- The plate tiles that an operation uses, in directory order: number, slot and entry. -/
def mxPlate (s : State) (x : Ctx) (first n : Nat) : List (Nat × Nat × DirEntry) :=
  match stepAt s x.stp with
  | none => []
  | some r => match plateAt s x.group x.ten r.plate with
    | none => []
    | some p => (((List.zip p.slots p.dir).zipIdx.map fun e => (e.2, e.1.1, e.1.2)).drop first).take n
/-- The operation bound to a unit. -/
def unitAt (s : State) (p u : Nat) : Option MxBound := tabFind (pressAt s p).units u
/-- The slots of the tiles of a firing: A tiles, B tiles, and the output slot (R246). -/
def mxSlots (s : State) (x : Ctx) (c : MxConfig) : Option (List Nat × List Nat × Nat) :=
  let need := if d8Path c then c.kt else 2 * c.kt
  match ringOf x c.aring, ringOf x c.cring with
  | some a, some o =>
    let bs := if c.fromRing then match ringOf x c.bring with
        | some b => (List.range need).map (ringC b)
        | none => []
      else (mxPlate s x c.btile need).map fun t => t.2.1
    some ((List.range c.kt).map (ringC a), bs, ringP o 0)
  | _, _ => none
/-- Whether every tile of a firing is there (R246). -/
def mxPresent (s : State) (g : Nat) (q : List Nat × List Nat × Nat) : Bool :=
  (q.1 ++ q.2.1).all (fun k => (tileAt s g k).state == 2) && (tileAt s g q.2.2).state == 0
/-- Whether the unit has firings to make. -/
def mxOwes (b : MxBound) : Bool := !b.unbinding && (b.cfg.count == 0 || decide (b.fired < b.cfg.count))

/-- Whether a bound operation has every party of its next firing: its tiles, room in staging, and no read of them still to come. -/
def mxCan (s : State) (x : Ctx) (b : MxBound) : Bool :=
  x.frozen.isNone && mxOwes b && decide (b.staging.length < 4) && (match mxSlots s x b.cfg with
    | none => false
    | some q => mxPresent s x.group q && !((q.1 ++ q.2.1).any (slotReads s x.group)))

/-! The table. -/

/-- The tenancy that the entry of a Press for cycle `c` names; none where V = 0. -/
def shareEntry (s : State) (p c : Nat) : Option Nat :=
  let e := bitsOf (shareIn s p c (c % 64 / 8)).toNat (8 * (c % 8) + 7) (8 * (c % 8))
  if bitsOf e 7 7 = 1 then some (bitsOf e 3 0) else none
/-- Whether a context of a tenancy is able to fire a PE in a Press, or to start a matrix operation there. -/
def shareWanted (s : State) (p ten : Nat) : Bool :=
  (s.queue.any fun w => match w with
    | .fire f => match ctxAt s f.ctx with
      | none => false
      | some x => x.press == p && x.ten == ten && x.frozen.isNone && x.begun.isEmpty
    | .event _ => false) ||
  (pressAt s p).units.any fun u => match ctxAt s u.2.op.ctx with
    | none => false
    | some x => x.ten == ten && mxCan s x u.2
/-- Whether a tenancy may fire in cycle `c` (R104): the cycle is its own, or one that its owner lends. -/
def shareOk (s : State) (p ten c : Nat) : Bool :=
  match shareEntry s p c with
  | none => false
  | some t =>
    t == ten || (!shareWanted s p t && (lendIn s c).getLsbD t && shareEntry s p (c + 1) == some ten)
/-- Whether a cycle that begins in the ns `n` is one in which a tenancy may fire. -/
def shareNs (s : State) (p ten n : Nat) : Bool :=
  (List.range (cyclesOf (n + 1) - cyclesOf n)).any fun k => shareOk s p ten (cyclesOf n + k)
/-- `s` at the next time at which a tenancy may fire in a Press; none where its table gives it no cycle. DESIGN CHOICE (log entry 106). -/
def shareTurn (s : State) (p ten : Nat) : Option State :=
  ((List.range 68).find? fun k => shareNs s p ten (s.now + k)).map fun k => { s with now := s.now + k }

end Sys2Proof.Machine
end

