-- ==== Sys2Proof/Machine/Matrix.lean ====
section
/-! DEFINITION. Standing matrix operations: configuration (R243 to R245), the firing (R51, R52, R246), the epilogue (R53, R247), and
their end (R248). -/

namespace Sys2Proof.Machine

/-! Accumulation (R51, R52). -/

/-- One product of the D8 paths in units of 2^-48: `w` in units of 2^-6, the block scale and the activation (R51). -/
def d8Product (w e : Int) (neg : Bool) (m : Nat) (g : Int) : Int × BitVec 5 :=
  let mag := w.natAbs * m
  let sh := g - 6 + e + 48
  let sign := neg != decide (w < 0)
  let put := fun (v : Nat) => if sign then -(v : Int) else (v : Int)
  if mag = 0 then (0, 0)
  else
    let exact := decide (0 ≤ sh)
    let big := if exact then decide (2 ^ 95 ≤ mag * 2 ^ sh.toNat) else decide (2 ^ 95 ≤ mag / 2 ^ (-sh).toNat)
    if big then (put (2 ^ 95 - 1), sbSA)
    else if exact then (put (mag * 2 ^ sh.toNat), 0)
    else
      let r := rne mag (-sh).toNat false
      (put r.1, sbIf r.2 sbIX)

/-- The exact sum of the products of a row of activations and a column of weights with their block scales, and the bits of all of them; none
where an activation is NaR (R51). -/
def d8Dot (ws : List (Int × Int)) (xs : List Val) : Option Int × BitVec 5 :=
  (List.zip ws xs).foldl (fun a q => match q.2 with
    | .fin s m e =>
      let r := d8Product q.1.1 q.1.2 s m e
      (a.1.map (· + r.1), a.2 ||| r.2)
    | _ => (none, a.2 ||| sbNR)) (some 0, 0)
/-- The binary32 accumulation of a row and a column in ascending k (R52). -/
def f32Dot (ws xs : List Val) : Nat × BitVec 5 :=
  (List.zip ws xs).foldl (fun a q =>
    let p := intoFloat .f32 (mulVal q.1 q.2)
    let r := addVal .f32 (valOf .f32 a.1) (valOf .f32 p.1)
    (r.1, a.2 ||| p.2 ||| r.2)) (0, 0)

/-! The epilogue (R53). -/

/-- The special functions by their FN code (R244). -/
def fnOf (n : Nat) : Option SpFn :=
  match n with
  | 1 => some .exp2
  | 2 => some .log2
  | 3 => some .rcp
  | 4 => some .rsqrt
  | 5 => some .sigm
  | 6 => some .tanh
  | _ => none
/-- The exact sum of a D8 path as the epilogue reads it: clamped to 96 bits, times 2^E (R51, R53). -/
def d8Read (acc : Option Int) (base : Int) : Val × BitVec 5 :=
  match acc with
  | none => (.nan, sbNR)
  | some v =>
    let c := if v < -(2 ^ 95) then -(2 ^ 95) else if 2 ^ 95 - 1 < v then 2 ^ 95 - 1 else v
    (.fin (decide (c < 0)) c.natAbs (base - 48), sbIf (decide (c ≠ v)) sbSA)
/-- The steps of the epilogue for one accumulator value: scale, bias, function, conversion (R53). -/
def epilogue (c : MxConfig) (n : Nat) (v : Val) : Res :=
  let sc := if c.scale.isEmpty then Val.fin false 1 0 else valOf .f32 (c.scale.getD n 0).toNat
  let a := intoFloat .f32 (mulVal v sc)
  let b := if c.bias.isEmpty then (a.1, 0) else addVal .f32 (valOf .f32 a.1) (valOf .f32 (c.bias.getD n 0).toNat)
  let ot := (tyOfCode c.otype).getD .f32
  let r := match fnOf c.fn with
    | some fn => spVal fn ot (valOf .f32 b.1)
    | none => intoFloat ot (valOf .f32 b.1)
  (r.1, a.2 ||| b.2 ||| r.2)

/-! Tiles (R244). -/

/-- The type of the activations of a path. -/
def actTy (path : Nat) : Ty := if path = 0 then .t8 else if path = 3 then .bf16 else .t16
/-- Its code. -/
def actCode (path : Nat) : Nat := if path = 0 then 9 else if path = 3 then 13 else 10
/-- Rows of 128 values of a width that a tile holds. -/
def tileRows (bytes : Nat) : Nat := 128 / bytes
/-- The values of a tile of activations by row. -/
def actRows (ty : Ty) (bs : List Byte) : List (List Val) :=
  let w := widthBytes (tyWidth ty)
  (chunksOf (128 * w) (tileRows w) bs).map fun r => (chunksOf w 128 r).map fun b => valOf ty (leNat b)
/-- Rows of several tiles side by side. -/
def beside {α : Type} (tiles : List (List (List α))) : List (List α) :=
  match tiles with
  | [] => []
  | [t] => t
  | t :: r => List.zipWith (· ++ ·) t (beside r)
/-- The block scales of a tile by row: 128 for each k (R43, R246). -/
def blockRows (bs : List Byte) : List (List Int) :=
  (chunksOf 4 128 bs).map fun r => r.flatMap fun b => List.replicate 32 (signed 8 b.toNat)
/-- The weights of a D8 tile by row n, with their block scales. -/
def d8Rows (bs : List Byte) (scales : Option (List Byte)) : List (List (Int × Int)) :=
  let e := match scales with
    | none => List.replicate 128 (List.replicate 128 0)
    | some q => blockRows q
  List.zipWith (fun r q => List.zip (r.map fun b => d8Units b.toNat) q) (chunksOf 128 128 bs) e

/-- The accumulators of a firing as the epilogue reads them, by row and column, and the bits of accumulating. -/
def mxAccumulate (c : MxConfig) (as bs : List (List Byte)) (es : List (Option (List Byte))) : List (List Val) × BitVec 5 :=
  let rows := (beside (as.map (actRows (actTy c.path)))).take c.rows
  if d8Path c then
    let cols := beside ((List.zip bs es).map fun q => d8Rows q.1 q.2)
    let cells := rows.map fun x => cols.map fun w =>
      let d := d8Dot w x
      let v := d8Read d.1 c.base
      (v.1, d.2 ||| v.2)
    (cells.map fun r => r.map (·.1), orBits (cells.flatMap fun r => r.map (·.2)))
  else
    let pairs := chunksOf 2 c.kt bs
    let cols := beside (pairs.map fun q => q.flatMap (actRows (actTy c.path)))
    let cells := rows.map fun x => cols.map fun w => f32Dot w x
    (cells.map fun r => r.map fun e => valOf .f32 e.1, orBits (cells.flatMap fun r => r.map (·.2)))
/-- An output tile: its bytes, the rows that are not computed zero, and its bits (R53, R244). -/
def mxOutput (c : MxConfig) (acc : List (List Val) × BitVec 5) : List Byte × BitVec 5 :=
  let w := widthBytes (tyWidth ((tyOfCode c.otype).getD .f32))
  let cells := acc.1.map fun r => r.zipIdx.map fun e => epilogue c e.2 e.1
  (padTo 16384 (cells.flatMap fun r => r.flatMap fun e => leBytes w e.1), acc.2 ||| orBits (cells.flatMap fun r => r.map (·.2)))

/-! Configuration (R243 to R245). -/

/-- Bytes that an operation keeps from `off` on in `data`; they are read only once (R29, R243). -/
def opPart (s : State) (p : Nat) (o : EngOp) (off n : Nat) (rd : State → State × EngGot (List Byte))
    (go : State → EngOp → List Byte → State) : State :=
  if off + n ≤ o.data.length then go s o ((o.data.drop off).take n)
  else opThen p o (rd s) fun s1 bs =>
    let o1 := { o with data := o.data ++ padTo n bs }
    go (modOp s1 p o.id fun _ => o1) o1 (padTo n bs)
/-- A tensor entry as bytes. -/
def tensorBytes (s : State) (x : Ctx) (owner tid : Nat) : State × EngGot (List Byte) :=
  match engGot 0 (tensorRead s x owner tid) with
  | (s1, .ok d) => (s1, .ok (d.flatMap fun v => leBytes 8 v.toNat))
  | (s1, .wait) => (s1, .wait)
  | (s1, .bad c i) => (s1, .bad c { i with tid := tid })

/-- Whether the descriptor by itself is invalid (R245): `d0` and `d1` are its first doubles, `rest` those from 0x20 on. -/
def mxDescBad (d0 d1 : Nat) (rest : List Dbl) : Bool :=
  let src := bitsOf d0 61 60
  let ot := bitsOf d1 63 60
  let fn := bitsOf d1 59 57
  let w := if ot = 9 then 1 else if ot = 10 ∨ ot = 13 then 2 else 4
  let rows := bitsOf d0 39 32 + 1
  decide (1 < src) || (src != 1 && bitsOf d0 55 52 != 0) || (src == 1 && bitsOf d0 31 22 != 0) || bitsOf d0 47 40 == 0 || fn == 7 ||
    !(([9, 10, 11, 13, 14] : List Nat).contains ot) || bitsOf d1 54 0 != 0 || rest.any (· != 0) || (fn != 0 && ot != 10 && ot != 13) ||
    decide (tileRows (if bitsOf d0 63 62 = 0 then 1 else 2) < rows) || decide (tileRows w < rows)
/-- Whether the plate tiles do not suit the operation (R245). -/
def mxPlateBad (tiles : List (Nat × Nat × DirEntry)) (n path tid : Nat) : Bool :=
  let ty := if path < 2 then 12 else actCode path
  tiles.length != n || (tiles.any fun t => t.2.2.ty.toNat != ty || (t.2.2.block && tid == 0)) ||
    (decide (path < 2) && (tiles.map fun t => t.2.2.scale).eraseDups.length != 1)
/-- The words of a vector. -/
def wordsIn (bs : List Byte) : List Word := (chunksOf 4 bs.length bs).map fun b => BitVec.ofNat 32 (leNat b)

/-- An operation that the unit will not perform: it ends without a firing. DEDUCED (log entry 102). -/
def mxNothing (s : State) (p : Nat) (o : EngOp) : State := settle (answer (opGone s p o) o.reply 0 .w32) o.ctx
/-- A failed check of a configuration; after a resume from it the operation ends without a firing. -/
def mxRefuse (s : State) (p : Nat) (o : EngOp) (cause desc : Nat) : State :=
  if o.waive = some (BitVec.ofNat 10 cause) then mxNothing s p o else opFault s p o cause (infoAt desc 0)

/-- The unit is bound to an operation. -/
def mxBind (s : State) (p u : Nat) (o : EngOp) (c : MxConfig) : State :=
  let b : MxBound := { op := { o with data := [], waive := none }, cfg := c, fired := 0, written := 0, staging := [], unbinding := false,
                       unbinders := [] }
  pushEvOnce (modPress s p fun r =>
    { r with running := r.running.filter fun v => v.id != o.id, units := tabPut r.units u b }) (.mxFiring p u)

/-- An operation configured: the descriptor, the entries of its rings' tensors and of the block scales, and its vectors are read once
and checked (R243 to R245). -/
def mxSetup (s : State) (p u : Nat) (o : EngOp) (x : Ctx) (desc : Nat) : State :=
  opPart s p o 0 64 (fun s => engGot 0 (engFetch s x (opOwner o.id) desc 64 o.waive)) fun s1 o1 bs =>
    let d := dblsOf bs
    let d0 := tdtDbl d 0
    let d1 := tdtDbl d 1
    let path := bitsOf d0 63 62
    let kt := bitsOf d0 47 40
    let ring := bitsOf d0 61 60 == 1
    let need := if path < 2 then kt else 2 * kt
    let refuse := fun (s : State) (c : Nat) => mxRefuse s p o1 c desc
    if mxDescBad d0 d1 (d.drop 4) then refuse s1 0x188
    else match ringOf x (bitsOf d0 59 56), ringOf x (bitsOf d0 51 48), (if ring then ringOf x (bitsOf d0 55 52) else ringOf x (bitsOf d0 51 48)) with
      | some a, some _, some b =>
        let tiles := mxPlate s1 x (bitsOf d0 31 22) need
        if a.len < kt || (ring && decide (b.len < need)) || (!ring && mxPlateBad tiles need path o.tid) then refuse s1 0x188
        else opPart s1 p o1 64 64 (fun s => tensorBytes s x (opOwner o.id) a.tid) fun s2 o2 ta =>
          if tdtCode (dblsOf ta) ≠ actCode path then refuse s2 0x188
          else opPart s2 p o2 128 64 (fun s => if ring then tensorBytes s x (opOwner o.id) b.tid else (s, .ok [])) fun s3 o3 tb =>
            if ring && tdtBlocks (dblsOf tb) then refuse s3 0x188
            else opPart s3 p o3 192 64 (fun s => if o.tid = 0 then (s, .ok []) else tensorBytes s x (opOwner o.id) o.tid) fun s4 o4 tt =>
              opPart s4 p o4 256 512 (fun s => if bitsOf d1 56 56 = 1 then engRead s x o4 0 (tdtDbl d 2) 512 else (s, .ok [])) fun s5 o5 vb =>
                opPart s5 p o5 768 512 (fun s => if bitsOf d1 55 55 = 1 then engRead s x o5 0 (tdtDbl d 3) 512 else (s, .ok [])) fun s6 o6 vs =>
                  mxBind s6 p u o6
                    { path := path, fromRing := ring, aring := bitsOf d0 59 56, bring := bitsOf d0 55 52, cring := bitsOf d0 51 48, kt := kt,
                      rows := bitsOf d0 39 32 + 1, btile := bitsOf d0 31 22, count := bitsOf d0 21 0, otype := bitsOf d1 63 60,
                      fn := bitsOf d1 59 57, bias := if bitsOf d1 56 56 = 1 then wordsIn vb else [],
                      scale := if bitsOf d1 55 55 = 1 then wordsIn vs else [],
                      base := if ring then tdtScale (dblsOf tb) else match tiles with
                        | [] => 0
                        | t :: _ => signed 8 t.2.2.scale.toNat
                      tid := o.tid, tdt := dblsOf tt }
      | _, _, _ => refuse s1 0x186

/-! Firing (R246, R247). -/

/-- `s` with it changed. -/
def modUnit (s : State) (p u : Nat) (f : MxBound → MxBound) : State := modPress s p fun r => { r with units := tabUpdate r.units u f }
/-- MX_CONFIGURE (R243): the operation that has left the unit's queue is configured; one that waits for a translation lets others go first
(R220). -/
def execMxConfigure (p u : Nat) (s : State) : Next :=
  let l := (runningOf s p u).filter fun o => !o.held
  match ((l.filter fun o => !ctxFrozen s o.ctx && !o.stalled) ++ (l.filter fun o => !ctxFrozen s o.ctx) ++ l).head?, unitAt s p u with
  | none, _ => .next s
  | some _, some _ => .next (pushEvOnce s (.mxConfigure p u))
  | some o, none => withOp s o.id fun s q o x =>
    match o.kind with
    | .matrix desc _ => mxSetup s q u o x desc
    | _ => s

/-- A fault of a bound operation: its context freezes, the unit stays bound to it (R243, R361). -/
def unitFault (s : State) (p u : Nat) (b : MxBound) (cause : Nat) (i : FaultInfo) (again : Instr) : State :=
  let s1 := takeFault s b.op.ctx cause { i with inst := b.op.reply.inst, engine := some b.op.queue, tid := b.op.tid, block := b.op.block, word := b.op.word }
    (some (.event again))
  modUnit s1 p u fun v => { v with op := { v.op with held := true } }

/-- Tiles read; the first that cannot be stops it. -/
def tilesRead (s : State) (x : Ctx) (waive : Option (BitVec 10)) (ks : List Nat) : EngGot (List (List Byte)) :=
  match ks with
  | [] => .ok []
  | k :: r => match engGot 0 (engFetch s x 0 (slotHandle k) 16384 waive), tilesRead s x waive r with
    | (_, .ok bs), .ok l => .ok (bs :: l)
    | (_, .bad c i), _ => .bad c i
    | (_, .ok _), .bad c i => .bad c i
    | _, _ => .wait
/-- The owner under which a firing waits for the block scales of its tile `j`. -/
def scaleOwner (id j : Nat) : Nat := 2 ^ 52 + 256 * id + j
/-- The block scales of the plate tiles of a firing, each in -16 to 15 (R43, R246). The record of cause 0x091 carries the bits of the operation's
command: the tiles bring none. A firing resumed from 0x091 is made unchecked (R367); R43 leaves open which scale it then uses, and it uses
the byte as it stands. DESIGN CHOICE (log entry 184). -/
def scalesRead (s : State) (x : Ctx) (b : MxBound) (j : Nat) (ts : List (Nat × Nat × DirEntry)) : State × EngGot (List (Option (List Byte))) :=
  match ts with
  | [] => (s, .ok [])
  | t :: r =>
    let rest := fun (s : State) (e : Option (List Byte)) => match scalesRead s x b (j + 1) r with
      | (s1, .ok l) => (s1, .ok (e :: l))
      | q => q
    if !t.2.2.block then rest s none
    else
      let at' := (tdtDbl b.cfg.tdt 7 + 512 * t.1) % 2 ^ 64
      match engGot 0 (engFetch s x (scaleOwner b.op.id j) at' 512 b.op.waive) with
      | (s1, .ok bs) =>
        if (bs.any fun v => decide (signed 8 v.toNat < -16) || decide (15 < signed 8 v.toNat)) && b.op.waive != some 0x091 then
          (s1, .bad 0x091 { infoAt at' 0 with sb := b.op.reply.sb })
        else rest s1 (some bs)
      | (s1, .wait) => (s1, .wait)
      | (s1, .bad c i) => (s1, .bad c i)

/-- The tiles of a ring released by their consumer (R219, R246). -/
def ringRelease (s : State) (c g r : Nat) (ks : List Nat) : State :=
  modRing (ks.foldl (fun s k => slotState s g k 0) s) c r fun q => consumed q ks.length

/-- A firing performed: the tiles are consumed, the output slot is taken, and the output waits in staging (R246, R247). DESIGN CHOICE (log
entry 103). -/
def mxFire (s : State) (p u : Nat) (b : MxBound) (x : Ctx) (q : List Nat × List Nat × Nat) (as bs : List (List Byte))
    (es : List (Option (List Byte))) : State :=
  let c := b.cfg
  let out := mxOutput c (mxAccumulate c as bs es)
  let s1 := ringRelease s b.op.ctx x.group c.aring q.1
  let s2 := if c.fromRing then ringRelease s1 b.op.ctx x.group c.bring q.2.1 else s1
  let tid := match ringOf x c.cring with
    | some r => r.tid
    | none => 0
  let s3 := modRing (slotFill s2 x q.2.2 tid) b.op.ctx c.cring fun r => produced r 1
  let st : Staged := { slot := q.2.2, bytes := out.1, sb := out.2, own := out.2, checked := false }
  let s4 := modUnit s3 p u fun v => { v with fired := v.fired + 1, staging := v.staging ++ [st], op := { v.op with waive := none } }
  pushEvOnce (pushEvOnce s4 (.epilogueWrite p u)) (.mxFiring p u)

/-- The end of an operation (R248): the unit is free, and the number of firings is delivered. -/
def mxEnd (s : State) (p u : Nat) (b : MxBound) : State :=
  let s1 := pushEvOnce (modPress s p fun r => { r with units := tabDrop r.units u }) (.engineOpStart p b.op.queue)
  (b.op.reply :: b.unbinders).foldl (fun s r => settle (answer s r b.written .w32) r.ctx) s1

/-- MX_FIRING (R246): the standing operation of a unit fires if all its parties are present, in a cycle of its tenancy. -/
def execMxFiring (p u : Nat) (s : State) : Next :=
  .next (match unitAt s p u with
    | none => s
    | some b =>
      let poll := fun (s : State) => pushEvOnce s (.mxFiring p u)
      match ctxAt s b.op.ctx with
      | none => mxEnd s p u b
      | some x =>
        if x.frozen.isSome then poll s
        else if !mxOwes b then (if b.staging.isEmpty then mxEnd s p u b else poll s)
        else match mxSlots s x b.cfg with
          | none => poll s
          | some q =>
            if !mxCan s x b then poll s
            else match shareTurn s p x.ten with
              | none => poll s
              | some s1 =>
                let again := Instr.mxFiring p u
                match tilesRead s1 x b.op.waive (q.1 ++ q.2.1) with
                | .wait => poll s1
                | .bad c i => unitFault s1 p u b c i again
                | .ok l =>
                  match scalesRead s1 x b 0 (if b.cfg.fromRing || !d8Path b.cfg then [] else mxPlate s1 x b.cfg.btile b.cfg.kt) with
                  | (s2, .wait) => poll s2
                  | (s2, .bad c i) => unitFault s2 p u b c i again
                  | (s2, .ok es) =>
                    let n := q.1.length
                    mxFire s2 p u b x q (l.take n) (l.drop n) (if es.isEmpty then List.replicate b.cfg.kt none else es))

/-- EPILOGUE_WRITE (R50, R53, R247): the first staged output is checked and written to its slot, which must be Filling: it waits for that
state (R217, R218). -/
def execEpilogueWrite (p u : Nat) (s : State) : Next :=
  .next (match unitAt s p u with
    | none => s
    | some b =>
      let again := Instr.epilogueWrite p u
      match b.staging, ctxAt s b.op.ctx with
      | [], _ => s
      | _, none => s
      | t :: r, some x =>
        if x.frozen.isSome then pushEvOnce s again
        else match (if t.checked || waivesEnable b.op.waive then none else enableCause (t.own &&& x.eenable)) with
          | some c => unitFault (modUnit s p u fun v => { v with staging := { t with checked := true } :: r }) p u b c.toNat
              { noInfo with sb := t.sb } again
          | none =>
            let e := tileAt s x.group t.slot
            if e.state ≠ 0 ∧ e.ten.toNat ≠ x.ten ∧ b.op.waive ≠ some 0x181 then unitFault s p u b 0x181 (infoAt (slotHandle t.slot) 0) again
            else if e.state ≠ 1 ∧ b.op.waive ≠ some 0x181 then pushEvOnce s again
            else
              let s1 := sramFresh (slotWrite s x.group t.slot 0 t.bytes) (slotAddr x.group t.slot 0) 16384
              let s2 := sinkBits (offend s1 x.group t.slot b.op.reply.inst 0 t.sb x.tag) b.op.ctx t.sb
              let s3 := slotState s2 x.group t.slot 2
              let s4 := modUnit s3 p u fun v => { v with staging := r, written := v.written + 1, op := { v.op with waive := none } }
              pushEvOnce (if r.isEmpty then s4 else pushEvOnce s4 again) (.mxFiring p u))

/-! The instructions (R243, R248). -/

/-- MX_DEF (R243). -/
def execMxDef (f : FireMode) (tid : BitVec 10) (t : Target) (unit : Bool) (s : State) : Next :=
  onFire f s (passEosAfter s [t]) (nullsUnless (oneElem · .w64) s f [t]) fun w =>
    match oneElem w .w64 with
    | some c => fireFault s w c (fireInfo w)
    | none =>
      let v := aFirst f w
      let u := if unit then 1 else 0
      if v % 64 ≠ 0 && w.waive != some 0x118 then fireFault s w 0x118 { infoAt v 0 with iter := w.iter, tid := tid.toNat }
      else queueOp s f w [t] u tid.toNat (.matrix (v / 64 * 64) u)

/-- MX_UNBIND (R248): the context's operation on the unit ends after the firing in progress; without one, 0 is delivered at once. DEDUCED
(log entry 104). -/
def execMxUnbind (f : FireMode) (t : Target) (unit : Bool) (s : State) : Next :=
  onFire f s (passEosAfter s [t]) (sendNulls s f [t]) fun w =>
    match ctxAt s w.ctx with
    | none => s
    | some x =>
      let u := if unit then 1 else 0
      let r := openReply s f w [t]
      match (pressAt r.1 x.press).units.find? fun e => e.2.op.ctx == w.ctx && e.2.op.queue == u with
      | some (k, _) =>
        pushEvOnce (modUnit r.1 x.press k fun v => { v with unbinding := true, unbinders := v.unbinders ++ [r.2] }) (.mxFiring x.press k)
      | none => answer r.1 r.2 0 .w32

end Sys2Proof.Machine
end

