-- ==== Sys2Proof/Machine/Paging.lean ====
section
/-! DEFINITION. TLB invalidation (R212) and page migration (R214). -/

namespace Sys2Proof.Machine

/-- Whether a VA of a tenancy falls under an invalidation: scope 0 the page of an address, 1 a tenancy, 2 and 3 everything. -/
def underInvalidation (scope ten page : Nat) (t va size : Nat) : Bool :=
  decide (2 ≤ scope) || (t == ten && (scope == 1 || page / size == va / size))

/-- The TLB entries under an invalidation dropped. -/
def tlbWithout (tlb : List TlbEntry) (scope ten page : Nat) : List TlbEntry :=
  tlb.filter fun e => !underInvalidation scope ten page e.ten e.va e.size
/-- Every TLB of the device without them. -/
def invalidateTlbs (s : State) (scope ten page : Nat) : State :=
  { s with presses := s.presses.map fun e => (e.1, { e.2 with tlb := tlbWithout e.2.tlb scope ten page }),
           groups := s.groups.map fun e => (e.1, { e.2 with tlb := tlbWithout e.2.tlb scope ten page }) }

/-- Whether an access was translated through an entry under an invalidation: a larger page may hold it, so the largest counts. -/
def accUnder (s : State) (scope ten page : Nat) (a : Access) : Bool :=
  a.walked && bitsOf a.addr.toNat 63 56 == 0 && (match ctxAt s a.ctx with
    | none => false
    | some x => underInvalidation scope ten page x.ten a.addr.toNat (2 ^ 30) ||
        underInvalidation scope ten page x.ten (a.addr.toNat + a.size - 1) (2 ^ 30))

/-- Whether an engine's write at a peer that is not acknowledged *acc* was translated through an entry under an invalidation; every page of
its tenancy counts. -/
def writeUnder (s : State) (scope ten : Nat) (t : Xfer) : Bool :=
  !t.acc && (match t.kind with
    | .unitWrite _ => decide (2 ≤ scope) || t.need == ten
    | .copy _ => decide (2 ≤ scope) || (match ctxAt s t.ctx with
      | none => false
      | some x => x.ten == ten)
    | _ => false)

/-- An invalidation starts: DONE clears, and no walk fills a TLB until it is complete. -/
def startInvalidation (s : State) (scope : Nat) : State :=
  pushEvOnce { csrPoke s 0x364 62 62 0 with
    invalidating := some (BitVec.ofNat 2 scope, csrBits s 0x364 3 0, csrBits s 0x365 55 16 * 65536) } .tlbInvalidateDone

/-- TLB_INVALIDATE_PAGE (R212): SCOPE 00. -/
def execTlbInvalidatePage (s : State) : Next := .next (startInvalidation s 0)
/-- TLB_INVALIDATE_TENANCY (R212): SCOPE 01. -/
def execTlbInvalidateTenancy (s : State) : Next := .next (startInvalidation s 1)
/-- TLB_INVALIDATE_ALL (R212): SCOPE 10 and 11. -/
def execTlbInvalidateAll (s : State) : Next := .next (startInvalidation s 2)

/-- TLB_INVALIDATE_DONE (R212): the entries go, what a freeze holds back will be translated again, and once the accesses translated
through them are performed, those of engines among them, DONE sets. -/
def execTlbInvalidateDone (s : State) : Next :=
  .next (match s.invalidating with
    | none => s
    | some (sc, ten, page) =>
      let s1 := invalidateTlbs s sc.toNat ten page
      let waits := fun (a : Access) => a.held || (match ctxAt s1 a.ctx with
        | none => false
        | some x => x.frozen.isSome && stalled s1 x a.ctx)
      let l := mapWhere (fun a => waits a && !a.sent && accUnder s sc.toNat ten page a) (fun a => { a with walked := false }) s1.accesses
      let s2 := { s1 with accesses := l }
      if (s2.accesses.any (accUnder s2 sc.toNat ten page)) || s2.xfers.any (writeUnder s2 sc.toNat ten) then pushEvOnce s2 .tlbInvalidateDone
      else csrPoke { s2 with invalidating := none } 0x364 62 62 1)

/-- Whether an access of a tenancy lies in a page of 64 KiB. -/
def accIn (s : State) (ten base : Nat) (a : Access) : Bool :=
  bitsOf a.addr.toNat 63 56 == 0 && (match ctxAt s a.ctx with
    | none => false
    | some x => x.ten == ten && (a.addr.toNat / 65536 * 65536 == base || (a.addr.toNat + a.size - 1) / 65536 * 65536 == base))

/-- MIGRATION_COMPLETE (R214): the page is copied from its peer, the PTE is rewritten, every TLB drops the page, and the event is
sent; accesses that waited are translated again. A copy that fails ends the migration without a change (DESIGN CHOICE, log entry 27). -/
def execMigrationComplete (ten va : Nat) (s : State) : Next :=
  .next (match s.migrations.find? fun m => m.ten == ten && m.va == va with
    | none => s
    | some m =>
      let again := pushEvOnce s (.migrationComplete ten va)
      if s.accesses.any fun a => a.sent && accIn s ten va a then again
      else
        let owner := 2 ^ 44 + va
        let rest := fun (s : State) => { s with migrations := s.migrations.filter fun k => !(k.ten == ten && k.va == va) }
        match remoteFail s owner with
        | some _ => rest (dropRemote (dropFail s owner) owner)
        | none =>
          match remoteRead 600 s owner m.peer (m.oldFrame * 65536) 65536 with
          | (s1, .wait) => pushEvOnce s1 (.migrationComplete ten va)
          | (s1, .bad _ _ _) => rest (dropRemote s1 owner)
          | (s1, .ok bs) =>
            let pa := m.newFrame * 65536
            let s2 := dropRemote (hbmFresh (hbmWrite s1 pa bs) pa 65536) owner
            let pte := hbmDbl s2 m.pteAddr
            let s3 := hbmPutDbl s2 m.pteAddr (putBits (putBits (putBits pte 57 56 0) 54 41 0) 31 0 m.newFrame)
            let s4 := invalidateTlbs (rest s3) 0 ten va
            let l := mapWhere (fun a => a.walked && !a.sent && accIn s4 ten va a) (fun a => { a with walked := false }) s4.accesses
            let s5 := { s4 with accesses := l }
            pfEvent s5 { recOf 0x108 with ten := ten, addr := va, aux := m.peer, ntok := 2, items := [m.oldFrame, m.newFrame] })

end Sys2Proof.Machine
end

