-- ==== Sys2Proof/Machine/Retire.lean ====
section
/-! DEFINITION. The end of a step: retirement and the end of a child (R310, R390, R391), abort (R326), and the disposition of faults
(R367, R368). -/

namespace Sys2Proof.Machine

/-! Retirement. -/

/-- Operations with COUNT = 0 are unbound when the end exit has committed (R248). -/
def unbindEndless (s : State) (c : Nat) (x : Ctx) : State :=
  ((pressAt s x.press).units.filter fun u => u.2.op.ctx == c && u.2.cfg.count == 0 && !u.2.unbinding).foldl (fun s u =>
    pushEvOnce (modUnit s x.press u.1 fun v => { v with unbinding := true }) (.mxFiring x.press u.1)) s
/-- The scope at which the accesses of an ending context are to be performed: device, and system where its step holds a stimulus for
another device or the host, whose release that is (R299, R390). -/
def endScope (s : State) (stp : Nat) : Nat :=
  match stepAt s stp with
  | none => 3
  | some r => if r.held.any fun h => h.sink.isSome || h.dev != deviceNumber s then 4 else 3
/-- Whether everything of an ending context is performed (R310, R390). DEDUCED (log entry 126). -/
def endReady (s : State) (c : Nat) (x : Ctx) : Bool :=
  x.phase == .ending && x.frozen.isNone && (ctxOps s c).isEmpty && !((pressAt s x.press).units.any fun u => u.2.op.ctx == c) &&
    earlierDone s c (x.entry + 1) 0 (endScope s x.stp) && !(s.memFires.any fun m => m.reply.ctx == c) && !hasChild s c
/-- A context is no more: its race slot, tag, region and rings are free, and its counts join its tenancy's (R393). -/
def ctxEnds (s : State) (c : Nat) : State :=
  match ctxAt s c with
  | none => s
  | some x =>
    let s1 := turnWake (dropCtx (addCounts (endActor s c) x) c) x.press x.region
    if x.spawned && decide (x.tag < 256) then spawnTagFreed s1 x.press else s1

/-- The end of a child (R310). -/
def childEnds (s : State) (c : Nat) (x : Ctx) : State :=
  match x.parent with
  | none => ctxEnds s c
  | some r =>
    let s1 := modCtx s r.ctx fun y => { y with esum := y.esum ||| x.esum }
    let s2 := match ctxAt s1 r.ctx, x.actor with
      | some y, some a => joinFinal s1 y a
      | _, _ => s1
    settle (answer (ctxEnds s2 c) r (tabGet (fun _ => 0) x.g 0).toNat .w32) r.ctx
/-- The children of a step that can end do. -/
def childrenEnd (s : State) (stp : Nat) : State :=
  (s.ctxs.filter fun e => e.2.stp == stp && e.2.spawned && e.2.phase == .ending).foldl (fun s e =>
    match ctxAt s e.1 with
    | none => s
    | some x =>
      let s1 := unbindEndless s e.1 x
      if endReady s1 e.1 x then childEnds s1 e.1 x else s1) s

/-- Retirement after its release and the dispositions, items 2 to 6 of R390. -/
def retireRoot (s : State) (stp : Nat) (r : StepRec) : State :=
  let s1 := r.held.foldl (fun s h => match h.sink with
    | none => releaseStim s 2 r.ten h.dev h.stim
    | some j => sinkPut s r.ten j h.stim) s
  let s2 := r.members.foldl (fun s m => sendCompletions s m.stim.bytes) s1
  let s3 := ctxEnds (plateRelease s2 r.group r.ten r.plate r.members.length) r.root
  let s4 := devCount { s3 with steps := tabDrop s3.steps stp } 0x204 (s3.now - r.admittedAt)
  let s5 := r.members.foldl (fun s m =>
    let s1 := modEntry s r.group r.ten m.agent fun e => { e with steps := (e.steps + 1) % 2 ^ 63, inFlight := false }
    cardRetired (entryTouch s1 r.group r.ten m.agent) m.stim.card) s4
  kickGroup s5 r.group

/-! Abort (R326). -/

/-- The outputs that a matrix operation has in staging are written as it ends. -/
def flushStaged (s : State) (x : Ctx) (b : MxBound) : State :=
  b.staging.foldl (fun s t =>
    let e := tileAt s x.group t.slot
    if e.state ≠ 1 ∨ e.ten.toNat ≠ x.ten then s
    else
      let s1 := sramFresh (slotWrite s x.group t.slot 0 t.bytes) (slotAddr x.group t.slot 0) 16384
      slotState (offend s1 x.group t.slot b.op.reply.inst 0 t.sb x.tag) x.group t.slot 2) s
/-- The drains of a context end with it, and their slots are Draining no more (R240). DEDUCED (log entry 128). -/
def drainsEnd (s : State) (x : Ctx) (l : List EngOp) : State :=
  l.foldl (fun s o => match o.kind with
    | .drain k _ _ => if (tileAt s x.group k).state = 3 then slotState s x.group k 0 else s
    | _ => s) s
/-- The accepted accesses of a context performed in their order; nothing that comes of them is a fault any more. DEDUCED (log entry 127).
-/
def performAll (s : State) (c : Nat) : State :=
  let key := fun (a : Access) => (a.entry * 32 + a.lsid) * 2048 + a.elem
  let l := (s.accesses.filter fun a => a.ctx == c && a.walked && !a.sent && !a.held).mergeSort fun a b => decide (key a ≤ key b)
  l.foldl (fun s a => match ctxAt s c with
    | none => s
    | some x => performAccess s x a) s
/-- Nothing of a context is in work any more: what is left of its requests and operations is dropped. -/
def dropWork (s : State) (c : Nat) (x : Ctx) : State :=
  let s1 := { s with
    accesses := s.accesses.filter fun a => a.ctx != c,
    settling := s.settling.filter fun a => a.ctx != c,
    memFires := s.memFires.filter fun m => m.reply.ctx != c,
    fences := s.fences.filter fun f => f.reply.ctx != c,
    qfences := s.qfences.filter fun f => f.reply.ctx != c,
    waiters := s.waiters.filter fun w => w.firing.ctx != c,
    slotWait := s.slotWait.filter fun d => d != c,
    queue := s.queue.filter fun w => !workOf c w }
  let p := pressAt s1 x.press
  let s2 := (p.units.filter fun u => u.2.op.ctx == c).foldl (fun s u => flushStaged s x u.2) s1
  let mine := fun (o : EngOp) => o.ctx == c
  let s3 := modPress (drainsEnd s2 x ((p.queues.flatMap (·.2) ++ p.running).filter mine)) x.press fun r => { r with
    queues := (r.queues.map fun q => (q.1, q.2.filter fun o => !mine o)).filter fun q => !q.2.isEmpty,
    running := r.running.filter fun o => !mine o,
    units := r.units.filter fun u => !mine u.2.op }
  let s4 := setSpawns s3 x.press fun l => l.filter fun e => e.1.ctx != c
  (List.range 8).foldl (fun s q => if (queueAt s x.press q).isEmpty then s else pushEvOnce s (.engineOpStart x.press q)) s4
/-- A context stops and ends with its step. DEDUCED (log entry 128). -/
def ctxAborts (s : State) (c : Nat) : State :=
  match ctxAt s c with
  | none => s
  | some x =>
    let stop : Frozen := { cause := 0x245, seq := 0, again := none, since := s.now }
    let s1 := performAll (setCtx s c { x with frozen := some (x.frozen.getD stop) }) c
    ctxEnds (dropWork s1 c x) c

/-- A member's head stimulus goes back to its entry's queue, or is quarantined with a record; S is set again (R326, R367). DEDUCED (log
entry 168). -/
def headBack (s : State) (r : StepRec) (q : Bool) (mask : Nat) (m : Nat × Member) : State :=
  let masked := mask.testBit m.1
  let s1 := if q || masked then
      quarantine s m.2.stim { recOf (if masked then 0x3C7 else 0x245) with ten := r.ten, agent := m.2.agent, member := m.1 }
    else s
  let s2 := modEntry s1 r.group r.ten m.2.agent fun e =>
    { e with inFlight := false, queue := if q || masked then e.queue else m.2.stim :: e.queue }
  let s3 := entryTouch s2 r.group r.ten m.2.agent
  match entryIn s3 r.group r.ten m.2.agent with
  | some e => if e.hq then pushEvOnce s3 (.queueRefill r.ten m.2.agent) else s3
  | none => s3
/-- THE ABORT OF A STEP (R326, R367): what its contexts had accepted is performed, the rest is dropped, and each head stimulus goes
back or is quarantined. Once a step retires it is too late (R391). -/
def abortStep (s : State) (stp : Nat) (q : Bool) (mask : Nat) (record : Option Rec) : State :=
  match stepAt s stp with
  | none => s
  | some r =>
    if r.retiring then s
    else
      let s1 := ((s.ctxs.filter fun e => e.2.stp == stp).map (·.1)).foldl ctxAborts s
      let s2 := { s1 with proofs := s1.proofs.filter fun p => (ctxAt s1 p.2.ctx).isSome }
      let s3 := (r.members.zipIdx.map fun m => (m.2, m.1)).foldl (fun s m => headBack s r q mask m) s2
      let s4 := plateRelease s3 r.group r.ten r.plate r.members.length
      let s5 := devCount { s4 with steps := tabDrop s4.steps stp } 0x204 (s4.now - r.admittedAt)
      let s6 := match record with
        | none => s5
        | some e => tenRecord s5 e
      kickGroup s6 r.group

/-- ABORT (R326). DEDUCED (log entry 129). -/
def execAbort (f : FireMode) (q : Bool) (s : State) : Next :=
  onFire f s (fun _ _ => s) (fun _ => s) fun w =>
    match ctxAt s w.ctx with
    | none => s
    | some x =>
      let r := faultRecord s x 0x245 0 { fireInfo w with inst := w.inst }
      abortStep s x.stp q 0 (some { r with cls := 1, ntok := 0, items := [] })

/-! Dispositions (R367, R368). -/

/-- A context that is frozen, or keeps its freeze in a Proof, with a record of a sequence number. -/
def frozenAs (s : State) (c seq : Nat) : Option Ctx :=
  let named := fun (z : Option Frozen) => match z with
    | none => false
    | some z => z.seq == seq
  (ctxAt s c).filter fun x => named x.frozen || named x.refreeze
/-- A record is disposed of (R367, R368): resume or abort, once; anything else is refused. While its context is being restored the
disposition waits (R379). DESIGN CHOICE (log entry 131). -/
def dispose (s : State) (ten seq act mask : Nat) (register : Bool) : State :=
  let key := 2 ^ 24 * ten + seq
  match tabFind s.records key with
  | none => dispRefused s ten seq act register
  | some r =>
    match frozenAs s r.ctx seq with
    | none => dispRefused s ten seq act register
    | some x =>
      if r.done || !(act == 1 || act == 2) then dispRefused s ten seq act register
      else if !x.begun.isEmpty && x.frozen.isNone then
        pushEv s (if act = 2 then .dispositionAbort ten seq (BitVec.ofNat 64 mask) else .dispositionResume ten seq)
      else
        let s1 := { s with records := tabPut s.records key { r with done := true } }
        if act = 2 then abortStep s1 x.stp false mask none
        else if x.refreeze.isSome then thawSaved s1 r.ctx
        else thaw s1 r.ctx
/-- DISPOSITION_RESUME (R368). -/
def execDispositionResume (ten seq : Nat) (s : State) : Next := .next (dispose s ten seq 1 0 true)
/-- DISPOSITION_ABORT (R368). -/
def execDispositionAbort (ten seq : Nat) (qmask : Dbl) (s : State) : Next := .next (dispose s ten seq 2 qmask.toNat true)

/-- The fault stimuli that a step has consumed, each with its member. -/
def faultStims (r : StepRec) : List (Nat × List Byte) :=
  (r.members.zipIdx.filter fun m => stimKind m.1.stim.bytes == 0xF4 && stimSource m.1.stim.bytes == 3).map fun m => (m.2, m.1.stim.bytes)
/-- The owner under which the read of a record's disposition waits for a peer. -/
def dispOwner (stp m : Nat) : Nat := 2 ^ 55 + 64 * stp + m
/-- DISP and QMASK of the records that the stimuli name, or the cause for which one cannot be read; none while one waits. DEDUCED (log
entry 130). -/
def dispRead (s : State) (stp : Nat) (r : StepRec) (l : List (Nat × List Byte)) : State × Option (List (Nat × Except Nat (List Byte))) :=
  match l with
  | [] => (s, some [])
  | (m, bs) :: q =>
    let one := fun (s : State) (v : Except Nat (List Byte)) => match dispRead s stp r q with
      | (s1, some l) => (s1, some ((stimDbl bs 8 % 2 ^ 24, v) :: l))
      | k => k
    match vaKeep s none (dispOwner stp m) r.ten .read ((stimDbl bs 0 + 0x30) % 2 ^ 56) 16 with
    | (s1, .wait) => (s1, none)
    | (s1, .bad c _ _) => one s1 (.error c)
    | (s1, .ok d) => one s1 (.ok d)
/-- What the steward wrote takes effect (R367). A read that failed counts as V = 0, with a record of cause 0x3C1. -/
def dispTake (s : State) (ten seq : Nat) (v : Except Nat (List Byte)) : State :=
  match v with
  | .error c =>
    let bs := match tabFind s.records (2 ^ 24 * ten + seq) with
      | none => recBytes { recOf 0x3C1 with ten := ten, seq := seq }
      | some r => r.bytes
    eventPut s (ten + 1) (recAs bs 0x3C1 1 (2048 + c)) false
  | .ok d =>
    let disp := leNat (d.take 8)
    if bitsOf disp 63 63 = 0 then s else dispose s ten seq (bitsOf disp 62 60) (leNat (d.drop 8)) false

/-- The root of a step retires once it can: release, dispositions, then R390. -/
def rootRetires (s : State) (stp : Nat) : State :=
  match stepAt s stp with
  | none => s
  | some r =>
    match ctxAt s r.root with
    | none => s
    | some x =>
      let s1 := unbindEndless s r.root x
      let others := s1.ctxs.any fun e => e.2.stp == stp && e.1 != r.root
      if others || !endReady s1 r.root x then s1
      else
        let s2 := modStep s1 stp fun q => { q with retiring := true }
        match dispRead s2 stp r (faultStims r) with
        | (s3, none) => s3
        | (s3, some l) =>
          let s4 := (faultStims r).foldl (fun s m => dropRemote s (dispOwner stp m.1)) s3
          retireRoot (l.foldl (fun s d => dispTake s r.ten d.1 d.2) s4) stp r
/-- RETIREMENT (R310, R390): the children of a step that can end do, then its root; what cannot yet is looked at again. -/
def execRetirement (stp : Nat) (s : State) : Next :=
  .next (
    let s1 := rootRetires (childrenEnd s stp) stp
    if s1.ctxs.any fun e => e.2.stp == stp && e.2.phase == .ending then pushEvOnce s1 (.retirement stp) else s1)

end Sys2Proof.Machine
end

