-- ==== Sys2Proof/Machine/Proofs.lean ====
section
/-! DEFINITION. Pre-emption: the marker drain, the Proof slot, restoration and release (R325, R371 to R374). A context in a Proof stays
in State with a tag of 256 plus its slot, holding no tag, region or window, and nothing acts on it. -/

namespace Sys2Proof.Machine

/-! Proof slots (R371). -/

/-- The Proof slots of the Proof Area: none while it is not valid. -/
def proofSlots (s : State) : Nat :=
  if csrBits s 0x3DA 0 0 = 0 then 0
  else
    let k := csrBits s 0x3DA 4 1
    2 ^ (if 8 < k then 8 else k)
/-- The lowest free Proof slot. -/
def freeProof (s : State) : Option Nat := (List.range (proofSlots s)).find? fun k => (tabFind s.proofs k).isNone
/-- The local PA of a slot. -/
def proofBase (s : State) (slot : Nat) : Nat := csrBits s 0x3DA 47 22 * 2 ^ 22 + slot * 2 ^ 22
/-- Contexts whose drain has started and which are not in a Proof yet. -/
def draining (s : State) : Nat := (s.ctxs.filter fun e => e.2.drain.isSome && decide (e.2.tag < 256)).length
/-- Whether a drain finds a slot that no other drain waits for. DEDUCED (log entry 135). -/
def proofRoom (s : State) : Bool := decide (s.proofs.length + draining s < proofSlots s)

/-! Starting a drain (R325, R371). -/

/-- The live context of a Press and tag. -/
def ctxNamed (s : State) (press tag : Nat) : Option Nat :=
  (s.ctxs.find? fun e => e.2.press == press && e.2.tag == tag).map (·.1)
/-- The context that a selector names. -/
def preemptNames (s : State) (self sel : Nat) : Option Nat :=
  if sel = 2 ^ 32 - 1 then some self
  else if bitsOf sel 31 24 ≠ 0 ∨ bitsOf sel 7 0 ≠ 0 then none
  else ctxNamed s (bitsOf sel 23 16) (bitsOf sel 15 8)
/-- PREEMPT (R325). -/
def execPreempt (f : FireMode) (s : State) : Next :=
  onFire f s (fun _ _ => s) (nullsUnless (oneElem · .w32) s f []) fun w =>
    match oneElem w .w32, ctxAt s w.ctx with
    | some c, _ => fireFault s w c (fireInfo w)
    | none, none => s
    | none, some x =>
      match preemptNames s w.ctx (aFirst f w) with
      | none => s
      | some c => match ctxAt s c with
        | none => s
        | some y =>
          if y.ten ≠ x.ten && !supervisor s x && !passed w.waive 0x3C4 then fireFault s w 0x3C4 (fireInfo w)
          else if csrBits s 0x3DA 0 0 = 0 ∨ y.drain.isSome ∨ y.phase = .ending then s
          else if proofRoom s then drainStart s c false
          else waitFor s w

/-- PREEMPT_REQUEST (R371): the context named in the register. -/
def execPreemptRequest (s : State) : Next :=
  .next (match ctxNamed s (csrBits s 0x3DB 23 16) (csrBits s 0x3DB 15 8) with
    | none => s
    | some c => drainStart s c (csrBits s 0x3DB 62 62 == 1))

/-! What a Proof slot holds (R373). -/

/-- Doubles as bytes. -/
def dblBytes (l : List Nat) : List Byte := l.flatMap (leBytes 8)
/-- The header of a slot, one double for each of its parts in the order of R373. DEDUCED (log entry 133). -/
def proofHeader (x : Ctx) (words : Nat) (hold frozen : Bool) (items : Nat) : List Byte :=
  let bit := fun (b : Bool) => if b then 1 else 0
  dblBytes [0xC4E60F01, x.ten, x.press, x.tag, bit x.spawned, x.n, words, x.block, ctxPlane x, bit hold, bit frozen, items]
/-- The area from 0x0100: G, B, context CSRs, members, rings and race slot. -/
def proofRegs (x : Ctx) (members : List Nat) : List Byte :=
  ((List.range 256).flatMap fun k => leBytes 4 (tabGet (fun _ => 0) x.g k).toNat) ++
    dblBytes (((List.range 16).map fun k => (tabGet (fun _ => 0) x.b k).toNat) ++ [0x010, 0x011, 0x012, 0x013, 0x014].map (contextCsr x) ++
      members ++ (x.rings.map fun r => r.1 * 2 ^ 60 + r.2.len % 64 * 2 ^ 50 + r.2.first % 1024 * 2 ^ 40 + r.2.tid % 1024) ++
      [match x.actor with
        | none => 2 ^ 63
        | some a => a.dom * 256 + a.slot])
/-- A token item: the double of R116, then the value rounded up to 16 bytes. -/
def proofItem (x : Ctx) (frozen : Bool) (t : Token) : List Byte :=
  let vals := if t.nul then [] else t.vals.flatMap fun v => leBytes (widthBytes t.ew) v.toNat
  leBytes 8 (tokenDouble x.tag (ctxPlane x) frozen t) ++ padTo ((vals.length + 15) / 16 * 16) vals
/-- The tokens that a context has waiting, standing or parked. -/
def proofTokens (x : Ctx) : List Token :=
  ctxWaiting x ++ x.parked.filterMap fun w => match w with
    | .event (.tokenArrival _ t) => some t
    | _ => none
/-- A slot written at the cut; the layout of what follows the token items is the device's own. -/
def proofWrite (s : State) (c slot : Nat) (x : Ctx) (hold frozen : Bool) : State :=
  match stepAt s x.stp with
  | none => s
  | some r =>
    let items := proofTokens x
    let tail := (items.flatMap (proofItem x frozen)) ++ Config.proofEngineState s.freeCount ++
      (if r.root = c then r.held.flatMap fun h => h.stim.bytes else [])
    let put := fun (s : State) (off : Nat) (bs : List Byte) => hbmFresh (hbmWrite s (proofBase s slot + off) bs) (proofBase s slot + off) bs.length
    let s1 := put s 0 (proofHeader x r.words hold frozen items.length)
    let s2 := put s1 0x100 (proofRegs x (r.members.map (·.agent)))
    let s3 := put s2 0x1000 (windowRead r 0 (windowBytes r))
    { put s3 (0x1000 + windowBytes r) (tail.take (2 ^ 22 - 0x1000 - windowBytes r)) with freeCount := s.freeCount + 1 }

/-! The cut (R372). -/

/-- Whether a request of a context that has been issued is still on its way to completion. -/
def cutWaits (s : State) (c : Nat) : Bool :=
  let mine := fun (id : Nat) => match accAt s id with
    | none => false
    | some a => a.ctx == c
  (s.queue.any fun w => match w with
    | .event (.accessPerformed a) => mine a
    | .event (.pageWalkComplete a) => mine a
    | _ => false) || (s.accesses.any fun a => a.ctx == c && a.sent)
/-- The operations and bound units of a context kept apart: operations in queue 8 + q, a unit under 2 plus its operation. -/
def opsAway (s : State) (c : Nat) (x : Ctx) : State :=
  let mine := fun (o : EngOp) => o.ctx == c
  let away := fun (q : Nat) => ((runningOf s x.press q).filter mine) ++ (queueAt s x.press q).filter mine
  let s1 := (List.range 8).foldl (fun s q =>
    let l := away q
    if l.isEmpty then s
    else setQueue (setQueue s x.press q ((queueAt s x.press q).filter fun o => !mine o)) x.press (8 + q) (queueAt s x.press (8 + q) ++ l)) s
  let s2 := modPress s1 x.press fun r => { r with
    running := r.running.filter fun o => !mine o,
    units := (r.units.filter fun u => mine u.2.op).foldl (fun t u => tabPut (tabDrop t u.1) (2 + u.2.op.id) u.2) r.units }
  (List.range 8).foldl (fun s q => if (queueAt s x.press q).isEmpty && decide (1 < q) then s else pushEvOnce s (.engineOpStart x.press q)) s2
/-- A context goes into a slot: tag, region and window are free, and a record of cause 0x3C5 says so. -/
def cutDone (s : State) (c slot : Nat) (x : Ctx) (hold : Bool) : State :=
  let words := match stepAt s x.stp with
    | none => 0
    | some r => r.words
  let s1 := opsAway (proofWrite s c slot x hold x.refreeze.isSome) c x
  let y := { x with tag := 256 + slot, region := none }
  let s2 := setCtx { s1 with proofs := tabPut s1.proofs slot { ctx := c, tag := x.tag, words := words, hold := hold } } c y
  let s3 := turnWake s2 x.press x.region
  let s4 := if x.spawned then spawnTagFreed s3 x.press else s3
  let s5 := tenRecord s4 { recOf 0x3C5 with ten := x.ten, press := x.press, tag := x.tag, sp := x.spawned, n := x.n, block := x.block, aux := slot,
                                            agent := match memberAt s x.stp 0 with
                                              | some m => m.agent
                                              | none => 0 }
  if hold then s5 else pushEvOnce s5 (.proofRestore slot)
/-- A context stops at the marker: how long its block has run unfrozen is kept in `startedAt`, and its time frozen is counted (R140, R392). -/
def drainStops (s : State) (c : Nat) (x : Ctx) : State :=
  let at' := match x.frozen with
    | none => s.now
    | some z => z.since
  ctxCount (setCtx s c { x with frozen := some drainStop, refreeze := x.frozen, startedAt := at' - x.startedAt }) c 0x008 (cyclesOf (s.now - at'))
/-- DRAIN_CUT_COMPLETE (R372): the context stops at the marker; once what it had issued is complete, and a slot is free, it is saved.
DEDUCED (log entry 132). -/
def execDrainCutComplete (c : Nat) (s : State) : Next :=
  .next (match ctxAt s c with
    | none => s
    | some x =>
      let again := fun (s : State) => pushEvOnce s (.drainCutComplete c)
      match x.drain with
      | none => s
      | some hold =>
        if 256 ≤ x.tag then s
        else if x.phase = .ending then setCtx s c { x with drain := none }
        else match freeProof s with
          | none => again s
          | some slot =>
            if x.frozen != some drainStop then again (drainStops s c x)
            else if cutWaits s c then again s
            else cutDone s c slot x hold)

/-! Restoration (R374). -/

/-- The operations of a context back in their queues, those that had started at work. -/
def opsBack (s : State) (c : Nat) (x : Ctx) : State :=
  let mine := fun (o : EngOp) => o.ctx == c
  (List.range 8).foldl (fun s q =>
    let l := (queueAt s x.press (8 + q)).filter mine
    if l.isEmpty && decide (1 < q) then s
    else
      let s1 := setQueue s x.press (8 + q) ((queueAt s x.press (8 + q)).filter fun o => !mine o)
      let s2 := setQueue s1 x.press q (queueAt s1 x.press q ++ l.filter fun o => !o.started)
      let begun := l.filter (·.started)
      let s3 := modPress s2 x.press fun r => { r with running := r.running ++ begun }
      pushEvOnce (begun.foldl (fun s o => pushEv s (opEvent x.press o)) s3) (.engineOpStart x.press q)) s
/-- A context taken out of its slot under a new tag. A block whose PEs had begun is fetched and placed again before anything returns. -/
def restored (s : State) (c slot tag : Nat) (x : Ctx) : State :=
  let s1 := opsBack { s with proofs := tabDrop s.proofs slot } c x
  let y := { x with tag := tag, drain := none }
  if !x.configured.isEmpty then
    pushEv (setCtx s1 c { y with frozen := none, phase := .fetching, begun := x.configured, configured := [] }) (.blockFetch c)
  else match x.refreeze with
    | some z => setCtx s1 c { y with frozen := some { z with since := s.now }, refreeze := none, phase := .fetching, parked := x.parked ++ [.event (.blockFetch c)] }
    | none =>
      let s2 := setCtx s1 c { y with frozen := none, phase := .fetching, parked := [] }
      pushEv { s2 with queue := x.parked ++ s2.queue } (.blockFetch c)
/-- PROOF_RESTORE (R374): an unheld Proof goes back once a tag of its pool, a region and a window are free. DEDUCED (log entry 174). -/
def execProofRestore (slot : Nat) (s : State) : Next :=
  .next (match tabFind s.proofs slot with
    | none => s
    | some p => match ctxAt s p.ctx with
      | none => { s with proofs := tabDrop s.proofs slot }
      | some x =>
        let room := stepLive s x.stp || decide (wordsHeld s x.press + p.words ≤ Config.laneWords)
        if p.hold then s
        else match freeTag s x.press x.spawned, regionFree s x.press with
          | some tag, some _ => if room then restored s p.ctx slot tag x else pushEv s (.proofRestore slot)
          | _, _ => pushEv s (.proofRestore slot))
/-- PROOF_RELEASE (R374): the hold on the slot named ends. -/
def execProofRelease (s : State) : Next :=
  .next (
    let slot := csrBits s 0x3DC 7 0
    match tabFind s.proofs slot with
    | none => s
    | some p => pushEvOnce { s with proofs := tabPut s.proofs slot { p with hold := false } } (.proofRestore slot))

end Sys2Proof.Machine
end

