-- ==== Sys2Proof/Machine/Waits.lean ====
section
/-! DEFINITION. The firings that wait for a party, looked at again (R218, R220, R239, R261). -/

namespace Sys2Proof.Machine

/-- The instruction of a firing that has waited acts again; only the instructions named here wait (R220, R239, R241, R306, R316, R325). -/
def refire (i : Instr) (s : State) : Next :=
  match i with
  | .tileFill f t n => execTileFill f t n s
  | .tileReady f t n => execTileReady f t n s
  | .tileDrain f t n => execTileDrain f t n s
  | .tileFree f t n => execTileFree f t n s
  | .ringDef f t r => execRingDef f t r s
  | .mxDef f t u k => execMxDef f t u k s
  | .gvAff f t e v => execGvAff f t e v s
  | .gvInd f t e v => execGvInd f t e v s
  | .gvGo f t g => execGvGo f t g s
  | .cpGo f n t => execCpGo f n t s
  | .cpRem f n t => execCpRem f n t s
  | .engCmd f t q => execEngCmd f t q s
  | .emit f t u => execEmit f t u s
  | .emitT f t u => execEmitT f t u s
  | .emitX f t u => execEmitX f t u s
  | .join f t u => execJoin f t u s
  | .leave f t u => execLeave f t u s
  | .cbar f t u => execCbar f t u s
  | .cq f t u => execCq f t u s
  | .credAddI32 f t u => execCredAddI32 f t u s
  | .credAddF32 f t u => execCredAddF32 f t u s
  | .credMaxI32 f t u => execCredMaxI32 f t u s
  | .credMaxF32 f t u => execCredMaxF32 f t u s
  | .credMinI32 f t u => execCredMinI32 f t u s
  | .credMinF32 f t u => execCredMinF32 f t u s
  | .preempt f => execPreempt f s
  | _ => .next s
/-- A waiter acts if its party is there, else it waits on; one whose context is frozen waits for the thaw. -/
def tryWaiter (s : State) (w : Waiter) : State :=
  match ctxAt s w.firing.ctx with
  | none => { s with waiters := s.waiters.filter fun v => v.id != w.id }
  | some x =>
    if x.frozen.isSome then s
    else match decodeInstr (wordFor x.image w.firing.inst w.firing.iter).1 with
      | .error _ => s
      | .ok i => match refire i { s with waiters := s.waiters.filter (fun v => v.id != w.id), cur := some w.firing } with
        | .next t => afterFire t i w.firing
        | _ => s
/-- The place of a waiter among those that wait: ascending context tag, then ascending instruction index (R220, R239, R261)
(DEDUCED, log entry 82). -/
def waiterKey (s : State) (w : Waiter) : Nat :=
  match ctxAt s w.firing.ctx with
  | none => 0
  | some x => x.tag * 128 + w.firing.inst % 128
/-- TILE_WAIT_SATISFIED (R218, R220, R239, R241): every firing that waits is looked at, the lowest context tag first. DEDUCED (log
entry 82). -/
def execTileWaitSatisfied (s : State) : Next :=
  .next (
    let l := s.waiters.mergeSort fun v w => decide (waiterKey s v ≤ waiterKey s w)
    let t := { l.foldl tryWaiter s with cur := none }
    if t.waiters.isEmpty then t else pushEvOnce t .tileWaitSatisfied)

end Sys2Proof.Machine
end

