-- ==== Sys2Proof/Machine/Dispatch.lean ====
section
/-! DEFINITION. One arm per constructor of Instr: each calls the one meaning of its instruction or event. -/

namespace Sys2Proof.Machine

open Sys2Proof

/-- What an instruction or event does to the module. -/
def exec (i : Instr) (s : State) : Host.Outcome State Fault Refusal :=
  match i with
  | .addInt f t u ty => Sys2Proof.Machine.execAddInt f t u ty s
  | .subInt f t u ty => Sys2Proof.Machine.execSubInt f t u ty s
  | .addClamp f t u ty => Sys2Proof.Machine.execAddClamp f t u ty s
  | .subClamp f t u ty => Sys2Proof.Machine.execSubClamp f t u ty s
  | .minInt f t u ty => Sys2Proof.Machine.execMinInt f t u ty s
  | .maxInt f t u ty => Sys2Proof.Machine.execMaxInt f t u ty s
  | .absInt f t u wide => Sys2Proof.Machine.execAbsInt f t u wide s
  | .mulInt f t u ty => Sys2Proof.Machine.execMulInt f t u ty s
  | .mulh f t u ty => Sys2Proof.Machine.execMulh f t u ty s
  | .div f t u ty => Sys2Proof.Machine.execDiv f t u ty s
  | .rem f t u ty => Sys2Proof.Machine.execRem f t u ty s
  | .mulClamp f t u ty => Sys2Proof.Machine.execMulClamp f t u ty s
  | .and f t u r => Sys2Proof.Machine.execAnd f t u r s
  | .or f t u r => Sys2Proof.Machine.execOr f t u r s
  | .xor f t u r => Sys2Proof.Machine.execXor f t u r s
  | .andn f t u r => Sys2Proof.Machine.execAndn f t u r s
  | .orn f t u r => Sys2Proof.Machine.execOrn f t u r s
  | .xnor f t u r => Sys2Proof.Machine.execXnor f t u r s
  | .shl f t u r => Sys2Proof.Machine.execShl f t u r s
  | .shr f t u r => Sys2Proof.Machine.execShr f t u r s
  | .sar f t u r => Sys2Proof.Machine.execSar f t u r s
  | .rotl f t u r => Sys2Proof.Machine.execRotl f t u r s
  | .popc f t u r => Sys2Proof.Machine.execPopc f t u r s
  | .clz f t u r => Sys2Proof.Machine.execClz f t u r s
  | .ctz f t u r => Sys2Proof.Machine.execCtz f t u r s
  | .brev f t u r => Sys2Proof.Machine.execBrev f t u r s
  | .cmpEq f t u ty => Sys2Proof.Machine.execCmpEq f t u ty s
  | .cmpNe f t u ty => Sys2Proof.Machine.execCmpNe f t u ty s
  | .cmpLt f t u ty => Sys2Proof.Machine.execCmpLt f t u ty s
  | .cmpLe f t u ty => Sys2Proof.Machine.execCmpLe f t u ty s
  | .cmpGt f t u ty => Sys2Proof.Machine.execCmpGt f t u ty s
  | .cmpGe f t u ty => Sys2Proof.Machine.execCmpGe f t u ty s
  | .cmpEqFloat f t u y => Sys2Proof.Machine.execCmpEqFloat f t u y s
  | .cmpNeFloat f t u y => Sys2Proof.Machine.execCmpNeFloat f t u y s
  | .cmpLtFloat f t u y => Sys2Proof.Machine.execCmpLtFloat f t u y s
  | .cmpLeFloat f t u y => Sys2Proof.Machine.execCmpLeFloat f t u y s
  | .cmpGtFloat f t u y => Sys2Proof.Machine.execCmpGtFloat f t u y s
  | .cmpGeFloat f t u y => Sys2Proof.Machine.execCmpGeFloat f t u y s
  | .sel f t u r => Sys2Proof.Machine.execSel f t u r s
  | .addi f t k => Sys2Proof.Machine.execAddi f t k s
  | .andi f t k => Sys2Proof.Machine.execAndi f t k s
  | .ori f t k => Sys2Proof.Machine.execOri f t k s
  | .xori f t k => Sys2Proof.Machine.execXori f t k s
  | .shli f t k => Sys2Proof.Machine.execShli f t k s
  | .shri f t k => Sys2Proof.Machine.execShri f t k s
  | .sari f t k => Sys2Proof.Machine.execSari f t k s
  | .movi f t k => Sys2Proof.Machine.execMovi f t k s
  | .movhi f t k => Sys2Proof.Machine.execMovhi f t k s
  | .cmpiEq f t k => Sys2Proof.Machine.execCmpiEq f t k s
  | .cmpiLt f t k => Sys2Proof.Machine.execCmpiLt f t k s
  | .addFloat f t u x y => Sys2Proof.Machine.execAddFloat f t u x y s
  | .subFloat f t u x y => Sys2Proof.Machine.execSubFloat f t u x y s
  | .mulFloat f t u x y => Sys2Proof.Machine.execMulFloat f t u x y s
  | .fma f t u x y => Sys2Proof.Machine.execFma f t u x y s
  | .fms f t u x y => Sys2Proof.Machine.execFms f t u x y s
  | .minFloat f t u y => Sys2Proof.Machine.execMinFloat f t u y s
  | .maxFloat f t u y => Sys2Proof.Machine.execMaxFloat f t u y s
  | .absFloat f t u y => Sys2Proof.Machine.execAbsFloat f t u y s
  | .negFloat f t u y => Sys2Proof.Machine.execNegFloat f t u y s
  | .cvt f dst src t x => Sys2Proof.Machine.execCvt f dst src t x s
  | .exp2 f t u y => Sys2Proof.Machine.execExp2 f t u y s
  | .log2 f t u y => Sys2Proof.Machine.execLog2 f t u y s
  | .rcp f t u y => Sys2Proof.Machine.execRcp f t u y s
  | .rsqrt f t u y => Sys2Proof.Machine.execRsqrt f t u y s
  | .sigm f t u y => Sys2Proof.Machine.execSigm f t u y s
  | .tanh f t u y => Sys2Proof.Machine.execTanh f t u y s
  | .scaleApply f t u y => Sys2Proof.Machine.execScaleApply f t u y s
  | .scaleStrip f t u y => Sys2Proof.Machine.execScaleStrip f t u y s
  | .perm f t u r => Sys2Proof.Machine.execPerm f t u r s
  | .bcast f t u r => Sys2Proof.Machine.execBcast f t u r s
  | .redAdd f t u a => Sys2Proof.Machine.execRedAdd f t u a s
  | .redMax f t u a => Sys2Proof.Machine.execRedMax f t u a s
  | .redMin f t u a => Sys2Proof.Machine.execRedMin f t u a s
  | .scanAdd f t u a => Sys2Proof.Machine.execScanAdd f t u a s
  | .rpack f t u r => Sys2Proof.Machine.execRpack f t u r s
  | .turn f t u r => Sys2Proof.Machine.execTurn f t u r s
  | .movFull f t u => Sys2Proof.Machine.execMovFull f t u s
  | .nullFull f t u => Sys2Proof.Machine.execNullFull f t u s
  | .movCompact f t => Sys2Proof.Machine.execMovCompact f t s
  | .nullCompact f t => Sys2Proof.Machine.execNullCompact f t s
  | .not f t => Sys2Proof.Machine.execNot f t s
  | .neg f t => Sys2Proof.Machine.execNeg f t s
  | .inc f t => Sys2Proof.Machine.execInc f t s
  | .dec f t => Sys2Proof.Machine.execDec f t s
  | .isz f t => Sys2Proof.Machine.execIsz f t s
  | .nz f t => Sys2Proof.Machine.execNz f t s
  | .rdg f g t => Sys2Proof.Machine.execRdg f g t s
  | .wrg f g => Sys2Proof.Machine.execWrg f g s
  | .iter f t => Sys2Proof.Machine.execIter f t s
  | .lfld f t u r => Sys2Proof.Machine.execLfld f t u r s
  | .lfst f r => Sys2Proof.Machine.execLfst f r s
  | .lfldV f t u r => Sys2Proof.Machine.execLfldV f t u r s
  | .lfstV f r => Sys2Proof.Machine.execLfstV f r s
  | .lfswp f t u r => Sys2Proof.Machine.execLfswp f t u r s
  | .ld f l t b y acq => Sys2Proof.Machine.execLd f l t b y acq s
  | .ldV f l t b y acq => Sys2Proof.Machine.execLdV f l t b y acq s
  | .st f l b y rel k => Sys2Proof.Machine.execSt f l b y rel k s
  | .stV f l b y rel k => Sys2Proof.Machine.execStV f l b y rel k s
  | .amoAdd f l t y o sys => Sys2Proof.Machine.execAmoAdd f l t y o sys s
  | .amoAnd f l t y o sys => Sys2Proof.Machine.execAmoAnd f l t y o sys s
  | .amoOr f l t y o sys => Sys2Proof.Machine.execAmoOr f l t y o sys s
  | .amoXor f l t y o sys => Sys2Proof.Machine.execAmoXor f l t y o sys s
  | .amoMin f l t y o sys => Sys2Proof.Machine.execAmoMin f l t y o sys s
  | .amoMax f l t y o sys => Sys2Proof.Machine.execAmoMax f l t y o sys s
  | .amoXchg f l t y o sys => Sys2Proof.Machine.execAmoXchg f l t y o sys s
  | .cas f l t wide o sys => Sys2Proof.Machine.execCas f l t wide o sys s
  | .fence f l t scope level => Sys2Proof.Machine.execFence f l t scope level s
  | .qfence f t mask => Sys2Proof.Machine.execQfence f t mask s
  | .bset f n => Sys2Proof.Machine.execBset f n s
  | .badd f n => Sys2Proof.Machine.execBadd f n s
  | .bget f n t => Sys2Proof.Machine.execBget f n t s
  | .cvta f t ap => Sys2Proof.Machine.execCvta f t ap s
  | .isap f t ap => Sys2Proof.Machine.execIsap f t ap s
  | .tileFill f tid t => Sys2Proof.Machine.execTileFill f tid t s
  | .tileReady f tid t => Sys2Proof.Machine.execTileReady f tid t s
  | .tileDrain f tid t => Sys2Proof.Machine.execTileDrain f tid t s
  | .tileFree f tid t => Sys2Proof.Machine.execTileFree f tid t s
  | .tileStat f t => Sys2Proof.Machine.execTileStat f t s
  | .ringDef f tid t => Sys2Proof.Machine.execRingDef f tid t s
  | .mxDef f tid t unit => Sys2Proof.Machine.execMxDef f tid t unit s
  | .mxUnbind f t unit => Sys2Proof.Machine.execMxUnbind f t unit s
  | .gvAff f tid t g => Sys2Proof.Machine.execGvAff f tid t g s
  | .gvInd f tid t g => Sys2Proof.Machine.execGvInd f tid t g s
  | .gvGo f t g => Sys2Proof.Machine.execGvGo f t g s
  | .cpGo f n t => Sys2Proof.Machine.execCpGo f n t s
  | .cpRem f n t => Sys2Proof.Machine.execCpRem f n t s
  | .engCmd f t q => Sys2Proof.Machine.execEngCmd f t q s
  | .plateLd f t u => Sys2Proof.Machine.execPlateLd f t u s
  | .plateEv f t u => Sys2Proof.Machine.execPlateEv f t u s
  | .plateQ f t u => Sys2Proof.Machine.execPlateQ f t u s
  | .emit f t u => Sys2Proof.Machine.execEmit f t u s
  | .emitT f t u => Sys2Proof.Machine.execEmitT f t u s
  | .emitX f t u => Sys2Proof.Machine.execEmitX f t u s
  | .spawn f t k => Sys2Proof.Machine.execSpawn f t k s
  | .rest f => Sys2Proof.Machine.execRest f s
  | .bind f t u => Sys2Proof.Machine.execBind f t u s
  | .hint f t u => Sys2Proof.Machine.execHint f t u s
  | .aq f t u => Sys2Proof.Machine.execAq f t u s
  | .join f t u => Sys2Proof.Machine.execJoin f t u s
  | .leave f t u => Sys2Proof.Machine.execLeave f t u s
  | .cbar f t u => Sys2Proof.Machine.execCbar f t u s
  | .cq f t u => Sys2Proof.Machine.execCq f t u s
  | .credAddI32 f t u => Sys2Proof.Machine.execCredAddI32 f t u s
  | .credAddF32 f t u => Sys2Proof.Machine.execCredAddF32 f t u s
  | .credMaxI32 f t u => Sys2Proof.Machine.execCredMaxI32 f t u s
  | .credMaxF32 f t u => Sys2Proof.Machine.execCredMaxF32 f t u s
  | .credMinI32 f t u => Sys2Proof.Machine.execCredMinI32 f t u s
  | .credMinF32 f t u => Sys2Proof.Machine.execCredMinF32 f t u s
  | .leaseReq f t u => Sys2Proof.Machine.execLeaseReq f t u s
  | .leaseGive f t u => Sys2Proof.Machine.execLeaseGive f t u s
  | .leaseRev f t u => Sys2Proof.Machine.execLeaseRev f t u s
  | .leaseQ f t u => Sys2Proof.Machine.execLeaseQ f t u s
  | .exit f e off => Sys2Proof.Machine.execExit f e off s
  | .exitI f e => Sys2Proof.Machine.execExitI f e s
  | .trap f n => Sys2Proof.Machine.execTrap f n s
  | .tret f => Sys2Proof.Machine.execTret f s
  | .mfs f t csr => Sys2Proof.Machine.execMfs f t csr s
  | .mts f csr => Sys2Proof.Machine.execMts f csr s
  | .nop f => Sys2Proof.Machine.execNop f s
  | .brk f k => Sys2Proof.Machine.execBrk f k s
  | .trmk f t k => Sys2Proof.Machine.execTrmk f t k s
  | .stylus f k => Sys2Proof.Machine.execStylus f k s
  | .ctrRd f t e => Sys2Proof.Machine.execCtrRd f t e s
  | .ctrClr f e => Sys2Proof.Machine.execCtrClr f e s
  | .preempt f => Sys2Proof.Machine.execPreempt f s
  | .abort f q => Sys2Proof.Machine.execAbort f q s
  | .registerWrite win func link off v => Sys2Proof.Machine.execRegisterWrite win func link off v s
  | .resetBoot => Sys2Proof.Machine.execResetBoot s
  | .selfTestDone bit passed => Sys2Proof.Machine.execSelfTestDone bit passed s
  | .pressPowerUp press => Sys2Proof.Machine.execPressPowerUp press s
  | .matrixRampDone press => Sys2Proof.Machine.execMatrixRampDone press s
  | .w4Write func link addr bytes => Sys2Proof.Machine.execW4Write func link addr bytes s
  | .w4Read func link addr n => Sys2Proof.Machine.execW4Read func link addr n s
  | .portBindingWrite link port v => Sys2Proof.Machine.execPortBindingWrite link port v s
  | .prodWrite func link port v => Sys2Proof.Machine.execProdWrite func link port v s
  | .ingressAccept port => Sys2Proof.Machine.execIngressAccept port s
  | .egressDrain ten ring => Sys2Proof.Machine.execEgressDrain ten ring s
  | .keySlotWrite slot off v => Sys2Proof.Machine.execKeySlotWrite slot off v s
  | .keyTableLock => Sys2Proof.Machine.execKeyTableLock s
  | .attestationRequest => Sys2Proof.Machine.execAttestationRequest s
  | .attestationComplete => Sys2Proof.Machine.execAttestationComplete s
  | .stimulusArrival walker => Sys2Proof.Machine.execStimulusArrival walker s
  | .promotionRetry => Sys2Proof.Machine.execPromotionRetry s
  | .queueRefill ten agent => Sys2Proof.Machine.execQueueRefill ten agent s
  | .demotion ten agent => Sys2Proof.Machine.execDemotion ten agent s
  | .entryMove ten agent => Sys2Proof.Machine.execEntryMove ten agent s
  | .plateLoadStart group load => Sys2Proof.Machine.execPlateLoadStart group load s
  | .plateLoadComplete group load => Sys2Proof.Machine.execPlateLoadComplete group load s
  | .probe => Sys2Proof.Machine.execProbe s
  | .probeClear => Sys2Proof.Machine.execProbeClear s
  | .probeUnblock => Sys2Proof.Machine.execProbeUnblock s
  | .probeResult => Sys2Proof.Machine.execProbeResult s
  | .ageTick => Sys2Proof.Machine.execAgeTick s
  | .impressionGather group => Sys2Proof.Machine.execImpressionGather group s
  | .batchWindowExpiry group imp => Sys2Proof.Machine.execBatchWindowExpiry group imp s
  | .admission group => Sys2Proof.Machine.execAdmission group s
  | .shareTableSwap press => Sys2Proof.Machine.execShareTableSwap press s
  | .spawnStarve press => Sys2Proof.Machine.execSpawnStarve press s
  | .cardDeal group => Sys2Proof.Machine.execCardDeal group s
  | .blockFetch ctx => Sys2Proof.Machine.execBlockFetch ctx s
  | .regionAcquire ctx => Sys2Proof.Machine.execRegionAcquire ctx s
  | .mapperPlace ctx => Sys2Proof.Machine.execMapperPlace ctx s
  | .configPacketComplete ctx inst => Sys2Proof.Machine.execConfigPacketComplete ctx inst s
  | .tokenArrival ctx tok => Sys2Proof.Machine.execTokenArrival ctx tok s
  | .iterEmit ctx inst => Sys2Proof.Machine.execIterEmit ctx inst s
  | .commit ctx => Sys2Proof.Machine.execCommit ctx s
  | .blockWatchExpiry ctx => Sys2Proof.Machine.execBlockWatchExpiry ctx s
  | .placementCacheFlush => Sys2Proof.Machine.execPlacementCacheFlush s
  | .pageWalkComplete acc => Sys2Proof.Machine.execPageWalkComplete acc s
  | .accessPerformed acc => Sys2Proof.Machine.execAccessPerformed acc s
  | .migrationComplete ten va => Sys2Proof.Machine.execMigrationComplete ten va s
  | .tlbInvalidatePage => Sys2Proof.Machine.execTlbInvalidatePage s
  | .tlbInvalidateTenancy => Sys2Proof.Machine.execTlbInvalidateTenancy s
  | .tlbInvalidateAll => Sys2Proof.Machine.execTlbInvalidateAll s
  | .tlbInvalidateDone => Sys2Proof.Machine.execTlbInvalidateDone s
  | .tileWaitSatisfied => Sys2Proof.Machine.execTileWaitSatisfied s
  | .tileDrainComplete op => Sys2Proof.Machine.execTileDrainComplete op s
  | .engineOpStart press queue => Sys2Proof.Machine.execEngineOpStart press queue s
  | .mxConfigure press unit => Sys2Proof.Machine.execMxConfigure press unit s
  | .mxFiring press unit => Sys2Proof.Machine.execMxFiring press unit s
  | .epilogueWrite press unit => Sys2Proof.Machine.execEpilogueWrite press unit s
  | .graverStream op => Sys2Proof.Machine.execGraverStream op s
  | .copyComplete op => Sys2Proof.Machine.execCopyComplete op s
  | .fenceComplete => Sys2Proof.Machine.execFenceComplete s
  | .qfenceComplete => Sys2Proof.Machine.execQfenceComplete s
  | .engCmdDeliver op => Sys2Proof.Machine.execEngCmdDeliver op s
  | .plateEvictionComplete group ten num => Sys2Proof.Machine.execPlateEvictionComplete group ten num s
  | .spawnStart press => Sys2Proof.Machine.execSpawnStart press s
  | .agentOpAtWalker walker => Sys2Proof.Machine.execAgentOpAtWalker walker s
  | .cohortOpAtHome => Sys2Proof.Machine.execCohortOpAtHome s
  | .retirement stp => Sys2Proof.Machine.execRetirement stp s
  | .dispositionResume ten seq => Sys2Proof.Machine.execDispositionResume ten seq s
  | .dispositionAbort ten seq qmask => Sys2Proof.Machine.execDispositionAbort ten seq qmask s
  | .faultRingFlush => Sys2Proof.Machine.execFaultRingFlush s
  | .quarantineFlush => Sys2Proof.Machine.execQuarantineFlush s
  | .preemptRequest => Sys2Proof.Machine.execPreemptRequest s
  | .drainCutComplete ctx => Sys2Proof.Machine.execDrainCutComplete ctx s
  | .proofRelease => Sys2Proof.Machine.execProofRelease s
  | .proofRestore slot => Sys2Proof.Machine.execProofRestore slot s
  | .shardWatchExpiry kind obj => Sys2Proof.Machine.execShardWatchExpiry kind obj s
  | .domainModeEnable dom => Sys2Proof.Machine.execDomainModeEnable dom s
  | .metadataClearDone dom => Sys2Proof.Machine.execMetadataClearDone dom s
  | .actorSlotAcquire => Sys2Proof.Machine.execActorSlotAcquire s
  | .slotSweep dom slot => Sys2Proof.Machine.execSlotSweep dom slot s
  | .raceBudgetInterval => Sys2Proof.Machine.execRaceBudgetInterval s
  | .fabricLoad => Sys2Proof.Machine.execFabricLoad s
  | .fabricReconfigure => Sys2Proof.Machine.execFabricReconfigure s
  | .fabricResume => Sys2Proof.Machine.execFabricResume s
  | .pilotsLocked => Sys2Proof.Machine.execPilotsLocked s
  | .reconfDrainDone => Sys2Proof.Machine.execReconfDrainDone s
  | .distributionStart => Sys2Proof.Machine.execDistributionStart s
  | .distributionReport dev res => Sys2Proof.Machine.execDistributionReport dev res s
  | .leaseArbitrate => Sys2Proof.Machine.execLeaseArbitrate s
  | .wavelengthLocked j => Sys2Proof.Machine.execWavelengthLocked j s
  | .wavelengthDark j => Sys2Proof.Machine.execWavelengthDark j s
  | .lightRestored j => Sys2Proof.Machine.execLightRestored j s
  | .leaseAgeExpiry => Sys2Proof.Machine.execLeaseAgeExpiry s
  | .write nbr flit => Sys2Proof.Machine.execWrite nbr flit s
  | .data nbr flit => Sys2Proof.Machine.execData nbr flit s
  | .loadreq nbr flit => Sys2Proof.Machine.execLoadreq nbr flit s
  | .loadrsp nbr flit => Sys2Proof.Machine.execLoadrsp nbr flit s
  | .amoreq nbr flit => Sys2Proof.Machine.execAmoreq nbr flit s
  | .amorsp nbr flit => Sys2Proof.Machine.execAmorsp nbr flit s
  | .ack nbr flit => Sys2Proof.Machine.execAck nbr flit s
  | .nak nbr flit => Sys2Proof.Machine.execNak nbr flit s
  | .stim nbr flit => Sys2Proof.Machine.execStim nbr flit s
  | .plate nbr flit => Sys2Proof.Machine.execPlate nbr flit s
  | .linkctl nbr flit => Sys2Proof.Machine.execLinkctl nbr flit s
  | .restripe nbr flit => Sys2Proof.Machine.execRestripe nbr flit s
  | .lease nbr flit => Sys2Proof.Machine.execLease nbr flit s
  | .drain nbr flit => Sys2Proof.Machine.execDrain nbr flit s
  | .flitTransit nbr flit => Sys2Proof.Machine.execFlitTransit nbr flit s
  | .replayTimeout => Sys2Proof.Machine.execReplayTimeout s
  | .linkctlBeacon => Sys2Proof.Machine.execLinkctlBeacon s
  | .lossOfLight nbr lost els => Sys2Proof.Machine.execLossOfLight nbr lost els s
  | .realignComplete nbr => Sys2Proof.Machine.execRealignComplete nbr s
  | .remoteTimeout => Sys2Proof.Machine.execRemoteTimeout s
  | .counterSweep ctx event => Sys2Proof.Machine.execCounterSweep ctx event s
  | .traceRestart => Sys2Proof.Machine.execTraceRestart s
  | .monitorLimitCross power temp => Sys2Proof.Machine.execMonitorLimitCross power temp s
  | .eventRingFlush => Sys2Proof.Machine.execEventRingFlush s
  | .reservedTypeFlit nbr pilot flit => Sys2Proof.Machine.execReservedTypeFlit nbr pilot flit s

end Sys2Proof.Machine
end

