-- ==== Sys2Proof/Machine/Schedule.lean ====
section
/-! DEFINITION. Which work item moves next, and what moving it does (DESIGN CHOICE, log entry 1); and the placing of one instruction word so
that the next step fires it. -/

namespace Sys2Proof.Machine

/-- The events with which the outside acts on the module: the host, the neighbours and the light (R66, R272, R278, R394). DESIGN CHOICE
(log entry 179). -/
def outside : Instr → Bool
  | .registerWrite .. | .selfTestDone .. | .w4Write .. | .w4Read .. | .portBindingWrite .. | .prodWrite .. | .keySlotWrite ..
  | .keyTableLock | .attestationRequest | .lossOfLight .. | .lightRestored .. | .monitorLimitCross .. | .write .. | .data ..
  | .loadreq .. | .loadrsp .. | .amoreq .. | .amorsp .. | .ack .. | .nak .. | .stim .. | .plate .. | .linkctl ..
  | .restripe .. | .lease .. | .drain .. | .flitTransit .. | .reservedTypeFlit .. => true
  | _ => false

/-- What orders work items: the firings of an instruction of a context, and the tokens from one instruction to one port, go in
their order (R119); so do the posted writes of a host link (R72). -/
def laneOf : Work → Option (List Nat)
  | .fire f => some [0, f.ctx, f.inst]
  | .event (.tokenArrival c t) => some [1, c, t.inst, portCode t.port, t.src]
  | .event i => (hostLink i).map fun l => [2, l]
/-- The position that moves where position `k` is picked: that of the oldest item of its lane. -/
def laneHead (q : List Work) (k : Nat) : Nat :=
  match (q[k]?).bind laneOf with
  | none => k
  | some l => q.findIdx fun w => laneOf w == some l

/-- An event happens; it has no firing in hand. -/
def runEvent (s : State) (i : Instr) : Next := exec i { takeCycle s (meetsOf s (.event i)) with cur := none }

/-- The instruction of a firing acts, and what every firing leaves behind follows (R118). -/
def runInstr (s : State) (i : Instr) (f : Firing) : Next :=
  match exec i { s with cur := some f } with
  | .next t => .next (afterFire t i f)
  | .fault r => .fault r
  | .refused r => .refused r

/-- A firing at its PE: it waits while its context is frozen, drained or being restored (R359, R372), and for a cycle in which its tenancy
may fire (R104); then the word at its PE acts (R134). DESIGN CHOICE (log entry 23). -/
def runFiring (s : State) (f : Firing) : Next :=
  match ctxAt s f.ctx with
  | none => .next s
  | some x =>
    if x.frozen.isSome || !x.begun.isEmpty then .next (parkWork s f.ctx (.fire f))
    else match shareTurn s x.press x.ten with
      | none => .next (pushWork s (.fire f))
      | some s1 => match decodeInstr (wordFor x.image f.inst f.iter).1 with
        | .ok i => runInstr (takeCycle s1 (meetsOfFiring x f)) i f
        | .error _ => .refused .notAnInstruction

/-- The work item at a position moves; without one only time passes. -/
def runAt (s : State) (k : Nat) : Next :=
  match s.queue[laneHead s.queue k]? with
  | none => .next s
  | some w =>
    let s1 := { s with queue := s.queue.eraseIdx (laneHead s.queue k) }
    match w with
    | .event i => runEvent s1 i
    | .fire f => runFiring s1 f

/-- What a pick of the schedule does. A posted write of the host goes behind those of its link that wait (R72). -/
def runPick (s : State) (p : Pick) : Next :=
  match p.ext with
  | none => runAt s p.idx
  | some i =>
    if !(outside i && i.wf) then .next s
    else if (match hostLink i with
      | none => false
      | some l => s.queue.any (postedBy l)) then .next (pushEv s i)
    else runEvent s i

/-- The next pick of the schedule after its time has passed; with none left the oldest item moves, 1 ns later. DESIGN CHOICE (log entry
178). -/
def runNext (s : State) : Next :=
  match s.script with
  | [] => runAt { s with now := s.now + 1 } 0
  | p :: r => runPick { s with now := s.now + p.dt, script := r } p

/-! One instruction word, placed as a block of its own in context 0 with the operands that make it fire. -/

/-- The type of an integer family. -/
def placedInt : IntTy → Width
  | .i32 | .n32 => .w32
  | .i64 | .n64 => .w64
/-- The type of a float family. -/
def placedFloat : FloatTy → Width
  | .t16 | .bf16 => .w16
  | .t32 | .f32 => .w32
/-- The type of a reduction. -/
def placedAcc : AccTy → Width
  | .i64 => .w64
  | .i32 | .t32 | .f32 => .w32
/-- The type of an `amo`. -/
def placedAmo : AmoTy → Width
  | .i32 | .n32 | .f32 => .w32
  | .i64 => .w64
  | .t16 => .w16

/-- The width of an operand that an instruction takes on a port (R161). -/
def placedWidth (i : Instr) (q : Port) : Width :=
  match i with
  | .addInt _ _ _ y | .subInt _ _ _ y | .addClamp _ _ _ y | .subClamp _ _ _ y | .minInt _ _ _ y | .maxInt _ _ _ y
  | .mulInt _ _ _ y | .mulh _ _ _ y | .div _ _ _ y | .rem _ _ _ y | .mulClamp _ _ _ y | .cmpEq _ _ _ y | .cmpNe _ _ _ y
  | .cmpLt _ _ _ y | .cmpLe _ _ _ y | .cmpGt _ _ _ y | .cmpGe _ _ _ y => placedInt y
  | .absInt _ _ _ wide => if wide then .w64 else .w32
  | .and _ _ _ r | .or _ _ _ r | .xor _ _ _ r | .andn _ _ _ r | .orn _ _ _ r | .xnor _ _ _ r | .popc _ _ _ r | .clz _ _ _ r
  | .ctz _ _ _ r | .brev _ _ _ r | .bcast _ _ _ r | .rpack _ _ _ r | .turn _ _ _ r => rawWidth r
  | .shl _ _ _ r | .shr _ _ _ r | .sar _ _ _ r | .rotl _ _ _ r | .perm _ _ _ r => if q = .b then .w32 else rawWidth r
  | .sel _ _ _ r => if q = .c then .w32 else rawWidth r
  | .lfst _ r | .lfstV _ r | .lfswp _ _ _ r => if q = .b then .w32 else rawWidth r
  | .cmpEqFloat _ _ _ y | .cmpNeFloat _ _ _ y | .cmpLtFloat _ _ _ y | .cmpLeFloat _ _ _ y | .cmpGtFloat _ _ _ y
  | .cmpGeFloat _ _ _ y | .addFloat _ _ _ _ y | .subFloat _ _ _ _ y | .mulFloat _ _ _ _ y | .fma _ _ _ _ y | .fms _ _ _ _ y
  | .minFloat _ _ _ y | .maxFloat _ _ _ y | .absFloat _ _ _ y | .negFloat _ _ _ y => placedFloat y
  | .scaleApply _ _ _ y | .scaleStrip _ _ _ y => if q = .b then .w32 else placedFloat y
  | .exp2 _ _ _ _ | .log2 _ _ _ _ | .rcp _ _ _ _ | .rsqrt _ _ _ _ | .sigm _ _ _ _ | .tanh _ _ _ _ => .w16
  | .cvt _ _ src _ _ => tyWidth src
  | .redAdd _ _ _ a | .redMax _ _ _ a | .redMin _ _ _ a | .scanAdd _ _ _ a => placedAcc a
  | .st _ _ _ y _ _ | .stV _ _ _ y _ _ => memWidth y
  | .amoAdd _ _ _ y _ _ | .amoAnd _ _ _ y _ _ | .amoOr _ _ _ y _ _ | .amoXor _ _ _ y _ _ | .amoMin _ _ _ y _ _
  | .amoMax _ _ _ y _ _ | .amoXchg _ _ _ y _ _ => if q = .a then .w64 else placedAmo y
  | .cas _ _ _ wide _ _ => if q = .a || wide then .w64 else .w32
  | .gvInd _ _ _ _ | .bind _ _ _ | .emit _ _ _ | .emitT _ _ _ | .emitX _ _ _ | .join _ _ _ | .leave _ _ _ | .cbar _ _ _ | .cq _ _ _
  | .credAddI32 _ _ _ | .credAddF32 _ _ _ | .credMaxI32 _ _ _ | .credMaxF32 _ _ _ | .credMinI32 _ _ _
  | .credMinF32 _ _ _ => if q = .a then .w64 else .w32
  | .cpGo _ _ _ | .cpRem _ _ _ | .bset _ _ | .cvta _ _ _ | .isap _ _ _ | .tileFill _ _ _ | .tileReady _ _ _
  | .tileDrain _ _ _ | .tileFree _ _ _ | .tileStat _ _ | .ringDef _ _ _ | .mxDef _ _ _ _ | .gvAff _ _ _ _ | .plateLd _ _ _
  | .hint _ _ _ | .aq _ _ _ | .mts _ _ | .exitI _ _ => .w64
  | _ => .w32

/-- One operand of a placed instruction: zero, or on p the value that its fire mode asks for. -/
def placedToken (i : Instr) (q : Port) : Token :=
  let v : Dbl := if q = .p ∧ fireMode i ≠ .onFalse then 1 else 0
  let sc := match i with
    | .scaleApply .. => q == .a
    | _ => false
  { freshToken 0 [v] (if q = .p then .w32 else placedWidth i q) sc 0 with port := q, src := 128 }
/-- The firing of a placed instruction, at iteration 0. -/
def placedFiring (i : Instr) : Firing := (requiredPorts i).foldl (fun f q => withOperand f q (placedToken i q)) (bareFiring 0 0 0 1 0)

/-- Header word 0 of a block that holds one instruction: its body word, its exit and its G write (R144). -/
def placedWord0 (i : Instr) : Nat :=
  1 * 2 ^ 13 +
    (match i with
     | .exit .. | .exitI .. => 2 ^ 10
     | .wrg .. => 2 ^ 4
     | _ => 0)
/-- The block image of a placed instruction; its store mask holds the LSID of an instruction of the store class. -/
def placedImage (i : Instr) (w : Word) : List Word :=
  let mask : Word := match lsidOf i with
    | none => 0
    | some l => if storeClass i then BitVec.ofNat 32 (2 ^ l) else 0
  [BitVec.ofNat 32 (placedWord0 i), mask, 0, 0, w, 0, 0, 0]

/-- `s` with the block of one instruction running in context 0, alone in step 0 of Press 0, and its firing at the front of the
queue (DESIGN CHOICE, log entry 12). -/
def placeWord (s : State) (nbits w : Nat) : State :=
  match bodySplit (BitVec.ofNat 32 (w % 2 ^ nbits)) with
  | [] => s
  | v :: _ =>
    let i := (decodeTableWord nbits w).getD (.nop .always)
    let x := { ctxNew 0 0 0 0 0 0 with phase := .running, image := placedImage i v, region := some 0, configured := [0] }
    let stp : StepRec := { ten := 0, group := 0, press := 0, plate := 0, headsz := 0, words := 64,
                           members := [{ agent := 0, stim := { bytes := List.replicate 16 0, clock := none, card := none }, sbase := 0 }],
                           window := [], held := [], root := 0, retiring := false, admittedAt := 0 }
    { s with script := [], queue := .fire (placedFiring i) :: s.queue, ctxs := tabPut s.ctxs 0 x, steps := tabPut s.steps 0 stp }

end Sys2Proof.Machine
end

