-- ==== Sys2Proof/Safety.lean ====
section
/-! DEFINITION. The terms that claims use: the canonical form of the memories, a firing whose operation takes place, the operands it
has, the results it delivers, and what a next state leaves unchanged. -/

namespace Sys2Proof.Machine

/-- The canonical form of the memories of the module and of the host. -/
def memsWf (s : State) : Bool := memWf s.hbm && memWf s.sram && memWf s.hostMem

/-- The firing in hand is `f`, and its operation takes place: it is no EOS, its fire mode holds for an element, and no value
operand is null (R118, R136, R164). -/
structure Acting (m : FireMode) (s : State) (f : Firing) : Prop where
  cur : s.cur = some f
  value : f.eos = none
  fires : (firedElems m f).isEmpty = false
  noNull : nullOperand f = false

/-- The widths of the value operands that are present (R161). -/
def hasWidths (f : Firing) (wa wb wc : Width) : Prop :=
  (∀ t, f.a = some t → t.ew = wa) ∧ (∀ t, f.b = some t → t.ew = wb) ∧ (∀ t, f.c = some t → t.ew = wc)

/-- The operands on some ports, at least one, all in scale state `b` (R45, R162). -/
def inScale (f : Firing) (ps : List Port) (b : Bool) : Prop := scaleStates f ps ≠ [] ∧ ∀ d ∈ scaleStates f ps, d = b

/-- A scale state that a declaration EX admits (R162). -/
def exAdmits (x : Ex) (b : Bool) : Prop := (x = .scaled → b = true) ∧ (x = .unscaled → b = false)

/-- No fired element raises a bit that Exception Enable of its context catches (R49, R50). -/
def noTrap (m : FireMode) (s : State) (f : Firing) (own : Nat → BitVec 5) : Prop :=
  ∀ j ∈ firedElems m f, own j &&& enableOf s f.ctx = 0

/-- Results sent to targets: for each run of fired elements one token, element j with the value `val j` in width `ew` and scale state
`sc`, with the bits of the inputs and of the run's own elements (R118, R160, R163). -/
def delivered (s : State) (m : FireMode) (f : Firing) (ts : List Target) (ew : Width) (sc : Bool) (val : Nat → Nat)
    (own : Nat → BitVec 5) : State :=
  (runsFrom 0 (firedMask m f)).foldl (fun s r =>
    sendRun s f ts r.1 (freshToken 0 ((List.range r.2).map fun k => BitVec.ofNat 64 (val (r.1 + k) % 2 ^ widthBits ew)) ew sc
      (inputBits f ||| orBits ((List.range r.2).map fun k => own (r.1 + k))))) s

/-- Element `j` of an operand as a natural number of a width. -/
def elemNat (f : Firing) (q : Port) (w : Width) (j : Nat) : Nat := elemAt (operand f q) j % 2 ^ widthBits w
/-- Element `j` of an operand as an integer of a type (R34). -/
def elemInt (f : Firing) (q : Port) (ty : IntTy) (j : Nat) : Int := intOf (intTy ty) (elemNat f q (tyWidth (intTy ty)) j)

/-- The one value operand is a token of one element with value `v` in width `w` on port a (R225, R236). -/
def oneValue (f : Firing) (w : Width) (v : Dbl) : Prop :=
  f.len = 1 ∧ f.b = none ∧ f.c = none ∧ ∃ t, f.a = some t ∧ t.ew = w ∧ t.vals = [v] ∧ manyElems f = false

/-- Only the queue of work has changed: it holds `l` more behind what it held. Every register, flag, memory byte and table is as
before. -/
def onlySends (s t : State) (l : List Work) : Prop := t = { s with queue := s.queue ++ l }
/-- Work that brings tokens to a context. -/
def bringsTokens (c : Nat) (w : Work) : Prop := ∃ t, w = .event (.tokenArrival c t)

/-- The compute families: what they deliver depends on their operands alone (R160 to R183, R193). -/
def computes : Instr → Bool
  | .addInt .. | .subInt .. | .addClamp .. | .subClamp .. | .minInt .. | .maxInt .. | .absInt .. | .mulInt .. | .mulh .. | .div ..
  | .rem .. | .mulClamp .. | .and .. | .or .. | .xor .. | .andn .. | .orn .. | .xnor .. | .shl .. | .shr .. | .sar .. | .rotl ..
  | .popc .. | .clz .. | .ctz .. | .brev .. | .cmpEq .. | .cmpNe .. | .cmpLt .. | .cmpLe .. | .cmpGt .. | .cmpGe ..
  | .cmpEqFloat .. | .cmpNeFloat .. | .cmpLtFloat .. | .cmpLeFloat .. | .cmpGtFloat .. | .cmpGeFloat .. | .sel .. | .addi ..
  | .andi .. | .ori .. | .xori .. | .shli .. | .shri .. | .sari .. | .movhi .. | .cmpiEq .. | .cmpiLt .. | .addFloat ..
  | .subFloat .. | .mulFloat .. | .fma .. | .fms .. | .minFloat .. | .maxFloat .. | .absFloat .. | .negFloat .. | .cvt ..
  | .exp2 .. | .log2 .. | .rcp .. | .rsqrt .. | .sigm .. | .tanh .. | .scaleApply .. | .scaleStrip .. | .movFull ..
  | .movCompact .. | .not .. | .neg .. | .inc .. | .dec .. | .isz .. | .nz .. => true
  | _ => false

/-- The memories of the module and of the host. -/
def memsOf (s : State) : Mem × Mem × Mem := (s.hbm, s.sram, s.hostMem)

/-- A byte of HBM at a PA. -/
def hbmByte (s : State) (pa : Nat) : Byte := memByte s.hbm pa
/-- A byte of a Group's SRAM. -/
def sramByte (s : State) (a : Nat) : Byte := memByte s.sram a
/-- Every byte of HBM, SRAM and host memory reads as before. -/
def sameMemory (s t : State) : Prop :=
  (∀ a, hbmByte t a = hbmByte s a) ∧ (∀ a, sramByte t a = sramByte s a) ∧ ∀ a, memByte t.hostMem a = memByte s.hostMem a

end Sys2Proof.Machine
end

