-- ==== Sys2Proof/Certificates/Slice0/Obligations.lean ====
section
/-! DEFINITION. The claims about the module: one proposition each, with the rule of the specification it states. -/

open Sys2Proof Sys2Proof.Machine

/-! The compute families: what a firing delivers where its operation takes place and no trap is taken. `f` is the firing in hand, `j` an
element of it, and `sc` the scale state of its operands. -/

/-- R165: `add`, `sub`, `min`, `max`, `mul` and `mulh` on both signed and unsigned types, and `abs`, deliver the exact result modulo 2^w
(`mulh`: its upper half) with no bits of their own, in the scale state of their operands. -/
def Obligations.IntegerArithmetic : Prop :=
  ∀ (m : FireMode) (t u : Target) (y : IntTy) (s : State) (f : Firing) (sc : Bool), Acting m s f →
    hasWidths f (tyWidth (intTy y)) (tyWidth (intTy y)) (tyWidth (intTy y)) → inScale f [.a, .b] sc →
    let w := tyWidth (intTy y)
    let n := widthBits w
    let a := elemInt f .a y
    let b := elemInt f .b y
    exec (.addInt m t u y) s = .next (delivered s m f [t, u] w sc (fun j => wrap n (a j + b j)) fun _ => 0) ∧
    exec (.subInt m t u y) s = .next (delivered s m f [t, u] w sc (fun j => wrap n (a j - b j)) fun _ => 0) ∧
    exec (.mulInt m t u y) s = .next (delivered s m f [t, u] w sc (fun j => wrap n (a j * b j)) fun _ => 0) ∧
    exec (.mulh m t u y) s = .next (delivered s m f [t, u] w sc (fun j => wrap n (a j * b j / 2 ^ n)) fun _ => 0) ∧
    exec (.minInt m t u y) s = .next (delivered s m f [t, u] w sc (fun j => wrap n (min (a j) (b j))) fun _ => 0) ∧
    exec (.maxInt m t u y) s = .next (delivered s m f [t, u] w sc (fun j => wrap n (max (a j) (b j))) fun _ => 0) ∧
    ∀ wide, y = (if wide then .i64 else .i32) →
      exec (.absInt m t u wide) s = .next (delivered s m f [t, u] w sc (fun j => wrap n (a j).natAbs) fun _ => 0)

/-- R41, R165: the clamped operations deliver the nearest value of the type and set SA where it is not the exact one; `div` and `rem`
deliver the truncated quotient, modulo 2^w, and the remainder, and on a zero divisor 0 and the dividend with DZ. -/
def Obligations.ClampAndDivide : Prop :=
  ∀ (m : FireMode) (t u : Target) (y : IntTy) (s : State) (f : Firing) (sc : Bool), Acting m s f →
    hasWidths f (tyWidth (intTy y)) (tyWidth (intTy y)) (tyWidth (intTy y)) → inScale f [.a, .b] sc →
    let w := tyWidth (intTy y)
    let n := widthBits w
    let a := elemInt f .a y
    let b := elemInt f .b y
    let least : Int := if y = .i32 ∨ y = .i64 then -(2 ^ (n - 1)) else 0
    let most : Int := if y = .i32 ∨ y = .i64 then 2 ^ (n - 1) - 1 else 2 ^ n - 1
    let near := fun v => max least (min most v)
    let sa : Int → BitVec 5 := fun v => if near v = v then 0 else 0b01000
    let dz : Nat → BitVec 5 := fun j => if b j = 0 then 0b00001 else 0
    (noTrap m s f (fun j => sa (a j + b j)) → exec (.addClamp m t u y) s =
      .next (delivered s m f [t, u] w sc (fun j => wrap n (near (a j + b j))) fun j => sa (a j + b j))) ∧
    (noTrap m s f (fun j => sa (a j - b j)) → exec (.subClamp m t u y) s =
      .next (delivered s m f [t, u] w sc (fun j => wrap n (near (a j - b j))) fun j => sa (a j - b j))) ∧
    (noTrap m s f (fun j => sa (a j * b j)) → exec (.mulClamp m t u y) s =
      .next (delivered s m f [t, u] w sc (fun j => wrap n (near (a j * b j))) fun j => sa (a j * b j))) ∧
    (noTrap m s f dz → exec (.div m t u y) s =
      .next (delivered s m f [t, u] w sc (fun j => if b j = 0 then 0 else wrap n ((a j).tdiv (b j))) dz)) ∧
    (noTrap m s f dz → exec (.rem m t u y) s =
      .next (delivered s m f [t, u] w sc (fun j => wrap n (if b j = 0 then a j else (a j).tmod (b j))) dz))

/-- R167: the logic and bit operations on raw elements of a width, and the shifts by the 32-bit amount on port b modulo the width. Beside
it, R168, R169: a compare delivers the 32-bit words 1 or 0; `sel` delivers a where the word on port c is not zero, b where it is. -/
def Obligations.LogicShiftsAndCompares : Prop :=
  (∀ (m : FireMode) (t u : Target) (r : RawTy) (s : State) (f : Firing) (sc : Bool), Acting m s f →
     let w := rawWidth r
     let n := widthBits w
     let a := elemNat f .a w
     let b := elemNat f .b w
     let k := fun j => elemNat f .b .w32 j % n
     let gives := fun (i : Instr) (v : Nat → Nat) => exec i s = .next (delivered s m f [t, u] w sc v fun _ => 0)
     (hasWidths f w w w → inScale f [.a, .b] sc →
       gives (.and m t u r) (fun j => a j &&& b j) ∧ gives (.or m t u r) (fun j => a j ||| b j) ∧
       gives (.xor m t u r) (fun j => a j ^^^ b j) ∧ gives (.andn m t u r) (fun j => a j &&& (2 ^ n - 1 - b j)) ∧
       gives (.orn m t u r) (fun j => a j ||| (2 ^ n - 1 - b j)) ∧ gives (.xnor m t u r) (fun j => 2 ^ n - 1 - (a j ^^^ b j)) ∧
       gives (.popc m t u r) (fun j => ((List.range n).filter fun i => (a j).testBit i).length) ∧
       gives (.clz m t u r) (fun j => n - (if a j = 0 then 0 else Nat.log2 (a j) + 1)) ∧
       gives (.ctz m t u r) (fun j => ((List.range n).takeWhile fun i => !(a j).testBit i).length) ∧
       gives (.brev m t u r) (fun j => ((List.range n).map fun i => if (a j).testBit i then 2 ^ (n - 1 - i) else 0).sum)) ∧
     (hasWidths f w .w32 w → inScale f [.a] sc →
       gives (.shl m t u r) (fun j => a j * 2 ^ k j) ∧ gives (.shr m t u r) (fun j => a j / 2 ^ k j) ∧
       gives (.sar m t u r) (fun j => wrap n (signed n (a j) / 2 ^ k j)) ∧
       gives (.rotl m t u r) (fun j => a j * 2 ^ k j % 2 ^ n + a j / 2 ^ (n - k j)))) ∧
  ∀ (m : FireMode) (t u : Target) (s : State) (f : Firing) (sc : Bool), Acting m s f → inScale f [.a, .b] sc →
    (∀ y : IntTy, hasWidths f (tyWidth (intTy y)) (tyWidth (intTy y)) (tyWidth (intTy y)) →
      let a := elemInt f .a y
      let b := elemInt f .b y
      let gives := fun (i : Instr) (v : Nat → Bool) =>
        exec i s = .next (delivered s m f [t, u] .w32 sc (fun j => if v j then 1 else 0) fun _ => 0)
      gives (.cmpEq m t u y) (fun j => a j = b j) ∧ gives (.cmpNe m t u y) (fun j => a j ≠ b j) ∧
      gives (.cmpLt m t u y) (fun j => a j < b j) ∧ gives (.cmpLe m t u y) (fun j => a j ≤ b j) ∧
      gives (.cmpGt m t u y) (fun j => a j > b j) ∧ gives (.cmpGe m t u y) (fun j => a j ≥ b j)) ∧
    ∀ r : RawTy, hasWidths f (rawWidth r) (rawWidth r) .w32 →
      exec (.sel m t u r) s = .next (delivered s m f [t, u] (rawWidth r) sc
        (fun j => if elemNat f .c .w32 j ≠ 0 then elemNat f .a (rawWidth r) j else elemNat f .b (rawWidth r) j) fun _ => 0)

/-- R170, R193: the immediate forms on 32-bit words, with a sign-extended immediate in `addi`, `cmpi` and a zero-extended one in the logic
forms and `movhi`; and the compact arithmetic forms. -/
def Obligations.ImmediateAndCompactForms : Prop :=
  ∀ (m : FireMode) (t : Target) (k : BitVec 14) (h : BitVec 12) (z : BitVec 5) (s : State) (f : Firing) (sc : Bool), Acting m s f →
    hasWidths f .w32 .w32 .w32 → inScale f [.a, .b] sc →
    let a := fun j => BitVec.ofNat 32 (elemNat f .a .w32 j)
    let gives := fun (i : Instr) (v : Nat → BitVec 32) =>
      exec i s = .next (delivered s m f [t] .w32 sc (fun j => (v j).toNat) fun _ => 0)
    gives (.addi m t k) (fun j => a j + k.signExtend 32) ∧ gives (.andi m t k) (fun j => a j &&& k.zeroExtend 32) ∧
    gives (.ori m t k) (fun j => a j ||| k.zeroExtend 32) ∧ gives (.xori m t k) (fun j => a j ^^^ k.zeroExtend 32) ∧
    gives (.shli m t z) (fun j => a j <<< z.toNat) ∧ gives (.shri m t z) (fun j => a j >>> z.toNat) ∧
    gives (.sari m t z) (fun j => (a j).sshiftRight z.toNat) ∧
    gives (.movhi m t h) (fun j => a j <<< 12 ||| h.zeroExtend 32) ∧
    gives (.cmpiEq m t h) (fun j => if a j = h.signExtend 32 then 1 else 0) ∧
    gives (.cmpiLt m t h) (fun j => if (a j).slt (h.signExtend 32) then 1 else 0) ∧
    gives (.not m t) (fun j => ~~~ a j) ∧ gives (.neg m t) (fun j => -(a j)) ∧
    gives (.inc m t) (fun j => a j + 1) ∧ gives (.dec m t) (fun j => a j - 1) ∧
    gives (.isz m t) (fun j => if a j = 0 then 1 else 0) ∧ gives (.nz m t) (fun j => if a j = 0 then 0 else 1)

/-- R37, R38, R176, R177: the float and tapered operations deliver the exact result rounded once into the type, with the bits of that
rounding; `min`, `max`, `abs` and `neg` deliver the value of the type's order and sign. -/
def Obligations.FloatArithmetic : Prop :=
  ∀ (m : FireMode) (t u : Target) (x : Ex) (y : FloatTy) (s : State) (f : Firing) (sc : Bool), Acting m s f →
    hasWidths f (tyWidth (floatTy y)) (tyWidth (floatTy y)) (tyWidth (floatTy y)) → inScale f [.a, .b, .c] sc → exAdmits x sc →
    let ty := floatTy y
    let w := tyWidth ty
    let a := elemNat f .a w
    let b := elemNat f .b w
    let va := fun j => valOf ty (a j)
    let vb := fun j => valOf ty (b j)
    let vc := fun j => valOf ty (elemNat f .c w j)
    let gives := fun (i : Instr) (r : Nat → Res) => noTrap m s f (fun j => (r j).2) →
      exec i s = .next (delivered s m f [t, u] w sc (fun j => (r j).1) fun j => (r j).2)
    gives (.addFloat m t u x y) (fun j => addVal ty (va j) (vb j)) ∧
    gives (.subFloat m t u x y) (fun j => addVal ty (va j) (negVal (vb j))) ∧
    gives (.mulFloat m t u x y) (fun j => intoFloat ty (mulVal (va j) (vb j))) ∧
    gives (.fma m t u x y) (fun j => addVal ty (mulVal (va j) (vb j)) (vc j)) ∧
    gives (.fms m t u x y) (fun j => addVal ty (mulVal (va j) (vb j)) (negVal (vc j))) ∧
    gives (.minFloat m t u y) (fun j => fMinMax ty false (a j) (b j)) ∧
    gives (.maxFloat m t u y) (fun j => fMinMax ty true (a j) (b j)) ∧
    gives (.absFloat m t u y) (fun j => fSign ty true (a j)) ∧
    gives (.negFloat m t u y) (fun j => fSign ty false (a j))

/-- R36, R39, R178: a float compare delivers the 32-bit words 1 or 0 without bits of its own. Tapered operands are ordered as two's
complement patterns. Of IEEE operands that are unordered only `ne` holds. -/
def Obligations.FloatCompares : Prop :=
  ∀ (m : FireMode) (t u : Target) (y : FloatTy) (s : State) (f : Firing) (sc : Bool), Acting m s f →
    hasWidths f (tyWidth (floatTy y)) (tyWidth (floatTy y)) (tyWidth (floatTy y)) → inScale f [.a, .b] sc →
    let w := tyWidth (floatTy y)
    let a := elemNat f .a w
    let b := elemNat f .b w
    let gives := fun (i : Instr) (v : Nat → Bool) =>
      exec i s = .next (delivered s m f [t, u] .w32 sc (fun j => if v j then 1 else 0) fun _ => 0)
    ((y = .t16 ∨ y = .t32) →
      let x := fun j => signed (widthBits w) (a j)
      let z := fun j => signed (widthBits w) (b j)
      gives (.cmpEqFloat m t u y) (fun j => x j = z j) ∧ gives (.cmpNeFloat m t u y) (fun j => x j ≠ z j) ∧
      gives (.cmpLtFloat m t u y) (fun j => x j < z j) ∧ gives (.cmpLeFloat m t u y) (fun j => x j ≤ z j) ∧
      gives (.cmpGtFloat m t u y) (fun j => x j > z j) ∧ gives (.cmpGeFloat m t u y) (fun j => x j ≥ z j)) ∧
    ((y = .bf16 ∨ y = .f32) →
      let o := fun j => fOrder (floatTy y) (a j) (b j)
      gives (.cmpEqFloat m t u y) (fun j => o j = some .eq) ∧ gives (.cmpNeFloat m t u y) (fun j => o j ≠ some .eq) ∧
      gives (.cmpLtFloat m t u y) (fun j => o j = some .lt) ∧ gives (.cmpLeFloat m t u y) (fun j => o j = some .lt ∨ o j = some .eq) ∧
      gives (.cmpGtFloat m t u y) (fun j => o j = some .gt) ∧ gives (.cmpGeFloat m t u y) (fun j => o j = some .gt ∨ o j = some .eq))

/-- R44, R179, R181, R182: a conversion delivers the source value in the destination type, scaled from `.d8`; the special functions take
and leave unscaled values; `scale.apply` and `scale.strip` multiply by a power of two and turn the scale state. -/
def Obligations.ConversionsFunctionsAndScales : Prop :=
  ∀ (m : FireMode) (t u : Target) (s : State) (f : Firing) (sc : Bool), Acting m s f → inScale f [.a] sc →
    (∀ (dst src : Ty) (x : Ex), hasWidths f (tyWidth src) (tyWidth src) (tyWidth src) → exAdmits x sc →
      noTrap m s f (fun j => (cvtElem dst src (elemNat f .a (tyWidth src) j)).2) →
      exec (.cvt m dst src t x) s = .next (delivered s m f [t] (tyWidth dst) (decide (src = .d8) || sc)
        (fun j => (cvtElem dst src (elemNat f .a (tyWidth src) j)).1) fun j => (cvtElem dst src (elemNat f .a (tyWidth src) j)).2)) ∧
    (∀ y : SpTy, hasWidths f .w16 .w16 .w16 → sc = false →
      let gives := fun (i : Instr) (fn : SpFn) => noTrap m s f (fun j => (spElem fn (spTy y) (elemNat f .a .w16 j)).2) →
        exec i s = .next (delivered s m f [t, u] .w16 false (fun j => (spElem fn (spTy y) (elemNat f .a .w16 j)).1)
          fun j => (spElem fn (spTy y) (elemNat f .a .w16 j)).2)
      gives (.exp2 m t u y) .exp2 ∧ gives (.log2 m t u y) .log2 ∧ gives (.rcp m t u y) .rcp ∧ gives (.rsqrt m t u y) .rsqrt ∧
      gives (.sigm m t u y) .sigm ∧ gives (.tanh m t u y) .tanh) ∧
    ∀ y : FloatTy, hasWidths f (tyWidth (floatTy y)) .w32 (tyWidth (floatTy y)) →
      let k := fun j => signed 32 (elemNat f .b .w32 j)
      let r := fun (j : Nat) (k : Int) => fScale (floatTy y) (elemNat f .a (tyWidth (floatTy y)) j) k
      (sc = true → noTrap m s f (fun j => (r j (k j)).2) → exec (.scaleApply m t u y) s =
        .next (delivered s m f [t, u] (tyWidth (floatTy y)) false (fun j => (r j (k j)).1) fun j => (r j (k j)).2)) ∧
      (sc = false → noTrap m s f (fun j => (r j (-k j)).2) → exec (.scaleStrip m t u y) s =
        .next (delivered s m f [t, u] (tyWidth (floatTy y)) true (fun j => (r j (-k j)).1) fun j => (r j (-k j)).2))

/-- R171, R183, R193: `mov` keeps value, width, bits and scale state; `perm` delivers the elements that its indices name, 0 beyond the end
of its token, and `bcast` the first element that the source sent. Beside it, R117, R170 to R172, R175, R236: an instruction without value
ports delivers at block start one token of iteration 0, standing in a resident loop, and on a predicate one token for each run that
satisfies its mode: `movi` its immediate, `rdg` and `bget` the register that the previous commit fixed, `null` a null. All are unscaled
and carry the bits of the predicate; a null carries none. -/
def Obligations.MovesAndTokensFromNothing : Prop :=
  (∀ (m : FireMode) (t u : Target) (s : State) (f : Firing) (a : Token), Acting m s f → f.a = some a → f.c = none →
     (f.b = none → exec (.movFull m t u) s = .next (delivered s m f [t, u] a.ew a.scaled (elemNat f .a a.ew) fun _ => 0) ∧
       exec (.movCompact m t) s = .next (delivered s m f [t] a.ew a.scaled (elemNat f .a a.ew) fun _ => 0)) ∧
     ∀ r : RawTy, hasWidths f (rawWidth r) .w32 .w32 →
       exec (.perm m t u r) s = .next (delivered s m f [t, u] (rawWidth r) a.scaled
         (fun j => elemAt (some a) (elemNat f .b .w32 j % 32)) fun _ => 0) ∧
       exec (.bcast m t u r) s = .next (delivered s m f [t, u] (rawWidth r) a.scaled (fun _ => a.head.toNat) fun _ => 0)) ∧
  ∀ (m : FireMode) (t u : Target) (k : BitVec 12) (g : BitVec 8) (n : BitVec 4) (s : State) (f : Firing), s.cur = some f →
    f.eos = none → (firedElems m f).isEmpty = false → f.a = none → f.b = none → f.c = none →
    let gives := fun (i : Instr) (ts : List Target) (f : Firing) (mk : Nat → Token) =>
      (f.p = none → exec i s = .next (sendTokens s f.ctx f.inst f.born ts
        (if inLoop s f.ctx then { mk 1 with iter := 65535, standing := true } else mk 1))) ∧
      (f.p.isSome = true → exec i s = .next ((runsFrom 0 (firedMask m f)).foldl (fun s r => sendRun s f ts r.1 (mk r.2)) s))
    let token := fun (w : Width) (v : Dbl) (n : Nat) => freshToken 0 (List.replicate n v) w false (tokenBits f.p)
    let null := fun (n : Nat) => { freshToken 0 (List.replicate n 0) .w32 false 0 with nul := true }
    gives (.movi m t k) [t] f (token .w32 ((k.signExtend 32).zeroExtend 64)) ∧
    gives (.rdg m g t) [t] { f with born := 0 } (token .w32 ((gReg s f.ctx g.toNat).zeroExtend 64)) ∧
    gives (.bget m n t) [t] { f with born := 0 } (token .w64 (BitVec.ofNat 64 (baseReg s f.ctx n.toNat))) ∧
    gives (.nullFull m t u) [t, u] f null ∧ gives (.nullCompact m t) [t] f null

/-- R128, R173, R191, R192: `wrg` keeps its word for the commit and adds its bits to Exception Summary; `exit` keeps its number and the
successor that OFF20 names, and `exit.i` the successor that its double names, all ones for the end of the step. -/
def Obligations.WritesAndExitsForTheCommit : Prop :=
  ∀ (m : FireMode) (g : BitVec 8) (e : BitVec 3) (off : BitVec 20) (s : State) (f : Firing) (x : Ctx), Acting m s f →
    ctxAt s f.ctx = some x → f.b = none → f.c = none → f.len = 1 → manyElems f = false →
    (∀ a v, f.a = some a → a.ew = .w32 → a.vals = [v] → (∀ w ∈ x.gws, w.1 ≠ f.inst) → x.gws.length < blkWrites x.image →
      exec (.wrg m g) s = .next (modCtx (setCtx s f.ctx { x with gws := x.gws ++ [(f.inst, g.toNat, some (v.setWidth 32))] })
        f.ctx fun y => { y with esum := y.esum ||| inputBits f })) ∧
    (x.exits = [] → f.a = none →
      let dest := if off = 0x80000 then none else some (((x.block : Int) + 16 * off.toInt) % 2 ^ 56).toNat
      exec (.exit m e off) s = .next (setCtx s f.ctx { x with exits := [{ inst := f.inst, num := e.toNat, dest := dest }] })) ∧
    ∀ a v, x.exits = [] → f.a = some a → a.ew = .w64 → a.vals = [v] →
      (v = 0xFFFFFFFFFFFFFFFF → exec (.exitI m e) s = .next (setCtx s f.ctx { x with exits := [{ inst := f.inst, num := e.toNat, dest := none }] })) ∧
      (v.extractLsb' 56 8 = 0 → v.extractLsb' 0 4 = 0 → exec (.exitI m e) s =
        .next (setCtx s f.ctx { x with exits := [{ inst := f.inst, num := e.toNat, dest := some v.toNat }] }))

/-- R132, R163, R174: a firing of `iter` begins it; while trips are left, and frames where the block accesses memory at an iteration, each
of its turns delivers the next run of iteration numbers with the bits of a predicate and takes a frame for each, and the last turn
delivers an EOS bounded by the end of the loop. -/
def Obligations.IterEmitsRuns : Prop :=
  ∀ (m : FireMode) (t : Target) (s : State) (c inst : Nat) (x : Ctx), ctxAt s c = some x →
    (∀ f, Acting m s f → f.ctx = c → f.inst = inst → x.iterNext = none →
      exec (.iter m t) s = .next (pushEvOnce (setCtx s c { x with iterNext := some (inst, 0, inputBits f) }) (.iterEmit c inst))) ∧
    ∀ (n : FireMode) (done : Nat) (sb : BitVec 5), x.frozen = none → x.iterNext = some (inst, done, sb) →
      instrAt x.image inst = some (.iter n t) →
      let left := loopTrips x.image - done
      let run := min (loopRun x.image) left
      let its := (List.range run).map fun j => (loopBase x.image + done + j) % 65536
      (0 < left → (frameReach x.image ≠ [] → framesHeld x + run ≤ loopFrames x.image) →
        let acted := if frameReach x.image = [] then x.acted else its.foldl (fun l i => tabPut l i []) x.acted
        exec (.iterEmit c inst) s = .next (pushEvOnce (sendTokens
          (setCtx s c { x with acted := acted, iterNext := some (inst, done + run, sb) }) c inst
          (lastNote s c inst) [t] (freshToken (loopBase x.image + done) (its.map fun i => BitVec.ofNat 64 i) .w32 false sb)) (.iterEmit c inst))) ∧
      (left = 0 → exec (.iterEmit c inst) s = .next (settle (sendTokens (setCtx s c { x with iterNext := none }) c inst
        (lastNote s c inst) [t] { freshToken 0 [BitVec.ofNat 64 ((loopBase x.image + done) % 65536)] .w32 false 0 with eos := true }) c))

/-- R184: a firing of a reduction or scan whose turn has come combines its elements in ascending order into the accumulator, `scan.add`
delivering each; at EOS the reductions deliver one token at S0 with the accumulator (the element itself where there was one alone, a NaR
or NaN of which they make anew), `red.add` of an empty stream zero and the others a null, then an EOS bounded by S0 + 1, and `scan.add`
passes the EOS on. -/
def Obligations.ReductionsAndScan : Prop :=
  ∀ (m : FireMode) (t u : Target) (y : AccTy) (s : State) (f : Firing) (x : Ctx), s.cur = some f → ctxAt s f.ctx = some x →
    let st := streamAt x f.inst
    let w := tyWidth (accTy y)
    (∀ a, f.eos = none → f.waive = none → f.a = some a → f.b = none → f.c = none → a.nul = false → a.ew = w → allStanding f = false →
      (firedElems m f).isEmpty = false → iterOffset x.image f.iter = st.taken → (st.scaled = none ∨ st.scaled = some a.scaled) →
      let rs := fun (op : RedOp) => redFold op f (st.acc.map (·.toNat)) (firedElems m f)
      let own := fun (op : RedOp) => orBits ((rs op).map (·.2.2))
      let acc := fun (op : RedOp) => (rs op).getLast?.map fun r => BitVec.ofNat 64 r.2.1
      let kept := fun (op : RedOp) => setStream s f.ctx f.inst
        { st with taken := st.taken + f.len, acc := acc op, scaled := some a.scaled, sb := st.sb ||| inputBits f ||| own op,
                  bare := st.acc.isNone && (firedElems m f).length == 1 }
      let takes := fun (i : Instr) (op : RedOp) => own op &&& x.eenable = 0 → exec i s = .next (streamDue (kept op) f.ctx f.inst)
      takes (.redAdd m t u y) (sumOp y false) ∧ takes (.redMax m t u y) (pickOp y true) ∧ takes (.redMin m t u y) (pickOp y false) ∧
      let op := sumOp y true
      (own op &&& x.eenable = 0 → exec (.scanAdd m t u y) s = .next (streamDue ((runsFrom 0 (firedMask m f)).foldl (fun s q =>
        sendRun s f [t, u] q.1 (freshToken 0 ((List.range q.2).map fun k =>
          BitVec.ofNat 64 ((((rs op).find? fun r => r.1 == q.1 + k).map (·.2.1)).getD 0)) w a.scaled (st.sb ||| inputBits f ||| own op)))
        (kept op)) f.ctx f.inst))) ∧
    ∀ b, f.eos = some b → st.late = [] → st.taken ≤ iterOffset x.image b →
      let s0 := streamStart x.image
      let eos := fun (b : Nat) => { freshToken 0 [BitVec.ofNat 64 b] .w32 false 0 with eos := true }
      let gives := fun (i : Instr) (tok : Token) => exec i s = .next (sendTokens (sendTokens s f.ctx f.inst f.born [t, u] tok) f.ctx f.inst
        f.born [t, u] (eos ((s0 + 1) % 65536)))
      let null := { freshToken s0 [0] w false 0 with nul := true }
      let value := fun (r : Res) => freshToken s0 [BitVec.ofNat 64 r.1] w (st.scaled.getD false) (st.sb ||| r.2)
      let made := fun (v : Dbl) => if st.bare then deliverElem (accTy y) v.toNat else (v.toNat, 0)
      (∀ v, st.acc = some v → (made v).2 &&& x.eenable = 0 → gives (.redAdd m t u y) (value (made v)) ∧
        gives (.redMax m t u y) (value (made v)) ∧ gives (.redMin m t u y) (value (made v))) ∧
      (st.acc = none → gives (.redAdd m t u y) (value (0, 0)) ∧ gives (.redMax m t u y) null ∧ gives (.redMin m t u y) null) ∧
      exec (.scanAdd m t u y) s = .next (sendTokens s f.ctx f.inst (lastNote s f.ctx f.inst) [t, u] (eos b))

/-- R138, R186, R187: `rpack` and `turn` keep the elements that a firing brings, `turn` with rows and columns exchanged within each 1,024,
and deliver each full group of 32, or of 1,024, in ascending order; at EOS they deliver what is left and pass the EOS on. -/
def Obligations.RunsRegrouped : Prop :=
  ∀ (m : FireMode) (t u : Target) (r : RawTy) (s : State) (f : Firing) (x : Ctx), s.cur = some f → ctxAt s f.ctx = some x →
    let st := streamAt x f.inst
    (∀ a, f.eos = none → f.a = some a → f.b = none → f.c = none → a.nul = false → a.standing = false → a.ew = rawWidth r →
      let kept := fun (place : Nat → Nat) => ((firedElems m f).map fun j => (place (iterOffset x.image f.iter + j),
        ({ val := some (BitVec.ofNat 64 (elemAt f.a j)), sb := inputBits f, scaled := a.scaled } : Cell))).foldl
          (fun b e => tabPut b e.1 e.2) st.buffer
      let full := fun (size : Nat) (place : Nat → Nat) => (((firedElems m f).map fun j => place (iterOffset x.image f.iter + j) / size).eraseDups).filter
        fun g => ((kept place).filter fun e => e.1 / size == g).length == size
      let left := fun (size : Nat) (place : Nat → Nat) => (kept place).filter fun e => !(full size place).contains (e.1 / size)
      let packs := fun (i : Instr) (s1 : State) (size : Nat) (place : Nat → Nat) => exec i s = .next (sendCells size
        (setStream s1 f.ctx f.inst { st with taken := st.taken + f.len, buffer := left size place }) f [t, u] (rawWidth r)
        (streamStart x.image) ((kept place).filter fun e => (full size place).contains (e.1 / size)))
      packs (.rpack m t u r) s 32 id ∧
      (turnHeld s f x = false → packs (.turn m t u r) (turnTake s f x) 1024 fun o => 1024 * (o / 1024) + 32 * (o % 32) + o % 1024 / 32)) ∧
    ∀ b, f.eos = some b → st.late = [] →
      let ends := fun (size : Nat) => sendTokens (sendCells size (setStream s f.ctx f.inst { st with taken := 0, buffer := [] }) f [t, u]
        (rawWidth r) (streamStart x.image) st.buffer) f.ctx f.inst f.born [t, u] { freshToken 0 [BitVec.ofNat 64 b] .w32 false 0 with eos := true }
      exec (.rpack m t u r) s = .next (ends 32) ∧ exec (.turn m t u r) s = .next (turnWake (ends 1024) x.press x.region)

/-- R188, R189, R392: an element of a Lane File access lies at its byte offset, in the `.v` forms displaced by its size times the
iteration modulo 32. Where every one is aligned and inside the window the loads deliver the bytes there, unscaled; the stores write their
values in ascending order; and `lfswp` also delivers the bytes that each element replaced. The first element that is misaligned faults
with cause 0x131, and one beyond the window with cause 0x130, before anything is written. -/
def Obligations.LaneFileAccesses : Prop :=
  ∀ (m : FireMode) (t u : Target) (r : RawTy) (s : State) (f : Firing) (x : Ctx) (w : StepRec), Acting m s f →
    ctxAt s f.ctx = some x → stepAt s x.stp = some w →
    let e := rawWidth r
    let n := widthBytes e
    let off := fun (vec : Bool) (q : Port) (j : Nat) => elemNat f q .w32 j + (if vec then n * (iterAt f j % 32) else 0)
    let fits := fun (vec : Bool) (q : Port) => ∀ j ∈ firedElems m f, off vec q j % n = 0 ∧ off vec q j + n ≤ 128 * w.words
    let counted := ctxCount s f.ctx 0x005 (firedElems m f).length
    let window := fun (vec : Bool) (js : List Nat) =>
      js.foldl (fun mem j => memWrite mem (off vec .b j) (leBytes n (elemNat f .a e j))) w.window
    let stored := fun (vec : Bool) => modCtx (modStep counted x.stp fun w => { w with window := window vec (firedElems m f) }) f.ctx
      fun y => { y with esum := y.esum ||| inputBits f }
    (hasWidths f .w32 e e → fits false .a → exec (.lfld m t u r) s =
      .next (delivered counted m f [t, u] e false (fun j => leNat (memRead w.window (off false .a j) n)) fun _ => 0)) ∧
    (hasWidths f .w32 e e → fits true .a → exec (.lfldV m t u r) s =
      .next (delivered counted m f [t, u] e false (fun j => leNat (memRead w.window (off true .a j) n)) fun _ => 0)) ∧
    (hasWidths f e .w32 e → fits false .b → exec (.lfst m r) s = .next (stored false)) ∧
    (hasWidths f e .w32 e → fits true .b → exec (.lfstV m r) s = .next (stored true)) ∧
    (hasWidths f e .w32 e → fits false .b → exec (.lfswp m t u r) s = .next (delivered (stored false) m f [t, u] e false
      (fun j => leNat (memRead (window false ((firedElems m f).takeWhile (· ≠ j))) (off false .b j) n)) fun _ => 0)) ∧
    ∀ (vec : Bool) (q : Port) (js rest : List Nat) (j : Nat), firedElems m f = js ++ j :: rest → f.waive = none →
      (∀ k ∈ js, off vec q k % n = 0 ∧ off vec q k + n ≤ 128 * w.words) →
      let stops := fun (i : Instr) => ∀ cause, (cause = 0x131 ∧ off vec q j % n ≠ 0 ∨ cause = 0x130 ∧ off vec q j % n = 0 ∧
        128 * w.words < off vec q j + n) → exec i s = .next (fireFault s f cause { noInfo with
          iter := iterAt f j, addr := BitVec.ofNat 64 (off vec q j) })
      (q = .a → hasWidths f .w32 e e → stops (if vec then .lfldV m t u r else .lfld m t u r)) ∧
      (q = .b → hasWidths f e .w32 e → stops (if vec then .lfstV m r else .lfst m r) ∧ (vec = false → stops (.lfswp m t u r)))

/-- R320: where Trap Handler Active is clear, the tenancy's trap block valid and no other diversion made, `trap` asks the commit for an
entry to the trap block, and where it is set `tret` for the return. Beside it, R324, R396: `nop` has no effect, nor has `brk` where the
tenancy's BRK bit is clear; where it is set `brk` stops its context with cause 0x3C8, its code in AUX, and the stop dump is written. Here
complete: TRAP, TRET, NOP, BRK. -/
def Obligations.TrapsReturnsAndBreaks : Prop :=
  (∀ (m : FireMode) (n : BitVec 8) (s : State) (f : Firing) (x : Ctx), Acting m s f → ctxAt s f.ctx = some x → x.divert = none →
     (x.th = false → csrBits s (0x480 + x.ten) 0 0 = 1 →
       exec (.trap m n) s = .next (setCtx s f.ctx { x with divert := some (.trap n) })) ∧
     (x.th = true → exec (.tret m) s = .next (setCtx s f.ctx { x with divert := some .tret }))) ∧
  ∀ (m : FireMode) (k : BitVec 10) (s : State) (f : Firing) (x : Ctx), Acting m s f → ctxAt s f.ctx = some x →
    exec (.nop m) s = .next s ∧
    (csrBits s 0x0F9 x.ten x.ten = 0 → exec (.brk m k) s = .next s) ∧
    (csrBits s 0x0F9 x.ten x.ten = 1 → f.waive = none → exec (.brk m k) s =
      .next (stopDump (fireFault s f 0x3C8 { noInfo with iter := f.iter, aux := k.zeroExtend 64 }) f.ctx))

/-- R304, R324, R395, R397, R398: `trmk` passes its token on and where its context is traced writes a mark record with its code and value;
a token of more than one element faults with cause 0x11B. `stylus` writes a record for its own firing and for each firing that its last
token came from, back to a root or the 64th. Its walk runs for a cycle per step (the model's choice, log entry 28), and a `stylus` that
fires in its Press meanwhile is dropped and counted. Here complete: TRMK, STYLUS. -/
def Obligations.TraceMarks : Prop :=
  ∀ (m : FireMode) (t : Target) (k : BitVec 10) (s : State) (f : Firing) (x : Ctx), Acting m s f → ctxAt s f.ctx = some x →
    x.frozen = none →
    (∀ a, f.a = some a → f.b = none → f.c = none →
      let sent := delivered s m f [t] a.ew a.scaled (elemNat f .a a.ew) fun _ => 0
      (manyElems f = false → exec (.trmk m t k) s = .next (if traced s x then traceRecord sent (2 ^ 63 + x.tag % 256 * 2 ^ 54 +
        k.toNat * 2 ^ 44 + elemAt f.a ((firedElems m f).headD 0) % 2 ^ 32) false else sent)) ∧
      (manyElems f = true → f.waive = none → exec (.trmk m t k) s = .next (fireFault s f 0x11B { noInfo with iter := f.iter }))) ∧
    let me : Note := ⟨f.born, f.inst, f.iter, f.last, lastBorn f, f.wait, (operands f).isEmpty⟩
    let path := me :: if me.root then [] else stylusPath 63 x.notes me.parent
    ((pressAt s x.press).stylus ≤ cycleNow s → exec (.stylus m k) s = .next (path.foldl (fun s n => traceRecord s (3 * 2 ^ 62 +
      x.tag % 256 * 2 ^ 54 + n.inst % 128 * 2 ^ 47 + n.iter % 65536 * 2 ^ 31 + portCode n.last * 2 ^ 29 + min n.wait 524287 * 2 ^ 10 +
      k.toNat) false) (modPress s x.press fun r => { r with stylus := cycleNow s + path.length }))) ∧
    (cycleNow s < (pressAt s x.press).stylus → exec (.stylus m k) s = .next (devCount s 0x209 1))

/-- R321 to R324, R393, R394: `mfs` delivers a register that its context may read, and `mts` writes one that it may write (of the context
scope: bits of Exception Summary are cleared, Exception Enable and Trap Return Address replaced); `ctr_rd` delivers an event's count and
`ctr_clr` sets it to zero, of device events for supervisors only. Where they may not they fault with cause 0x3C4. Here complete: MFS, MTS,
CTR_RD, CTR_CLR. -/
def Obligations.SpecialRegistersAndCounters : Prop :=
  ∀ (m : FireMode) (t : Target) (csr : BitVec 12) (e : BitVec 10) (v : Dbl) (s : State) (f : Firing) (x : Ctx), Acting m s f →
    ctxAt s f.ctx = some x → f.waive = none →
    let n := csr.toNat
    let fault := fireFault s f 0x3C4 { noInfo with iter := f.iter }
    let dbl := fun (v : Dbl) (k : Nat) => freshToken 0 (List.replicate k v) .w64 false (inputBits f)
    let k := e.toNat
    let own := k < 0x200 ∨ supervisor s x = true
    (mayRead s x n = true → exec (.mfs m t csr) s = .next (sendPlain s m [t] f (dbl (csrRead s (some x) n)))) ∧
    (mayRead s x n = false → exec (.mfs m t csr) s = .next fault) ∧
    (oneValue f .w64 v →
      (n = 0x010 → exec (.mts m csr) s = .next (modCtx s f.ctx fun y => { y with esum := y.esum &&& ~~~(v.extractLsb' 0 5) })) ∧
      (n = 0x011 → exec (.mts m csr) s = .next (modCtx s f.ctx fun y => { y with eenable := v.extractLsb' 0 5 })) ∧
      (n = 0x013 → exec (.mts m csr) s = .next (modCtx s f.ctx fun y => { y with tra := v })) ∧
      (n = 0x012 ∨ n = 0x014 ∨ n = 0x0F8 → exec (.mts m csr) s = .next s) ∧
      (n ≠ 0x0F8 → contextScope n = false → supervisor s x = true → exec (.mts m csr) s = .next (csrWrite s n v)) ∧
      (n ≠ 0x0F8 → contextScope n = false → supervisor s x = false → exec (.mts m csr) s = .next fault)) ∧
    (own → exec (.ctrRd m t e) s = .next (sendPlain s m [t] f (dbl (BitVec.ofNat 64 (eventTotal s x k))))) ∧
    (¬ own → exec (.ctrRd m t e) s = .next fault ∧ exec (.ctrClr m e) s = .next fault) ∧
    (k < 9 → exec (.ctrClr m e) s = .next (setCtx s f.ctx { x with counts := tabDrop x.counts k, totals := tabDrop x.totals k })) ∧
    (0x200 ≤ k → k < 0x20B → supervisor s x = true →
      let s1 := { s with devCounts := tabDrop s.devCounts k }
      (csrBits s 0x3F0 0 0 = 0 → exec (.ctrClr m e) s = .next s1) ∧
      (csrBits s 0x3F0 0 0 = 1 → exec (.ctrClr m e) s =
        .next (hbmPutDbl s1 (csrBits s 0x3F0 47 16 * 65536 + 0x10000 + 8 * (k - 0x200)) 0))) ∧
    (eventListed k = false → own → exec (.ctrClr m e) s = .next s)

/-- R200, R223, R228 to R230: `ld` issues one access for each element that fired, at B + sext32(element) modulo 2^64, and `ld.v` 32
accesses from one index, displaced by the size times the element; `st` issues one access at B + offset times size, and `st.v` one for each
element, displaced by the size times the iteration. Here complete: LD, LD_V, ST, ST_V. -/
def Obligations.LoadsAndStoresIssueAccesses : Prop :=
  ∀ (m : FireMode) (l : BitVec 5) (t : Target) (b : BitVec 4) (y : Ty) (q : Bool) (k : BitVec 9) (s : State) (f : Firing) (x : Ctx)
    (a : Token), Acting m s f → ctxAt s f.ctx = some x → f.a = some a → f.b = none → f.c = none →
    let base : Int := (tabGet (fun _ => 0) x.b b.toNat).toNat
    let n := memSize y
    let at' := fun (o : Int) => ((base + o) % (2 ^ 64 : Nat)).toNat
    let one := fun (j v : Nat) (o : Int) => ({ elem := j, iter := (f.iter + j) % 65536, addr := at' o, val := v, val2 := 0 } : MemElem)
    let load : MemReq := ⟨.load, y, memWidth y, n, q, false, false, false, l.toNat⟩
    let store : MemReq := ⟨.store, y, memWidth y, n, false, q, false, false, l.toNat⟩
    (a.ew = .w32 → exec (.ld m l t b y q) s = .next (memIssue s m f [t] load
      ((firedElems m f).map fun j => one j 0 (signed 32 (elemAt f.a j))))) ∧
    (a.ew = .w32 → manyElems f = false → inLoop s f.ctx = false → exec (.ldV m l t b y q) s = .next (memIssue s m f [t] { load with vec := true }
      ((List.range 32).map fun (j : Nat) => { one j 0 (signed 32 (elemAt f.a ((firedElems m f).headD 0)) + n * j) with iter := j }))) ∧
    (a.ew = memWidth y → longOperand f = false → lsidBad s f l.toNat = false → exec (.st m l b y q k) s = .next (memIssue s m f [] store
      [{ one 0 (elemAt f.a ((firedElems m f).headD 0)) (k.toInt * n) with iter := f.iter }])) ∧
    (a.ew = memWidth y → lsidBad s f l.toNat = false → inLoop s f.ctx = false → (∀ j ∈ firedElems m f, (f.iter + j) % 65536 ≤ 31) →
      exec (.stV m l b y q k) s = .next (memIssue (gather s f) m f [] { store with vec := true } ((firedElems m f).map fun (j : Nat) =>
        { one j (elemAt f.a j) (k.toInt * n + n * ((f.iter + j) % 65536 : Nat)) with elem := (f.iter + j) % 65536 })))

/-- R231, R232: each `amo` and `cas` of one element issues one access at the double on port a, with the value on port b and for `cas` the
new value on port c, ordered and scoped as its word says. Here complete: AMO_ADD, AMO_AND, AMO_OR, AMO_XOR, AMO_MIN, AMO_MAX, AMO_XCHG,
CAS. -/
def Obligations.AtomicsIssueAccesses : Prop :=
  ∀ (m : FireMode) (l : BitVec 5) (t : Target) (y : AmoTy) (wide : Bool) (o : Ord) (sys : Bool) (s : State) (f : Firing)
    (a b : Token), Acting m s f → f.a = some a → f.b = some b → a.ew = .w64 → longOperand f = false → lsidBad s f l.toNat = false →
    let acq := decide (o = .acq ∨ o = .acqRel)
    let rel := decide (o = .rel ∨ o = .acqRel)
    (b.ew = tyWidth (amoTy y) → f.c = none →
      let amo := fun (op : BitVec 3) => memIssue s m f [t]
        ⟨.amo op y, amoTy y, tyWidth (amoTy y), widthBytes (tyWidth (amoTy y)), acq, rel, sys, false, l.toNat⟩
        [⟨0, f.iter, elemAt f.a 0, elemNat f .b (tyWidth (amoTy y)) 0, 0⟩]
      exec (.amoAdd m l t y o sys) s = .next (amo 0) ∧ exec (.amoAnd m l t y o sys) s = .next (amo 1) ∧
      exec (.amoOr m l t y o sys) s = .next (amo 2) ∧ exec (.amoXor m l t y o sys) s = .next (amo 3) ∧
      exec (.amoMin m l t y o sys) s = .next (amo 4) ∧ exec (.amoMax m l t y o sys) s = .next (amo 5) ∧
      exec (.amoXchg m l t y o sys) s = .next (amo 6)) ∧
    ∀ c, f.c = some c → b.scaled = c.scaled →
      let w : Width := if wide then .w64 else .w32
      b.ew = w → c.ew = w → exec (.cas m l t wide o sys) s = .next (memIssue s m f [t]
        ⟨.cas wide, if wide then .n64 else .n32, w, widthBytes w, acq, rel, sys, false, l.toNat⟩
        [⟨0, f.iter, elemAt f.a 0, elemNat f .b w 0, elemNat f .c w 0⟩])

/-- R223, R228, R229, R231, R232, R288: an access of one part in local HBM that nothing holds back and the race checker does not look at
is performed at its ordering point: a load reads, a store writes its bytes and no other byte of memory, an `amo` writes what its operation
makes of the bytes there, and `cas` writes only where they are what it compares with. Here complete: ACCESS_PERFORMED. -/
def Obligations.AccessesArePerformed : Prop :=
  ∀ (s : State) (id pa n : Nat) (kind : BitVec 2) (a : Access) (x : Ctx) (m : MemFire), accAt s id = some a → ctxAt s a.ctx = some x →
    memFireAt s a.fire = some m → a.held = false → a.walked = true → mayPerform s x a = true → a.acq = false → a.rel = false →
    x.actor = none → x.undo = [] → a.parts = [(.hbm pa, n, kind, false)] → n = a.size → stackReady s pa = true → badGranule s a = none →
    let old := leNat (hbmRead s pa n)
    let writes := fun (t : State) (bs : List Byte) => (∀ p, hbmByte t p = if pa ≤ p ∧ p < pa + n then bs.getD (p - pa) 0 else hbmByte s p) ∧
      (∀ p, sramByte t p = sramByte s p) ∧ ∀ p, memByte t.hostMem p = memByte s.hostMem p
    (a.kind = .load → exec (.accessPerformed id) s = .next (settle (accDone s a (loadVals m a (hbmRead s pa n)) 0) a.ctx) ∧
      sameMemory s (settle (accDone s a (loadVals m a (hbmRead s pa n)) 0) a.ctx)) ∧
    (a.kind = .store → ∃ t, exec (.accessPerformed id) s = .next t ∧ writes t (storeBytes a)) ∧
    (∀ op y, a.kind = .amo op y → (amoNew op y old a.val.toNat).2 &&& x.eenable = 0 →
      ∃ t, exec (.accessPerformed id) s = .next t ∧ writes t (leBytes n (amoNew op y old a.val.toNat).1)) ∧
    ∀ wide, a.kind = .cas wide → ∃ t, exec (.accessPerformed id) s = .next t ∧
      writes t (if old = a.val.toNat then leBytes n a.val2.toNat else hbmRead s pa n)

/-- R213, R234, R235, R338: `fence` joins the fences of its context with its position, scope and level, and the engine operations that it
waits for; `qfence` is answered at once where no operation of its queues is at work and otherwise joins those that wait. A fence whose
waits are met and whose scope the race checker has fenced, and a `qfence` whose operations are performed, leave and are answered with a
32-bit 0; at system scope the Group's copies of remote lines go first. Here complete: FENCE, QFENCE, FENCE_COMPLETE, QFENCE_COMPLETE. -/
def Obligations.FencesWaitAndAnswer : Prop :=
  ∀ (m : FireMode) (l : BitVec 5) (t : Target) (scope : Scope) (level : Level) (mask : BitVec 8) (s : State),
    (∀ (f : Firing) (x : Ctx), Acting m s f → ctxAt s f.ctx = some x →
      let o := openReply s m f [t]
      exec (.fence m l t scope level) s = .next (pushEvOnce { o.1 with
        fences := o.1.fences ++ [⟨o.1.nextId, o.2, x.entry, l.toNat, scope, level, fenceOps s f.ctx level, false⟩]
        nextId := o.1.nextId + 1 } .fenceComplete) ∧
      (queueOps o.1 f.ctx mask.toNat = [] → exec (.qfence m t mask) s = .next (answer o.1 o.2 0 .w32)) ∧
      (queueOps o.1 f.ctx mask.toNat ≠ [] → exec (.qfence m t mask) s = .next (pushEvOnce
        { o.1 with qfences := o.1.qfences ++ [⟨o.1.nextId, o.2, queueOps o.1 f.ctx mask.toNat⟩], nextId := o.1.nextId + 1 } .qfenceComplete))) ∧
    (∀ (r : FenceRec) (x : Ctx) (s1 : State), s.fences.find? (fenceReady s) = some r →
      (r.waive = false → ctxFence s r.reply.ctx (scopeCode r.scope) = .ok s1) → (r.waive = true → s1 = s) → ctxAt s1 r.reply.ctx = some x →
      let gone := { s1 with fences := s1.fences.filter fun g => g.id != r.id }
      let dropped := if r.scope = .system then dropLines gone x.group else gone
      let u := settle (answer dropped r.reply 0 .w32) r.reply.ctx
      exec .fenceComplete s = .next (if u.fences.isEmpty then u else pushEvOnce u .fenceComplete)) ∧
    ∀ q, (s.qfences.find? fun q => !ctxFrozen s q.reply.ctx && q.ops.all (opPerformed s q.reply.ctx)) = some q →
      let u := settle (answer { s with qfences := s.qfences.filter fun r => r.id != q.id } q.reply 0 .w32) q.reply.ctx
      exec .qfenceComplete s = .next (if u.qfences.isEmpty then u else pushEvOnce u .qfenceComplete)

/-- R127, R236, R237: `bset` and `badd` keep a base register's value or sign-extended addend for the commit; `cvta` rewrites an address
into an aperture, or to all ones, and `isap` tells with 1 or 0 whether an address lies in one. Here complete: BSET, BADD, CVTA, ISAP. -/
def Obligations.BaseRegistersAndApertures : Prop :=
  ∀ (m : FireMode) (n : BitVec 4) (t : Target) (ap : Ap) (v : Dbl) (s : State) (f : Firing), Acting m s f →
    (oneValue f .w64 v → exec (.bset m n) s = .next (modCtx s f.ctx fun x => { x with bsets := x.bsets ++ [(f.inst, n.toNat, v)] })) ∧
    (oneValue f .w32 v → v.toNat < 2 ^ 32 → exec (.badd m n) s =
      .next (modCtx s f.ctx fun x => { x with badds := x.badds ++ [(n.toNat, (v.setWidth 32).signExtend 64)] })) ∧
    (hasWidths f .w64 .w64 .w64 →
      let a := fun j => BitVec.ofNat 64 (elemNat f .a .w64 j)
      let top := fun (a : Dbl) => (a.extractLsb' 56 8).toNat
      let zero := fun (a : Dbl) (lo n : Nat) => a.extractLsb' lo n = 0
      let group := groupOf s f.ctx
      let ones : Nat := 0xFFFFFFFFFFFFFFFF
      let into := fun (a : Dbl) => match ap with
        | .glob => if top a = 0 then a.toNat else ones
        | .lf => if top a = 0xE0 then a.toNat else if top a = 0 ∧ zero a 32 24 then 0xE0 * 2 ^ 56 + (a.extractLsb' 0 32).toNat else ones
        | .grp => if top a = 0xE8 then a.toNat
          else if (top a = 0 ∧ zero a 25 31) ∨ (top a = 0xEC ∧ (a.extractLsb' 49 5).toNat = group)
          then 0xE8 * 2 ^ 56 + (a.extractLsb' 0 25).toNat else ones
        | .dev => if top a = 0xEC then a.toNat
          else if (top a = 0 ∧ zero a 25 31) ∨ top a = 0xE8 then 0xEC * 2 ^ 56 + group * 2 ^ 49 + (a.extractLsb' 0 25).toNat else ones
      let lies := fun (a : Dbl) => match ap with
        | .glob => top a = 0
        | .lf => top a = 0xE0 ∧ zero a 32 24
        | .grp => top a = 0xE8 ∧ zero a 25 31
        | .dev => top a = 0xEC ∧ zero a 54 2 ∧ zero a 25 24
      exec (.cvta m t ap) s = .next (delivered s m f [t] .w64 false (fun j => into (a j)) fun _ => 0) ∧
      (∀ v : Nat → Nat, (∀ j, (lies (a j) → v j = 1) ∧ (¬ lies (a j) → v j = 0)) →
        exec (.isap m t ap) s = .next (delivered s m f [t] .w32 false v fun _ => 0)))

/-- R207 to R211: a page walk's end translates the access that waits; where each part passes its checks the pages are marked and the
access is accepted with the places of its parts. Beside it, R214: once no access to a migrating page is in flight and all of the page has
come from its peer, the PTE gets the new frame in mode 00 with peer 0, no TLB holds the page, the migration is over, and the PF's event
0x108 tells of both frames. Here complete: PAGE_WALK_COMPLETE, MIGRATION_COMPLETE. -/
def Obligations.TranslationsAndMigrationsEnd : Prop :=
  (∀ (s : State) (id : Nat) (a : Access) (x : Ctx) (l : List (Spot × Nat × Nat)), accAt s id = some a → a.walked = false →
     ctxAt s a.ctx = some x → x.frozen = none → a.addr.extractLsb' 56 8 = 0 → (isAtomic a = true → a.addr.toNat % a.size = 0) →
     spotsFind s (some (x.press, x.group)) x.ten (wayOf a.kind) (partsOf a.addr.toNat a.size) = .ok l →
     exec (.pageWalkComplete id) s = .next (settle (accept (l.foldl (fun s e => countUse s x.group x.ten e.2.1 e.1)
       (spotsMark s (some (x.press, x.group)) x.ten (wayOf a.kind) l)) a
       (l.map fun e => (if e.1.mode = 0 then .hbm e.1.pa else .remote e.1.peer e.1.pa (e.1.mode == 2), e.2.2, BitVec.ofNat 2 e.1.kind, e.1.checked))) a.ctx)) ∧
  ∀ (s s1 : State) (ten va : Nat) (m : Migration) (bs : List Byte), s.migrations.find? (fun m => m.ten == ten && m.va == va) = some m →
    (∀ a ∈ s.accesses, a.sent = true → accIn s ten va a = false) → remoteFail s (2 ^ 44 + va) = none → m.newFrame < 2 ^ 32 →
    remoteRead 600 s (2 ^ 44 + va) m.peer (m.oldFrame * 65536) 65536 = (s1, .ok bs) →
    ∃ u, exec (.migrationComplete ten va) s =
        .next (pfEvent u { recOf 0x108 with ten := ten, addr := va, aux := m.peer, ntok := 2, items := [m.oldFrame, m.newFrame] }) ∧
      (bitsOf (hbmDbl u m.pteAddr) 31 0 = m.newFrame ∧ bitsOf (hbmDbl u m.pteAddr) 57 56 = 0 ∧ bitsOf (hbmDbl u m.pteAddr) 54 41 = 0) ∧
      (∀ k ∈ u.migrations, k.ten = ten → k.va ≠ va) ∧
      (∀ p ∈ u.presses, ∀ e ∈ p.2.tlb, underInvalidation 0 ten va e.ten e.va e.size = false) ∧
      ∀ g ∈ u.groups, ∀ e ∈ g.2.tlb, underInvalidation 0 ten va e.ten e.va e.size = false

/-- R212: a written GO starts an invalidation of a page, a tenancy or everything: DONE clears and the addressed entries are looked up;
once no access translated through them is left, and no write of an engine at a peer, no TLB of any Press or Group holds one and DONE sets.
Here complete: TLB_INVALIDATE_PAGE, TLB_INVALIDATE_TENANCY, TLB_INVALIDATE_ALL, TLB_INVALIDATE_DONE. -/
def Obligations.TlbInvalidation : Prop :=
  ∀ s : State,
    let started := fun (scope : BitVec 2) => pushEvOnce { csrPoke s 0x364 62 62 0 with
      invalidating := some (scope, csrBits s 0x364 3 0, csrBits s 0x365 55 16 * 65536) } .tlbInvalidateDone
    (exec .tlbInvalidatePage s = .next (started 0) ∧ exec .tlbInvalidateTenancy s = .next (started 1) ∧
      exec .tlbInvalidateAll s = .next (started 2)) ∧
    ∀ (scope : BitVec 2) (ten page : Nat), s.invalidating = some (scope, ten, page) →
      ∃ t, exec .tlbInvalidateDone s = .next t ∧
        (∀ p ∈ t.presses, ∀ e ∈ p.2.tlb, underInvalidation scope.toNat ten page e.ten e.va e.size = false) ∧
        (∀ g ∈ t.groups, ∀ e ∈ g.2.tlb, underInvalidation scope.toNat ten page e.ten e.va e.size = false) ∧
        ((∀ a ∈ s.accesses, accUnder s scope.toNat ten page a = false) → (∀ r ∈ s.xfers, writeUnder s scope.toNat ten r = false) →
          t.invalidating = none ∧ csrBits t 0x364 62 62 = 1)

/-- R216 to R218, R238 to R240: on a slot that its handle names, by its number or through a ring, and that the tenancy owns, with a
readable tensor entry: `tile.fill` takes an Empty slot into Filling and delivers its slot-form handle; `tile.ready` takes a Filling slot
without pending stores into Ready; `tile.drain` takes a Ready slot into Draining and its write enters queue CP; `tile.free` takes a Ready
slot that no admitted read waits for into Empty. Ring forms move the producer or consumer index. `tile.stat` delivers the Tile Table
entry. Here complete: TILE_FILL, TILE_READY, TILE_DRAIN, TILE_FREE, TILE_STAT. -/
def Obligations.TileInstructions : Prop :=
  ∀ (m : FireMode) (tid : BitVec 10) (t : Target) (v : Dbl) (s : State) (f : Firing) (x : Ctx) (k : Nat) (r : Option Nat),
    Acting m s f → oneValue f .w64 v → ctxAt s f.ctx = some x →
    (handleSlot x v.toNat false false = .ok (k, r) → ((tileAt s x.group k).state = 0 ∨ (tileAt s x.group k).ten.toNat = x.ten) →
      exec (.tileStat m t) s = .next (deliverWide s m f t (tileDouble (tileAt s x.group k)))) ∧
    ∀ (s1 : State) (d : List Dbl), tensorRead s x (tensorOwner f.ctx f.inst) tid.toNat = (s1, .ok d) →
      let tile := tileAt s1 x.group k
      let moves := fun (s : State) (g : Ring → Ring) => match r with
        | none => s
        | some n => modRing s f.ctx n g
      let ring := r.bind (ringOf x)
      (handleSlot x v.toNat true true = .ok (k, r) → tile.state = 0 → exec (.tileFill m tid t) s = .next (deliverWide
        (moves (slotFill s1 x k ((ring.map (·.tid)).getD tid.toNat)) fun q => produced q 1) m f t (slotHandle k))) ∧
      (handleSlot x v.toNat false false = .ok (k, r) → tile.state = 1 → tile.ten.toNat = x.ten → tile.tid = tid → f.done = 0 →
        slotStores s1 f.ctx x.group k = [] →
        exec (.tileReady m tid t) s = .next (deliverWide (slotState s1 x.group k 2) m f t v.toNat)) ∧
      (handleSlot x v.toNat true false = .ok (k, r) → tile.state = 2 → tile.ten.toNat = x.ten → tile.pl = false → tile.tid = tid →
        (queueFull s1 x.press 6 = false →
          let o := openReply (moves (slotState s1 x.group k 3) fun q => { consumed q 1 with drains := q.drains + 1 }) m f [t]
          exec (.tileDrain m tid t) s = .next (enqueue { o.1 with nextId := o.1.nextId + 1 } x.press
            { newOp o.1.nextId f.ctx 6 tid.toNat (.drain k r ((ring.map (·.drains)).getD 0)) o.2 with
              data := d.flatMap fun v => leBytes 8 v.toNat })) ∧
        (slotReads s1 x.group k = false → exec (.tileFree m tid t) s =
          .next (deliverWide (moves (slotState s1 x.group k 0) fun q => consumed q 1) m f t v.toNat)))

/-- R218, R220, R239, R240: the firings that wait for a party act again in ascending order of context tag and instruction index; a drain
writes the granules of its slot in ascending order through the engine, and once all are written and no admitted read waits, its slot is
Empty and its handle delivered. Beside it, R254, R255, R311: with its source read, a copy writes its bytes 64 at a time in ascending order
through the engine, a write-back of `rest` likewise; a copy that has written all, with no write at a peer unacknowledged, delivers its
length. Here complete: TILE_WAIT_SATISFIED, TILE_DRAIN_COMPLETE, COPY_COMPLETE. -/
def Obligations.WaitersDrainsAndCopies : Prop :=
  ((∀ (s : State) (l : List Waiter), l.Perm s.waiters →
      l.Pairwise (fun v w => ∀ x y, ctxAt s v.firing.ctx = some x → ctxAt s w.firing.ctx = some y → x.tag < y.tag ∨
        x.tag = y.tag ∧ v.firing.inst < w.firing.inst) →
      (∀ w ∈ s.waiters, w.firing.inst < 128 ∧ ∃ x, ctxAt s w.firing.ctx = some x) →
      let t := { l.foldl tryWaiter s with cur := none }
      exec .tileWaitSatisfied s = .next (if t.waiters.isEmpty then t else pushEvOnce t .tileWaitSatisfied)) ∧
   (∀ (s t : State) (w : Waiter) (x : Ctx) (i : Instr), ctxAt s w.firing.ctx = some x → x.frozen = none →
      decodeInstr (wordFor x.image w.firing.inst w.firing.iter).1 = .ok i →
      refire i { s with waiters := s.waiters.filter (fun v => v.id != w.id), cur := some w.firing } = .next t →
      tryWaiter s w = afterFire t i w.firing) ∧
   ∀ (s : State) (id p k di : Nat) (r : Option Nat) (o : EngOp) (x : Ctx), opAt s id = some (p, o) → ctxAt s o.ctx = some x → x.frozen = none →
     o.stalled = false → o.kind = .drain k r di → tdtReadOnly (dblsOf o.data) = false →
     let base := (tdtDbl (dblsOf o.data) 0 + 16384 * di) % 2 ^ 64
     (∀ s1 s2 bs, o.pos < 255 → engFetch s x (opOwner o.id) (slotHandle k + 64 * o.pos) 64 o.waive = (s1, .ok bs) →
       engStore s1 x o.ctx (opOwner o.id) (base + 64 * o.pos) bs o.waive = (s2, .ok ()) →
       exec (.tileDrainComplete id) s = .next (opAgain (modOp s2 p o.id fun _ => { o with pos := o.pos + 1, waive := none }) p
         { o with pos := o.pos + 1, waive := none })) ∧
     (256 ≤ o.pos → remoteFail s (opOwner o.id) = none → opWriting s o = false → slotReads s x.group k = false →
       exec (.tileDrainComplete id) s = .next (settle (answer (opGone (slotState s x.group k 0) p o) o.reply
         (match r with | none => slotHandle k | some n => 0xF0 * 2 ^ 56 + n) .w64) o.ctx))) ∧
  ∀ (s : State) (id p dst src len : Nat) (o : EngOp) (x : Ctx), opAt s id = some (p, o) → ctxAt s o.ctx = some x → x.frozen = none →
    o.stalled = false →
    let next := (o.data.drop o.pos).take 64
    (∀ s1, (o.kind = .copy dst src len ∧ o.data.length = len ∨ o.kind = .restWrite dst o.data) →
      o.pos + next.length < o.data.length → engWrite s x o o.reply.iter (dst + o.pos) next = (s1, .ok ()) →
      exec (.copyComplete id) s = .next (opAgain (modOp s1 p o.id fun _ => { o with pos := o.pos + next.length, waive := none }) p
        { o with pos := o.pos + next.length, waive := none })) ∧
    (o.kind = .copy dst src len → 0 < len → o.data.length = len → o.pos = len → remoteFail s (opOwner o.id) = none → opWriting s o = false →
      exec (.copyComplete id) s = .next (settle (answer (opGone s p o) o.reply len .w32) o.ctx)) ∧
    (o.kind = .remoteCopy dst src len → 0 < len → o.data.length = len → o.pos = len → remoteFail s (opOwner o.id) = none →
      opWriting s o = false → (∀ t ∈ s.xfers, t.kind = .copy o.id → t.acc = true) →
      exec (.copyComplete id) s = .next (settle (answer (opGone s p o) o.reply len .w32) o.ctx))

/-- R241, R242: `ring.def` with a legal word, slots that no live ring shares, a ring that nothing uses and a readable tensor entry makes
the ring with both indices at its first slot and delivers its number. Beside it, R220, R256: an operation enters its queue; when its
engine is free the first operation of a context that is not frozen leaves the queue and is worked on, or before it a marker behind no
operation of its context that is not performed, which delivers its value. Here complete: RING_DEF, ENG_CMD, ENGINE_OP_START,
ENG_CMD_DELIVER. -/
def Obligations.RingsAndEngineQueues : Prop :=
  (∀ (m : FireMode) (tid : BitVec 10) (t : Target) (v : Dbl) (s s1 : State) (f : Firing) (x : Ctx) (d : List Dbl),
     Acting m s f → oneValue f .w64 v → ctxAt s f.ctx = some x → tensorRead s x (tensorOwner f.ctx f.inst) tid.toNat = (s1, .ok d) →
     let r := (v.extractLsb' 60 4).toNat
     let first := (v.extractLsb' 40 10).toNat
     let len := (v.extractLsb' 50 6).toNat + 1
     v.extractLsb' 56 4 = 0 → v.extractLsb' 0 40 = 0 → first + len ≤ 1024 → ringOverlap s f.ctx x.group r first (first + len - 1) = false →
     ringBusy s f.ctx x r = false → ((ringOf x r).isSome = true ∨ ringEntriesUsed s1 x.press < Config.ringEntries) →
     let o := openReply (modCtx s1 f.ctx fun x => { x with rings := tabPut x.rings r ⟨first, len, 0, 0, 0, tid.toNat⟩ }) m f [t]
     exec (.ringDef m tid t) s = .next (answer o.1 o.2 r .w32)) ∧
  (∀ (m : FireMode) (t : Target) (q : BitVec 3) (v : Dbl) (s : State) (f : Firing) (x : Ctx), Acting m s f → oneValue f .w32 v →
    ctxAt s f.ctx = some x → queueFull s x.press q.toNat = false →
    let o := openReply s m f [t]
    exec (.engCmd m t q) s = .next (enqueue { o.1 with nextId := o.1.nextId + 1 } x.press
      { newOp o.1.nextId f.ctx q.toNat 0 (.marker (BitVec.ofNat 64 (v.toNat % 2 ^ 32))) o.2 with
        ringed := (boundFired s x.press q.toNat f.ctx).1, pos := (boundFired s x.press q.toNat f.ctx).2 })) ∧
  (∀ (s : State) (p q : Nat) (o : EngOp),
    (nextMarker s p q [] (queueAt s p q) = some o →
      exec (.engineOpStart p q) s = .next (pushEvOnce (startOp s p o) (.engineOpStart p q))) ∧
    (nextMarker s p q [] (queueAt s p q) = none → unitBack s p q = none → engineBusy s p q = false → nextOp s p q = some o →
      exec (.engineOpStart p q) s = .next (startOp s p o))) ∧
  ∀ (s : State) (id p : Nat) (o : EngOp) (x : Ctx) (v : Dbl), opAt s id = some (p, o) → ctxAt s o.ctx = some x → x.frozen = none →
    o.stalled = false → o.kind = .marker v → exec (.engCmdDeliver id) s = .next (settle (answer (opGone s p o) o.reply v.toNat .w32) o.ctx)

/-- R220, R243, R248 to R250, R252, R254, R255: where its queue has a free entry, an instruction that asks an engine for an operation puts
it behind those of its queue: `mx.def` on its unit, `gv.aff` and `gv.ind` a configuration and `gv.go` a run on their Graver (a storer's
with the first tokens of its stream), `cp.go` a copy on CP and `cp.rem` one to a peer on LK, of 64 bytes a unit of its count. `mx.unbind`
marks the context's operation on its unit, or delivers 0. Here complete: MX_DEF, MX_UNBIND, GV_AFF, GV_IND, GV_GO, CP_GO, CP_REM. -/
def Obligations.EngineOperationsAreAsked : Prop :=
  ∀ (m : FireMode) (tid n : BitVec 10) (t : Target) (unit : Bool) (g : BitVec 2) (s : State) (f : Firing) (x : Ctx), Acting m s f →
    ctxAt s f.ctx = some x →
    let u := if unit then 1 else 0
    let o := openReply s m f [t]
    let queued := fun (q tid : Nat) (k : EngKind) => enqueue { o.1 with nextId := o.1.nextId + 1 } x.press
      (newOp o.1.nextId f.ctx q tid k o.2)
    (∀ v : Dbl, oneValue f .w64 v → v.extractLsb' 0 6 = 0 →
      (queueFull s x.press u = false → exec (.mxDef m tid t unit) s = .next (queued u tid.toNat (.matrix v.toNat u))) ∧
      (queueFull s x.press (2 + g.toNat) = false →
        exec (.gvAff m tid t g) s = .next (queued (2 + g.toNat) tid.toNat (.graverConfig v.toNat false)) ∧
        exec (.gvInd m tid t g) s = .next (indexGive (queued (2 + g.toNat) tid.toNat (.graverConfig v.toNat true)) f.ctx f.inst))) ∧
    (∀ v : Dbl, oneValue f .w32 v → queueFull s x.press (2 + g.toNat) = false → openStream s f.ctx f.inst = none →
      goMode s f.ctx (2 + g.toNat) ≠ some (true, false) →
      exec (.gvGo m t g) s = .next (queued (2 + g.toNat) 0
        (.graverRun (goMode s f.ctx (2 + g.toNat) == some (true, true)) none (v.toNat % 65536)))) ∧
    (goMode s f.ctx (2 + g.toNat) = some (true, false) → queueFull s x.press (2 + g.toNat) = false → openStream s f.ctx f.inst = none →
      exec (.gvGo m t g) s = .next (enqueue { o.1 with nextId := o.1.nextId + 1 } x.press
        { newOp o.1.nextId f.ctx (2 + g.toNat) 0 (.graverRun true none 0)
            { o.2 with iter := streamStart x.image, runs := [(0, 1)], standing := false, sb := tokenBits f.p } with
          stream := streamPieces m f f.a })) ∧
    (hasWidths f .w64 .w64 .w64 → manyElems f = false →
      let j := (firedElems m f).headD 0
      let bytes := 64 * (n.toNat + 1)
      (queueFull s x.press 6 = false → exec (.cpGo m n t) s = .next (queued 6 0 (.copy (elemAt f.a j) (elemAt f.b j) bytes))) ∧
      (queueFull s x.press 7 = false → exec (.cpRem m n t) s = .next (queued 7 0 (.remoteCopy (elemAt f.a j) (elemAt f.b j) bytes)))) ∧
    ((∀ e ∈ (pressAt o.1 x.press).units, e.2.op.ctx = f.ctx → e.2.op.queue ≠ u) →
      exec (.mxUnbind m t unit) s = .next (answer o.1 o.2 0 .w32)) ∧
    ∀ k b, (pressAt o.1 x.press).units.find? (fun e => e.2.op.ctx == f.ctx && e.2.op.queue == u) = some (k, b) →
      exec (.mxUnbind m t unit) s = .next (pushEvOnce (modUnit o.1 x.press k fun v =>
        { v with unbinding := true, unbinders := v.unbinders ++ [o.2] }) (.mxFiring x.press k))

/-- R51 to R53, R243 to R247: an operation whose descriptor, tensors and vectors are read and legal is bound to its unit; where its tiles
are present and its output slot is Empty it fires, in a cycle of its tenancy, consuming its tiles; and a staged output without a bit that
Exception Enable catches is written to its Filling slot, which is Ready from then on, with its bits recorded. Here complete: MX_CONFIGURE,
MX_FIRING, EPILOGUE_WRITE. -/
def Obligations.MatrixOperations : Prop :=
  ∀ (s : State) (p u : Nat) (x : Ctx), x.frozen = none →
    (∀ (o : EngOp) (desc k q : Nat) (a c b : Ring), unitAt s p u = none →
      (runningOf s p u).find? (fun o => !o.held && !ctxFrozen s o.ctx && !o.stalled) = some o → opAt s o.id = some (q, o) → ctxAt s o.ctx = some x → o.kind = .matrix desc k → o.data.length = 1280 →
      let part := fun (off n : Nat) => (o.data.drop off).take n
      let d := fun (i : Nat) => tdtDbl (dblsOf (part 0 64)) i
      let ring := bitsOf (d 0) 61 60 = 1
      let path := bitsOf (d 0) 63 62
      let kt := bitsOf (d 0) 47 40
      let need := if path < 2 then kt else 2 * kt
      let tiles := mxPlate s x (bitsOf (d 0) 31 22) need
      let tb := dblsOf (part 128 64)
      mxDescBad (d 0) (d 1) ((dblsOf (part 0 64)).drop 4) = false →
      ringOf x (bitsOf (d 0) 59 56) = some a → ringOf x (bitsOf (d 0) 51 48) = some c → (ring → ringOf x (bitsOf (d 0) 55 52) = some b) →
      kt ≤ a.len → (ring → need ≤ b.len ∧ tdtBlocks tb = false) → (¬ ring → mxPlateBad tiles need path o.tid = false) →
      tdtCode (dblsOf (part 64 64)) = actCode path →
      exec (.mxConfigure p u) s = .next (mxBind s q u o
        { path := path, fromRing := bitsOf (d 0) 61 60 == 1, aring := bitsOf (d 0) 59 56, bring := bitsOf (d 0) 55 52,
          cring := bitsOf (d 0) 51 48, kt := kt, rows := bitsOf (d 0) 39 32 + 1, btile := bitsOf (d 0) 31 22, count := bitsOf (d 0) 21 0,
          otype := bitsOf (d 1) 63 60, fn := bitsOf (d 1) 59 57, bias := if bitsOf (d 1) 56 56 = 1 then wordsIn (part 256 512) else [],
          scale := if bitsOf (d 1) 55 55 = 1 then wordsIn (part 768 512) else [],
          base := if ring then tdtScale tb else ((tiles.head?).map fun t => signed 8 t.2.2.scale.toNat).getD 0,
          tid := o.tid, tdt := dblsOf (part 192 64) })) ∧
    ∀ b : MxBound, unitAt s p u = some b → ctxAt s b.op.ctx = some x →
      (∀ (q : List Nat × List Nat × Nat) (s1 s2 : State) (l : List (List Byte)) (es : List (Option (List Byte))),
        mxOwes b = true → mxSlots s x b.cfg = some q → mxPresent s x.group q = true → b.staging.length < 4 →
        (∀ k ∈ q.1 ++ q.2.1, slotReads s x.group k = false) → shareTurn s p x.ten = some s1 →
        tilesRead s1 x b.op.waive (q.1 ++ q.2.1) = .ok l →
        scalesRead s1 x b 0 (if b.cfg.fromRing || !d8Path b.cfg then [] else mxPlate s1 x b.cfg.btile b.cfg.kt) = (s2, .ok es) →
        exec (.mxFiring p u) s = .next (mxFire s2 p u b x q (l.take q.1.length) (l.drop q.1.length)
          (if es.isEmpty then List.replicate b.cfg.kt none else es))) ∧
      ∀ (t : Staged) (r : List Staged), b.staging = t :: r → t.own &&& x.eenable = 0 →
        (tileAt s x.group t.slot).state = 1 → (tileAt s x.group t.slot).ten.toNat = x.ten →
        exec (.epilogueWrite p u) s =
          let stored := sramFresh (slotWrite s x.group t.slot 0 t.bytes) (slotAddr x.group t.slot 0) 16384
          let full := slotState (sinkBits (offend stored x.group t.slot b.op.reply.inst 0 t.sb x.tag) b.op.ctx t.sb) x.group t.slot 2
          let written := modUnit full p u fun v => { v with staging := r, written := v.written + 1, op := { v.op with waive := none } }
          .next (pushEvOnce (if r.isEmpty then written else pushEvOnce written (.epilogueWrite p u)) (.mxFiring p u))

/-- R249 to R252: an affine configuration read and checked becomes the context's most recent one on its Graver and delivers the number of
its elements; a run takes it as it starts; and a loader delivers the elements of its next run as one token, then goes on, and behind the
last an EOS bounded by start + N. Here complete: GRAVER_STREAM. -/
def Obligations.GraverOperations : Prop :=
  ∀ (s : State) (id p : Nat) (o : EngOp) (x : Ctx), opAt s id = some (p, o) → ctxAt s o.ctx = some x → x.frozen = none →
    o.stalled = false →
    (∀ (desc : Nat) (s1 s2 : State) (bs : List Byte) (e : List Dbl), o.kind = .graverConfig desc false → o.pos = 0 →
      engFetch s x (opOwner o.id) desc 64 o.waive = (s1, .ok bs) → gvBad (dblsOf bs) false o.tid = false →
      tensorRead s1 x (opOwner o.id) o.tid = (s2, .ok e) →
      let c := gvConfig (dblsOf bs) e false o.tid
      (c.ringed = true → (ringOf x c.ring).isSome = true) →
      exec (.graverStream id) s = .next (settle (answer (opGone (gvMade s2 o c) p o) o.reply c.total .w32) o.ctx)) ∧
    (∀ (st : Bool) (start : Nat) (c : GvConfig), o.kind = .graverRun st none start → tabFind x.graver o.queue = some c →
      exec (.graverStream id) s = .next (opAgain (modOp (modCtx s o.ctx fun x => { x with graver := tabDrop x.graver o.queue }) p o.id
        fun o => { o with kind := .graverRun st (some c) start, tid := c.tid }) p o)) ∧
    ∀ (st : Bool) (start : Nat) (c : GvConfig) (s1 : State) (vals : List Nat) (e : Nat), o.kind = .graverRun st (some c) start →
      c.store = false → c.ringed = false → o.pos < e → vals ≠ [] →
      gvReads (min c.total ((o.pos / c.run + 1) * c.run) - o.pos) s x o c start o.pos = (s1, vals, e, .ok ()) →
      let send := fun (s : State) (t : Token) => sendTokens s o.ctx o.reply.inst 0 o.reply.targets t
      let o1 := { o with pos := e, data := [], waive := none }
      let data := o.data ++ vals.flatMap fun v => leBytes 8 (widen (tdtTy c.tdt) v)
      let sent := modOp (send s1 (freshToken (start + (o.pos - o.data.length / 8)) (dblsOf data) (memWidth (tdtTy c.tdt)) (tdtScaled c.tdt)
        o.reply.sb)) p o.id fun _ => o1
      exec (.graverStream id) s = .next (if e < c.total then opAgain sent p o1
        else settle (closeReply (send (opGone sent p o1)
          { freshToken 0 [BitVec.ofNat 64 ((start + c.total) % 65536)] .w32 false 0 with eos := true }) o.reply) o.ctx)

/-- R257 to R259: `plate.ld` asks its Group for a load, or joins one in progress, and refuses with code 0x203 a plate that is present and
with 0x217 a Group that is not ready; `plate.ev` marks a present plate for eviction, waits behind its load, or delivers 1; `plate.q`
delivers the status of a plate. Beside it, R24, R25, R94, R95, R217, R258: a load whose head has passed its checks takes the lowest Empty
slots of its Group into Filling as plate tiles once there are enough. When all of its image has come and every check word holds, it makes
the plate present with its tiles Ready if the digest and the signature hold, and fails with cause 0x201 otherwise; a granule of the header
or directory whose check word does not hold fails it with cause 0x385. A plate marked for eviction leaves once nothing uses it and no
admitted read of its slots is left: its slots are Empty and the evictors are answered 0. Here complete: PLATE_LD, PLATE_EV, PLATE_Q,
PLATE_LOAD_START, PLATE_LOAD_COMPLETE, PLATE_EVICTION_COMPLETE. -/
def Obligations.Plates : Prop :=
  (∀ (m : FireMode) (t u : Target) (v : Dbl) (s : State) (f : Firing) (x : Ctx), Acting m s f → ctxAt s f.ctx = some x →
     let o := openReply s m f [t, u]
     let num := (v.extractLsb' 48 16).toNat
     let image := (v.extractLsb' 0 42).toNat * 16384
     let g := if v.extractLsb' 42 1 = 1 then (v.extractLsb' 43 5).toNat else x.group
     let refuse := fun (cause : Nat) =>
       answer (tenRecord o.1 { faultRecord s x cause 0 { infoAt image 0 with inst := f.inst, iter := f.iter } with
         cls := 1, ntok := 0, items := [] }) o.2 cause .w32
     (oneValue f .w64 v →
       (groupReady s g = false → exec (.plateLd m t u) s = .next (refuse 0x217)) ∧
       (groupReady s g = true → loadOf s g x.ten num = none → plateHere s g x.ten num = true →
         exec (.plateLd m t u) s = .next (refuse 0x203)) ∧
       (groupReady s g = true → ((loadOf s g x.ten num).isSome = true ∨ plateHere s g x.ten num = false) →
         exec (.plateLd m t u) s = .next (askLoad o.1 g x.ten num image [] false [o.2]))) ∧
     ∀ w : Word, oneValue f .w32 (w.setWidth 64) → w.extractLsb' 22 10 = 0 →
       let num := (w.extractLsb' 0 16).toNat
       let g := if w.extractLsb' 21 1 = 1 then (w.extractLsb' 16 5).toNat else x.group
       ((plateAt s g x.ten num).isSome = true → exec (.plateEv m t u) s = .next (plateMark o.1 g x.ten num [o.2])) ∧
       (∀ l, plateAt s g x.ten num = none → loadOf s g x.ten num = some l →
         exec (.plateEv m t u) s = .next (modLoad o.1 g l.id fun l => { l with evictors := l.evictors ++ [o.2] })) ∧
       (plateAt s g x.ten num = none → loadOf s g x.ten num = none → exec (.plateEv m t u) s = .next (answer o.1 o.2 1 .w32)) ∧
       exec (.plateQ m t u) s = .next (sendPlain s m [t, u] f fun n =>
         freshToken 0 (List.replicate n (BitVec.ofNat 64 (plateStatus s g x.ten num))) .w64 false (inputBits f))) ∧
  (∀ (s : State) (g id : Nat) (l : Load), loadAt s g id = some l → l.slots = [] → l.running = true → l.head ≠ [] →
    l.tiles ≤ (emptySlots s g).length →
    let s1 := modLoad s g id fun _ => { l with running := true }
    let take := (emptySlots s1 g).take l.tiles
    exec (.plateLoadStart g id) s = .next (pushEv (modLoad (take.foldl (fun s k => watchShard
      (setTile s g k { tileReset with state := 1, ten := BitVec.ofNat 4 l.ten, tid := 2, pl := true }) 0 (1024 * g + k)) s1) g l.id fun l =>
        { l with slots := take, startedAt := s1.now }) (.plateLoadComplete g l.id))) ∧
  (∀ (s s1 : State) (g id : Nat) (l : Load) (rest : List Byte), loadAt s g id = some l → l.slots ≠ [] →
    let off := 256 + 16 * l.tiles
    imageRead s l off (tilesAt l.tiles + 16384 * l.tiles - off) = (s1, .ok rest) →
    (∀ aux a, imageSpoiled (dropRemote s1 (loadOwner id)) l 0 off = some (aux, a) → exec (.plateLoadComplete g id) s =
      .next (loadFails (dropRemote s1 (loadOwner id)) g l 0x385 aux a)) ∧
    (imageSpoiled (dropRemote s1 (loadOwner id)) l 0 off = none → imageSigned l (l.head.drop 256 ++ rest) = true → exec (.plateLoadComplete g id) s =
      .next (loadDone (dropRemote s1 (loadOwner id)) g l (rest.drop (tilesAt l.tiles - off)))) ∧
    (imageSpoiled (dropRemote s1 (loadOwner id)) l 0 off = none → imageSigned l (l.head.drop 256 ++ rest) = false → exec (.plateLoadComplete g id) s =
      .next (loadFails (dropRemote s1 (loadOwner id)) g l 0x201 0 l.image))) ∧
  ∀ (s : State) (g ten num : Nat) (p : Plate), plateAt s g ten num = some p → p.marked = true → plateBusy s g p = false →
    (∀ k ∈ p.slots, slotReads s g k = false) →
    let gone := modGroup s g fun q => { q with plates := q.plates.filter fun r => !(r.ten == ten && r.num == num) }
    exec (.plateEvictionComplete g ten num) s =
      .next (kickGroup (answerAll (p.slots.foldl (fun s k => slotEmptied s g k) gone) p.evictors 0) g)

/-- R18, R306 to R308: an emission whose packet has been read, is well formed, of its own tenancy and for a device or sink ring that
exists takes the device's word 2 and a new check word; `emit` and `emit.x` place it in the held area of the step, and `emit.t` sends it at
once to the home Walker or to its device, once the earlier accesses of its context are performed. The held forms deliver its length. Here
complete: EMIT, EMIT_T, EMIT_X. -/
def Obligations.Emissions : Prop :=
  ∀ (m : FireMode) (t u : Target) (s s1 s2 s3 s4 : State) (f : Firing) (x : Ctx) (w : StepRec) (a b : Token) (h bs : List Byte)
    (clock : Option (Nat × Nat × Nat)), Acting m s f → f.waive = none → f.done ≠ 1 → ctxAt s f.ctx = some x → f.a = some a → a.ew = .w64 →
    f.b = some b → b.ew = .w32 → manyElems f = false →
    let v := aFirst m f
    let y := bFirst m f
    let owner := emitOwner f.ctx f.inst
    v % 16 = 0 → emitReady s f.ctx x v = true → packetRead s x owner v 16 = (s1, .ok h) →
    packetRead s1 x (owner + 2 ^ 50) v ((stimLen h + 1) * 16) = (s2, .ok bs) →
    raceAccess s2 f.ctx (emitRace f v) true (engLines s2 x v bs.length .read) = .ok s3 →
    let kept := keepBytes f bs
    let raw := keptBytes kept
    let copy := emitStamp s4 raw
    let o := openReply s4 m kept [t, u]
    let st : Stim := { bytes := copy, clock := clock, card := none }
    stimTen raw = x.ten → stepAt s3 x.stp = some w → w.held.length < Config.heldArea →
    (∀ dest, stimBad (emitSeen false raw) = false → emitDest s3 false y = some dest →
      ctxRelease s3 f.ctx (if dest = deviceNumber s3 then 3 else 4) = (.ok s4, clock) →
      exec (.emit m t u) s = .next (answer (modStep o.1 x.stp fun q => { q with held := q.held ++ [⟨st, dest, none⟩] }) o.2 raw.length .w32) ∧
      (earlierDone s3 f.ctx (x.entry + 1) 0 (if dest = deviceNumber s3 then 3 else 4) = true →
        (dest = deviceNumber s3 →
          exec (.emitT m t u) s = .next (walkerPut o.1 2 x.ten (stimAgent copy) (some st) none (some o.2))) ∧
        ∀ l tag, dest ≠ deviceNumber s3 → linkTo s3 dest = some l → linkTo s4 dest = some l → freeXtag s3 ≠ none →
          freeXtag o.1 = some tag → exec (.emitT m t u) s = .next (sendFlits (addXfer o.1 tag dest f.ctx (.emitNow o.2 kept) 0 0 0) l
            (stimFlits s4 dest tag copy)))) ∧
    (stimBad (emitSeen true raw) = false → y < 8 → ctxRelease s3 f.ctx 4 = (.ok s4, clock) →
      exec (.emitX m t u) s = .next (answer (modStep o.1 x.stp fun q => { q with held := q.held ++ [⟨st, y, some y⟩] }) o.2 raw.length .w32))

/-- R106, R107, R309: each element of a `spawn` that fired asks its Press for a child. The oldest request of a context that is not frozen
takes a free spawn tag once the child's header is read and allows spawning, in a checked domain once an actor slot is free; and when
requests have waited Spawn Starve Cycles without a freed tag the oldest faults with cause 0x070 and the holders of the tags, and the count
restarts. Here complete: SPAWN, SPAWN_STARVE, SPAWN_START. -/
def Obligations.ChildrenAreSpawned : Prop :=
  (∀ (m : FireMode) (t : Target) (k : BitVec 14) (s : State) (f : Firing) (x : Ctx), Acting m s f → ctxAt s f.ctx = some x →
    hasWidths f .w32 .w32 .w32 →
    exec (.spawn m t k) s = .next (spawnKick (setSpawns s x.press (· ++ (firedElems m f).map fun j => (cutFiring f j 1, s.now))) x.press)) ∧
  (∀ (s s1 s2 : State) (p tag : Nat) (e : Firing × Nat) (x y : Ctx) (bs : List Byte) (rec : Option (Nat × Nat × Nat)),
    (pressAt s p).spawns.find? (fun e => !ctxFrozen s e.1.ctx) = some e → freeTag s p true = some tag → ctxAt s e.1.ctx = some x →
    e.1.waive = none → vaRead s (some (x.press, x.group)) (spawnOwner e.1.ctx) x.ten .exec (spawnAt x e.1).1 16 = (s1, .ok bs) →
    blkSpawn (wordsOf bs) = true → (∀ d, domOf s1 x.ten = some d → freeSlot s1 d ≠ none) → ctxRelease s1 e.1.ctx 1 = (.ok s2, rec) → ctxAt s2 e.1.ctx = some y →
    exec (.spawnStart p) s = .next (spawnKick (childStart (setSpawns s2 p (dropFirst fun d => d.1 == e.1)) y e.1 tag
      (spawnAt x e.1).1 (spawnAt x e.1).2 rec) p)) ∧
  ∀ (s : State) (p : Nat) (e : Firing × Nat) (r : List (Firing × Nat)) (x : Ctx), (pressAt s p).spawns = e :: r → ctxAt s e.1.ctx = some x →
    csrBits s 0x307 30 0 ≤ cyclesOf (starvedFor s p) →
    exec (.spawnStarve p) s = .next (pushEvOnce (takeFault (starveRestart s p) e.1.ctx 0x070
      { noInfo with inst := e.1.inst, iter := e.1.iter, word := (wordFor x.image e.1.inst e.1.iter).1, ntok := (spawnHolders s p).length,
                    items := (spawnHolders s p).take 8 } none) (.spawnStarve p))

/-- R311 to R313: `rest` keeps the members that it names for the commit; `bind`, `hint` and `aq` send what their words say to the home
Walker of an agent of their tenancy. Here complete: REST, BIND, HINT, AQ. -/
def Obligations.RestAndAgentRequests : Prop :=
  ∀ (m : FireMode) (t u : Target) (s : State) (f : Firing) (x : Ctx), Acting m s f → ctxAt s f.ctx = some x →
    let o := openReply s m f [t, u]
    let asks := fun (i : Instr) (agent : Nat) (op : AgentOp) =>
      exec i s = .next (walkerPut o.1 2 x.ten agent none (some (op, o.2)) none)
    (∀ ms, ms = (if m = .always then List.range (memberCount s x) else (firedElems m f).map fun j => (f.iter + j) % 65536) →
      ms ≠ [] → (∀ k, (h : k < ms.length) → ms[k] < memberCount s x ∧ ms[k] ∉ x.rests ++ ms.take k) → exec (.rest m) s =
        .next (modCtx (modCtx s f.ctx fun x => { x with rests := x.rests ++ ms }) f.ctx fun y => { y with esum := y.esum ||| inputBits f })) ∧
    (∀ w : Word, ∀ b : Token, f.a.map (fun t => (t.ew, t.vals)) = some (.w32, [w.setWidth 64]) → f.len = 1 → manyElems f = false →
      f.b = some b → b.ew = .w32 → w.extractLsb' 28 4 = 0 → bitsOf (bFirst m f) 31 16 = 0 →
      asks (.bind m t u) (w.extractLsb' 0 28).toNat (.bind (bitsOf (bFirst m f) 15 0))) ∧
    ∀ v : Dbl, oneValue f .w64 v →
      (v.extractLsb' 40 24 = 0 → v.extractLsb' 28 5 = 0 → asks (.hint m t u) (v.extractLsb' 0 28).toNat
        (.hint (v.extractLsb' 39 1 == 1) (v.extractLsb' 38 1 == 1) (v.extractLsb' 33 5).toNat)) ∧
      (v.extractLsb' 63 1 = 0 → v.extractLsb' 28 33 = 0 → asks (.aq m t u) (v.extractLsb' 0 28).toNat
        (.query (v.extractLsb' 62 1 == 1) (v.extractLsb' 61 1 == 1)))

/-- R304, R314 to R316: where its elements name one cohort whose home can be reached and its checks pass, a cohort instruction sends its
operation to the home, an arrival (`cbar` and `cred`) once the earlier accesses of its context are performed and with its release. Beside
it, R314 to R318: the oldest operation at its home is applied. A new member joins at the end and one that leaves gives its place to the
last, which delivers the number of members; the status of a query is delivered; an arrival while others are to come is recorded in the
round and delivers the generation; and with the last member's the round ends, its combined value goes to every member and the generation
rises. Here complete: JOIN, LEAVE, CBAR, CQ, CRED_ADD_I32, CRED_ADD_F32, CRED_MAX_I32, CRED_MAX_F32, CRED_MIN_I32, CRED_MIN_F32,
COHORT_OP_AT_HOME. -/
def Obligations.CohortOperations : Prop :=
  (∀ (m : FireMode) (t u : Target) (s s1 : State) (f : Firing) (x : Ctx) (c : Option (Nat × Nat × Nat)), Acting m s f →
     ctxAt s f.ctx = some x → x.frozen = none → f.waive = none →
     let word := elemAt f.a ((firedElems m f).headD 0)
     let home := cohHome s word
     cohPieces (fun j => cohHome s (elemAt f.a j) * 4096 + bitsOf (elemAt f.a j) 11 0) (firedElems m f) = [(0, f.len)] →
     (home ≠ deviceNumber s → linkTo s home ≠ none ∧ freeXtag s ≠ none) →
     let sends := fun (s1 : State) (i : Instr) (xop : Nat) => cohFault s m f x xop = none → exec i s =
       let o := openReply s1 m f [t, u]
       .next (cohSend { o.1 with nextId := o.1.nextId + 1 }
         { id := o.1.nextId, dev := deviceNumber s, ten := x.ten, xop := xop, agents := (firedElems m f).map fun j => cohAgent (elemAt f.a j),
           vals := (firedElems m f).map fun j => BitVec.ofNat 32 (elemAt f.b j), sb := inputBits f, coh := bitsOf word 11 0,
           ch := bitsOf word 48 46, reply := some o.2, firing := some f, waive := none, xtag := 0 } home x.entry)
     (sends s (.join m t u) 0 ∧ sends s (.leave m t u) 1 ∧ sends s (.cq m t u) 3) ∧
     (arrivalReady s f.ctx x (if home = deviceNumber s then 3 else 4) = true →
       ctxRelease s f.ctx (if home = deviceNumber s then 3 else 4) = (.ok s1, c) →
       sends s1 (.cbar m t u) 2 ∧ sends s1 (.credAddI32 m t u) 8 ∧ sends s1 (.credAddF32 m t u) 9 ∧ sends s1 (.credMaxI32 m t u) 10 ∧
       sends s1 (.credMaxF32 m t u) 11 ∧ sends s1 (.credMinI32 m t u) 12 ∧ sends s1 (.credMinF32 m t u) 13)) ∧
  ∀ (s : State) (op : CohortOp) (agent : Nat) (v : Word), s.cohortOps.find? (fun o => o.dev != deviceNumber s || o.xtag == 0) = some op →
    op.dev = deviceNumber s → op.agents = [agent] → op.vals = [v] →
    let s1 := { s with cohortOps := s.cohortOps.filter fun o => o.id != op.id }
    let c := cohortAt s op.coh
    let r := c.round.getD { xop := op.xop, arrived := [] }
    let l := r.arrived ++ [(cohKey op.dev agent, v, op.sb)]
    cohRefuses s1 op = none →
    (op.xop = 0 → c.members ≠ [] → (op.dev, agent) ∉ c.members → c.members.length < 65536 → exec .cohortOpAtHome s =
      .next (cohAnswered (setCohort s1 op.coh { c with members := c.members ++ [(op.dev, agent)] }) op (c.members.length + 1))) ∧
    (op.xop = 1 → (op.dev, agent) ∈ c.members → 2 ≤ c.members.length → c.round = none → exec .cohortOpAtHome s =
      .next (cohAnswered (setCohort s1 op.coh { c with members := cohLeave c.members (op.dev, agent) }) op (c.members.length - 1))) ∧
    (op.xop = 3 → exec .cohortOpAtHome s = .next (cohAnswered s1 op (cohStatus c))) ∧
    ((op.xop = 2 ∨ 8 ≤ op.xop) → r.xop = op.xop → (op.dev, agent) ∈ c.members → (∀ e ∈ r.arrived, e.1 ≠ cohKey op.dev agent) →
      let c1 := { c with round := some { r with arrived := l } }
      ((∃ k ∈ c.members, ∀ e ∈ l, e.1 ≠ cohKey k.1 k.2) → exec .cohortOpAtHome s =
        .next (cohAnswered (setCohort s1 op.coh c1) op c.gen.toNat)) ∧
      ((∀ k ∈ c.members, ∃ e ∈ l, e.1 = cohKey k.1 k.2) →
        let all := cohFold op.xop (c.members.filterMap fun m => (l.find? fun a => a.1 == cohKey m.1 m.2).map fun a => (a.2.1.toNat, a.2.2))
        exec .cohortOpAtHome s = .next (cohAnswered (c.members.foldl (fun s m =>
          releaseStim s 4 c.ten m.1 { bytes := cohStim s op.coh c1 op.xop m.2 all, clock := none, card := none })
          (setCohort (setCohort s1 op.coh c1) op.coh { c1 with gen := c.gen + 1, round := none })) op c.gen.toNat)))

/-- R268 to R270, R319: a legal request of a permitted tenancy becomes pending with the wavelengths that it asks for; `lease.give` and, of
a supervisor, `lease.rev` begin to drop the LIVE wavelengths of highest j; `lease.q` delivers the status of its neighbour. The arbiter
serves the pending requests in their order; a peer's ask is granted what Lit Budget allows, lowest j first, which begins to lock at both
ends; and for a request past Lease Age Limit, where that is armed, wavelengths of the neighbour with most surplus are dropped. Here
complete: LEASE_REQ, LEASE_GIVE, LEASE_REV, LEASE_Q, LEASE_ARBITRATE, LEASE_AGE_EXPIRY, LEASE. -/
def Obligations.Leases : Prop :=
  (∀ (m : FireMode) (t u : Target) (v : Dbl) (s : State) (f : Firing) (x : Ctx), Acting m s f → oneValue f .w32 v → ctxAt s f.ctx = some x →
    let o := openReply s m f [t, u]
    let nbr := bitsOf v.toNat 7 0
    let k := bitsOf v.toNat 31 20
    (reqIllegal s v.toNat = false → csrBits s 0x0F8 (16 + x.ten) (16 + x.ten) = 1 → exec (.leaseReq m t u) s =
      .next (pushEvOnce (pushEvOnce { o.1 with leases := o.1.leases ++ [⟨o.1.nextId, o.2, f, nbr, k, 0, false, false, o.1.now⟩],
                                               nextId := o.1.nextId + 1 } .leaseArbitrate) .leaseAgeExpiry)) ∧
    (giveIllegal s v.toNat = false → csrBits s 0x0F8 (16 + x.ten) (16 + x.ten) = 1 →
      exec (.leaseGive m t u) s = .next (leaseDrop o.1 nbr k (some o.2))) ∧
    (giveIllegal s v.toNat = false → supervisor s x = true → exec (.leaseRev m t u) s = .next (leaseDrop o.1 nbr k (some o.2))) ∧
    (bitsOf v.toNat 31 8 = 0 → exec (.leaseQ m t u) s = .next (answer o.1 o.2 (leaseStatus s nbr) .w64))) ∧
  (∀ s : State, fabricState s = 1 → exec .leaseArbitrate s = .next (s.leases.foldl leaseServe s)) ∧
  (∀ (s : State) (n : Nat) (g : Flit), pilotOk s n g = true → payNat g 0 4 = 1 →
    let js := ((maskWaves (fabricOf s) n (BitVec.ofNat 64 (payNat g 8 8))).filter fun j => waveAt s j == .dark).take (litRoom s)
    let m := waveMask (fabricOf s) n fun j => js.contains j
    let s1 := pushEvs (modLink (setWaves s js .locking) n fun l => { l with grow := l.grow ||| m }) (js.map .wavelengthLocked)
    exec (.lease n g) s = .next (sendPilot s1 n 0x12 (leasePayload 2 (litCount s1) m))) ∧
  ∀ (s : State) (q : LeaseReq) (n k : Nat), s.leases.find? (fun q => decide (csrBits s 0x375 31 0 < s.now - q.since)) = some q →
    mostSurplus s = some (n, k) → csrBits s 0x3D8 4 4 = 1 → fabricState s = 1 → (∀ r ∈ s.retires, r.reply.isSome = true) →
    (∀ w ∈ s.waves, w.2 ≠ .retiring) →
    exec .leaseAgeExpiry s = .next (leaseDrop (pushEvOnce s .leaseAgeExpiry) n (min q.owes k) none)

/-- R263, R267, R274, R278, R285: a granted wavelength that locks, its ELS and optical engine ready, is noted, and the link restripes once
all have; a retiring one goes DARK; a FAILED one whose light is back is DARK, with event 0x331. Lost wavelengths, those seen dark or all
that a failed ELS feeds, are FAILED; the peer is told of those that were LOCKING; the link takes its pilot's loss, or a loss while
restriping is not armed, as its end, and otherwise restripes without them. A request to restripe is answered and takes effect once every
wavelength that joins has locked at this end too, as does the answer to one; and once the lanes are realigned what is unacknowledged is
replayed. Here complete: WAVELENGTH_LOCKED, WAVELENGTH_DARK, LIGHT_RESTORED, RESTRIPE, LOSS_OF_LIGHT, REALIGN_COMPLETE. -/
def Obligations.WavelengthsAndStripes : Prop :=
  (∀ (s : State) (j : Nat), let n := waveNbr s j
    (waveAt s j = .locking → (linkAt s n).grow &&& waveBit s j ≠ 0 → waveReady s j = true → exec (.wavelengthLocked j) s =
      .next (stripeNext (modLink s n fun l => { l with locked := l.locked ||| waveBit s j }) n)) ∧
    (waveAt s j = .retiring → exec (.wavelengthDark j) s = .next (litFell (setWave s j .dark))) ∧
    (waveAt s j = .failed →
      let s1 := setWave s j .dark
      let t := pfEvent s1 (linkRec s1 0x331 n 0 (dataWaves s1 n).length none (waveBit s1 j) (linkAt s1 n).live)
      exec (.lightRestored j) s = .next (if t.leases = [] then t else pushEvOnce t .leaseArbitrate))) ∧
  (∀ (s : State) (n : Nat) (lost : Dbl) (els : Option Nat), nbrLive s n = true → (linkAt s n).down = false →
    let f := fabricOf s
    let dark := match els with
      | none => maskWaves f n lost
      | some e => (nbrWaves f n).filter (elsFeeds e)
    let js := dark.filter fun j => waveAt s j == .locking || waveAt s j == .live || waveAt s j == .retiring
    let mask := fun (p : Nat → Bool) => waveMask f n fun j => js.contains j && p j
    let m := mask fun _ => true
    let told := mask fun j => waveAt s j == .locking
    let gone := mask fun j => waveAt s j != .locking
    let s0 := modLink (setWaves s js .failed) n fun l => { l with grow := l.grow &&& ~~~m, locked := l.locked &&& ~~~m }
    let s1 := if told = 0 then s0 else sendPilot s0 n 0x12 (leasePayload 4 (litCount s0) told)
    let carried := ∃ j ∈ js, waveAt s j ≠ .locking
    let pilot := ∃ j ∈ js, nbrPilot f n = some j
    js ≠ [] →
    (pilot ∨ carried ∧ csrBits s 0x3D8 0 0 = 0 → exec (.lossOfLight n lost els) s = .next (litFell (retiresDone (linkDown s1 n m els)))) ∧
    (¬ pilot → ¬ carried → exec (.lossOfLight n lost els) s = .next (stripeNext (litFell s1) n)) ∧
    (¬ pilot → carried → csrBits s 0x3D8 0 0 = 1 → exec (.lossOfLight n lost els) s =
      .next (retiresDone (stripeNext (litFell (modLink s1 n fun l => { l with lost := l.lost ++ [(gone, els)], stopped := true })) n)))) ∧
  (∀ (s : State) (n : Nat) (g : Flit), pilotOk s n g = true →
    let epoch := payNat g 0 4
    let first := payNat g 4 4
    let live := BitVec.ofNat 64 (payNat g 8 8)
    let lost := BitVec.ofNat 64 (payNat g 16 8)
    let l := linkAcked (linkAt s n) s.now (BitVec.ofNat 24 (payNat g 24 8))
    (l.asked = none → lockOwed s n live = false → exec (.restripe n g) s = .next (stripeSwitch
      (sendPilot (setLink s n l) n 0x11 (stripePayload epoch (BitVec.ofNat 24 first) live lost l.expect)) n epoch live lost first)) ∧
    (l.asked = none → lockOwed s n live = true → exec (.restripe n g) s = .next (pushEvOnce (setLink s n l) (.restripe n g))) ∧
    ∀ els, l.asked = some (live, els, lost) →
      exec (.restripe n g) s = .next (stripeSwitch (setLink s n l) n epoch live lost first)) ∧
  ∀ (s : State) (n : Nat), (linkAt s n).stopped = true → (linkAt s n).down = false → (linkAt s n).asked = none →
    exec (.realignComplete n) s = .next (linkPump (linkReplay (setLink s n { linkAt s n with stopped := false }) n) n)

/-- R119, R123 to R128, R140, R141: an image that has been fetched is placed where a region or the Placement Cache holds it, or goes to
the Mapper of its die, which accepts it or faults; a context takes the free region used least recently; with the last PE configured its
block has started. A token that arrives waits or fires its instruction; the Placement Cache is emptied on a flush; and a block that has
run for Block Watch cycles without a commit stops with cause 0x040, its waiting tokens but for the standing ones in the record. Here
complete: BLOCK_FETCH, REGION_ACQUIRE, MAPPER_PLACE, CONFIG_PACKET_COMPLETE, TOKEN_ARRIVAL, BLOCK_WATCH_EXPIRY, PLACEMENT_CACHE_FLUSH. -/
def Obligations.LifeOfABlock : Prop :=
  ∀ (s : State) (c : Nat) (x : Ctx), ctxAt s c = some x → x.frozen = none →
    (∀ s1 img, x.phase = .fetching → fetchImage s (some (x.press, x.group)) c x.ten x.block = (s1, .ok img) →
      (∀ r, regionWith s1 x.press img = some r → exec (.blockFetch c) s = .next (joinRegion s1 c { x with image := img } r)) ∧
      (regionWith s1 x.press img = none → (∃ e ∈ (groupAt s1 x.group).cache, placedAs s1 img e = true) → exec (.blockFetch c) s =
        .next (pushEv (cachePut (setCtx s1 c { x with image := img, phase := .wantsRegion }) x.group img) (.regionAcquire c))) ∧
      (regionWith s1 x.press img = none → (∀ e ∈ (groupAt s1 x.group).cache, placedAs s1 img e = false) → exec (.blockFetch c) s =
        .next (pushEv (ctxCount (setCtx s1 c { x with image := img, phase := .placing }) c 0x003 1) (.mapperPlace c)))) ∧
    (x.phase = .placing → readyBit s (378 + x.group / 8) = true →
      (mapperCheck x.image x.block = none → exec (.mapperPlace c) s =
        .next (pushEv (cachePut (setCtx s c { x with phase := .wantsRegion }) x.group x.image) (.regionAcquire c))) ∧
      ∀ r, mapperCheck x.image x.block = some r → exec (.mapperPlace c) s = .next (takeFault (setCtx s c { x with phase := .fetching }) c r.cause
        { noInfo with inst := r.inst, word := r.word, aux := BitVec.ofNat 64 r.target, block := x.block } (some (.event (.blockFetch c))))) ∧
    (∀ r, x.phase = .wantsRegion → regionWith s x.press x.image = none → regionFree s x.press = some r → exec (.regionAcquire c) s =
      .next (pushEvs (setCtx (useRegion s x.press r x.image) c { x with region := some r, phase := .configuring })
        ((List.range (blkCount x.image)).map (.configPacketComplete c)))) ∧
    (∀ inst, x.phase = .configuring → inst ∉ x.configured → exec (.configPacketComplete c inst) s =
      .next (if x.configured.length + 1 < blkCount x.image then peStarts s c inst else blockStarted (peStarts s c inst) c)) ∧
    (∀ t, x.begun = [] → exec (.tokenArrival c t) s = .next (settle (arriveToken s c x t) c)) ∧
    (x.phase = .running → x.watch ≠ 0 → x.watch ≤ cyclesOf (s.now - x.startedAt) → commitReady s c = false →
      let waits := (ctxWaiting x).filter fun t => !t.standing
      exec (.blockWatchExpiry c) s =
      .next (takeFault (setCtx s c { x with watch := 0 }) c 0x040
        { noInfo with ntok := waits.length, aux := BitVec.ofNat 64 (watchAux x),
                      items := (waits.take 8).map fun t => BitVec.ofNat 64 (tokenDouble x.tag (ctxPlane x) true t) } none)) ∧
    ∃ t, exec .placementCacheFlush s = .next t ∧ ∀ g ∈ t.groups, g.2.cache = []

/-- R128, R129, R320: a block that may commit leaves its G and base registers as its writes say, and its context goes to the successor
that its exit chose, or to its end. A `trap` sets Trap Handler Active, keeps its number and the successor in Trap Return Address, and the
context goes to the trap block; `tret` clears Trap Handler Active and the context goes where Trap Return Address says; an address there
that is not legal faults with cause 0x044. Here complete: COMMIT. -/
def Obligations.CommitsTrapsAndReturns : Prop :=
  ∀ (s : State) (c : Nat) (x : Ctx) (e : ExitFired) (r : List ExitFired), ctxAt s c = some x → commitReady s c = true → x.exits = e :: r →
    x.rests = [] →
    let s1 := ctxCount s c 0x002 1
    let ends : Dbl := 0xFFFFFFFFFFFFFFFF
    let normal := e.dest.getD ends.toNat
    let leaves := fun (y : Ctx) (dest : Nat) => ∀ z, ctxAt s1 c = some z →
      let after := { clearEntry { z with g := commitG y, b := commitB y, th := y.th, tnum := y.tnum, tra := y.tra, entry := y.entry + 1 } with
                     region := y.region }
      exec (.commit c) s = .next (turnWake (if dest = ends.toNat then pushEvOnce (setCtx s1 c { after with phase := .ending }) (.retirement y.stp)
        else pushEv (setCtx s1 c { clearEntry after with block := dest, phase := .fetching }) (.blockFetch c)) y.press y.region)
    (x.divert = none → leaves x normal) ∧
    (∀ n, x.divert = some (.trap n) →
      leaves { x with th := true, tnum := n, tra := BitVec.ofNat 64 normal } (bitsOf (csrGet s (0x480 + x.ten)).toNat 55 4 * 16)) ∧
    (x.divert = some .tret → x.tra = ends → leaves { x with th := false } ends.toNat) ∧
    (x.divert = some .tret → x.tra.extractLsb' 56 8 = 0 → x.tra.extractLsb' 0 4 = 0 → leaves { x with th := false } x.tra.toNat) ∧
    (x.divert = some .tret → x.tra ≠ ends → (x.tra.extractLsb' 56 8 ≠ 0 ∨ x.tra.extractLsb' 0 4 ≠ 0) → exec (.commit c) s =
      .next (takeFault (setCtx s c { x with divert := some .tretAny }) c 0x044 { noInfo with addr := x.tra } (some (.event (.commit c)))))

/-- R20, R310, R326, R390, R391: once everything of a step's root is performed and no child is left, the step retires: its held stimuli go
out in their order, then the completions of its members, the plate is released, and its members' entries may act again. `abort` ends its
step at once with a record of cause 0x245 and each head stimulus back at its agent, or quarantined. Beside it, R76, R363, R367, R368: the
disposition of a record that is not done, whose context is frozen with it, resumes that context or aborts its step, and the record is
done. Stimuli, records and quarantined stimuli that waited for a ring are written in their order while there is room. Here complete:
EGRESS_DRAIN, RETIREMENT, DISPOSITION_RESUME, DISPOSITION_ABORT, FAULT_RING_FLUSH, QUARANTINE_FLUSH, EVENT_RING_FLUSH. -/
def Obligations.StepsEndAndDispositions : Prop :=
  ((∀ (s : State) (stp : Nat) (r : StepRec) (x : Ctx), stepAt s stp = some r → ctxAt s r.root = some x → endReady s r.root x = true →
     (∀ e ∈ s.ctxs, e.2.stp = stp → e.1 = r.root ∧ e.2.spawned = false) → faultStims r = [] →
     let s1 := r.held.foldl (fun s h => match h.sink with
       | none => releaseStim s 2 r.ten h.dev h.stim
       | some j => sinkPut s r.ten j h.stim) (modStep s stp fun q => { q with retiring := true })
     let s2 := r.members.foldl (fun s m => sendCompletions s m.stim.bytes) s1
     let s3 := ctxEnds (plateRelease s2 r.group r.ten r.plate r.members.length) r.root
     let s4 := devCount { s3 with steps := tabDrop s3.steps stp } 0x204 (s3.now - r.admittedAt)
     let t := kickGroup (r.members.foldl (fun s m => cardRetired (entryTouch (modEntry s r.group r.ten m.agent fun e =>
       { e with steps := (e.steps + 1) % 2 ^ 63, inFlight := false }) r.group r.ten m.agent) m.stim.card) s4) r.group
     exec (.retirement stp) s =
       .next (if t.ctxs.any fun e => e.2.stp == stp && e.2.phase == .ending then pushEvOnce t (.retirement stp) else t)) ∧
   ∀ (m : FireMode) (q : Bool) (s : State) (f : Firing) (x : Ctx), Acting m s f → ctxAt s f.ctx = some x →
     exec (.abort m q) s = .next (abortStep s x.stp q 0
       (some { faultRecord s x 0x245 0 { fireInfo f with inst := f.inst } with cls := 1, ntok := 0, items := [] }))) ∧
  (∀ (s : State) (ten seq : Nat) (mask : Dbl) (r : FaultRec) (x : Ctx) (z : Frozen), tabFind s.records (2 ^ 24 * ten + seq) = some r →
    r.done = false → ctxAt s r.ctx = some x → x.frozen = some z → z.seq = seq → x.refreeze = none →
    let s1 := { s with records := tabPut s.records (2 ^ 24 * ten + seq) { r with done := true } }
    exec (.dispositionResume ten seq) s = .next (thaw s1 r.ctx) ∧
    exec (.dispositionAbort ten seq mask) s = .next (abortStep s1 x.stp false mask.toNat none)) ∧
  ∀ s : State,
    (∀ ten ring st rest, egressAt s (8 * ten + ring) = st :: rest → ringRoom (ringAt s (8 * ten + ring)) = true →
      exec (.egressDrain ten ring) s = .next (sinkFlush 63 (sinkWrite (setEgress s (8 * ten + ring) rest) ten ring st) ten ring)) ∧
    exec .eventRingFlush s = .next ((List.range 17).foldl (fun s f => eventFlush 64 s f) s) ∧
    exec .faultRingFlush s =
      (let t := (List.range 16).foldl (fun s t => faultFlush 64 s t) s
      .next (if t.faultWait.isEmpty then t else pushEvOnce t .faultRingFlush)) ∧
    exec .quarantineFlush s =
      (let t := (List.range 16).foldl (fun s t => quarFlush (quarQueue s t).length s t) s
      .next (if t.quarWait.isEmpty then t else pushEvOnce t .quarantineFlush))

/-- R325, R371 to R374: `preempt` drains a context of its tenancy, or of any for a supervisor, and a preempt request the context that the
register names. A drained context stops at its marker; once what it had issued is complete it is saved in the lowest free Proof slot. A
Proof that is not held goes back once a tag, a region and its window words are free; the hold ends on a release. Here complete: PREEMPT,
PREEMPT_REQUEST, DRAIN_CUT_COMPLETE, PROOF_RELEASE, PROOF_RESTORE. -/
def Obligations.PreemptionAndProofs : Prop :=
  (∀ (m : FireMode) (v : Dbl) (s : State) (f : Firing) (x y : Ctx) (c : Nat), Acting m s f → oneValue f .w32 v → ctxAt s f.ctx = some x →
    preemptNames s f.ctx v.toNat = some c → ctxAt s c = some y → (y.ten = x.ten ∨ supervisor s x = true) → csrBits s 0x3DA 0 0 = 1 →
    y.drain = none → y.phase ≠ .ending → proofRoom s = true →
    ∃ t, exec (.preempt m) s = .next t ∧ (ctxAt t c).map (·.drain) = some (some false) ∧
      t.queue.contains (.event (.drainCutComplete c)) = true ∧ sameMemory s t) ∧
  (∀ (s : State) (c : Nat), ctxNamed s (csrBits s 0x3DB 23 16) (csrBits s 0x3DB 15 8) = some c →
    exec .preemptRequest s = .next (drainStart s c (csrBits s 0x3DB 62 62 == 1))) ∧
  (∀ (s : State) (c slot : Nat) (x : Ctx) (hold : Bool), ctxAt s c = some x → x.drain = some hold → x.tag < 256 → x.phase ≠ .ending →
    freeProof s = some slot →
    (x.frozen ≠ some drainStop → exec (.drainCutComplete c) s =
      .next (pushEvOnce (drainStops s c x) (.drainCutComplete c))) ∧
    (x.frozen = some drainStop → cutWaits s c = false → exec (.drainCutComplete c) s = .next (cutDone s c slot x hold))) ∧
  (∀ (s : State) (slot tag region : Nat) (p : Proof) (x : Ctx), tabFind s.proofs slot = some p → p.hold = false → ctxAt s p.ctx = some x →
    freeTag s x.press x.spawned = some tag → regionFree s x.press = some region → wordsHeld s x.press + p.words ≤ Config.laneWords →
    exec (.proofRestore slot) s = .next (restored s p.ctx slot tag x)) ∧
  ∀ (s : State) (p : Proof), tabFind s.proofs (csrBits s 0x3DC 7 0) = some p →
    exec .proofRelease s = .next (pushEvOnce { s with proofs := tabPut s.proofs (csrBits s 0x3DC 7 0) { p with hold := false } }
      (.proofRestore (csrBits s 0x3DC 7 0)))

/-- R21, R85 to R91, R93, R313: a ready home Walker takes the arrival at the head of its list: a stimulus for an awake agent joins its
on-chip queue, where that has room and nothing is behind in memory; and a query delivers the entry's state. A refill brings the next
queued stimulus on chip; an entry that has lacked a party for longer than its delay is demoted; a decided move and a held promotion are
tried until they are made. Here complete: STIMULUS_ARRIVAL, PROMOTION_RETRY, QUEUE_REFILL, DEMOTION, ENTRY_MOVE, AGENT_OP_AT_WALKER. -/
def Obligations.Walkers : Prop :=
  (∀ (s : State) (w g : Nat) (a : Arrival) (rest : List Arrival) (st : Stim) (e : Entry), walkerReady s w = true →
    arrivalsAt s w = a :: rest → a.stim = some st → a.ack = none → a.peer = none → stimBad st.bytes = false → readyGroups s ≠ [] →
    (portfolioLog s (stimTen st.bytes)).isSome = true → stimKind st.bytes ≠ 0xF0 → entryOf s (stimTen st.bytes) (stimAgent st.bytes) = some (g, e) → e.hq = false → e.queue.length < 8 →
    stimUsed s g < Config.stimulusSlots → stimOk st.bytes = true →
    exec (.stimulusArrival w) s = .next (dropArrival (entryTouch (modEntry (devCount s 0x200 1) g e.ten e.agent fun e =>
      { e with queue := e.queue ++ [st] }) g e.ten e.agent) w a)) ∧
  (∀ (s : State) (w : Nat) (a : Arrival) (rest : List Arrival) (r : Reply), walkerReady s w = true → arrivalsAt s w = a :: rest →
    a.op = some (.query false false, r) → exec (.agentOpAtWalker w) s =
      .next (dropArrival (settle (answer s r (probeDouble s a.ten a.agent) .w64) r.ctx) w a)) ∧
  (∀ (s : State) (ten agent g : Nat) (e : Entry), entryOf s ten agent = some (g, e) →
    (∀ s1 bs, e.hq = true → e.stuck = false → e.queue.length < 8 → stimUsed s g < Config.stimulusSlots →
      unitRead s (agentOwner ten agent) ten (slotVa e e.qhead) 256 = (s1, .ok bs) → exec (.queueRefill ten agent) s =
        (let r := fromSlot s1 e e.qhead bs
        .next (pushEvOnce (entryTouch (joinQueue (modEntry r.1 g ten agent fun e =>
          { e with qhead := e.qhead + 1, hq := e.qhead + 1 != e.qtail }) g e r.2) g ten agent) (.queueRefill ten agent)))) ∧
    (∀ t delay s1, e.lacksSince = some (t, delay) → delay < s.now - t → demote s g e = (s1, some true) →
      exec (.demotion ten agent) s = .next s1) ∧
    ∀ h d, entryOf (tryMove s g ten agent) ten agent = some (h, d) → exec (.entryMove ten agent) s =
      (let t := tryMove s g ten agent
      .next (if d.moveTo.isSome then pushEvOnce t (.entryMove ten agent) else t))) ∧
  ∀ s : State, exec .promotionRetry s = (let t := retryPromotions s s.promotions
    .next (if t.promotions.any (·.held) then pushEvOnce t .promotionRetry else t))

/-- R90, R97 to R99, R103: a probe clears DONE, makes the clears that its key asks for, and leaves the entry's state, SEQ and routine in
the probe results; and at an Age Tick each entry that waits ages by the boundaries passed, to 255. Here complete: PROBE, PROBE_CLEAR,
PROBE_UNBLOCK, PROBE_RESULT, AGE_TICK. -/
def Obligations.ProbesAndAge : Prop :=
  ∀ s : State,
    let ten := csrBits s 0x310 35 32
    let agent := csrBits s 0x310 27 0
    exec .probe s = .next (pushEv (csrPoke s 0x311 63 63 0) (if csrBits s 0x310 62 62 = 1 then .probeClear
      else if csrBits s 0x310 61 61 = 1 then .probeUnblock else .probeResult)) ∧
    (∀ g e, entryOf s ten agent = some (g, e) → exec .probeClear s = .next (pushEv (modEntry s g ten agent fun e =>
      { e with age := 0, overdue := false, agedTo := ageBoundaries s }) (if csrBits s 0x310 61 61 = 1 then .probeUnblock else .probeResult))) ∧
    (∀ g e, entryOf s ten agent = some (g, e) → e.hq = false → exec .probeUnblock s =
      .next (pushEv (entryTouch (modEntry s g ten agent fun e => { e with blocked := false, stuck := false }) g ten agent) .probeResult)) ∧
    (∀ g e st r, entryOf s ten agent = some (g, e) → e.queue = st :: r → exec .probeResult s =
      .next (csrSet (csrSet (csrSet s 0x311 (BitVec.ofNat 64 (probeDouble s ten agent))) 0x312 (BitVec.ofNat 64 (e.seq.toNat * 2 ^ 32)))
        0x313 (BitVec.ofNat 64 (routineOf e st)))) ∧
    (∀ g e, (s.groups.flatMap fun q => (q.2.entries.filter (·.waiting)).map fun e => (q.1, e)) = [(g, e)] →
      entryIn s g e.ten e.agent = some e → e.waiting = true → e.overdue = false →
      let n := ageBoundaries s - e.agedTo
      let aged := fun (o : Bool) => modEntry s g e.ten e.agent fun d => { d with age := min 255 (e.age + n), agedTo := ageBoundaries s, overdue := d.overdue || o }
      let late := 0 < n ∧ csrBits s 0x301 7 0 ≤ min 255 (e.age + n)
      exec .ageTick s =
        let t := if late then overdueActions (aged true) g e.ten e.agent else aged false
        .next (if (t.groups.flatMap fun q => (q.2.entries.filter (·.waiting)).map fun e => (q.1, e)) = [] then t
          else pushEvOnce t .ageTick))

/-- R22, R30, R78, R100 to R102, R105, R108: after the open impressions that are due have closed, the best ready entry of a ready Group
joins an open impression of its key, or opens one; an impression closes when its batch window ends; a closed one is admitted to the Press
with most free tags, with its members' heads in the window; the shadow Share Table becomes the live one once the step count has wrapped
since it was written; and a Scheduler with fewer than 64 waiting entries deals its chunk of the oldest card. Here complete:
IMPRESSION_GATHER, BATCH_WINDOW_EXPIRY, ADMISSION, SHARE_TABLE_SWAP, CARD_DEAL. -/
def Obligations.GroupSchedulers : Prop :=
  (∀ (s : State) (g : Nat) (e : Entry) (st : Stim) (rest : List Stim),
    let s0 := closeDue (askPlates s g) g
    bestEntry ((groupAt s0 g).entries.filter (entryReady s0 g)) = some e → e.queue = st :: rest → groupReady s0 g = true →
    let goes := fun (s1 : State) => exec (.impressionGather g) s =
      .next (if (groupAt s1 g).entries.filter (entryReady s1 g) = [] then s1 else kickGroup s1 g)
    let mine := ((groupAt s0 g).imps.filter fun i => !i.closed).find? fun i => i.ten == e.ten && i.plate == e.plate &&
      i.routine == routineOf e st && i.ch == entryCh e && i.headsz == e.headsz
    (∀ i, mine = some i → goes (joinImp s0 g i e)) ∧
    (mine = none → ((groupAt s0 g).imps.filter fun i => !i.closed).length < Config.openImpressions → goes (openImp s0 g e (routineOf e st)))) ∧
  (∀ (s : State) (g id : Nat) (i : Imp), impAt s g id = some i → i.closed = false → i.due ≤ s.now →
    exec (.batchWindowExpiry g id) s = .next (closeImp s g id)) ∧
  (∀ (s s1 : State) (g p tag : Nat) (i : Imp) (l : List (Entry × List Byte)), csrBits s 0x323 0 0 = 1 → groupReady s g = true →
    closedImps s g = [i] → choosePress s g i.words = some p → freeTag s p false = some tag → (plateAt s g i.ten i.plate).isSome = true →
    stageHeads s g i i.members = (s1, some l) → exec (.admission g) s =
      (let t := admitTo s1 g i p tag l
      .next (if (groupAt t g).imps.any (·.closed) then pushEvOnce t (.admission g) else t))) ∧
  (∀ (s : State) (p : Nat), (pressAt s p).shareAt / 64 < cycleNow s / 64 →
    exec (.shareTableSwap p) s = .next (modPress s p fun q => { q with shareLive := q.shareShadow })) ∧
  ∀ (s : State) (g : Nat) (c : Card), s.cards.find? (fun c => decide (c.next < c.count)) = some c → groupReady s g = true →
    ((groupAt s g).entries.filter (·.waiting)).length < 64 → exec (.cardDeal g) s =
      (let t := cardEnds (dealRecords (max 1 ((c.count - c.next + 63) / 64)) s c.id) c.id
      .next (if t.cards.any fun c => decide (c.next < c.count) then pushEvOnce t (.cardDeal g) else t))

/-- R77, R79, R80: RESET_BOOT with valid firmware has every unit tested and the Presses powered up from Press 0, and with firmware that is
not valid leaves cause 0x3E0; a test that passes sets the unit's ready bit, one that fails its failed bit, with cause 0x3E1. A Press
starts at least 500 ns after the one before, and is tested at least 64 cycles after its start. Beside it, R18, R70 to R73, R78: through a
link that is up a binding begins a new stream with its counts at zero; PROD publishes up to the free slots, and other writes of it are
refused with cause 0x3D0 or 0x3D1; a published stimulus, stamped by the port, goes to its home Walker once the writes at peers that it
acquires are performed, and a malformed one is refused with cause 0x212. Here complete: RESET_BOOT, SELF_TEST_DONE, PRESS_POWER_UP,
MATRIX_RAMP_DONE, PORT_BINDING_WRITE, PROD_WRITE, INGRESS_ACCEPT. -/
def Obligations.BringUpAndIngressPorts : Prop :=
  (∀ s : State,
     (csrBits s 0x0F1 63 63 = 0 →
       (Config.firmwareVerifies = true → exec .resetBoot s = .next (pushEv (pushEvs (csrPoke s 0x0F1 63 63 1)
         ((List.range 134).map fun k => .selfTestDone (256 + k) (Config.selfTestPasses (256 + k)))) (.pressPowerUp 0))) ∧
       (Config.firmwareVerifies = false → exec .resetBoot s = .next (csrPoke (csrPoke s 0x0F1 63 63 1) 0x0F1 9 0 0x3E0))) ∧
     (csrBits s 0x0F1 9 0 = 0 →
       (csrBits s 0x0F1 63 63 = 1 → ∀ bit, bit < 390 → s.ready.getLsbD bit = false → s.failed.getLsbD bit = false → (bit < 256 → bit ∈ s.ramped) →
         (∃ t, exec (.selfTestDone bit true) s = .next t ∧ t.ready = s.ready ||| (1#512 <<< bit) ∧ t.failed = s.failed) ∧
         exec (.selfTestDone bit false) s =
           .next (pfEvent { s with failed := s.failed ||| (1#512 <<< bit) } { recOf 0x3E1 with addr := bit })) ∧
       (∀ p, p < 256 → (p = 0 ∨ s.wakeAt + 500 ≤ s.now) → exec (.pressPowerUp p) s = .next { s with
         wakeAt := s.now
         queue := s.queue ++ [.event (.matrixRampDone p)] ++ if p < 255 then [.event (.pressPowerUp (p + 1))] else [] }) ∧
       ∀ p, p < 256 → p ∉ s.ramped → 64 ≤ cyclesOf (s.now - s.wakeAt) → exec (.matrixRampDone p) s = .next { s with
         ramped := s.ramped ++ [p]
         queue := s.queue ++ [.event (.selfTestDone p (Config.selfTestPasses p))] })) ∧
  ∀ (s : State) (port : Nat), port < 4096 →
    let p := portAt s port
    (∀ link v, hostUp s link = true → p.published = [] → exec (.portBindingWrite link port v) s = .next (setPort s port { p with
      b0 := v &&& 0xFF0000010000FFFF, prod := 0, cons := 0, routine := none, fetching := [], published := [] })) ∧
    (∀ func link v n, hostUp s link = true → portMine p func = true → 0 < n → n + (p.prod - p.cons).toNat ≤ 8 → v.toNat % 2 ^ 32 = (p.prod.toNat + n) % 2 ^ 32 →
      exec (.prodWrite func link port v) s = .next (pushEvs (setPort s port { p with
        prod := BitVec.ofNat 32 v.toNat
        published := p.published ++ (List.range n).map fun k => { bytes := portSlot p (p.prod.toNat + k), link := link,
                                                                  tags := (s.xfers.filter (hostWriting link)).map (·.xtag) } }) (List.replicate n (.ingressAccept port)))) ∧
    (∀ func link v, hostUp s link = true → portMine p func = false → exec (.prodWrite func link port v) s =
      .next (eventSend s func { recOf 0x3D0 with ten := portTen p, addr := 4096 * port + 0x800, aux := link + 2 * func })) ∧
    (∀ func link v, hostUp s link = true → portMine p func = true → v.toNat % 2 ^ 32 = p.prod.toNat → exec (.prodWrite func link port v) s =
      .next (eventSend s func { recOf 0x3D1 with ten := portTen p, addr := 4096 * port + 0x800, aux := link + 2 * func })) ∧
    ∀ raw rest, p.fetching = [] → p.published = raw :: rest → readyGroups s ≠ [] → (∀ t ∈ s.xfers, t.xtag ∉ raw.tags) →
      let bs := ingressStamp s p raw.bytes
      let st : Stim := { bytes := bs, clock := none, card := none }
      let took := { p with published := rest, cons := p.cons + 1 }
      walkerReady s (homeWalker s (stimTen bs) (stimAgent bs)) = true →
      (stimBad bs = false → exec (.ingressAccept port) s =
        .next (walkerTakes (if stimO bs then prefetch (setPort s port took) port took bs else setPort s port took)
          { cls := 1, rank := 4096 * raw.link + port, order := cycleNow s, ten := stimTen bs, agent := stimAgent bs, stim := some st,
            op := none, ack := none, peer := none })) ∧
      (stimBad bs = true → exec (.ingressAccept port) s =
        .next (refuseStim (setPort s port { took with refused := p.refused + 1 }) st 0x212 (stimTen bs)
          (stimAgent bs) (4096 * port) 0))

/-- R68, R69, R71, R82: while a link is up, a write through W4 puts its bytes in the parts of memory that its function's address names,
for the PF at W4BASE plus their offset, and a read is answered with the bytes there; an access past the end of HBM is refused with cause
0x3D3, and a read then aborts. A write to W2 by the PF writes the CSR of its offset, and one by a VF the tenancy registers of its own and
no other; the PF, or the function whose ring it is, writes a ring register; the PF alone writes the nonce, asks for a report, writes and
locks keys and binds ports; each function writes its W4BASE, and the owner of a port its slots and PROD in W0. Beside it, R82, R83: a
Plate Key Table slot takes the doubles of its key and its valid bit until the table is locked; then a write is discarded with cause 0x3D3.
A report that is asked for takes the nonce, and when it is done holds the nonce, the firmware's digest, the key table's SHA-256, the
failed bits, the serial number and the identity key's signature of these. Here complete: REGISTER_WRITE, W4_WRITE, W4_READ,
KEY_SLOT_WRITE, KEY_TABLE_LOCK, ATTESTATION_REQUEST, ATTESTATION_COMPLETE. -/
def Obligations.HostWindowsKeysAndAttestation : Prop :=
  (∀ (s : State) (link : Nat), hostUp s link = true →
     (∀ func addr bytes l, w4Spots s func (w4Base s func + addr) bytes.length .write = .ok l → spotsCan s (tagsFree s) l = .ok () →
       partialBad s l = none → exec (.w4Write func link addr bytes) s =
         .next (spotsWrite (w4Mark s func .write l) none 0 (hostOwner func link) (func - 1) bytes l).1) ∧
     (∀ func addr n l s1 bs, readWaits s func link addr n = false → w4Spots s func (w4Base s func + addr) n .read = .ok l →
       (∀ e ∈ l, e.1.mode = 0 → hbmBad s e.1.pa e.2.2 = none) → remoteFail s (hostOwner func link) = none →
       spotsRead (w4Mark s func .read l) (hostOwner func link) l = (s1, .ok bs) →
       exec (.w4Read func link addr n) s = .next (readEnds s1 func link (.read bs))) ∧
     (∀ addr,
       let at' := w4Base s 0 + addr
       (∀ bytes, at' + bytes.length ≤ Config.hbmBytes → stackReady s at' = true →
         (∀ g ∈ granules at' bytes.length, g ∉ wholeGranules at' bytes.length → 2 * g ∉ s.spoiled) →
         exec (.w4Write 0 link addr bytes) s = .next (hbmFresh (hbmWrite s at' bytes) at' bytes.length)) ∧
       (∀ n, at' + n ≤ Config.hbmBytes → stackReady s at' = true → hbmBad s at' n = none → remoteFail s (hostOwner 0 link) = none →
         readWaits s 0 link addr n = false → ∃ t, exec (.w4Read 0 link addr n) s = .next t ∧
           t.hostOut = s.hostOut ++ [.read (hbmRead s at' n)] ∧ sameMemory s t) ∧
       (∀ bytes, Config.hbmBytes < at' + bytes.length → exec (.w4Write 0 link addr bytes) s =
         .next (eventSend s 0 { recOf 0x3D3 with addr := at', aux := link })) ∧
       ∀ n, Config.hbmBytes < at' + n → readWaits s 0 link addr n = false → exec (.w4Read 0 link addr n) s =
         .next (readEnds (eventSend s 0 { recOf 0x3D3 with addr := at', aux := link }) 0 link .abort)) ∧
     (∀ v,
       let own := fun (w : Window) (func off : Nat) (mine : Prop) (t : State) =>
         (mine → exec (.registerWrite w func link off v) s = .next t) ∧ (¬ mine → exec (.registerWrite w func link off v) s = .next s)
       (∀ func num, num < 0x1000 →
         own .w2 func (8 * num) (func = 0 ∨ 0x400 + 8 * (func - 1) ≤ num ∧ num < 0x408 + 8 * (func - 1) ∨ num = 0x480 + (func - 1))
           (csrWrite s num v)) ∧
       (∀ func f d, f < 17 → d < 4 → own .w2 func (0x20000 + 0x20 * f + 8 * d) (func = 0 ∨ func = f) (ringWrite s (128 + f) d link v)) ∧
       (∀ func t e d, t < 16 → e < 8 → d < 4 →
         own .w2 func (0x30000 + 0x100 * t + 0x20 * e + 8 * d) (func = 0 ∨ func = t + 1) (ringWrite s (8 * t + e) d link v)) ∧
       (∀ func d, d < 4 → own .w2 func (0x40000 + 8 * d) (func = 0) { s with attest := memWrite s.attest (8 * d) (leBytes 8 v.toNat) }) ∧
       (∀ func, own .w2 func 0x40020 (func = 0 ∧ v = 1) (attestAsk s)) ∧
       (∀ func slot d, slot < 8 → d < 16 → own .w2 func (0x50000 + 0x80 * slot + 8 * d) (func = 0) (keyWrite s link slot (8 * d) v)) ∧
       (∀ func, own .w2 func 0x50400 (func = 0 ∧ v.getLsbD 0 = true) { s with keyLock := true }) ∧
       (∀ func port, port < 4096 → own .w2 func (0x100000 + 16 * port) (func = 0) (bindPort s link port v) ∧
         own .w2 func (0x100000 + 16 * port + 8) (func = 0) (setPort s port { portAt s port with b1 := v &&& 0x00FFFFFFFFFFC000 })) ∧
       (∀ func, own .w2 func 0x7FF000 True
         { s with w4base := tabSet (fun _ => 0) s.w4base func (v &&& 0x00FFFFFFC0000000) }) ∧
       ∀ func port, port < 4096 →
         exec (.registerWrite .w0 func link (4096 * port + 0x800) v) s = .next (publish s func link port v) ∧
         ∀ o, o < 0x800 → o % 8 = 0 → portMine (portAt s port) func = true →
           exec (.registerWrite .w0 func link (4096 * port + o) v) s = .next (setPort s port { portAt s port with
             slots := memWrite (portAt s port).slots o (leBytes 8 v.toNat) }))) ∧
  ∀ s : State,
    (∀ link slot off v, link < 2 → hostUp s link = true → slot < 8 →
      let q := tabGet (fun _ => keyReset) s.keys slot
      (s.keyLock = true → exec (.keySlotWrite (8 * link + slot) off v) s =
        .next (eventSend s 0 { recOf 0x3D3 with addr := 0x50000 + 0x80 * slot + off, aux := link })) ∧
      (s.keyLock = false → off < 64 → exec (.keySlotWrite (8 * link + slot) off v) s =
        .next { s with keys := tabSet (fun _ => keyReset) s.keys slot { q with bytes := memWrite q.bytes off (leBytes 8 v.toNat) } }) ∧
      (s.keyLock = false → off = 64 → exec (.keySlotWrite (8 * link + slot) off v) s =
        .next { s with keys := tabSet (fun _ => keyReset) s.keys slot { q with valid := v.getLsbD 0 } })) ∧
    (booted s = true → exec .keyTableLock s = .next { s with keyLock := true } ∧
      exec .attestationRequest s = .next (pushEvOnce { s with
        attest := memWrite s.attest 0x1000 (memRead s.attest 0 32), attestStatus := 1 } .attestationComplete)) ∧
    (s.attestStatus = 1 →
      let body := memRead s.attest 0x1000 32 ++ (List.range 32).map Config.firmwareDigest ++ sha256 (keyTableBytes s) ++
        leBytes 64 s.failed.toNat ++ (List.range 16).map Config.deviceSerial
      exec .attestationComplete s = .next { s with
        attest := memWrite s.attest 0x100 (padTo 256 (body ++ attestSign body)), attestStatus := 2 })

/-- R332, R336, R337, R344: a change of mode makes a domain busy until its metadata is cleared, after which no tag of the carve-out is
valid for the domain; the first context that waits for an actor slot starts as the actor of the lowest free one; a swept slot's release
records read zero, and its clock starts anew; and in a new microsecond the record budgets begin anew. Beside it, R378, R392 to R395: an
object that has made no progress for the Shard Watch's time is reported once with cause 0x387; a sweep adds a live count to its total, or
keeps the greater of a gauge's, and clears it; the trace starts anew from an empty buffer; and a reading that rises above its limit is
kept, counted and reported with cause 0x3E2. Here complete: SHARD_WATCH_EXPIRY, DOMAIN_MODE_ENABLE, METADATA_CLEAR_DONE,
ACTOR_SLOT_ACQUIRE, SLOT_SWEEP, RACE_BUDGET_INTERVAL, COUNTER_SWEEP, TRACE_RESTART, MONITOR_LIMIT_CROSS. -/
def Obligations.RaceCheckerAndMonitors : Prop :=
  (∀ s : State,
     (∀ d, d < 4 → exec (.domainModeEnable d) s = .next (pushEvOnce (csrPoke s (0x3A8 + 8 * d) 61 61 1) (.metadataClearDone d))) ∧
     (∀ d, d < 4 → raceAreas s = true → memWf s.hbm = true → ∃ t, exec (.metadataClearDone d) s = .next t ∧ memWf t.hbm = true ∧
       ∀ i w, i < metaSets s → w < 8 → bitsOf (hbmDbl t (metaSet s i + 8 * w)) 63 63 = 1 →
         bitsOf (hbmDbl t (metaSet s i + 8 * w)) 62 61 ≠ d) ∧
     (∀ c x d k, s.slotWait = [c] → ctxAt s c = some x → domOf s x.ten = some d → x.actor = none → freeSlot s d = some k →
       exec .actorSlotAcquire s = .next (startActor { s with slotWait := [] } c d k (wakeRecords s x d))) ∧
     (∀ d k, d < 4 → k < 256 → raceAreas s = true → memWf s.hbm = true → ∃ t, exec (.slotSweep d k) s = .next t ∧ memWf t.hbm = true ∧
       (∀ a, recordAt s d k 0 ≤ a → a < recordAt s d k 0 + 65536 → hbmByte t a = 0)) ∧
     (s.now / 1000 ≠ s.raceMicro → exec .raceBudgetInterval s = .next { s with raceBudget := [], raceMicro := s.now / 1000 }) ∧
     (s.now / 1000 = s.raceMicro → s.raceBudget ≠ [] → exec .raceBudgetInterval s = .next (pushEvOnce s .raceBudgetInterval))) ∧
  ∀ s : State,
    (∀ h kind obj ten addr, s.shards.find? (fun h => h.kind == kind && h.obj == obj) = some h →
      shardStalls s kind obj = some (ten, addr) → csrBits s 0x3D9 31 0 ≠ 0 → h.told = false →
      max 1000 (min (10 ^ 9) (csrBits s 0x3D9 31 0)) ≤ s.now - h.since →
      let s1 := { s with shards := mapWhere (fun g => g.kind == kind && g.obj == obj) (fun g => { g with told := true }) s.shards }
      exec (.shardWatchExpiry kind obj) s = .next (pushEvOnce (match ten with
        | some t => tenRecord s1 { recOf 0x387 with addr := addr, ten := t }
        | none => pfEvent s1 { recOf 0x387 with addr := addr }) (.shardWatchExpiry kind obj))) ∧
    (csrBits s 0x3F0 0 0 = 1 →
      (∀ c e, eventListed e = true → devEvent e = true →
        let live := tabGet (fun _ => 0) s.devCounts e
        let total := hbmDbl s (devTotalAt s e)
        exec (.counterSweep c e) s = .next (hbmPutDbl { s with devCounts := tabDrop s.devCounts e } (devTotalAt s e)
          (if isGauge e then max total live else (total + live) % 2 ^ 64))) ∧
      ∀ c e x, eventListed e = true → devEvent e = false → ctxAt s c = some x → exec (.counterSweep c e) s =
        .next (setCtx s c { x with
          counts := tabDrop x.counts e
          totals := tabSet (fun _ => 0) x.totals e ((tabGet (fun _ => 0) x.totals e + tabGet (fun _ => 0) x.counts e) % 2 ^ 64) })) ∧
    exec .traceRestart s = .next { csrPoke s 0x3F2 31 0 0 with traceLast := none } ∧
    ∀ power temp : BitVec 16,
      let s1 := csrPoke (csrPoke s 0x3F5 47 32 power.toNat) 0x3F5 15 0 temp.toNat
      (power.toNat ≤ csrBits s 0x3F6 47 32 → temp.toNat ≤ csrBits s 0x3F6 15 0 → exec (.monitorLimitCross power temp) s = .next s1) ∧
      (csrBits s 0x3F5 47 32 ≤ csrBits s 0x3F6 47 32 → csrBits s 0x3F6 47 32 < power.toNat → temp.toNat ≤ csrBits s 0x3F6 15 0 →
        exec (.monitorLimitCross power temp) s =
          .next (pfEvent (devCount s1 0x20A 1) { recOf 0x3E2 with aux := power.toNat * 2 ^ 32 + temp.toNat }))

/-- R265, R266, R282: a valid Fabric Image is loaded in state 0, with its pilots lit, and is taken for the next fabric in state 1, whose
affected neighbours drain; one that is not valid leaves ERR 0x340, and an operation out of its state ERR 0x341 with an event. Once the
pilots have locked the fabric runs; once the neighbours have drained the new image may be resumed, and resuming takes it. Beside it, R283,
R284: a descriptor that is not broken begins a distribution of its plate to its chain, and a broken one leaves 0x350; the result of a
device is written back to its entry of the descriptor, and with the last of them the distribution is done. Here complete: FABRIC_LOAD,
FABRIC_RECONFIGURE, FABRIC_RESUME, PILOTS_LOCKED, RECONF_DRAIN_DONE, DISTRIBUTION_START, DISTRIBUTION_REPORT. -/
def Obligations.FabricImagesAndDistribution : Prop :=
  (∀ s : State,
     let base := csrBits s 0x370 47 12 * 4096
     let f := fabricImage s base
     let refused := Host.Outcome.next (pfEvent (csrPoke s 0x371 9 0 0x341) { recOf 0x341 with aux := fabricState s })
     (fabricState s ≠ 0 → exec .fabricLoad s = refused) ∧
     (fabricState s ≠ 1 → exec .fabricReconfigure s = refused) ∧
     (fabricState s ≠ 3 → exec .fabricResume s = refused) ∧
     (base + 0x15000 ≤ Config.hbmBytes → stackReady s base = true → hbmBad s base 0x15000 = none →
       (imageBad s base f = true → fabricState s = 0 → exec .fabricLoad s = .next (csrPoke s 0x371 9 0 0x340)) ∧
       (imageBad s base f = false → fabricState s = 0 → exec .fabricLoad s =
         .next (pushEvOnce ((imageNbrs f).foldl (fun s n => lightPilot f s n 0)
           { csrPoke s 0x371 9 0 0 with fabric := some f, waves := [], links := [] }) .pilotsLocked)) ∧
       (imageBad s base f = false → fabricState s = 1 → ∃ t, exec .fabricReconfigure s = .next t ∧ fabricState t = 2 ∧
         t.fabric = s.fabric ∧ t.nextFabric = some f ∧ t.queue.contains (.event .reconfDrainDone) = true)) ∧
     (s.fabric ≠ none → (fabricState s = 0 ∨ fabricState s = 4) →
       (∀ n ∈ nbrNums s, (linkAt s n).held = true → ∀ j, nbrPilot (fabricOf s) n = some j →
           waveAt s j = .locking ∧ waveReady s j = true ∨ waveAt s j = .live) →
       ∃ t, exec .pilotsLocked s = .next t ∧ fabricState t = 1 ∧ t.queue.contains (.event .linkctlBeacon) = true) ∧
     (fabricState s = 2 → (∀ n ∈ nbrNums s, (linkAt s n).held = true → (linkAt s n).down = true ∨
       (linkAt s n).drained = true ∧ (linkAt s n).replay = []) → ∃ t, exec .reconfDrainDone s = .next t ∧ fabricState t = 3) ∧
     ∀ g, fabricState s = 3 → s.nextFabric = some g →
       (∃ t, exec .fabricResume s = .next t ∧ t.queue.contains (.event .pilotsLocked) = true) ∧
       (nbrsChanged (fabricOf s) g = [] → exec .fabricResume s =
         .next (pushEvOnce (leaseGone (csrPoke { s with fabric := some g, nextFabric := none } 0x371 60 58 4)) .pilotsLocked))) ∧
  ∀ s : State,
    let pa := csrBits s 0x378 47 6 * 64
    let d := hbmRead s pa 1088
    let s0 := csrPoke (csrPoke { s with dist := none } 0x379 62 62 0) 0x379 9 0 0
    (stackReady s pa = true → hbmBad s pa 64 = none →
      (distBroken s d = true → exec .distributionStart s = .next (csrPoke s0 0x379 9 0 0x350)) ∧
      (distBroken s d = false → exec .distributionStart s = .next (distPump { s0 with dist := some {
        desc := pa, src := headNat d 0 8, chunks := headNat d 8 8 / 65536, next := 0, sent := false
        ten := bitsOf (headNat d 16 8) 3 0, num := bitsOf (headNat d 16 8) 31 16
        chain := (chunksOf 16 (bitsOf (headNat d 16 8) 39 32) (d.drop 64)).map fun e => (headNat e 0 8, none) } }))) ∧
    ∀ r e res, s.dist = some r → r.chain = [(e, none)] → exec (.distributionReport (chainDev e) res) s =
      .next (csrPoke { hbmPutDbl s (r.desc + 0x48) (2 ^ 63 + res % 1024) with dist := none } 0x379 62 62 1)

/-- R276, R277, R279: a flit of a virtual channel whose CRC and SEQ are as expected, and for which a buffer is free, is taken: the link
expects the next SEQ and answers with a LINKCTL; another is discarded. A flit for another device keeps its buffer and is forwarded by this
device's routes. Beside it, R272, R276, R277, R282: a LINKCTL frees what it acknowledges and what it makes room for is sent; a link whose
oldest flit has waited for the Replay Timeout sends all it holds again, or goes down at the limit; a beacon goes out every 256 ns; a DRAIN
is answered, and its answer is what a reconfiguration waits for; and a flit of a reserved type is discarded and counted. Here complete:
LINKCTL, DRAIN, FLIT_TRANSIT, REPLAY_TIMEOUT, LINKCTL_BEACON, RESERVED_TYPE_FLIT. -/
def Obligations.LinksTakeAndKeepFlits : Prop :=
  (∀ (s : State) (n : Nat) (f : Flit),
     let l := linkAt s n
     let taken := sendLinkctl (setLink s n { l with
       expect := l.expect + 1
       freedOut := tabSet (fun _ => 0) l.freedOut (flitVc f) (tabGet (fun _ => 0) l.freedOut (flitVc f) + 0) }) n
     let good := nbrLive s n = true ∧ l.down = false ∧ flitCrc f = f.crc ∧ f.seq = l.expect ∧ buffersTaken s n (flitVc f) < 512
     f.dst.toNat ≠ deviceNumber s →
     ∀ mk ∈ [Instr.write, Instr.data, Instr.loadreq, Instr.loadrsp, Instr.amoreq, Instr.amorsp, Instr.ack, Instr.nak, Instr.stim, Instr.plate,
         Instr.flitTransit],
       (good → exec (mk n f) s = .next (forwardFlit taken f (some (n, flitVc f)))) ∧ (¬ good → exec (mk n f) s = .next s)) ∧
  ∀ (s : State) (n : Nat) (f : Flit),
    let l := linkAt s n
    (nbrLive s n = true → l.down = false → flitCrc f = f.crc →
      exec (.linkctl n f) s = .next (linkPump (setLink s n ((List.range 8).foldl (freedTake f)
        (linkAcked l s.now (BitVec.ofNat 24 (payNat f 0 4))))) n) ∧
      (payNat f 0 4 = 1 → exec (.drain n f) s = .next (setLink s n { l with drained := true })) ∧
      (payNat f 0 4 ≠ 1 → exec (.drain n f) s = .next (sendPilot s n 0x13 (drainPayload true))) ∧
      exec (.reservedTypeFlit n true f) s = .next (setLink s n { l with discards := l.discards + 1 })) ∧
    (∀ s1, linkTake s n f = some s1 → pilotKind f = false → f.dst.toNat = deviceNumber s →
      exec (.reservedTypeFlit n false f) s = .next (setLink s1 n { linkAt s1 n with discards := (linkAt s1 n).discards + 1 })) ∧
    (linksUp s = [n] → l.replay ≠ [] → l.stopped = false → l.asked = none → csrBits s 0x376 31 16 ≤ s.now - l.lastAck →
      exec .replayTimeout s = .next (
        let t := linkReplay s n
        if (linksUp t).any fun m => !(linkAt t m).replay.isEmpty then pushEvOnce t .replayTimeout else t)) ∧
    (linksUp s = [n] → 256 ≤ s.now - l.beacon → linksUp (sendLinkctl s n) = [n] →
      exec .linkctlBeacon s = .next (pushEvOnce (sendLinkctl s n) .linkctlBeacon))

/-- R69, R272, R273, R280, R284: at their target a WRITE within the window puts its bytes and is acknowledged *acc* and *vis*, a longer
one with the last of its DATA; a LOADREQ is answered with the bytes there and an AMOREQ with the old value, after the new one is written,
or joins the cohort operations once its flits are here; a request outside the window is refused with cause 0x302. A STIM reaches its home
Walker with its last flit, and the last flit of a chunk's header begins its transfer. Here complete: WRITE, DATA, LOADREQ, AMOREQ, STIM,
PLATE. -/
def Obligations.FlitsAtTheirTarget : Prop :=
  ∀ (s s1 : State) (n : Nat) (f : Flit), linkTake s n f = some s1 → f.dst.toNat = deviceNumber s →
    let pa := payNat f 0 8
    let total := payNat f 8 4 % 2 ^ 17
    let rel := (payNat f 12 4).testBit 2
    let through := fun (s : State) (kind pa len : Nat) (writes stores sync rel : Bool) =>
      proxyAccess s n (peerRace kind pa writes stores sync) rel pa len
    (stackReady s pa = true →
      (∀ bs, total ≤ 112 → ((padTo 128 f.payload).drop 16).take total = bs →
        (windowOk s1 pa bs.length = false → exec (.write n f) s = .next (sendNak s1 f 0x302)) ∧
        (∀ s2 s3, windowOk s1 pa bs.length = true → mergePut s1 pa bs = .ok s2 →
          mergePut (through s1 (if rel then 5 else 1) pa bs.length true true rel (rel && (payNat f 12 4).testBit 3)) pa bs = .ok s3 →
          exec (.write n f) s = .next (sendAck (sendAck s3 f false) f true))) ∧
      (112 < total → exec (.write n f) s = .next (inBegin s1 n f pa total (payNat f 12 4 % 16) [])) ∧
      (∀ len, payNat f 8 4 = len →
        ((len = 0 ∨ 128 < len ∨ windowOk s1 pa len = false) → exec (.loadreq n f) s = .next (sendNak s1 f 0x302)) ∧
        (0 < len → len ≤ 128 → windowOk s1 pa len = true →
          let s2 := through s1 (if rel then 4 else 0) pa len false false rel false
          hbmBad s2 pa len = none → exec (.loadreq n f) s = .next (sendAnswer s2 f 0x04 (hbmRead s2 pa len)))) ∧
      (∀ k len, inAt s f = none → bitsOf (payNat f 8 4) 31 31 = 0 → amoAsked f = some (k, len) → windowOk s1 pa len = true →
        hbmBad s1 pa len = none →
        let old := leNat (hbmRead s1 pa len)
        let new := amoResult k (BitVec.ofNat 5 (bitsOf (payNat f 8 8) 13 9)) len old (payNat f 16 8) (payNat f 24 8)
        let s2 := through s1 (if 24 < f.payload.length then 3 else 2) pa len true new.isSome true (amoReleases f)
        exec (.amoreq n f) s = .next (sendAnswer (match new with
          | none => s2
          | some v => hbmWrite s2 pa (leBytes len v)) f 0x06 (leBytes 8 old)))) ∧
    (∀ x, inAt s f = some x → stackReady s x.pa = true → f.idx.toNat * 128 = x.got.length → x.flags.toNat < 2 ^ 31 →
      exec (.data n f) s = .next (if x.got.length + f.payload.length < x.total then inMore s1 f f.payload
        else peerWrite (dropIn s1 f) n f x.pa x.flags.toNat ((x.got ++ f.payload).take x.total))) ∧
    (inAt s f = none → inAt s1 f = none → bitsOf (payNat f 8 4) 31 31 = 1 → exec (.amoreq n f) s = .next (
      if cohortTotal f ≤ 128 then peerCohort s1 f f.payload else inBegin s1 n f 0 (cohortTotal f) 0 f.payload)) ∧
    (∀ x, inAt s f = some x → inAt s1 f = some x → exec (.amoreq n f) s = .next (
      if x.got.length + f.payload.length < x.total then inMore s1 f f.payload else peerCohort (dropIn s1 f) f (x.got ++ f.payload))) ∧
    (inAt s1 f = none →
      let long := (stimLen f.payload + 1) * 16
      (long = f.payload.length → exec (.stim n f) s = .next (peerStim s1 f f.payload)) ∧
      (f.idx = 0 → f.payload.length < long → exec (.stim n f) s = .next (inBegin s1 n f 0 long 0 f.payload))) ∧
    (∀ x, inAt s1 f = some x → exec (.stim n f) s = .next (if x.got.length + f.payload.length < x.total then inMore s1 f f.payload
      else peerStim (dropIn s1 f) f ((x.got ++ f.payload).take x.total))) ∧
    (f.idx = 0 → bitsOf (headNat f.payload 0 8) 40 34 = 0 → exec (.plate n f) s =
      .next (pushEv s1 (.distributionReport (headNat f.payload 8 4) (headNat f.payload 12 4)))) ∧
    (let key := arrivalKey f.src.toNat f.xtag.toNat
     ∀ head, (f.idx = 0 ∧ head = f.payload ∨
         f.idx ≠ 0 ∧ ∃ c h, s1.chunks.find? (fun e => e.1 == key) = some (key, c, h) ∧ head = h ++ f.payload) →
       let count := bitsOf (headNat head 0 8) 40 34
       let c := headNat head 8 4
       let s2 := { s1 with
         chunks := s1.chunks.filter (fun e => e.1 != key) ++ [(key, c, head)]
         chainStopped := if c = 0 then s1.chainStopped.filter (fun k => k != chunkOf head) else s1.chainStopped }
       0 < count → exec (.plate n f) s = .next (if head.length < 16 + 8 * count then s2
         else inBegin s2 n f (chainPa ((chunkChain head).headD 0) + 65536 * c) 65536 plateFlag []))

/-- R273, R280, R281: the answer to a load or an atomic completes its part of the access; an ACK *acc* lets what waits for it go on and
*vis* ends the transfer; a NAK of a request, and a Remote Timeout with cause 0x303, make the transfer fail. Here complete: LOADRSP,
AMORSP, ACK, NAK, REMOTE_TIMEOUT. -/
def Obligations.AnswersReachTheirTransfers : Prop :=
  (∀ (s s1 : State) (n : Nat) (f : Flit) (x : Xfer), linkTake s n f = some s1 → f.dst.toNat = deviceNumber s →
    xferAt s1 f.xtag.toNat = some x →
    (∀ acc, x.kind = .load acc → exec (.loadrsp n f) s = .next (partGot s1 x acc f.payload)) ∧
    (∀ acc line stale, x.kind = .lineFill acc line stale → exec (.loadrsp n f) s =
      .next (lineGiven s1 x acc line stale (padTo 64 f.payload))) ∧
    (∀ owner, x.kind = .unitRead owner → exec (.loadrsp n f) s =
      .next { dropXfer s1 x.xtag with remoteBuf := (dropXfer s1 x.xtag).remoteBuf ++ [(owner, x.peer, x.entry, padTo x.lsid f.payload)] }) ∧
    (∀ acc a, x.kind = .atomic acc → accAt s1 acc = some a → exec (.amorsp n f) s = .next (partGot s1 x acc (padTo a.size f.payload))) ∧
    (∀ id op, x.kind = .cohort id → s1.cohortOps.find? (fun o => o.id == id) = some op →
      let s2 := dropXfer s1 x.xtag
      exec (.amorsp n f) s = .next (cohAnswered { s2 with cohortOps := s2.cohortOps.filter fun o => o.id != id } op (payNat f 0 8))) ∧
    (x.peer = f.src.toNat → payNat f 0 4 = 1 → x.acc = true → exec (.ack n f) s = .next (xferSeen (dropXfer s1 x.xtag) x)) ∧
    (x.peer = f.src.toNat → payNat f 0 4 = 0 → x.acc = false → accEnds x.kind = true → exec (.ack n f) s = .next (dropXfer s1 x.xtag)) ∧
    (x.peer = f.src.toNat → payNat f 0 4 = 0 → x.acc = false → accEnds x.kind = false → exec (.ack n f) s =
      .next (xferAcked { s1 with xfers := mapWhere (fun y => y.xtag == x.xtag) (fun y => { y with acc := true }) s1.xfers } x)) ∧
    (payNat f 8 8 = 1 → exec (.nak n f) s = .next s1) ∧
    (payNat f 8 8 ≠ 1 → x.peer = f.src.toNat ∨ payNat f 0 4 % 2 ^ 10 = 0x300 → exec (.nak n f) s =
      .next (xferFails s1 x (payNat f 0 4 % 2 ^ 10) (payNat f 4 4 % 2 ^ 8)))) ∧
  ∀ (s : State) (x : Xfer), s.xfers = [x] → s.unsent = [] → s.dist = none → s.chunks = [] →
    (xferLate s x = false → exec .remoteTimeout s = .next (pushEvOnce s .remoteTimeout)) ∧
    ∀ owner, xferLate s x = true → x.kind = .unitRead owner → exec .remoteTimeout s =
      .next { s with xfers := [], remoteBad := s.remoteBad ++ [(owner, 0x303, xferAux x 0, x.entry)] }

/-! Number formats and the race checker's lines, as operations of their own. -/

/-- R36: tapered comparison takes both patterns as n-bit two's-complement integers, a total order with NaR below every other value in
which equality is equality of the patterns. `min` and `max` return the operand that the order selects. Comparisons produce no bit of their
own; `min`, `max`, `abs` and `neg` only NR, where the result is NaR; `abs` and `neg` of NaR return NaR, and `neg` of maxpos is -maxpos. -/
def Obligations.TaperedOrder : Prop :=
  ∀ y : FloatTy, y = .t16 ∨ y = .t32 →
    let ty := floatTy y
    let n := widthBits (tyWidth ty)
    let nar := 2 ^ (n - 1)
    let nr : Nat → BitVec 5 := fun r => if r = nar then 0b10000 else 0
    (∀ x z, x < 2 ^ n → z < 2 ^ n →
      fOrder ty x z = some (compare (signed n x) (signed n z)) ∧ (signed n x = signed n z ↔ x = z) ∧ signed n nar ≤ signed n x ∧
      (let low := if signed n x ≤ signed n z then x else z
       fMinMax ty false x z = (low, nr low)) ∧
      (let high := if signed n x ≤ signed n z then z else x
       fMinMax ty true x z = (high, nr high)) ∧
      fSign ty true x = (if signed n x < 0 ∧ x ≠ nar then 2 ^ n - x else x, nr x) ∧ fSign ty false x = ((2 ^ n - x) % 2 ^ n, nr x)) ∧
    fSign ty false (nar - 1) = (nar + 1, 0) ∧ signed n (nar + 1) = -signed n (nar - 1) ∧
    ∀ (m : FireMode) (t u : Target) (s : State) (f : Firing) (sc : Bool), Acting m s f → inScale f [.a, .b] sc →
      hasWidths f (tyWidth ty) (tyWidth ty) (tyWidth ty) →
      ∀ i ∈ [Instr.cmpEqFloat m t u y, .cmpNeFloat m t u y, .cmpLtFloat m t u y, .cmpLeFloat m t u y, .cmpGtFloat m t u y,
          .cmpGeFloat m t u y], ∃ v, exec i s = .next (delivered s m f [t, u] .w32 sc v fun _ => 0)

/-- R341: a reader that already holds a reader field of a line's record updates that field's clock and SY; another takes an empty field,
reader 0 first; else one whose clock its vector covers, reader 0 first; else OVF sets and both fields stay. Nothing else of the record
changes. -/
def Obligations.ReadersAreRecorded : Prop :=
  ∀ (vc : Tab Nat) (k c : Nat) (sy : Bool) (m : Nat), m < 2 ^ 128 → k < 256 → c < 2 ^ 32 →
    let r := addReader vc k c sy m
    let same := fun hi lo => bitsOf r hi lo = bitsOf m hi lo
    let b := if sy then 1 else 0
    let c0 := bitsOf m 79 48
    let c1 := bitsOf m 39 8
    let holds0 := c0 ≠ 0 ∧ bitsOf m 87 80 = k
    let holds1 := c1 ≠ 0 ∧ bitsOf m 47 40 = k
    let seen0 := c0 ≤ vcEntry vc (bitsOf m 87 80)
    let seen1 := c1 ≤ vcEntry vc (bitsOf m 47 40)
    let takes0 := bitsOf r 87 80 = k ∧ bitsOf r 79 48 = c ∧ bitsOf r 1 1 = b ∧ same 127 88 ∧ same 47 2 ∧ same 0 0
    let takes1 := bitsOf r 47 40 = k ∧ bitsOf r 39 8 = c ∧ bitsOf r 0 0 = b ∧ same 127 48 ∧ same 7 1
    (holds0 → takes0) ∧ (¬ holds0 → holds1 → takes1) ∧
    (¬ holds0 → ¬ holds1 →
      (c0 = 0 → takes0) ∧ (c0 ≠ 0 → c1 = 0 → takes1) ∧
      (c0 ≠ 0 → c1 ≠ 0 → (seen0 → takes0) ∧ (¬ seen0 → seen1 → takes1) ∧
        (¬ seen0 → ¬ seen1 → bitsOf r 7 7 = 1 ∧ same 127 8 ∧ same 6 0)))

/-! The machine as a whole. -/

/-- R4, R77, R80, R214, R265, R332: reset leaves every field of every CSR at its reset value and no unit ready; no context, step, plate,
agent or link is there; the memories are in canonical form; and the first step is that of the boot ROM. -/
def Obligations.ResetLeaves : Prop :=
  let s := State.reset
  memsWf s = true ∧ (∀ n, csrGet s n = csrReset n) ∧ s.ready = 0 ∧ s.failed = 0 ∧ s.keyLock = false ∧ s.ctxs = [] ∧ s.steps = [] ∧
  s.groups = [] ∧ s.presses = [] ∧ s.fabric = none ∧ (∀ n, linkAt s n = linkReset) ∧ (∀ d k, slotAt s d k = slotReset) ∧
  csrGet s 0x300 = 1000 ∧ csrGet s 0x301 = 128 ∧ csrGet s 0x303 = 64 ∧ csrGet s 0x349 = 0xFFFF ∧ csrGet s 0x3D8 = 3 ∧ csrGet s 0x3D9 = 1000000 ∧
  step s = exec .resetBoot { s with queue := [], now := 1 }

/-- The model's own step (log entries 1, 195 and 200), with R72, R104, R118 and R134: where the schedule is empty the oldest work moves. A
firing of a context that runs and may fire in this cycle is that of the instruction its word decodes to, with what every firing leaves
behind; a firing of a context that is frozen or being restored is kept; an event acts by itself. Each takes its place in its cycle. A pick
of the schedule that is an event from outside is that event, but a posted write goes behind those of its link that wait. -/
def Obligations.StepRunsDecoded : Prop :=
  ∀ s : State,
    (∀ f x s1 i rest, s.script = [] → s.queue = .fire f :: rest → ctxAt s f.ctx = some x → x.frozen = none → x.begun = [] →
      shareTurn { s with now := s.now + 1, queue := rest } x.press x.ten = some s1 → decodeInstr (wordFor x.image f.inst f.iter).1 = .ok i →
      step s = match exec i { takeCycle s1 (meetsOfFiring x f) with cur := some f } with
        | .next t => .next (afterFire t i f)
        | .fault r => .fault r
        | .refused r => .refused r) ∧
    (∀ f x rest, s.script = [] → s.queue = .fire f :: rest → ctxAt s f.ctx = some x → (x.frozen.isSome = true ∨ x.begun ≠ []) →
      step s = .next (parkWork { s with now := s.now + 1, queue := rest } f.ctx (.fire f))) ∧
    (∀ i rest, s.script = [] → s.queue = .event i :: rest →
      let s1 := { s with now := s.now + 1, queue := rest }
      step s = exec i { takeCycle s1 (meetsOf s1 (.event i)) with cur := none }) ∧
    ∀ p r i, s.script = p :: r → p.ext = some i → outside i = true → i.wf = true →
      let s1 := { s with now := s.now + p.dt, script := r }
      ((∃ l, hostLink i = some l ∧ s.queue.any (postedBy l) = true) → step s = .next (pushEv s1 i)) ∧
      ((∀ l, hostLink i = some l → s.queue.any (postedBy l) = false) →
        step s = exec i { takeCycle s1 (meetsOf s1 (.event i)) with cur := none })

/-- R145 to R156, R165 to R193: words that the specification spells out decode to the instructions that they stand for. -/
def Obligations.WordsDecode : Prop :=
  decodeInstr 0x02053FE9 = .ok (.addClamp .always 0x014 0x1FF .n32) ∧ decodeInstr 0x10023FFD = .ok (.addi .always 0x008 (-3)) ∧
  decodeInstr 0x1E061345 = .ok (.movhi .always 0x018 0x345) ∧ decodeInstr 0x28560300 = .ok (.cvt .always .t16 .d8 0x00C .pass) ∧
  decodeInstr 0x2408FFEB = .ok (.fma .always 0x023 0x1FF .unscaled .f32) ∧ decodeInstr 0x2E063FEB = .ok (.redAdd .always 0x018 0x1FF .f32) ∧
  decodeInstr 0x38043FE0 = .ok (.lfld .always 0x010 0x1FF .w) ∧ decodeInstr 0x72200000 = .ok (.exitI .always 2) ∧
  (bodySplit 0x9020A030).map decodeInstr = [.ok (.not .always 0x008), .ok (.inc .always 0x00C)]

/-- R145 to R156: for every legal instruction that has a word, whatever its operands, the word that encodes it decodes to it. -/
def Obligations.DecodeOfEncode : Prop :=
  ∀ i : Instr, i.hasWord = true → i.wf = true → decodeInstr (encode i) = .ok i

/-- R118, R160 to R163: a firing of a compute instruction completes. It changes nothing but the queue of work, to which it adds tokens for
its own context, or it takes a fault of its context: cause 0x092 for a width, 0x090 for a scale state, or 0x080 to 0x084 for a bit that
Exception Enable catches. Without a firing in hand there is no effect to give, and the model stops. -/
def Obligations.ComputeKeepsTheRest : Prop :=
  ∀ (i : Instr) (s : State), computes i = true →
    (∀ f, s.cur = some f → ∃ t, exec i s = .next t ∧
      ((∃ l, onlySends s t l ∧ ∀ w ∈ l, bringsTokens f.ctx w) ∨
        ∃ cause info, t = fireFault s f cause info ∧ (cause = 0x092 ∨ cause = 0x090 ∨ (0x080 ≤ cause ∧ cause ≤ 0x084)))) ∧
    (s.cur = none → exec i s = .fault .noFiring)

/-- R357, R359, R361, R363, R367: a fault of a context that runs freezes it and nothing else of it, keeps a record of its own sequence
number that is not disposed of, and leaves every other context as it was; in a frozen context it only keeps the work. The resume of a
frozen context thaws it: what stopped it is done once more, waived, then what was kept, in its order. -/
def Obligations.FaultsFreezeAndResume : Prop :=
  (∀ (s : State) (c cause : Nat) (i : FaultInfo) (again : Option Work) (x : Ctx), ctxAt s c = some x →
    let t := takeFault s c cause i again
    (x.frozen = none →
      ctxAt t c = some { x with frozen := some { cause := BitVec.ofNat 10 cause, seq := recSeq s x.ten, again := again, since := s.now } } ∧
      (∀ d, d ≠ c → ctxAt t d = ctxAt s d) ∧
      ∃ r, tabFind t.records (2 ^ 24 * x.ten + recSeq s x.ten) = some r ∧ r.ctx = c ∧ r.done = false) ∧
    (x.frozen.isSome = true → t = match again with
      | none => s
      | some w => parkWork s c w)) ∧
  ∀ (s : State) (c : Nat) (x : Ctx) (z : Frozen), ctxAt s c = some x → x.frozen = some z →
    ∃ y r, ctxAt (thaw s c) c = some y ∧ y.frozen = none ∧ y.parked = [] ∧
      (thaw s c).queue = (match z.again with
        | none => []
        | some w => [waived z.cause w]) ++ x.parked ++ s.queue ++ r

/-- R68, R69: what the PF writes through W4 and reads back through the same window, with no other write in between, are the same bytes;
the link is up, and no earlier access through it is still on its way. -/
def Obligations.HostReadsWhatItWrote : Prop :=
  ∀ (s t : State) (link addr : Nat) (bytes : List Byte), memWf s.hbm = true → hostUp s link = true →
    readWaits s 0 link addr bytes.length = false →
    let at' := (tabGet (fun _ => 0) s.w4base 0).toNat + addr
    at' + bytes.length ≤ Config.hbmBytes → stackReady s at' = true → remoteFail s (hostOwner 0 link) = none →
    hbmBad s at' bytes.length = none → exec (.w4Write 0 link addr bytes) s = .next t →
    ∃ u, exec (.w4Read 0 link addr bytes.length) t = .next u ∧ u.hostOut = t.hostOut ++ [.read bytes] ∧ sameMemory t u

/-- The canonical form of the memories, an invariant of the model: whatever moves, HBM, SRAM and host memory stay lists of strictly rising
addresses without an entry that reads as an unlisted one does. -/
def Obligations.MemoriesStayCanonical : Prop :=
  ∀ s t : State, memsWf s = true → step s = .next t → memsWf t = true
end

