-- ==== Sys2Proof/Laws/Compute.lean ====
section
/-! SUPPORT. What a firing of the compute families does, said once: its results where it acts and no trap is taken (R118, R160 to R163),
and that sending results only adds work. -/

namespace Sys2Proof.Machine

/-! The checks before an operation. -/

theorem operandFault_none (f : Firing) (want : Port → Option Width) (ps : List Port) (x : Ex) (hw : widthBad f want = false)
    (hs : scaleBad f ps x = false) : operandFault f want ps x = none := by
  simp [operandFault, hw, hs]

theorem widthBad_none (f : Firing) (wa wb wc : Width) (want : Port → Option Width) (h : hasWidths f wa wb wc)
    (ha : want .a = some wa ∨ want .a = none) (hb : want .b = some wb ∨ want .b = none) (hc : want .c = some wc ∨ want .c = none) :
    widthBad f want = false := by
  obtain ⟨h1, h2, h3⟩ := h
  simp only [widthBad, List.any_cons, List.any_nil, Bool.or_false, Bool.or_eq_false_iff, operand]
  refine ⟨?_, ?_, ?_⟩
  · cases hf : f.a with
    | none => rfl
    | some t => rcases ha with ha | ha <;> simp [ha, h1 t hf]
  · cases hf : f.b with
    | none => rfl
    | some t => rcases hb with hb | hb <;> simp [hb, h2 t hf]
  · cases hf : f.c with
    | none => rfl
    | some t => rcases hc with hc | hc <;> simp [hc, h3 t hf]

theorem scaleBad_none (f : Firing) (ps : List Port) (x : Ex) (b : Bool) (h : inScale f ps b) (hx : exAdmits x b) :
    scaleBad f ps x = false := by
  obtain ⟨-, hall⟩ := h
  have no : ∀ d, d ≠ b → (scaleStates f ps).contains d = false := by
    intro d hd
    rw [Bool.eq_false_iff]
    intro hc
    exact hd (hall d (by simpa using hc))
  unfold scaleBad
  cases b with
  | false =>
    have hsc : (x == Ex.scaled) = false := by cases x <;> first | rfl | exact absurd (hx.1 rfl) (by decide)
    simp only [no true (by decide), hsc, Bool.false_and, Bool.and_false, Bool.or_false]
  | true =>
    have hsc : (x == Ex.unscaled) = false := by cases x <;> first | rfl | exact absurd (hx.2 rfl) (by decide)
    simp only [no false (by decide), hsc, Bool.false_and, Bool.and_false, Bool.or_false]

theorem scale_head (f : Firing) (ps : List Port) (b : Bool) (h : inScale f ps b) : (scaleStates f ps).headD false = b := by
  obtain ⟨hne, hall⟩ := h
  cases hs : scaleStates f ps with
  | nil => exact absurd hs hne
  | cons d r => simpa using hall d (by simp [hs])

theorem foldl_or_and (l : List (BitVec 5)) (a e : BitVec 5) (ha : a &&& e = 0) (h : ∀ x ∈ l, x &&& e = 0) :
    l.foldl (· ||| ·) a &&& e = 0 := by
  induction l generalizing a with
  | nil => exact ha
  | cons b r ih =>
    refine ih (a ||| b) ?_ fun x hx => h x (List.mem_cons_of_mem _ hx)
    have hb := h b List.mem_cons_self
    ext i hi
    have e1 := congrArg (fun v => v.getLsbD i) ha
    have e2 := congrArg (fun v => v.getLsbD i) hb
    simp only [BitVec.getLsbD_and, BitVec.getLsbD_zero, BitVec.ofNat_eq_ofNat] at e1 e2
    simp only [← BitVec.getLsbD_eq_getElem hi]
    simp [Bool.and_or_distrib_right, e1, e2]

theorem orBits_and (l : List (BitVec 5)) (e : BitVec 5) (h : ∀ x ∈ l, x &&& e = 0) : orBits l &&& e = 0 :=
  foldl_or_and l 0 e (by simp) h

theorem enableCause_zero : enableCause 0 = none := by decide

/-- A firing of the compute families that acts, passes its checks and takes no trap delivers its results. -/
theorem compute_delivers (op : CompOp) (m : FireMode) (ts : List Target) (s : State) (f : Firing) (ew : Width) (sc : Bool)
    (ha : Acting m s f) (hw : widthBad f (compWidths op) = false) (hs : scaleBad f op.agree op.ex = false)
    (hn : noTrap m s f fun j => (compElem op f j).2)
    (hew : (match op.outW with
      | some w => w
      | none => match f.a with
        | some t => t.ew
        | none => .w32) = ew)
    (hsc : (match op.outSc with
      | some b => b
      | none => (scaleStates f op.agree).headD false) = sc) :
    compute op m ts s = .next (delivered s m f ts ew sc (fun j => (compElem op f j).1) (fun j => (compElem op f j).2)) := by
  have hown : orBits (((firedElems m f).map fun j => (j, compElem op f j)).map (·.2.2)) &&& enableOf s f.ctx = 0 := by
    apply orBits_and
    intro x hx
    simp only [List.map_map, List.mem_map, Function.comp] at hx
    obtain ⟨j, hj, rfl⟩ := hx
    exact hn j hj
  simp only [compute, onFire, ha.cur, ha.value, ha.fires, ha.noNull, Bool.false_eq_true, if_false, compGo,
    operandFault_none f _ _ _ hw hs, hown, enableCause_zero, ite_self]
  congr 1
  subst hew hsc
  unfold delivered
  congr 1
  funext s r
  simp only [compSend, List.map_map, Function.comp_def]
  try rfl

theorem delivered_congr (s : State) (m : FireMode) (f : Firing) (ts : List Target) (ew : Width) (sc : Bool) (v v' : Nat → Nat)
    (o o' : Nat → BitVec 5) (hv : ∀ j, v j % 2 ^ widthBits ew = v' j % 2 ^ widthBits ew) (ho : ∀ j, o j = o' j) :
    delivered s m f ts ew sc v o = delivered s m f ts ew sc v' o' := by
  unfold delivered
  simp only [hv, ho]

theorem noTrap_zero (m : FireMode) (s : State) (f : Firing) : noTrap m s f fun _ => 0 := by
  intro j _
  simp

/-- What a firing of the compute families delivers, given the widths and scale states of its operands and the result of each element. -/
theorem compute_gives (op : CompOp) (m : FireMode) (ts : List Target) (s : State) (f : Firing) (wa wb wc ew : Width) (b sc : Bool)
    (v : Nat → Nat) (o : Nat → BitVec 5) (ha : Acting m s f) (hw : hasWidths f wa wb wc) (h1 : op.wa = some wa ∨ op.wa = none)
    (h2 : op.wb = wb) (h3 : op.wc = wc) (hs : inScale f op.agree b) (hx : exAdmits op.ex b) (hew : op.outW = some ew)
    (hsc : op.outSc.getD b = sc) (hn : noTrap m s f o)
    (hv : ∀ j, (compElem op f j).1 % 2 ^ widthBits ew = v j % 2 ^ widthBits ew) (ho : ∀ j, (compElem op f j).2 = o j) :
    compute op m ts s = .next (delivered s m f ts ew sc v o) := by
  rw [← delivered_congr s m f ts ew sc _ v _ o hv ho]
  apply compute_delivers op m ts s f ew sc ha
  · exact widthBad_none f wa wb wc _ hw h1 (.inl (congrArg some h2)) (.inl (congrArg some h3))
  · exact scaleBad_none f _ _ b hs hx
  · intro j hj
    show (compElem op f j).2 &&& _ = 0
    rw [ho j]
    exact hn j hj
  · rw [hew]
  · cases h : op.outSc with
    | none => rw [h] at hsc; exact (scale_head f _ b hs).trans hsc
    | some d => rw [h] at hsc; exact hsc

theorem pass_admits (b : Bool) : exAdmits .pass b := ⟨by simp, by simp⟩

/-- The same of an operation without a declared scale or bits of its own. -/
theorem plain_gives (op : CompOp) (m : FireMode) (ts : List Target) (s : State) (f : Firing) (wa wb wc ew : Width) (sc : Bool)
    (v : Nat → Nat) (ha : Acting m s f) (hw : hasWidths f wa wb wc) (h1 : op.wa = some wa ∨ op.wa = none)
    (h2 : op.wb = wb) (h3 : op.wc = wc) (hs : inScale f op.agree sc) (hx : op.ex = .pass) (hew : op.outW = some ew)
    (hsc : op.outSc = none) (hv : ∀ j, (compElem op f j).1 % 2 ^ widthBits ew = v j % 2 ^ widthBits ew)
    (ho : ∀ j, (compElem op f j).2 = 0) :
    compute op m ts s = .next (delivered s m f ts ew sc v fun _ => 0) :=
  compute_gives op m ts s f wa wb wc ew sc sc v _ ha hw h1 h2 h3 hs (by rw [hx]; exact pass_admits sc) hew (by rw [hsc]; rfl)
    (noTrap_zero m s f) hv ho

/-! Sending. -/

theorem sendTokens_sends (s : State) (c src born : Nat) (ts : List Target) (t : Token) :
    ∃ l, (∀ w ∈ l, bringsTokens c w) ∧ onlySends s (sendTokens s c src born ts t) l := by
  refine ⟨_, ?_, rfl⟩
  intro w hw
  simp only [List.map_map, List.mem_map, Function.comp_def] at hw
  obtain ⟨x, -, rfl⟩ := hw
  exact ⟨_, rfl⟩

theorem onlySends_trans (s t u : State) (l r : List Work) (h1 : onlySends s t l) (h2 : onlySends t u r) : onlySends s u (l ++ r) := by
  unfold onlySends at *
  subst h1
  rw [h2]
  simp [List.append_assoc]

/-- A fold whose every step only adds work that satisfies `p` only adds such work. -/
theorem foldl_sends {α : Type} (p : Work → Prop) (g : State → α → State)
    (h : ∀ s a, ∃ l, (∀ w ∈ l, p w) ∧ onlySends s (g s a) l) (l : List α) (s : State) :
    ∃ r, (∀ w ∈ r, p w) ∧ onlySends s (l.foldl g s) r := by
  induction l generalizing s with
  | nil => exact ⟨[], by simp, by simp [onlySends]⟩
  | cons a r ih =>
    obtain ⟨l1, h1, h2⟩ := h s a
    obtain ⟨l2, h3, h4⟩ := ih (g s a)
    refine ⟨l1 ++ l2, ?_, onlySends_trans _ _ _ _ _ h2 h4⟩
    intro w hw
    rcases List.mem_append.mp hw with hw | hw
    · exact h1 w hw
    · exact h3 w hw

theorem sendRun_sends (s : State) (f : Firing) (ts : List Target) (j : Nat) (t : Token) :
    ∃ l, (∀ w ∈ l, bringsTokens f.ctx w) ∧ onlySends s (sendRun s f ts j t) l := by
  unfold sendRun
  split <;> exact sendTokens_sends _ _ _ _ _ _

/-- Delivering results only adds token arrivals at the firing's own context. -/
theorem delivered_sends (s : State) (m : FireMode) (f : Firing) (ts : List Target) (ew : Width) (sc : Bool) (val : Nat → Nat)
    (own : Nat → BitVec 5) :
    ∃ l, (∀ w ∈ l, bringsTokens f.ctx w) ∧ onlySends s (delivered s m f ts ew sc val own) l := by
  apply foldl_sends
  intro s r
  exact sendRun_sends s f ts r.1 _

/-- EOS that passes only adds token arrivals. -/
theorem passEos_sends (s : State) (ts : List Target) (f : Firing) (b : Nat) :
    ∃ l, (∀ w ∈ l, bringsTokens f.ctx w) ∧ onlySends s (passEos s ts f b) l := sendTokens_sends _ _ _ _ _ _
/-- Nulls only add token arrivals. -/
theorem sendNulls_sends (s : State) (m : FireMode) (ts : List Target) (f : Firing) :
    ∃ l, (∀ w ∈ l, bringsTokens f.ctx w) ∧ onlySends s (sendNulls s m ts f) l := by
  apply foldl_sends
  intro s r
  exact sendRun_sends s f ts r.1 _

/-- Where only work has been added, every byte of memory is as before. -/
theorem onlySends_memory (s t : State) (l : List Work) (h : onlySends s t l) : sameMemory s t := by
  unfold onlySends at h
  subst h
  exact ⟨fun _ => rfl, fun _ => rfl, fun _ => rfl⟩

end Sys2Proof.Machine
end

