-- ==== Sys2Proof/Laws/State.lean ====
section
/-! SUPPORT. The fields of the state after each of its updates. -/

namespace Sys2Proof.Machine

/-! setCtx. -/
@[simp] theorem setCtx_queue (s : State) (c : Nat) (v : Ctx) : (setCtx s c v).queue = s.queue := rfl
@[simp] theorem setCtx_script (s : State) (c : Nat) (v : Ctx) : (setCtx s c v).script = s.script := rfl
@[simp] theorem setCtx_cur (s : State) (c : Nat) (v : Ctx) : (setCtx s c v).cur = s.cur := rfl
@[simp] theorem setCtx_freeCount (s : State) (c : Nat) (v : Ctx) : (setCtx s c v).freeCount = s.freeCount := rfl
@[simp] theorem setCtx_nextId (s : State) (c : Nat) (v : Ctx) : (setCtx s c v).nextId = s.nextId := rfl
@[simp] theorem setCtx_now (s : State) (c : Nat) (v : Ctx) : (setCtx s c v).now = s.now := rfl
@[simp] theorem setCtx_meets (s : State) (c : Nat) (v : Ctx) : (setCtx s c v).meets = s.meets := rfl
@[simp] theorem setCtx_tickBase (s : State) (c : Nat) (v : Ctx) : (setCtx s c v).tickBase = s.tickBase := rfl
@[simp] theorem setCtx_tickAt (s : State) (c : Nat) (v : Ctx) : (setCtx s c v).tickAt = s.tickAt := rfl
@[simp] theorem setCtx_lendLive (s : State) (c : Nat) (v : Ctx) : (setCtx s c v).lendLive = s.lendLive := rfl
@[simp] theorem setCtx_lendAt (s : State) (c : Nat) (v : Ctx) : (setCtx s c v).lendAt = s.lendAt := rfl
@[simp] theorem setCtx_hbm (s : State) (c : Nat) (v : Ctx) : (setCtx s c v).hbm = s.hbm := rfl
@[simp] theorem setCtx_sram (s : State) (c : Nat) (v : Ctx) : (setCtx s c v).sram = s.sram := rfl
@[simp] theorem setCtx_hostMem (s : State) (c : Nat) (v : Ctx) : (setCtx s c v).hostMem = s.hostMem := rfl
@[simp] theorem setCtx_spoiled (s : State) (c : Nat) (v : Ctx) : (setCtx s c v).spoiled = s.spoiled := rfl
@[simp] theorem setCtx_csrs (s : State) (c : Nat) (v : Ctx) : (setCtx s c v).csrs = s.csrs := rfl
@[simp] theorem setCtx_ready (s : State) (c : Nat) (v : Ctx) : (setCtx s c v).ready = s.ready := rfl
@[simp] theorem setCtx_failed (s : State) (c : Nat) (v : Ctx) : (setCtx s c v).failed = s.failed := rfl
@[simp] theorem setCtx_ramped (s : State) (c : Nat) (v : Ctx) : (setCtx s c v).ramped = s.ramped := rfl
@[simp] theorem setCtx_wakeAt (s : State) (c : Nat) (v : Ctx) : (setCtx s c v).wakeAt = s.wakeAt := rfl
@[simp] theorem setCtx_keys (s : State) (c : Nat) (v : Ctx) : (setCtx s c v).keys = s.keys := rfl
@[simp] theorem setCtx_keyLock (s : State) (c : Nat) (v : Ctx) : (setCtx s c v).keyLock = s.keyLock := rfl
@[simp] theorem setCtx_attest (s : State) (c : Nat) (v : Ctx) : (setCtx s c v).attest = s.attest := rfl
@[simp] theorem setCtx_attestStatus (s : State) (c : Nat) (v : Ctx) : (setCtx s c v).attestStatus = s.attestStatus := rfl
@[simp] theorem setCtx_w4base (s : State) (c : Nat) (v : Ctx) : (setCtx s c v).w4base = s.w4base := rfl
@[simp] theorem setCtx_hostReading (s : State) (c : Nat) (v : Ctx) : (setCtx s c v).hostReading = s.hostReading := rfl
@[simp] theorem setCtx_ports (s : State) (c : Nat) (v : Ctx) : (setCtx s c v).ports = s.ports := rfl
@[simp] theorem setCtx_rings (s : State) (c : Nat) (v : Ctx) : (setCtx s c v).rings = s.rings := rfl
@[simp] theorem setCtx_egress (s : State) (c : Nat) (v : Ctx) : (setCtx s c v).egress = s.egress := rfl
@[simp] theorem setCtx_eventWait (s : State) (c : Nat) (v : Ctx) : (setCtx s c v).eventWait = s.eventWait := rfl
@[simp] theorem setCtx_faultWait (s : State) (c : Nat) (v : Ctx) : (setCtx s c v).faultWait = s.faultWait := rfl
@[simp] theorem setCtx_quarWait (s : State) (c : Nat) (v : Ctx) : (setCtx s c v).quarWait = s.quarWait := rfl
@[simp] theorem setCtx_faultSeq (s : State) (c : Nat) (v : Ctx) : (setCtx s c v).faultSeq = s.faultSeq := rfl
@[simp] theorem setCtx_records (s : State) (c : Nat) (v : Ctx) : (setCtx s c v).records = s.records := rfl
@[simp] theorem setCtx_hostOut (s : State) (c : Nat) (v : Ctx) : (setCtx s c v).hostOut = s.hostOut := rfl
@[simp] theorem setCtx_arrivals (s : State) (c : Nat) (v : Ctx) : (setCtx s c v).arrivals = s.arrivals := rfl
@[simp] theorem setCtx_promotions (s : State) (c : Nat) (v : Ctx) : (setCtx s c v).promotions = s.promotions := rfl
@[simp] theorem setCtx_slotNotes (s : State) (c : Nat) (v : Ctx) : (setCtx s c v).slotNotes = s.slotNotes := rfl
@[simp] theorem setCtx_unsent (s : State) (c : Nat) (v : Ctx) : (setCtx s c v).unsent = s.unsent := rfl
@[simp] theorem setCtx_groups (s : State) (c : Nat) (v : Ctx) : (setCtx s c v).groups = s.groups := rfl
@[simp] theorem setCtx_presses (s : State) (c : Nat) (v : Ctx) : (setCtx s c v).presses = s.presses := rfl
@[simp] theorem setCtx_steps (s : State) (c : Nat) (v : Ctx) : (setCtx s c v).steps = s.steps := rfl
@[simp] theorem setCtx_ctxs (s : State) (c : Nat) (v : Ctx) : (setCtx s c v).ctxs = tabPut s.ctxs c v := rfl
@[simp] theorem setCtx_accesses (s : State) (c : Nat) (v : Ctx) : (setCtx s c v).accesses = s.accesses := rfl
@[simp] theorem setCtx_settling (s : State) (c : Nat) (v : Ctx) : (setCtx s c v).settling = s.settling := rfl
@[simp] theorem setCtx_memFires (s : State) (c : Nat) (v : Ctx) : (setCtx s c v).memFires = s.memFires := rfl
@[simp] theorem setCtx_fences (s : State) (c : Nat) (v : Ctx) : (setCtx s c v).fences = s.fences := rfl
@[simp] theorem setCtx_qfences (s : State) (c : Nat) (v : Ctx) : (setCtx s c v).qfences = s.qfences := rfl
@[simp] theorem setCtx_waiters (s : State) (c : Nat) (v : Ctx) : (setCtx s c v).waiters = s.waiters := rfl
@[simp] theorem setCtx_cards (s : State) (c : Nat) (v : Ctx) : (setCtx s c v).cards = s.cards := rfl
@[simp] theorem setCtx_cohorts (s : State) (c : Nat) (v : Ctx) : (setCtx s c v).cohorts = s.cohorts := rfl
@[simp] theorem setCtx_cohortOps (s : State) (c : Nat) (v : Ctx) : (setCtx s c v).cohortOps = s.cohortOps := rfl
@[simp] theorem setCtx_proofs (s : State) (c : Nat) (v : Ctx) : (setCtx s c v).proofs = s.proofs := rfl
@[simp] theorem setCtx_slotWait (s : State) (c : Nat) (v : Ctx) : (setCtx s c v).slotWait = s.slotWait := rfl
@[simp] theorem setCtx_slots (s : State) (c : Nat) (v : Ctx) : (setCtx s c v).slots = s.slots := rfl
@[simp] theorem setCtx_ways (s : State) (c : Nat) (v : Ctx) : (setCtx s c v).ways = s.ways := rfl
@[simp] theorem setCtx_raceBudget (s : State) (c : Nat) (v : Ctx) : (setCtx s c v).raceBudget = s.raceBudget := rfl
@[simp] theorem setCtx_raceMicro (s : State) (c : Nat) (v : Ctx) : (setCtx s c v).raceMicro = s.raceMicro := rfl
@[simp] theorem setCtx_migrations (s : State) (c : Nat) (v : Ctx) : (setCtx s c v).migrations = s.migrations := rfl
@[simp] theorem setCtx_invalidating (s : State) (c : Nat) (v : Ctx) : (setCtx s c v).invalidating = s.invalidating := rfl
@[simp] theorem setCtx_fabric (s : State) (c : Nat) (v : Ctx) : (setCtx s c v).fabric = s.fabric := rfl
@[simp] theorem setCtx_nextFabric (s : State) (c : Nat) (v : Ctx) : (setCtx s c v).nextFabric = s.nextFabric := rfl
@[simp] theorem setCtx_waves (s : State) (c : Nat) (v : Ctx) : (setCtx s c v).waves = s.waves := rfl
@[simp] theorem setCtx_links (s : State) (c : Nat) (v : Ctx) : (setCtx s c v).links = s.links := rfl
@[simp] theorem setCtx_leases (s : State) (c : Nat) (v : Ctx) : (setCtx s c v).leases = s.leases := rfl
@[simp] theorem setCtx_retires (s : State) (c : Nat) (v : Ctx) : (setCtx s c v).retires = s.retires := rfl
@[simp] theorem setCtx_xfers (s : State) (c : Nat) (v : Ctx) : (setCtx s c v).xfers = s.xfers := rfl
@[simp] theorem setCtx_remoteBuf (s : State) (c : Nat) (v : Ctx) : (setCtx s c v).remoteBuf = s.remoteBuf := rfl
@[simp] theorem setCtx_remoteBad (s : State) (c : Nat) (v : Ctx) : (setCtx s c v).remoteBad = s.remoteBad := rfl
@[simp] theorem setCtx_inXfers (s : State) (c : Nat) (v : Ctx) : (setCtx s c v).inXfers = s.inXfers := rfl
@[simp] theorem setCtx_shards (s : State) (c : Nat) (v : Ctx) : (setCtx s c v).shards = s.shards := rfl
@[simp] theorem setCtx_sentFlits (s : State) (c : Nat) (v : Ctx) : (setCtx s c v).sentFlits = s.sentFlits := rfl
@[simp] theorem setCtx_dist (s : State) (c : Nat) (v : Ctx) : (setCtx s c v).dist = s.dist := rfl
@[simp] theorem setCtx_chunks (s : State) (c : Nat) (v : Ctx) : (setCtx s c v).chunks = s.chunks := rfl
@[simp] theorem setCtx_chainStopped (s : State) (c : Nat) (v : Ctx) : (setCtx s c v).chainStopped = s.chainStopped := rfl
@[simp] theorem setCtx_devCounts (s : State) (c : Nat) (v : Ctx) : (setCtx s c v).devCounts = s.devCounts := rfl
@[simp] theorem setCtx_traceLast (s : State) (c : Nat) (v : Ctx) : (setCtx s c v).traceLast = s.traceLast := rfl
/-! modCtx. -/
@[simp] theorem modCtx_queue (s : State) (c : Nat) (f : Ctx → Ctx) : (modCtx s c f).queue = s.queue := rfl
@[simp] theorem modCtx_script (s : State) (c : Nat) (f : Ctx → Ctx) : (modCtx s c f).script = s.script := rfl
@[simp] theorem modCtx_cur (s : State) (c : Nat) (f : Ctx → Ctx) : (modCtx s c f).cur = s.cur := rfl
@[simp] theorem modCtx_freeCount (s : State) (c : Nat) (f : Ctx → Ctx) : (modCtx s c f).freeCount = s.freeCount := rfl
@[simp] theorem modCtx_nextId (s : State) (c : Nat) (f : Ctx → Ctx) : (modCtx s c f).nextId = s.nextId := rfl
@[simp] theorem modCtx_now (s : State) (c : Nat) (f : Ctx → Ctx) : (modCtx s c f).now = s.now := rfl
@[simp] theorem modCtx_meets (s : State) (c : Nat) (f : Ctx → Ctx) : (modCtx s c f).meets = s.meets := rfl
@[simp] theorem modCtx_tickBase (s : State) (c : Nat) (f : Ctx → Ctx) : (modCtx s c f).tickBase = s.tickBase := rfl
@[simp] theorem modCtx_tickAt (s : State) (c : Nat) (f : Ctx → Ctx) : (modCtx s c f).tickAt = s.tickAt := rfl
@[simp] theorem modCtx_lendLive (s : State) (c : Nat) (f : Ctx → Ctx) : (modCtx s c f).lendLive = s.lendLive := rfl
@[simp] theorem modCtx_lendAt (s : State) (c : Nat) (f : Ctx → Ctx) : (modCtx s c f).lendAt = s.lendAt := rfl
@[simp] theorem modCtx_hbm (s : State) (c : Nat) (f : Ctx → Ctx) : (modCtx s c f).hbm = s.hbm := rfl
@[simp] theorem modCtx_sram (s : State) (c : Nat) (f : Ctx → Ctx) : (modCtx s c f).sram = s.sram := rfl
@[simp] theorem modCtx_hostMem (s : State) (c : Nat) (f : Ctx → Ctx) : (modCtx s c f).hostMem = s.hostMem := rfl
@[simp] theorem modCtx_spoiled (s : State) (c : Nat) (f : Ctx → Ctx) : (modCtx s c f).spoiled = s.spoiled := rfl
@[simp] theorem modCtx_csrs (s : State) (c : Nat) (f : Ctx → Ctx) : (modCtx s c f).csrs = s.csrs := rfl
@[simp] theorem modCtx_ready (s : State) (c : Nat) (f : Ctx → Ctx) : (modCtx s c f).ready = s.ready := rfl
@[simp] theorem modCtx_failed (s : State) (c : Nat) (f : Ctx → Ctx) : (modCtx s c f).failed = s.failed := rfl
@[simp] theorem modCtx_ramped (s : State) (c : Nat) (f : Ctx → Ctx) : (modCtx s c f).ramped = s.ramped := rfl
@[simp] theorem modCtx_wakeAt (s : State) (c : Nat) (f : Ctx → Ctx) : (modCtx s c f).wakeAt = s.wakeAt := rfl
@[simp] theorem modCtx_keys (s : State) (c : Nat) (f : Ctx → Ctx) : (modCtx s c f).keys = s.keys := rfl
@[simp] theorem modCtx_keyLock (s : State) (c : Nat) (f : Ctx → Ctx) : (modCtx s c f).keyLock = s.keyLock := rfl
@[simp] theorem modCtx_attest (s : State) (c : Nat) (f : Ctx → Ctx) : (modCtx s c f).attest = s.attest := rfl
@[simp] theorem modCtx_attestStatus (s : State) (c : Nat) (f : Ctx → Ctx) : (modCtx s c f).attestStatus = s.attestStatus := rfl
@[simp] theorem modCtx_w4base (s : State) (c : Nat) (f : Ctx → Ctx) : (modCtx s c f).w4base = s.w4base := rfl
@[simp] theorem modCtx_hostReading (s : State) (c : Nat) (f : Ctx → Ctx) : (modCtx s c f).hostReading = s.hostReading := rfl
@[simp] theorem modCtx_ports (s : State) (c : Nat) (f : Ctx → Ctx) : (modCtx s c f).ports = s.ports := rfl
@[simp] theorem modCtx_rings (s : State) (c : Nat) (f : Ctx → Ctx) : (modCtx s c f).rings = s.rings := rfl
@[simp] theorem modCtx_egress (s : State) (c : Nat) (f : Ctx → Ctx) : (modCtx s c f).egress = s.egress := rfl
@[simp] theorem modCtx_eventWait (s : State) (c : Nat) (f : Ctx → Ctx) : (modCtx s c f).eventWait = s.eventWait := rfl
@[simp] theorem modCtx_faultWait (s : State) (c : Nat) (f : Ctx → Ctx) : (modCtx s c f).faultWait = s.faultWait := rfl
@[simp] theorem modCtx_quarWait (s : State) (c : Nat) (f : Ctx → Ctx) : (modCtx s c f).quarWait = s.quarWait := rfl
@[simp] theorem modCtx_faultSeq (s : State) (c : Nat) (f : Ctx → Ctx) : (modCtx s c f).faultSeq = s.faultSeq := rfl
@[simp] theorem modCtx_records (s : State) (c : Nat) (f : Ctx → Ctx) : (modCtx s c f).records = s.records := rfl
@[simp] theorem modCtx_hostOut (s : State) (c : Nat) (f : Ctx → Ctx) : (modCtx s c f).hostOut = s.hostOut := rfl
@[simp] theorem modCtx_arrivals (s : State) (c : Nat) (f : Ctx → Ctx) : (modCtx s c f).arrivals = s.arrivals := rfl
@[simp] theorem modCtx_promotions (s : State) (c : Nat) (f : Ctx → Ctx) : (modCtx s c f).promotions = s.promotions := rfl
@[simp] theorem modCtx_slotNotes (s : State) (c : Nat) (f : Ctx → Ctx) : (modCtx s c f).slotNotes = s.slotNotes := rfl
@[simp] theorem modCtx_unsent (s : State) (c : Nat) (f : Ctx → Ctx) : (modCtx s c f).unsent = s.unsent := rfl
@[simp] theorem modCtx_groups (s : State) (c : Nat) (f : Ctx → Ctx) : (modCtx s c f).groups = s.groups := rfl
@[simp] theorem modCtx_presses (s : State) (c : Nat) (f : Ctx → Ctx) : (modCtx s c f).presses = s.presses := rfl
@[simp] theorem modCtx_steps (s : State) (c : Nat) (f : Ctx → Ctx) : (modCtx s c f).steps = s.steps := rfl
@[simp] theorem modCtx_ctxs (s : State) (c : Nat) (f : Ctx → Ctx) : (modCtx s c f).ctxs = tabUpdate s.ctxs c f := rfl
@[simp] theorem modCtx_accesses (s : State) (c : Nat) (f : Ctx → Ctx) : (modCtx s c f).accesses = s.accesses := rfl
@[simp] theorem modCtx_settling (s : State) (c : Nat) (f : Ctx → Ctx) : (modCtx s c f).settling = s.settling := rfl
@[simp] theorem modCtx_memFires (s : State) (c : Nat) (f : Ctx → Ctx) : (modCtx s c f).memFires = s.memFires := rfl
@[simp] theorem modCtx_fences (s : State) (c : Nat) (f : Ctx → Ctx) : (modCtx s c f).fences = s.fences := rfl
@[simp] theorem modCtx_qfences (s : State) (c : Nat) (f : Ctx → Ctx) : (modCtx s c f).qfences = s.qfences := rfl
@[simp] theorem modCtx_waiters (s : State) (c : Nat) (f : Ctx → Ctx) : (modCtx s c f).waiters = s.waiters := rfl
@[simp] theorem modCtx_cards (s : State) (c : Nat) (f : Ctx → Ctx) : (modCtx s c f).cards = s.cards := rfl
@[simp] theorem modCtx_cohorts (s : State) (c : Nat) (f : Ctx → Ctx) : (modCtx s c f).cohorts = s.cohorts := rfl
@[simp] theorem modCtx_cohortOps (s : State) (c : Nat) (f : Ctx → Ctx) : (modCtx s c f).cohortOps = s.cohortOps := rfl
@[simp] theorem modCtx_proofs (s : State) (c : Nat) (f : Ctx → Ctx) : (modCtx s c f).proofs = s.proofs := rfl
@[simp] theorem modCtx_slotWait (s : State) (c : Nat) (f : Ctx → Ctx) : (modCtx s c f).slotWait = s.slotWait := rfl
@[simp] theorem modCtx_slots (s : State) (c : Nat) (f : Ctx → Ctx) : (modCtx s c f).slots = s.slots := rfl
@[simp] theorem modCtx_ways (s : State) (c : Nat) (f : Ctx → Ctx) : (modCtx s c f).ways = s.ways := rfl
@[simp] theorem modCtx_raceBudget (s : State) (c : Nat) (f : Ctx → Ctx) : (modCtx s c f).raceBudget = s.raceBudget := rfl
@[simp] theorem modCtx_raceMicro (s : State) (c : Nat) (f : Ctx → Ctx) : (modCtx s c f).raceMicro = s.raceMicro := rfl
@[simp] theorem modCtx_migrations (s : State) (c : Nat) (f : Ctx → Ctx) : (modCtx s c f).migrations = s.migrations := rfl
@[simp] theorem modCtx_invalidating (s : State) (c : Nat) (f : Ctx → Ctx) : (modCtx s c f).invalidating = s.invalidating := rfl
@[simp] theorem modCtx_fabric (s : State) (c : Nat) (f : Ctx → Ctx) : (modCtx s c f).fabric = s.fabric := rfl
@[simp] theorem modCtx_nextFabric (s : State) (c : Nat) (f : Ctx → Ctx) : (modCtx s c f).nextFabric = s.nextFabric := rfl
@[simp] theorem modCtx_waves (s : State) (c : Nat) (f : Ctx → Ctx) : (modCtx s c f).waves = s.waves := rfl
@[simp] theorem modCtx_links (s : State) (c : Nat) (f : Ctx → Ctx) : (modCtx s c f).links = s.links := rfl
@[simp] theorem modCtx_leases (s : State) (c : Nat) (f : Ctx → Ctx) : (modCtx s c f).leases = s.leases := rfl
@[simp] theorem modCtx_retires (s : State) (c : Nat) (f : Ctx → Ctx) : (modCtx s c f).retires = s.retires := rfl
@[simp] theorem modCtx_xfers (s : State) (c : Nat) (f : Ctx → Ctx) : (modCtx s c f).xfers = s.xfers := rfl
@[simp] theorem modCtx_remoteBuf (s : State) (c : Nat) (f : Ctx → Ctx) : (modCtx s c f).remoteBuf = s.remoteBuf := rfl
@[simp] theorem modCtx_remoteBad (s : State) (c : Nat) (f : Ctx → Ctx) : (modCtx s c f).remoteBad = s.remoteBad := rfl
@[simp] theorem modCtx_inXfers (s : State) (c : Nat) (f : Ctx → Ctx) : (modCtx s c f).inXfers = s.inXfers := rfl
@[simp] theorem modCtx_shards (s : State) (c : Nat) (f : Ctx → Ctx) : (modCtx s c f).shards = s.shards := rfl
@[simp] theorem modCtx_sentFlits (s : State) (c : Nat) (f : Ctx → Ctx) : (modCtx s c f).sentFlits = s.sentFlits := rfl
@[simp] theorem modCtx_dist (s : State) (c : Nat) (f : Ctx → Ctx) : (modCtx s c f).dist = s.dist := rfl
@[simp] theorem modCtx_chunks (s : State) (c : Nat) (f : Ctx → Ctx) : (modCtx s c f).chunks = s.chunks := rfl
@[simp] theorem modCtx_chainStopped (s : State) (c : Nat) (f : Ctx → Ctx) : (modCtx s c f).chainStopped = s.chainStopped := rfl
@[simp] theorem modCtx_devCounts (s : State) (c : Nat) (f : Ctx → Ctx) : (modCtx s c f).devCounts = s.devCounts := rfl
@[simp] theorem modCtx_traceLast (s : State) (c : Nat) (f : Ctx → Ctx) : (modCtx s c f).traceLast = s.traceLast := rfl
/-! dropCtx. -/
@[simp] theorem dropCtx_queue (s : State) (c : Nat) : (dropCtx s c).queue = s.queue := rfl
@[simp] theorem dropCtx_script (s : State) (c : Nat) : (dropCtx s c).script = s.script := rfl
@[simp] theorem dropCtx_cur (s : State) (c : Nat) : (dropCtx s c).cur = s.cur := rfl
@[simp] theorem dropCtx_freeCount (s : State) (c : Nat) : (dropCtx s c).freeCount = s.freeCount := rfl
@[simp] theorem dropCtx_nextId (s : State) (c : Nat) : (dropCtx s c).nextId = s.nextId := rfl
@[simp] theorem dropCtx_now (s : State) (c : Nat) : (dropCtx s c).now = s.now := rfl
@[simp] theorem dropCtx_meets (s : State) (c : Nat) : (dropCtx s c).meets = s.meets := rfl
@[simp] theorem dropCtx_tickBase (s : State) (c : Nat) : (dropCtx s c).tickBase = s.tickBase := rfl
@[simp] theorem dropCtx_tickAt (s : State) (c : Nat) : (dropCtx s c).tickAt = s.tickAt := rfl
@[simp] theorem dropCtx_lendLive (s : State) (c : Nat) : (dropCtx s c).lendLive = s.lendLive := rfl
@[simp] theorem dropCtx_lendAt (s : State) (c : Nat) : (dropCtx s c).lendAt = s.lendAt := rfl
@[simp] theorem dropCtx_hbm (s : State) (c : Nat) : (dropCtx s c).hbm = s.hbm := rfl
@[simp] theorem dropCtx_sram (s : State) (c : Nat) : (dropCtx s c).sram = s.sram := rfl
@[simp] theorem dropCtx_hostMem (s : State) (c : Nat) : (dropCtx s c).hostMem = s.hostMem := rfl
@[simp] theorem dropCtx_spoiled (s : State) (c : Nat) : (dropCtx s c).spoiled = s.spoiled := rfl
@[simp] theorem dropCtx_csrs (s : State) (c : Nat) : (dropCtx s c).csrs = s.csrs := rfl
@[simp] theorem dropCtx_ready (s : State) (c : Nat) : (dropCtx s c).ready = s.ready := rfl
@[simp] theorem dropCtx_failed (s : State) (c : Nat) : (dropCtx s c).failed = s.failed := rfl
@[simp] theorem dropCtx_ramped (s : State) (c : Nat) : (dropCtx s c).ramped = s.ramped := rfl
@[simp] theorem dropCtx_wakeAt (s : State) (c : Nat) : (dropCtx s c).wakeAt = s.wakeAt := rfl
@[simp] theorem dropCtx_keys (s : State) (c : Nat) : (dropCtx s c).keys = s.keys := rfl
@[simp] theorem dropCtx_keyLock (s : State) (c : Nat) : (dropCtx s c).keyLock = s.keyLock := rfl
@[simp] theorem dropCtx_attest (s : State) (c : Nat) : (dropCtx s c).attest = s.attest := rfl
@[simp] theorem dropCtx_attestStatus (s : State) (c : Nat) : (dropCtx s c).attestStatus = s.attestStatus := rfl
@[simp] theorem dropCtx_w4base (s : State) (c : Nat) : (dropCtx s c).w4base = s.w4base := rfl
@[simp] theorem dropCtx_hostReading (s : State) (c : Nat) : (dropCtx s c).hostReading = s.hostReading := rfl
@[simp] theorem dropCtx_ports (s : State) (c : Nat) : (dropCtx s c).ports = s.ports := rfl
@[simp] theorem dropCtx_rings (s : State) (c : Nat) : (dropCtx s c).rings = s.rings := rfl
@[simp] theorem dropCtx_egress (s : State) (c : Nat) : (dropCtx s c).egress = s.egress := rfl
@[simp] theorem dropCtx_eventWait (s : State) (c : Nat) : (dropCtx s c).eventWait = s.eventWait := rfl
@[simp] theorem dropCtx_faultWait (s : State) (c : Nat) : (dropCtx s c).faultWait = s.faultWait := rfl
@[simp] theorem dropCtx_quarWait (s : State) (c : Nat) : (dropCtx s c).quarWait = s.quarWait := rfl
@[simp] theorem dropCtx_faultSeq (s : State) (c : Nat) : (dropCtx s c).faultSeq = s.faultSeq := rfl
@[simp] theorem dropCtx_records (s : State) (c : Nat) : (dropCtx s c).records = s.records := rfl
@[simp] theorem dropCtx_hostOut (s : State) (c : Nat) : (dropCtx s c).hostOut = s.hostOut := rfl
@[simp] theorem dropCtx_arrivals (s : State) (c : Nat) : (dropCtx s c).arrivals = s.arrivals := rfl
@[simp] theorem dropCtx_promotions (s : State) (c : Nat) : (dropCtx s c).promotions = s.promotions := rfl
@[simp] theorem dropCtx_slotNotes (s : State) (c : Nat) : (dropCtx s c).slotNotes = s.slotNotes := rfl
@[simp] theorem dropCtx_unsent (s : State) (c : Nat) : (dropCtx s c).unsent = s.unsent := rfl
@[simp] theorem dropCtx_groups (s : State) (c : Nat) : (dropCtx s c).groups = s.groups := rfl
@[simp] theorem dropCtx_presses (s : State) (c : Nat) : (dropCtx s c).presses = s.presses := rfl
@[simp] theorem dropCtx_steps (s : State) (c : Nat) : (dropCtx s c).steps = s.steps := rfl
@[simp] theorem dropCtx_ctxs (s : State) (c : Nat) : (dropCtx s c).ctxs = tabDrop s.ctxs c := rfl
@[simp] theorem dropCtx_accesses (s : State) (c : Nat) : (dropCtx s c).accesses = s.accesses := rfl
@[simp] theorem dropCtx_settling (s : State) (c : Nat) : (dropCtx s c).settling = s.settling := rfl
@[simp] theorem dropCtx_memFires (s : State) (c : Nat) : (dropCtx s c).memFires = s.memFires := rfl
@[simp] theorem dropCtx_fences (s : State) (c : Nat) : (dropCtx s c).fences = s.fences := rfl
@[simp] theorem dropCtx_qfences (s : State) (c : Nat) : (dropCtx s c).qfences = s.qfences := rfl
@[simp] theorem dropCtx_waiters (s : State) (c : Nat) : (dropCtx s c).waiters = s.waiters := rfl
@[simp] theorem dropCtx_cards (s : State) (c : Nat) : (dropCtx s c).cards = s.cards := rfl
@[simp] theorem dropCtx_cohorts (s : State) (c : Nat) : (dropCtx s c).cohorts = s.cohorts := rfl
@[simp] theorem dropCtx_cohortOps (s : State) (c : Nat) : (dropCtx s c).cohortOps = s.cohortOps := rfl
@[simp] theorem dropCtx_proofs (s : State) (c : Nat) : (dropCtx s c).proofs = s.proofs := rfl
@[simp] theorem dropCtx_slotWait (s : State) (c : Nat) : (dropCtx s c).slotWait = s.slotWait := rfl
@[simp] theorem dropCtx_slots (s : State) (c : Nat) : (dropCtx s c).slots = s.slots := rfl
@[simp] theorem dropCtx_ways (s : State) (c : Nat) : (dropCtx s c).ways = s.ways := rfl
@[simp] theorem dropCtx_raceBudget (s : State) (c : Nat) : (dropCtx s c).raceBudget = s.raceBudget := rfl
@[simp] theorem dropCtx_raceMicro (s : State) (c : Nat) : (dropCtx s c).raceMicro = s.raceMicro := rfl
@[simp] theorem dropCtx_migrations (s : State) (c : Nat) : (dropCtx s c).migrations = s.migrations := rfl
@[simp] theorem dropCtx_invalidating (s : State) (c : Nat) : (dropCtx s c).invalidating = s.invalidating := rfl
@[simp] theorem dropCtx_fabric (s : State) (c : Nat) : (dropCtx s c).fabric = s.fabric := rfl
@[simp] theorem dropCtx_nextFabric (s : State) (c : Nat) : (dropCtx s c).nextFabric = s.nextFabric := rfl
@[simp] theorem dropCtx_waves (s : State) (c : Nat) : (dropCtx s c).waves = s.waves := rfl
@[simp] theorem dropCtx_links (s : State) (c : Nat) : (dropCtx s c).links = s.links := rfl
@[simp] theorem dropCtx_leases (s : State) (c : Nat) : (dropCtx s c).leases = s.leases := rfl
@[simp] theorem dropCtx_retires (s : State) (c : Nat) : (dropCtx s c).retires = s.retires := rfl
@[simp] theorem dropCtx_xfers (s : State) (c : Nat) : (dropCtx s c).xfers = s.xfers := rfl
@[simp] theorem dropCtx_remoteBuf (s : State) (c : Nat) : (dropCtx s c).remoteBuf = s.remoteBuf := rfl
@[simp] theorem dropCtx_remoteBad (s : State) (c : Nat) : (dropCtx s c).remoteBad = s.remoteBad := rfl
@[simp] theorem dropCtx_inXfers (s : State) (c : Nat) : (dropCtx s c).inXfers = s.inXfers := rfl
@[simp] theorem dropCtx_shards (s : State) (c : Nat) : (dropCtx s c).shards = s.shards := rfl
@[simp] theorem dropCtx_sentFlits (s : State) (c : Nat) : (dropCtx s c).sentFlits = s.sentFlits := rfl
@[simp] theorem dropCtx_dist (s : State) (c : Nat) : (dropCtx s c).dist = s.dist := rfl
@[simp] theorem dropCtx_chunks (s : State) (c : Nat) : (dropCtx s c).chunks = s.chunks := rfl
@[simp] theorem dropCtx_chainStopped (s : State) (c : Nat) : (dropCtx s c).chainStopped = s.chainStopped := rfl
@[simp] theorem dropCtx_devCounts (s : State) (c : Nat) : (dropCtx s c).devCounts = s.devCounts := rfl
@[simp] theorem dropCtx_traceLast (s : State) (c : Nat) : (dropCtx s c).traceLast = s.traceLast := rfl
/-! setGroup. -/
@[simp] theorem setGroup_queue (s : State) (g : Nat) (v : Group) : (setGroup s g v).queue = s.queue := rfl
@[simp] theorem setGroup_script (s : State) (g : Nat) (v : Group) : (setGroup s g v).script = s.script := rfl
@[simp] theorem setGroup_cur (s : State) (g : Nat) (v : Group) : (setGroup s g v).cur = s.cur := rfl
@[simp] theorem setGroup_freeCount (s : State) (g : Nat) (v : Group) : (setGroup s g v).freeCount = s.freeCount := rfl
@[simp] theorem setGroup_nextId (s : State) (g : Nat) (v : Group) : (setGroup s g v).nextId = s.nextId := rfl
@[simp] theorem setGroup_now (s : State) (g : Nat) (v : Group) : (setGroup s g v).now = s.now := rfl
@[simp] theorem setGroup_meets (s : State) (g : Nat) (v : Group) : (setGroup s g v).meets = s.meets := rfl
@[simp] theorem setGroup_tickBase (s : State) (g : Nat) (v : Group) : (setGroup s g v).tickBase = s.tickBase := rfl
@[simp] theorem setGroup_tickAt (s : State) (g : Nat) (v : Group) : (setGroup s g v).tickAt = s.tickAt := rfl
@[simp] theorem setGroup_lendLive (s : State) (g : Nat) (v : Group) : (setGroup s g v).lendLive = s.lendLive := rfl
@[simp] theorem setGroup_lendAt (s : State) (g : Nat) (v : Group) : (setGroup s g v).lendAt = s.lendAt := rfl
@[simp] theorem setGroup_hbm (s : State) (g : Nat) (v : Group) : (setGroup s g v).hbm = s.hbm := rfl
@[simp] theorem setGroup_sram (s : State) (g : Nat) (v : Group) : (setGroup s g v).sram = s.sram := rfl
@[simp] theorem setGroup_hostMem (s : State) (g : Nat) (v : Group) : (setGroup s g v).hostMem = s.hostMem := rfl
@[simp] theorem setGroup_spoiled (s : State) (g : Nat) (v : Group) : (setGroup s g v).spoiled = s.spoiled := rfl
@[simp] theorem setGroup_csrs (s : State) (g : Nat) (v : Group) : (setGroup s g v).csrs = s.csrs := rfl
@[simp] theorem setGroup_ready (s : State) (g : Nat) (v : Group) : (setGroup s g v).ready = s.ready := rfl
@[simp] theorem setGroup_failed (s : State) (g : Nat) (v : Group) : (setGroup s g v).failed = s.failed := rfl
@[simp] theorem setGroup_ramped (s : State) (g : Nat) (v : Group) : (setGroup s g v).ramped = s.ramped := rfl
@[simp] theorem setGroup_wakeAt (s : State) (g : Nat) (v : Group) : (setGroup s g v).wakeAt = s.wakeAt := rfl
@[simp] theorem setGroup_keys (s : State) (g : Nat) (v : Group) : (setGroup s g v).keys = s.keys := rfl
@[simp] theorem setGroup_keyLock (s : State) (g : Nat) (v : Group) : (setGroup s g v).keyLock = s.keyLock := rfl
@[simp] theorem setGroup_attest (s : State) (g : Nat) (v : Group) : (setGroup s g v).attest = s.attest := rfl
@[simp] theorem setGroup_attestStatus (s : State) (g : Nat) (v : Group) : (setGroup s g v).attestStatus = s.attestStatus := rfl
@[simp] theorem setGroup_w4base (s : State) (g : Nat) (v : Group) : (setGroup s g v).w4base = s.w4base := rfl
@[simp] theorem setGroup_hostReading (s : State) (g : Nat) (v : Group) : (setGroup s g v).hostReading = s.hostReading := rfl
@[simp] theorem setGroup_ports (s : State) (g : Nat) (v : Group) : (setGroup s g v).ports = s.ports := rfl
@[simp] theorem setGroup_rings (s : State) (g : Nat) (v : Group) : (setGroup s g v).rings = s.rings := rfl
@[simp] theorem setGroup_egress (s : State) (g : Nat) (v : Group) : (setGroup s g v).egress = s.egress := rfl
@[simp] theorem setGroup_eventWait (s : State) (g : Nat) (v : Group) : (setGroup s g v).eventWait = s.eventWait := rfl
@[simp] theorem setGroup_faultWait (s : State) (g : Nat) (v : Group) : (setGroup s g v).faultWait = s.faultWait := rfl
@[simp] theorem setGroup_quarWait (s : State) (g : Nat) (v : Group) : (setGroup s g v).quarWait = s.quarWait := rfl
@[simp] theorem setGroup_faultSeq (s : State) (g : Nat) (v : Group) : (setGroup s g v).faultSeq = s.faultSeq := rfl
@[simp] theorem setGroup_records (s : State) (g : Nat) (v : Group) : (setGroup s g v).records = s.records := rfl
@[simp] theorem setGroup_hostOut (s : State) (g : Nat) (v : Group) : (setGroup s g v).hostOut = s.hostOut := rfl
@[simp] theorem setGroup_arrivals (s : State) (g : Nat) (v : Group) : (setGroup s g v).arrivals = s.arrivals := rfl
@[simp] theorem setGroup_promotions (s : State) (g : Nat) (v : Group) : (setGroup s g v).promotions = s.promotions := rfl
@[simp] theorem setGroup_slotNotes (s : State) (g : Nat) (v : Group) : (setGroup s g v).slotNotes = s.slotNotes := rfl
@[simp] theorem setGroup_unsent (s : State) (g : Nat) (v : Group) : (setGroup s g v).unsent = s.unsent := rfl
@[simp] theorem setGroup_groups (s : State) (g : Nat) (v : Group) : (setGroup s g v).groups = tabSet (fun _ => Group.empty) s.groups g v := rfl
@[simp] theorem setGroup_presses (s : State) (g : Nat) (v : Group) : (setGroup s g v).presses = s.presses := rfl
@[simp] theorem setGroup_steps (s : State) (g : Nat) (v : Group) : (setGroup s g v).steps = s.steps := rfl
@[simp] theorem setGroup_ctxs (s : State) (g : Nat) (v : Group) : (setGroup s g v).ctxs = s.ctxs := rfl
@[simp] theorem setGroup_accesses (s : State) (g : Nat) (v : Group) : (setGroup s g v).accesses = s.accesses := rfl
@[simp] theorem setGroup_settling (s : State) (g : Nat) (v : Group) : (setGroup s g v).settling = s.settling := rfl
@[simp] theorem setGroup_memFires (s : State) (g : Nat) (v : Group) : (setGroup s g v).memFires = s.memFires := rfl
@[simp] theorem setGroup_fences (s : State) (g : Nat) (v : Group) : (setGroup s g v).fences = s.fences := rfl
@[simp] theorem setGroup_qfences (s : State) (g : Nat) (v : Group) : (setGroup s g v).qfences = s.qfences := rfl
@[simp] theorem setGroup_waiters (s : State) (g : Nat) (v : Group) : (setGroup s g v).waiters = s.waiters := rfl
@[simp] theorem setGroup_cards (s : State) (g : Nat) (v : Group) : (setGroup s g v).cards = s.cards := rfl
@[simp] theorem setGroup_cohorts (s : State) (g : Nat) (v : Group) : (setGroup s g v).cohorts = s.cohorts := rfl
@[simp] theorem setGroup_cohortOps (s : State) (g : Nat) (v : Group) : (setGroup s g v).cohortOps = s.cohortOps := rfl
@[simp] theorem setGroup_proofs (s : State) (g : Nat) (v : Group) : (setGroup s g v).proofs = s.proofs := rfl
@[simp] theorem setGroup_slotWait (s : State) (g : Nat) (v : Group) : (setGroup s g v).slotWait = s.slotWait := rfl
@[simp] theorem setGroup_slots (s : State) (g : Nat) (v : Group) : (setGroup s g v).slots = s.slots := rfl
@[simp] theorem setGroup_ways (s : State) (g : Nat) (v : Group) : (setGroup s g v).ways = s.ways := rfl
@[simp] theorem setGroup_raceBudget (s : State) (g : Nat) (v : Group) : (setGroup s g v).raceBudget = s.raceBudget := rfl
@[simp] theorem setGroup_raceMicro (s : State) (g : Nat) (v : Group) : (setGroup s g v).raceMicro = s.raceMicro := rfl
@[simp] theorem setGroup_migrations (s : State) (g : Nat) (v : Group) : (setGroup s g v).migrations = s.migrations := rfl
@[simp] theorem setGroup_invalidating (s : State) (g : Nat) (v : Group) : (setGroup s g v).invalidating = s.invalidating := rfl
@[simp] theorem setGroup_fabric (s : State) (g : Nat) (v : Group) : (setGroup s g v).fabric = s.fabric := rfl
@[simp] theorem setGroup_nextFabric (s : State) (g : Nat) (v : Group) : (setGroup s g v).nextFabric = s.nextFabric := rfl
@[simp] theorem setGroup_waves (s : State) (g : Nat) (v : Group) : (setGroup s g v).waves = s.waves := rfl
@[simp] theorem setGroup_links (s : State) (g : Nat) (v : Group) : (setGroup s g v).links = s.links := rfl
@[simp] theorem setGroup_leases (s : State) (g : Nat) (v : Group) : (setGroup s g v).leases = s.leases := rfl
@[simp] theorem setGroup_retires (s : State) (g : Nat) (v : Group) : (setGroup s g v).retires = s.retires := rfl
@[simp] theorem setGroup_xfers (s : State) (g : Nat) (v : Group) : (setGroup s g v).xfers = s.xfers := rfl
@[simp] theorem setGroup_remoteBuf (s : State) (g : Nat) (v : Group) : (setGroup s g v).remoteBuf = s.remoteBuf := rfl
@[simp] theorem setGroup_remoteBad (s : State) (g : Nat) (v : Group) : (setGroup s g v).remoteBad = s.remoteBad := rfl
@[simp] theorem setGroup_inXfers (s : State) (g : Nat) (v : Group) : (setGroup s g v).inXfers = s.inXfers := rfl
@[simp] theorem setGroup_shards (s : State) (g : Nat) (v : Group) : (setGroup s g v).shards = s.shards := rfl
@[simp] theorem setGroup_sentFlits (s : State) (g : Nat) (v : Group) : (setGroup s g v).sentFlits = s.sentFlits := rfl
@[simp] theorem setGroup_dist (s : State) (g : Nat) (v : Group) : (setGroup s g v).dist = s.dist := rfl
@[simp] theorem setGroup_chunks (s : State) (g : Nat) (v : Group) : (setGroup s g v).chunks = s.chunks := rfl
@[simp] theorem setGroup_chainStopped (s : State) (g : Nat) (v : Group) : (setGroup s g v).chainStopped = s.chainStopped := rfl
@[simp] theorem setGroup_devCounts (s : State) (g : Nat) (v : Group) : (setGroup s g v).devCounts = s.devCounts := rfl
@[simp] theorem setGroup_traceLast (s : State) (g : Nat) (v : Group) : (setGroup s g v).traceLast = s.traceLast := rfl
/-! modGroup. -/
@[simp] theorem modGroup_queue (s : State) (g : Nat) (f : Group → Group) : (modGroup s g f).queue = s.queue := rfl
@[simp] theorem modGroup_script (s : State) (g : Nat) (f : Group → Group) : (modGroup s g f).script = s.script := rfl
@[simp] theorem modGroup_cur (s : State) (g : Nat) (f : Group → Group) : (modGroup s g f).cur = s.cur := rfl
@[simp] theorem modGroup_freeCount (s : State) (g : Nat) (f : Group → Group) : (modGroup s g f).freeCount = s.freeCount := rfl
@[simp] theorem modGroup_nextId (s : State) (g : Nat) (f : Group → Group) : (modGroup s g f).nextId = s.nextId := rfl
@[simp] theorem modGroup_now (s : State) (g : Nat) (f : Group → Group) : (modGroup s g f).now = s.now := rfl
@[simp] theorem modGroup_meets (s : State) (g : Nat) (f : Group → Group) : (modGroup s g f).meets = s.meets := rfl
@[simp] theorem modGroup_tickBase (s : State) (g : Nat) (f : Group → Group) : (modGroup s g f).tickBase = s.tickBase := rfl
@[simp] theorem modGroup_tickAt (s : State) (g : Nat) (f : Group → Group) : (modGroup s g f).tickAt = s.tickAt := rfl
@[simp] theorem modGroup_lendLive (s : State) (g : Nat) (f : Group → Group) : (modGroup s g f).lendLive = s.lendLive := rfl
@[simp] theorem modGroup_lendAt (s : State) (g : Nat) (f : Group → Group) : (modGroup s g f).lendAt = s.lendAt := rfl
@[simp] theorem modGroup_hbm (s : State) (g : Nat) (f : Group → Group) : (modGroup s g f).hbm = s.hbm := rfl
@[simp] theorem modGroup_sram (s : State) (g : Nat) (f : Group → Group) : (modGroup s g f).sram = s.sram := rfl
@[simp] theorem modGroup_hostMem (s : State) (g : Nat) (f : Group → Group) : (modGroup s g f).hostMem = s.hostMem := rfl
@[simp] theorem modGroup_spoiled (s : State) (g : Nat) (f : Group → Group) : (modGroup s g f).spoiled = s.spoiled := rfl
@[simp] theorem modGroup_csrs (s : State) (g : Nat) (f : Group → Group) : (modGroup s g f).csrs = s.csrs := rfl
@[simp] theorem modGroup_ready (s : State) (g : Nat) (f : Group → Group) : (modGroup s g f).ready = s.ready := rfl
@[simp] theorem modGroup_failed (s : State) (g : Nat) (f : Group → Group) : (modGroup s g f).failed = s.failed := rfl
@[simp] theorem modGroup_ramped (s : State) (g : Nat) (f : Group → Group) : (modGroup s g f).ramped = s.ramped := rfl
@[simp] theorem modGroup_wakeAt (s : State) (g : Nat) (f : Group → Group) : (modGroup s g f).wakeAt = s.wakeAt := rfl
@[simp] theorem modGroup_keys (s : State) (g : Nat) (f : Group → Group) : (modGroup s g f).keys = s.keys := rfl
@[simp] theorem modGroup_keyLock (s : State) (g : Nat) (f : Group → Group) : (modGroup s g f).keyLock = s.keyLock := rfl
@[simp] theorem modGroup_attest (s : State) (g : Nat) (f : Group → Group) : (modGroup s g f).attest = s.attest := rfl
@[simp] theorem modGroup_attestStatus (s : State) (g : Nat) (f : Group → Group) : (modGroup s g f).attestStatus = s.attestStatus := rfl
@[simp] theorem modGroup_w4base (s : State) (g : Nat) (f : Group → Group) : (modGroup s g f).w4base = s.w4base := rfl
@[simp] theorem modGroup_hostReading (s : State) (g : Nat) (f : Group → Group) : (modGroup s g f).hostReading = s.hostReading := rfl
@[simp] theorem modGroup_ports (s : State) (g : Nat) (f : Group → Group) : (modGroup s g f).ports = s.ports := rfl
@[simp] theorem modGroup_rings (s : State) (g : Nat) (f : Group → Group) : (modGroup s g f).rings = s.rings := rfl
@[simp] theorem modGroup_egress (s : State) (g : Nat) (f : Group → Group) : (modGroup s g f).egress = s.egress := rfl
@[simp] theorem modGroup_eventWait (s : State) (g : Nat) (f : Group → Group) : (modGroup s g f).eventWait = s.eventWait := rfl
@[simp] theorem modGroup_faultWait (s : State) (g : Nat) (f : Group → Group) : (modGroup s g f).faultWait = s.faultWait := rfl
@[simp] theorem modGroup_quarWait (s : State) (g : Nat) (f : Group → Group) : (modGroup s g f).quarWait = s.quarWait := rfl
@[simp] theorem modGroup_faultSeq (s : State) (g : Nat) (f : Group → Group) : (modGroup s g f).faultSeq = s.faultSeq := rfl
@[simp] theorem modGroup_records (s : State) (g : Nat) (f : Group → Group) : (modGroup s g f).records = s.records := rfl
@[simp] theorem modGroup_hostOut (s : State) (g : Nat) (f : Group → Group) : (modGroup s g f).hostOut = s.hostOut := rfl
@[simp] theorem modGroup_arrivals (s : State) (g : Nat) (f : Group → Group) : (modGroup s g f).arrivals = s.arrivals := rfl
@[simp] theorem modGroup_promotions (s : State) (g : Nat) (f : Group → Group) : (modGroup s g f).promotions = s.promotions := rfl
@[simp] theorem modGroup_slotNotes (s : State) (g : Nat) (f : Group → Group) : (modGroup s g f).slotNotes = s.slotNotes := rfl
@[simp] theorem modGroup_unsent (s : State) (g : Nat) (f : Group → Group) : (modGroup s g f).unsent = s.unsent := rfl
@[simp] theorem modGroup_presses (s : State) (g : Nat) (f : Group → Group) : (modGroup s g f).presses = s.presses := rfl
@[simp] theorem modGroup_steps (s : State) (g : Nat) (f : Group → Group) : (modGroup s g f).steps = s.steps := rfl
@[simp] theorem modGroup_ctxs (s : State) (g : Nat) (f : Group → Group) : (modGroup s g f).ctxs = s.ctxs := rfl
@[simp] theorem modGroup_accesses (s : State) (g : Nat) (f : Group → Group) : (modGroup s g f).accesses = s.accesses := rfl
@[simp] theorem modGroup_settling (s : State) (g : Nat) (f : Group → Group) : (modGroup s g f).settling = s.settling := rfl
@[simp] theorem modGroup_memFires (s : State) (g : Nat) (f : Group → Group) : (modGroup s g f).memFires = s.memFires := rfl
@[simp] theorem modGroup_fences (s : State) (g : Nat) (f : Group → Group) : (modGroup s g f).fences = s.fences := rfl
@[simp] theorem modGroup_qfences (s : State) (g : Nat) (f : Group → Group) : (modGroup s g f).qfences = s.qfences := rfl
@[simp] theorem modGroup_waiters (s : State) (g : Nat) (f : Group → Group) : (modGroup s g f).waiters = s.waiters := rfl
@[simp] theorem modGroup_cards (s : State) (g : Nat) (f : Group → Group) : (modGroup s g f).cards = s.cards := rfl
@[simp] theorem modGroup_cohorts (s : State) (g : Nat) (f : Group → Group) : (modGroup s g f).cohorts = s.cohorts := rfl
@[simp] theorem modGroup_cohortOps (s : State) (g : Nat) (f : Group → Group) : (modGroup s g f).cohortOps = s.cohortOps := rfl
@[simp] theorem modGroup_proofs (s : State) (g : Nat) (f : Group → Group) : (modGroup s g f).proofs = s.proofs := rfl
@[simp] theorem modGroup_slotWait (s : State) (g : Nat) (f : Group → Group) : (modGroup s g f).slotWait = s.slotWait := rfl
@[simp] theorem modGroup_slots (s : State) (g : Nat) (f : Group → Group) : (modGroup s g f).slots = s.slots := rfl
@[simp] theorem modGroup_ways (s : State) (g : Nat) (f : Group → Group) : (modGroup s g f).ways = s.ways := rfl
@[simp] theorem modGroup_raceBudget (s : State) (g : Nat) (f : Group → Group) : (modGroup s g f).raceBudget = s.raceBudget := rfl
@[simp] theorem modGroup_raceMicro (s : State) (g : Nat) (f : Group → Group) : (modGroup s g f).raceMicro = s.raceMicro := rfl
@[simp] theorem modGroup_migrations (s : State) (g : Nat) (f : Group → Group) : (modGroup s g f).migrations = s.migrations := rfl
@[simp] theorem modGroup_invalidating (s : State) (g : Nat) (f : Group → Group) : (modGroup s g f).invalidating = s.invalidating := rfl
@[simp] theorem modGroup_fabric (s : State) (g : Nat) (f : Group → Group) : (modGroup s g f).fabric = s.fabric := rfl
@[simp] theorem modGroup_nextFabric (s : State) (g : Nat) (f : Group → Group) : (modGroup s g f).nextFabric = s.nextFabric := rfl
@[simp] theorem modGroup_waves (s : State) (g : Nat) (f : Group → Group) : (modGroup s g f).waves = s.waves := rfl
@[simp] theorem modGroup_links (s : State) (g : Nat) (f : Group → Group) : (modGroup s g f).links = s.links := rfl
@[simp] theorem modGroup_leases (s : State) (g : Nat) (f : Group → Group) : (modGroup s g f).leases = s.leases := rfl
@[simp] theorem modGroup_retires (s : State) (g : Nat) (f : Group → Group) : (modGroup s g f).retires = s.retires := rfl
@[simp] theorem modGroup_xfers (s : State) (g : Nat) (f : Group → Group) : (modGroup s g f).xfers = s.xfers := rfl
@[simp] theorem modGroup_remoteBuf (s : State) (g : Nat) (f : Group → Group) : (modGroup s g f).remoteBuf = s.remoteBuf := rfl
@[simp] theorem modGroup_remoteBad (s : State) (g : Nat) (f : Group → Group) : (modGroup s g f).remoteBad = s.remoteBad := rfl
@[simp] theorem modGroup_inXfers (s : State) (g : Nat) (f : Group → Group) : (modGroup s g f).inXfers = s.inXfers := rfl
@[simp] theorem modGroup_shards (s : State) (g : Nat) (f : Group → Group) : (modGroup s g f).shards = s.shards := rfl
@[simp] theorem modGroup_sentFlits (s : State) (g : Nat) (f : Group → Group) : (modGroup s g f).sentFlits = s.sentFlits := rfl
@[simp] theorem modGroup_dist (s : State) (g : Nat) (f : Group → Group) : (modGroup s g f).dist = s.dist := rfl
@[simp] theorem modGroup_chunks (s : State) (g : Nat) (f : Group → Group) : (modGroup s g f).chunks = s.chunks := rfl
@[simp] theorem modGroup_chainStopped (s : State) (g : Nat) (f : Group → Group) : (modGroup s g f).chainStopped = s.chainStopped := rfl
@[simp] theorem modGroup_devCounts (s : State) (g : Nat) (f : Group → Group) : (modGroup s g f).devCounts = s.devCounts := rfl
@[simp] theorem modGroup_traceLast (s : State) (g : Nat) (f : Group → Group) : (modGroup s g f).traceLast = s.traceLast := rfl
/-! setPress. -/
@[simp] theorem setPress_queue (s : State) (p : Nat) (v : Press) : (setPress s p v).queue = s.queue := rfl
@[simp] theorem setPress_script (s : State) (p : Nat) (v : Press) : (setPress s p v).script = s.script := rfl
@[simp] theorem setPress_cur (s : State) (p : Nat) (v : Press) : (setPress s p v).cur = s.cur := rfl
@[simp] theorem setPress_freeCount (s : State) (p : Nat) (v : Press) : (setPress s p v).freeCount = s.freeCount := rfl
@[simp] theorem setPress_nextId (s : State) (p : Nat) (v : Press) : (setPress s p v).nextId = s.nextId := rfl
@[simp] theorem setPress_now (s : State) (p : Nat) (v : Press) : (setPress s p v).now = s.now := rfl
@[simp] theorem setPress_meets (s : State) (p : Nat) (v : Press) : (setPress s p v).meets = s.meets := rfl
@[simp] theorem setPress_tickBase (s : State) (p : Nat) (v : Press) : (setPress s p v).tickBase = s.tickBase := rfl
@[simp] theorem setPress_tickAt (s : State) (p : Nat) (v : Press) : (setPress s p v).tickAt = s.tickAt := rfl
@[simp] theorem setPress_lendLive (s : State) (p : Nat) (v : Press) : (setPress s p v).lendLive = s.lendLive := rfl
@[simp] theorem setPress_lendAt (s : State) (p : Nat) (v : Press) : (setPress s p v).lendAt = s.lendAt := rfl
@[simp] theorem setPress_hbm (s : State) (p : Nat) (v : Press) : (setPress s p v).hbm = s.hbm := rfl
@[simp] theorem setPress_sram (s : State) (p : Nat) (v : Press) : (setPress s p v).sram = s.sram := rfl
@[simp] theorem setPress_hostMem (s : State) (p : Nat) (v : Press) : (setPress s p v).hostMem = s.hostMem := rfl
@[simp] theorem setPress_spoiled (s : State) (p : Nat) (v : Press) : (setPress s p v).spoiled = s.spoiled := rfl
@[simp] theorem setPress_csrs (s : State) (p : Nat) (v : Press) : (setPress s p v).csrs = s.csrs := rfl
@[simp] theorem setPress_ready (s : State) (p : Nat) (v : Press) : (setPress s p v).ready = s.ready := rfl
@[simp] theorem setPress_failed (s : State) (p : Nat) (v : Press) : (setPress s p v).failed = s.failed := rfl
@[simp] theorem setPress_ramped (s : State) (p : Nat) (v : Press) : (setPress s p v).ramped = s.ramped := rfl
@[simp] theorem setPress_wakeAt (s : State) (p : Nat) (v : Press) : (setPress s p v).wakeAt = s.wakeAt := rfl
@[simp] theorem setPress_keys (s : State) (p : Nat) (v : Press) : (setPress s p v).keys = s.keys := rfl
@[simp] theorem setPress_keyLock (s : State) (p : Nat) (v : Press) : (setPress s p v).keyLock = s.keyLock := rfl
@[simp] theorem setPress_attest (s : State) (p : Nat) (v : Press) : (setPress s p v).attest = s.attest := rfl
@[simp] theorem setPress_attestStatus (s : State) (p : Nat) (v : Press) : (setPress s p v).attestStatus = s.attestStatus := rfl
@[simp] theorem setPress_w4base (s : State) (p : Nat) (v : Press) : (setPress s p v).w4base = s.w4base := rfl
@[simp] theorem setPress_hostReading (s : State) (p : Nat) (v : Press) : (setPress s p v).hostReading = s.hostReading := rfl
@[simp] theorem setPress_ports (s : State) (p : Nat) (v : Press) : (setPress s p v).ports = s.ports := rfl
@[simp] theorem setPress_rings (s : State) (p : Nat) (v : Press) : (setPress s p v).rings = s.rings := rfl
@[simp] theorem setPress_egress (s : State) (p : Nat) (v : Press) : (setPress s p v).egress = s.egress := rfl
@[simp] theorem setPress_eventWait (s : State) (p : Nat) (v : Press) : (setPress s p v).eventWait = s.eventWait := rfl
@[simp] theorem setPress_faultWait (s : State) (p : Nat) (v : Press) : (setPress s p v).faultWait = s.faultWait := rfl
@[simp] theorem setPress_quarWait (s : State) (p : Nat) (v : Press) : (setPress s p v).quarWait = s.quarWait := rfl
@[simp] theorem setPress_faultSeq (s : State) (p : Nat) (v : Press) : (setPress s p v).faultSeq = s.faultSeq := rfl
@[simp] theorem setPress_records (s : State) (p : Nat) (v : Press) : (setPress s p v).records = s.records := rfl
@[simp] theorem setPress_hostOut (s : State) (p : Nat) (v : Press) : (setPress s p v).hostOut = s.hostOut := rfl
@[simp] theorem setPress_arrivals (s : State) (p : Nat) (v : Press) : (setPress s p v).arrivals = s.arrivals := rfl
@[simp] theorem setPress_promotions (s : State) (p : Nat) (v : Press) : (setPress s p v).promotions = s.promotions := rfl
@[simp] theorem setPress_slotNotes (s : State) (p : Nat) (v : Press) : (setPress s p v).slotNotes = s.slotNotes := rfl
@[simp] theorem setPress_unsent (s : State) (p : Nat) (v : Press) : (setPress s p v).unsent = s.unsent := rfl
@[simp] theorem setPress_groups (s : State) (p : Nat) (v : Press) : (setPress s p v).groups = s.groups := rfl
@[simp] theorem setPress_presses (s : State) (p : Nat) (v : Press) : (setPress s p v).presses = tabSet (fun _ => Press.empty) s.presses p v := rfl
@[simp] theorem setPress_steps (s : State) (p : Nat) (v : Press) : (setPress s p v).steps = s.steps := rfl
@[simp] theorem setPress_ctxs (s : State) (p : Nat) (v : Press) : (setPress s p v).ctxs = s.ctxs := rfl
@[simp] theorem setPress_accesses (s : State) (p : Nat) (v : Press) : (setPress s p v).accesses = s.accesses := rfl
@[simp] theorem setPress_settling (s : State) (p : Nat) (v : Press) : (setPress s p v).settling = s.settling := rfl
@[simp] theorem setPress_memFires (s : State) (p : Nat) (v : Press) : (setPress s p v).memFires = s.memFires := rfl
@[simp] theorem setPress_fences (s : State) (p : Nat) (v : Press) : (setPress s p v).fences = s.fences := rfl
@[simp] theorem setPress_qfences (s : State) (p : Nat) (v : Press) : (setPress s p v).qfences = s.qfences := rfl
@[simp] theorem setPress_waiters (s : State) (p : Nat) (v : Press) : (setPress s p v).waiters = s.waiters := rfl
@[simp] theorem setPress_cards (s : State) (p : Nat) (v : Press) : (setPress s p v).cards = s.cards := rfl
@[simp] theorem setPress_cohorts (s : State) (p : Nat) (v : Press) : (setPress s p v).cohorts = s.cohorts := rfl
@[simp] theorem setPress_cohortOps (s : State) (p : Nat) (v : Press) : (setPress s p v).cohortOps = s.cohortOps := rfl
@[simp] theorem setPress_proofs (s : State) (p : Nat) (v : Press) : (setPress s p v).proofs = s.proofs := rfl
@[simp] theorem setPress_slotWait (s : State) (p : Nat) (v : Press) : (setPress s p v).slotWait = s.slotWait := rfl
@[simp] theorem setPress_slots (s : State) (p : Nat) (v : Press) : (setPress s p v).slots = s.slots := rfl
@[simp] theorem setPress_ways (s : State) (p : Nat) (v : Press) : (setPress s p v).ways = s.ways := rfl
@[simp] theorem setPress_raceBudget (s : State) (p : Nat) (v : Press) : (setPress s p v).raceBudget = s.raceBudget := rfl
@[simp] theorem setPress_raceMicro (s : State) (p : Nat) (v : Press) : (setPress s p v).raceMicro = s.raceMicro := rfl
@[simp] theorem setPress_migrations (s : State) (p : Nat) (v : Press) : (setPress s p v).migrations = s.migrations := rfl
@[simp] theorem setPress_invalidating (s : State) (p : Nat) (v : Press) : (setPress s p v).invalidating = s.invalidating := rfl
@[simp] theorem setPress_fabric (s : State) (p : Nat) (v : Press) : (setPress s p v).fabric = s.fabric := rfl
@[simp] theorem setPress_nextFabric (s : State) (p : Nat) (v : Press) : (setPress s p v).nextFabric = s.nextFabric := rfl
@[simp] theorem setPress_waves (s : State) (p : Nat) (v : Press) : (setPress s p v).waves = s.waves := rfl
@[simp] theorem setPress_links (s : State) (p : Nat) (v : Press) : (setPress s p v).links = s.links := rfl
@[simp] theorem setPress_leases (s : State) (p : Nat) (v : Press) : (setPress s p v).leases = s.leases := rfl
@[simp] theorem setPress_retires (s : State) (p : Nat) (v : Press) : (setPress s p v).retires = s.retires := rfl
@[simp] theorem setPress_xfers (s : State) (p : Nat) (v : Press) : (setPress s p v).xfers = s.xfers := rfl
@[simp] theorem setPress_remoteBuf (s : State) (p : Nat) (v : Press) : (setPress s p v).remoteBuf = s.remoteBuf := rfl
@[simp] theorem setPress_remoteBad (s : State) (p : Nat) (v : Press) : (setPress s p v).remoteBad = s.remoteBad := rfl
@[simp] theorem setPress_inXfers (s : State) (p : Nat) (v : Press) : (setPress s p v).inXfers = s.inXfers := rfl
@[simp] theorem setPress_shards (s : State) (p : Nat) (v : Press) : (setPress s p v).shards = s.shards := rfl
@[simp] theorem setPress_sentFlits (s : State) (p : Nat) (v : Press) : (setPress s p v).sentFlits = s.sentFlits := rfl
@[simp] theorem setPress_dist (s : State) (p : Nat) (v : Press) : (setPress s p v).dist = s.dist := rfl
@[simp] theorem setPress_chunks (s : State) (p : Nat) (v : Press) : (setPress s p v).chunks = s.chunks := rfl
@[simp] theorem setPress_chainStopped (s : State) (p : Nat) (v : Press) : (setPress s p v).chainStopped = s.chainStopped := rfl
@[simp] theorem setPress_devCounts (s : State) (p : Nat) (v : Press) : (setPress s p v).devCounts = s.devCounts := rfl
@[simp] theorem setPress_traceLast (s : State) (p : Nat) (v : Press) : (setPress s p v).traceLast = s.traceLast := rfl
/-! modPress. -/
@[simp] theorem modPress_queue (s : State) (p : Nat) (f : Press → Press) : (modPress s p f).queue = s.queue := rfl
@[simp] theorem modPress_script (s : State) (p : Nat) (f : Press → Press) : (modPress s p f).script = s.script := rfl
@[simp] theorem modPress_cur (s : State) (p : Nat) (f : Press → Press) : (modPress s p f).cur = s.cur := rfl
@[simp] theorem modPress_freeCount (s : State) (p : Nat) (f : Press → Press) : (modPress s p f).freeCount = s.freeCount := rfl
@[simp] theorem modPress_nextId (s : State) (p : Nat) (f : Press → Press) : (modPress s p f).nextId = s.nextId := rfl
@[simp] theorem modPress_now (s : State) (p : Nat) (f : Press → Press) : (modPress s p f).now = s.now := rfl
@[simp] theorem modPress_meets (s : State) (p : Nat) (f : Press → Press) : (modPress s p f).meets = s.meets := rfl
@[simp] theorem modPress_tickBase (s : State) (p : Nat) (f : Press → Press) : (modPress s p f).tickBase = s.tickBase := rfl
@[simp] theorem modPress_tickAt (s : State) (p : Nat) (f : Press → Press) : (modPress s p f).tickAt = s.tickAt := rfl
@[simp] theorem modPress_lendLive (s : State) (p : Nat) (f : Press → Press) : (modPress s p f).lendLive = s.lendLive := rfl
@[simp] theorem modPress_lendAt (s : State) (p : Nat) (f : Press → Press) : (modPress s p f).lendAt = s.lendAt := rfl
@[simp] theorem modPress_hbm (s : State) (p : Nat) (f : Press → Press) : (modPress s p f).hbm = s.hbm := rfl
@[simp] theorem modPress_sram (s : State) (p : Nat) (f : Press → Press) : (modPress s p f).sram = s.sram := rfl
@[simp] theorem modPress_hostMem (s : State) (p : Nat) (f : Press → Press) : (modPress s p f).hostMem = s.hostMem := rfl
@[simp] theorem modPress_spoiled (s : State) (p : Nat) (f : Press → Press) : (modPress s p f).spoiled = s.spoiled := rfl
@[simp] theorem modPress_csrs (s : State) (p : Nat) (f : Press → Press) : (modPress s p f).csrs = s.csrs := rfl
@[simp] theorem modPress_ready (s : State) (p : Nat) (f : Press → Press) : (modPress s p f).ready = s.ready := rfl
@[simp] theorem modPress_failed (s : State) (p : Nat) (f : Press → Press) : (modPress s p f).failed = s.failed := rfl
@[simp] theorem modPress_ramped (s : State) (p : Nat) (f : Press → Press) : (modPress s p f).ramped = s.ramped := rfl
@[simp] theorem modPress_wakeAt (s : State) (p : Nat) (f : Press → Press) : (modPress s p f).wakeAt = s.wakeAt := rfl
@[simp] theorem modPress_keys (s : State) (p : Nat) (f : Press → Press) : (modPress s p f).keys = s.keys := rfl
@[simp] theorem modPress_keyLock (s : State) (p : Nat) (f : Press → Press) : (modPress s p f).keyLock = s.keyLock := rfl
@[simp] theorem modPress_attest (s : State) (p : Nat) (f : Press → Press) : (modPress s p f).attest = s.attest := rfl
@[simp] theorem modPress_attestStatus (s : State) (p : Nat) (f : Press → Press) : (modPress s p f).attestStatus = s.attestStatus := rfl
@[simp] theorem modPress_w4base (s : State) (p : Nat) (f : Press → Press) : (modPress s p f).w4base = s.w4base := rfl
@[simp] theorem modPress_hostReading (s : State) (p : Nat) (f : Press → Press) : (modPress s p f).hostReading = s.hostReading := rfl
@[simp] theorem modPress_ports (s : State) (p : Nat) (f : Press → Press) : (modPress s p f).ports = s.ports := rfl
@[simp] theorem modPress_rings (s : State) (p : Nat) (f : Press → Press) : (modPress s p f).rings = s.rings := rfl
@[simp] theorem modPress_egress (s : State) (p : Nat) (f : Press → Press) : (modPress s p f).egress = s.egress := rfl
@[simp] theorem modPress_eventWait (s : State) (p : Nat) (f : Press → Press) : (modPress s p f).eventWait = s.eventWait := rfl
@[simp] theorem modPress_faultWait (s : State) (p : Nat) (f : Press → Press) : (modPress s p f).faultWait = s.faultWait := rfl
@[simp] theorem modPress_quarWait (s : State) (p : Nat) (f : Press → Press) : (modPress s p f).quarWait = s.quarWait := rfl
@[simp] theorem modPress_faultSeq (s : State) (p : Nat) (f : Press → Press) : (modPress s p f).faultSeq = s.faultSeq := rfl
@[simp] theorem modPress_records (s : State) (p : Nat) (f : Press → Press) : (modPress s p f).records = s.records := rfl
@[simp] theorem modPress_hostOut (s : State) (p : Nat) (f : Press → Press) : (modPress s p f).hostOut = s.hostOut := rfl
@[simp] theorem modPress_arrivals (s : State) (p : Nat) (f : Press → Press) : (modPress s p f).arrivals = s.arrivals := rfl
@[simp] theorem modPress_promotions (s : State) (p : Nat) (f : Press → Press) : (modPress s p f).promotions = s.promotions := rfl
@[simp] theorem modPress_slotNotes (s : State) (p : Nat) (f : Press → Press) : (modPress s p f).slotNotes = s.slotNotes := rfl
@[simp] theorem modPress_unsent (s : State) (p : Nat) (f : Press → Press) : (modPress s p f).unsent = s.unsent := rfl
@[simp] theorem modPress_groups (s : State) (p : Nat) (f : Press → Press) : (modPress s p f).groups = s.groups := rfl
@[simp] theorem modPress_steps (s : State) (p : Nat) (f : Press → Press) : (modPress s p f).steps = s.steps := rfl
@[simp] theorem modPress_ctxs (s : State) (p : Nat) (f : Press → Press) : (modPress s p f).ctxs = s.ctxs := rfl
@[simp] theorem modPress_accesses (s : State) (p : Nat) (f : Press → Press) : (modPress s p f).accesses = s.accesses := rfl
@[simp] theorem modPress_settling (s : State) (p : Nat) (f : Press → Press) : (modPress s p f).settling = s.settling := rfl
@[simp] theorem modPress_memFires (s : State) (p : Nat) (f : Press → Press) : (modPress s p f).memFires = s.memFires := rfl
@[simp] theorem modPress_fences (s : State) (p : Nat) (f : Press → Press) : (modPress s p f).fences = s.fences := rfl
@[simp] theorem modPress_qfences (s : State) (p : Nat) (f : Press → Press) : (modPress s p f).qfences = s.qfences := rfl
@[simp] theorem modPress_waiters (s : State) (p : Nat) (f : Press → Press) : (modPress s p f).waiters = s.waiters := rfl
@[simp] theorem modPress_cards (s : State) (p : Nat) (f : Press → Press) : (modPress s p f).cards = s.cards := rfl
@[simp] theorem modPress_cohorts (s : State) (p : Nat) (f : Press → Press) : (modPress s p f).cohorts = s.cohorts := rfl
@[simp] theorem modPress_cohortOps (s : State) (p : Nat) (f : Press → Press) : (modPress s p f).cohortOps = s.cohortOps := rfl
@[simp] theorem modPress_proofs (s : State) (p : Nat) (f : Press → Press) : (modPress s p f).proofs = s.proofs := rfl
@[simp] theorem modPress_slotWait (s : State) (p : Nat) (f : Press → Press) : (modPress s p f).slotWait = s.slotWait := rfl
@[simp] theorem modPress_slots (s : State) (p : Nat) (f : Press → Press) : (modPress s p f).slots = s.slots := rfl
@[simp] theorem modPress_ways (s : State) (p : Nat) (f : Press → Press) : (modPress s p f).ways = s.ways := rfl
@[simp] theorem modPress_raceBudget (s : State) (p : Nat) (f : Press → Press) : (modPress s p f).raceBudget = s.raceBudget := rfl
@[simp] theorem modPress_raceMicro (s : State) (p : Nat) (f : Press → Press) : (modPress s p f).raceMicro = s.raceMicro := rfl
@[simp] theorem modPress_migrations (s : State) (p : Nat) (f : Press → Press) : (modPress s p f).migrations = s.migrations := rfl
@[simp] theorem modPress_invalidating (s : State) (p : Nat) (f : Press → Press) : (modPress s p f).invalidating = s.invalidating := rfl
@[simp] theorem modPress_fabric (s : State) (p : Nat) (f : Press → Press) : (modPress s p f).fabric = s.fabric := rfl
@[simp] theorem modPress_nextFabric (s : State) (p : Nat) (f : Press → Press) : (modPress s p f).nextFabric = s.nextFabric := rfl
@[simp] theorem modPress_waves (s : State) (p : Nat) (f : Press → Press) : (modPress s p f).waves = s.waves := rfl
@[simp] theorem modPress_links (s : State) (p : Nat) (f : Press → Press) : (modPress s p f).links = s.links := rfl
@[simp] theorem modPress_leases (s : State) (p : Nat) (f : Press → Press) : (modPress s p f).leases = s.leases := rfl
@[simp] theorem modPress_retires (s : State) (p : Nat) (f : Press → Press) : (modPress s p f).retires = s.retires := rfl
@[simp] theorem modPress_xfers (s : State) (p : Nat) (f : Press → Press) : (modPress s p f).xfers = s.xfers := rfl
@[simp] theorem modPress_remoteBuf (s : State) (p : Nat) (f : Press → Press) : (modPress s p f).remoteBuf = s.remoteBuf := rfl
@[simp] theorem modPress_remoteBad (s : State) (p : Nat) (f : Press → Press) : (modPress s p f).remoteBad = s.remoteBad := rfl
@[simp] theorem modPress_inXfers (s : State) (p : Nat) (f : Press → Press) : (modPress s p f).inXfers = s.inXfers := rfl
@[simp] theorem modPress_shards (s : State) (p : Nat) (f : Press → Press) : (modPress s p f).shards = s.shards := rfl
@[simp] theorem modPress_sentFlits (s : State) (p : Nat) (f : Press → Press) : (modPress s p f).sentFlits = s.sentFlits := rfl
@[simp] theorem modPress_dist (s : State) (p : Nat) (f : Press → Press) : (modPress s p f).dist = s.dist := rfl
@[simp] theorem modPress_chunks (s : State) (p : Nat) (f : Press → Press) : (modPress s p f).chunks = s.chunks := rfl
@[simp] theorem modPress_chainStopped (s : State) (p : Nat) (f : Press → Press) : (modPress s p f).chainStopped = s.chainStopped := rfl
@[simp] theorem modPress_devCounts (s : State) (p : Nat) (f : Press → Press) : (modPress s p f).devCounts = s.devCounts := rfl
@[simp] theorem modPress_traceLast (s : State) (p : Nat) (f : Press → Press) : (modPress s p f).traceLast = s.traceLast := rfl
/-! modStep. -/
@[simp] theorem modStep_queue (s : State) (i : Nat) (f : StepRec → StepRec) : (modStep s i f).queue = s.queue := rfl
@[simp] theorem modStep_script (s : State) (i : Nat) (f : StepRec → StepRec) : (modStep s i f).script = s.script := rfl
@[simp] theorem modStep_cur (s : State) (i : Nat) (f : StepRec → StepRec) : (modStep s i f).cur = s.cur := rfl
@[simp] theorem modStep_freeCount (s : State) (i : Nat) (f : StepRec → StepRec) : (modStep s i f).freeCount = s.freeCount := rfl
@[simp] theorem modStep_nextId (s : State) (i : Nat) (f : StepRec → StepRec) : (modStep s i f).nextId = s.nextId := rfl
@[simp] theorem modStep_now (s : State) (i : Nat) (f : StepRec → StepRec) : (modStep s i f).now = s.now := rfl
@[simp] theorem modStep_meets (s : State) (i : Nat) (f : StepRec → StepRec) : (modStep s i f).meets = s.meets := rfl
@[simp] theorem modStep_tickBase (s : State) (i : Nat) (f : StepRec → StepRec) : (modStep s i f).tickBase = s.tickBase := rfl
@[simp] theorem modStep_tickAt (s : State) (i : Nat) (f : StepRec → StepRec) : (modStep s i f).tickAt = s.tickAt := rfl
@[simp] theorem modStep_lendLive (s : State) (i : Nat) (f : StepRec → StepRec) : (modStep s i f).lendLive = s.lendLive := rfl
@[simp] theorem modStep_lendAt (s : State) (i : Nat) (f : StepRec → StepRec) : (modStep s i f).lendAt = s.lendAt := rfl
@[simp] theorem modStep_hbm (s : State) (i : Nat) (f : StepRec → StepRec) : (modStep s i f).hbm = s.hbm := rfl
@[simp] theorem modStep_sram (s : State) (i : Nat) (f : StepRec → StepRec) : (modStep s i f).sram = s.sram := rfl
@[simp] theorem modStep_hostMem (s : State) (i : Nat) (f : StepRec → StepRec) : (modStep s i f).hostMem = s.hostMem := rfl
@[simp] theorem modStep_spoiled (s : State) (i : Nat) (f : StepRec → StepRec) : (modStep s i f).spoiled = s.spoiled := rfl
@[simp] theorem modStep_csrs (s : State) (i : Nat) (f : StepRec → StepRec) : (modStep s i f).csrs = s.csrs := rfl
@[simp] theorem modStep_ready (s : State) (i : Nat) (f : StepRec → StepRec) : (modStep s i f).ready = s.ready := rfl
@[simp] theorem modStep_failed (s : State) (i : Nat) (f : StepRec → StepRec) : (modStep s i f).failed = s.failed := rfl
@[simp] theorem modStep_ramped (s : State) (i : Nat) (f : StepRec → StepRec) : (modStep s i f).ramped = s.ramped := rfl
@[simp] theorem modStep_wakeAt (s : State) (i : Nat) (f : StepRec → StepRec) : (modStep s i f).wakeAt = s.wakeAt := rfl
@[simp] theorem modStep_keys (s : State) (i : Nat) (f : StepRec → StepRec) : (modStep s i f).keys = s.keys := rfl
@[simp] theorem modStep_keyLock (s : State) (i : Nat) (f : StepRec → StepRec) : (modStep s i f).keyLock = s.keyLock := rfl
@[simp] theorem modStep_attest (s : State) (i : Nat) (f : StepRec → StepRec) : (modStep s i f).attest = s.attest := rfl
@[simp] theorem modStep_attestStatus (s : State) (i : Nat) (f : StepRec → StepRec) : (modStep s i f).attestStatus = s.attestStatus := rfl
@[simp] theorem modStep_w4base (s : State) (i : Nat) (f : StepRec → StepRec) : (modStep s i f).w4base = s.w4base := rfl
@[simp] theorem modStep_hostReading (s : State) (i : Nat) (f : StepRec → StepRec) : (modStep s i f).hostReading = s.hostReading := rfl
@[simp] theorem modStep_ports (s : State) (i : Nat) (f : StepRec → StepRec) : (modStep s i f).ports = s.ports := rfl
@[simp] theorem modStep_rings (s : State) (i : Nat) (f : StepRec → StepRec) : (modStep s i f).rings = s.rings := rfl
@[simp] theorem modStep_egress (s : State) (i : Nat) (f : StepRec → StepRec) : (modStep s i f).egress = s.egress := rfl
@[simp] theorem modStep_eventWait (s : State) (i : Nat) (f : StepRec → StepRec) : (modStep s i f).eventWait = s.eventWait := rfl
@[simp] theorem modStep_faultWait (s : State) (i : Nat) (f : StepRec → StepRec) : (modStep s i f).faultWait = s.faultWait := rfl
@[simp] theorem modStep_quarWait (s : State) (i : Nat) (f : StepRec → StepRec) : (modStep s i f).quarWait = s.quarWait := rfl
@[simp] theorem modStep_faultSeq (s : State) (i : Nat) (f : StepRec → StepRec) : (modStep s i f).faultSeq = s.faultSeq := rfl
@[simp] theorem modStep_records (s : State) (i : Nat) (f : StepRec → StepRec) : (modStep s i f).records = s.records := rfl
@[simp] theorem modStep_hostOut (s : State) (i : Nat) (f : StepRec → StepRec) : (modStep s i f).hostOut = s.hostOut := rfl
@[simp] theorem modStep_arrivals (s : State) (i : Nat) (f : StepRec → StepRec) : (modStep s i f).arrivals = s.arrivals := rfl
@[simp] theorem modStep_promotions (s : State) (i : Nat) (f : StepRec → StepRec) : (modStep s i f).promotions = s.promotions := rfl
@[simp] theorem modStep_slotNotes (s : State) (i : Nat) (f : StepRec → StepRec) : (modStep s i f).slotNotes = s.slotNotes := rfl
@[simp] theorem modStep_unsent (s : State) (i : Nat) (f : StepRec → StepRec) : (modStep s i f).unsent = s.unsent := rfl
@[simp] theorem modStep_groups (s : State) (i : Nat) (f : StepRec → StepRec) : (modStep s i f).groups = s.groups := rfl
@[simp] theorem modStep_presses (s : State) (i : Nat) (f : StepRec → StepRec) : (modStep s i f).presses = s.presses := rfl
@[simp] theorem modStep_steps (s : State) (i : Nat) (f : StepRec → StepRec) : (modStep s i f).steps = tabUpdate s.steps i f := rfl
@[simp] theorem modStep_ctxs (s : State) (i : Nat) (f : StepRec → StepRec) : (modStep s i f).ctxs = s.ctxs := rfl
@[simp] theorem modStep_accesses (s : State) (i : Nat) (f : StepRec → StepRec) : (modStep s i f).accesses = s.accesses := rfl
@[simp] theorem modStep_settling (s : State) (i : Nat) (f : StepRec → StepRec) : (modStep s i f).settling = s.settling := rfl
@[simp] theorem modStep_memFires (s : State) (i : Nat) (f : StepRec → StepRec) : (modStep s i f).memFires = s.memFires := rfl
@[simp] theorem modStep_fences (s : State) (i : Nat) (f : StepRec → StepRec) : (modStep s i f).fences = s.fences := rfl
@[simp] theorem modStep_qfences (s : State) (i : Nat) (f : StepRec → StepRec) : (modStep s i f).qfences = s.qfences := rfl
@[simp] theorem modStep_waiters (s : State) (i : Nat) (f : StepRec → StepRec) : (modStep s i f).waiters = s.waiters := rfl
@[simp] theorem modStep_cards (s : State) (i : Nat) (f : StepRec → StepRec) : (modStep s i f).cards = s.cards := rfl
@[simp] theorem modStep_cohorts (s : State) (i : Nat) (f : StepRec → StepRec) : (modStep s i f).cohorts = s.cohorts := rfl
@[simp] theorem modStep_cohortOps (s : State) (i : Nat) (f : StepRec → StepRec) : (modStep s i f).cohortOps = s.cohortOps := rfl
@[simp] theorem modStep_proofs (s : State) (i : Nat) (f : StepRec → StepRec) : (modStep s i f).proofs = s.proofs := rfl
@[simp] theorem modStep_slotWait (s : State) (i : Nat) (f : StepRec → StepRec) : (modStep s i f).slotWait = s.slotWait := rfl
@[simp] theorem modStep_slots (s : State) (i : Nat) (f : StepRec → StepRec) : (modStep s i f).slots = s.slots := rfl
@[simp] theorem modStep_ways (s : State) (i : Nat) (f : StepRec → StepRec) : (modStep s i f).ways = s.ways := rfl
@[simp] theorem modStep_raceBudget (s : State) (i : Nat) (f : StepRec → StepRec) : (modStep s i f).raceBudget = s.raceBudget := rfl
@[simp] theorem modStep_raceMicro (s : State) (i : Nat) (f : StepRec → StepRec) : (modStep s i f).raceMicro = s.raceMicro := rfl
@[simp] theorem modStep_migrations (s : State) (i : Nat) (f : StepRec → StepRec) : (modStep s i f).migrations = s.migrations := rfl
@[simp] theorem modStep_invalidating (s : State) (i : Nat) (f : StepRec → StepRec) : (modStep s i f).invalidating = s.invalidating := rfl
@[simp] theorem modStep_fabric (s : State) (i : Nat) (f : StepRec → StepRec) : (modStep s i f).fabric = s.fabric := rfl
@[simp] theorem modStep_nextFabric (s : State) (i : Nat) (f : StepRec → StepRec) : (modStep s i f).nextFabric = s.nextFabric := rfl
@[simp] theorem modStep_waves (s : State) (i : Nat) (f : StepRec → StepRec) : (modStep s i f).waves = s.waves := rfl
@[simp] theorem modStep_links (s : State) (i : Nat) (f : StepRec → StepRec) : (modStep s i f).links = s.links := rfl
@[simp] theorem modStep_leases (s : State) (i : Nat) (f : StepRec → StepRec) : (modStep s i f).leases = s.leases := rfl
@[simp] theorem modStep_retires (s : State) (i : Nat) (f : StepRec → StepRec) : (modStep s i f).retires = s.retires := rfl
@[simp] theorem modStep_xfers (s : State) (i : Nat) (f : StepRec → StepRec) : (modStep s i f).xfers = s.xfers := rfl
@[simp] theorem modStep_remoteBuf (s : State) (i : Nat) (f : StepRec → StepRec) : (modStep s i f).remoteBuf = s.remoteBuf := rfl
@[simp] theorem modStep_remoteBad (s : State) (i : Nat) (f : StepRec → StepRec) : (modStep s i f).remoteBad = s.remoteBad := rfl
@[simp] theorem modStep_inXfers (s : State) (i : Nat) (f : StepRec → StepRec) : (modStep s i f).inXfers = s.inXfers := rfl
@[simp] theorem modStep_shards (s : State) (i : Nat) (f : StepRec → StepRec) : (modStep s i f).shards = s.shards := rfl
@[simp] theorem modStep_sentFlits (s : State) (i : Nat) (f : StepRec → StepRec) : (modStep s i f).sentFlits = s.sentFlits := rfl
@[simp] theorem modStep_dist (s : State) (i : Nat) (f : StepRec → StepRec) : (modStep s i f).dist = s.dist := rfl
@[simp] theorem modStep_chunks (s : State) (i : Nat) (f : StepRec → StepRec) : (modStep s i f).chunks = s.chunks := rfl
@[simp] theorem modStep_chainStopped (s : State) (i : Nat) (f : StepRec → StepRec) : (modStep s i f).chainStopped = s.chainStopped := rfl
@[simp] theorem modStep_devCounts (s : State) (i : Nat) (f : StepRec → StepRec) : (modStep s i f).devCounts = s.devCounts := rfl
@[simp] theorem modStep_traceLast (s : State) (i : Nat) (f : StepRec → StepRec) : (modStep s i f).traceLast = s.traceLast := rfl
/-! pushWork. -/
@[simp] theorem pushWork_queue (s : State) (w : Work) : (pushWork s w).queue = s.queue ++ [w] := rfl
@[simp] theorem pushWork_script (s : State) (w : Work) : (pushWork s w).script = s.script := rfl
@[simp] theorem pushWork_cur (s : State) (w : Work) : (pushWork s w).cur = s.cur := rfl
@[simp] theorem pushWork_freeCount (s : State) (w : Work) : (pushWork s w).freeCount = s.freeCount := rfl
@[simp] theorem pushWork_nextId (s : State) (w : Work) : (pushWork s w).nextId = s.nextId := rfl
@[simp] theorem pushWork_now (s : State) (w : Work) : (pushWork s w).now = s.now := rfl
@[simp] theorem pushWork_meets (s : State) (w : Work) : (pushWork s w).meets = s.meets := rfl
@[simp] theorem pushWork_tickBase (s : State) (w : Work) : (pushWork s w).tickBase = s.tickBase := rfl
@[simp] theorem pushWork_tickAt (s : State) (w : Work) : (pushWork s w).tickAt = s.tickAt := rfl
@[simp] theorem pushWork_lendLive (s : State) (w : Work) : (pushWork s w).lendLive = s.lendLive := rfl
@[simp] theorem pushWork_lendAt (s : State) (w : Work) : (pushWork s w).lendAt = s.lendAt := rfl
@[simp] theorem pushWork_hbm (s : State) (w : Work) : (pushWork s w).hbm = s.hbm := rfl
@[simp] theorem pushWork_sram (s : State) (w : Work) : (pushWork s w).sram = s.sram := rfl
@[simp] theorem pushWork_hostMem (s : State) (w : Work) : (pushWork s w).hostMem = s.hostMem := rfl
@[simp] theorem pushWork_spoiled (s : State) (w : Work) : (pushWork s w).spoiled = s.spoiled := rfl
@[simp] theorem pushWork_csrs (s : State) (w : Work) : (pushWork s w).csrs = s.csrs := rfl
@[simp] theorem pushWork_ready (s : State) (w : Work) : (pushWork s w).ready = s.ready := rfl
@[simp] theorem pushWork_failed (s : State) (w : Work) : (pushWork s w).failed = s.failed := rfl
@[simp] theorem pushWork_ramped (s : State) (w : Work) : (pushWork s w).ramped = s.ramped := rfl
@[simp] theorem pushWork_wakeAt (s : State) (w : Work) : (pushWork s w).wakeAt = s.wakeAt := rfl
@[simp] theorem pushWork_keys (s : State) (w : Work) : (pushWork s w).keys = s.keys := rfl
@[simp] theorem pushWork_keyLock (s : State) (w : Work) : (pushWork s w).keyLock = s.keyLock := rfl
@[simp] theorem pushWork_attest (s : State) (w : Work) : (pushWork s w).attest = s.attest := rfl
@[simp] theorem pushWork_attestStatus (s : State) (w : Work) : (pushWork s w).attestStatus = s.attestStatus := rfl
@[simp] theorem pushWork_w4base (s : State) (w : Work) : (pushWork s w).w4base = s.w4base := rfl
@[simp] theorem pushWork_hostReading (s : State) (w : Work) : (pushWork s w).hostReading = s.hostReading := rfl
@[simp] theorem pushWork_ports (s : State) (w : Work) : (pushWork s w).ports = s.ports := rfl
@[simp] theorem pushWork_rings (s : State) (w : Work) : (pushWork s w).rings = s.rings := rfl
@[simp] theorem pushWork_egress (s : State) (w : Work) : (pushWork s w).egress = s.egress := rfl
@[simp] theorem pushWork_eventWait (s : State) (w : Work) : (pushWork s w).eventWait = s.eventWait := rfl
@[simp] theorem pushWork_faultWait (s : State) (w : Work) : (pushWork s w).faultWait = s.faultWait := rfl
@[simp] theorem pushWork_quarWait (s : State) (w : Work) : (pushWork s w).quarWait = s.quarWait := rfl
@[simp] theorem pushWork_faultSeq (s : State) (w : Work) : (pushWork s w).faultSeq = s.faultSeq := rfl
@[simp] theorem pushWork_records (s : State) (w : Work) : (pushWork s w).records = s.records := rfl
@[simp] theorem pushWork_hostOut (s : State) (w : Work) : (pushWork s w).hostOut = s.hostOut := rfl
@[simp] theorem pushWork_arrivals (s : State) (w : Work) : (pushWork s w).arrivals = s.arrivals := rfl
@[simp] theorem pushWork_promotions (s : State) (w : Work) : (pushWork s w).promotions = s.promotions := rfl
@[simp] theorem pushWork_slotNotes (s : State) (w : Work) : (pushWork s w).slotNotes = s.slotNotes := rfl
@[simp] theorem pushWork_unsent (s : State) (w : Work) : (pushWork s w).unsent = s.unsent := rfl
@[simp] theorem pushWork_groups (s : State) (w : Work) : (pushWork s w).groups = s.groups := rfl
@[simp] theorem pushWork_presses (s : State) (w : Work) : (pushWork s w).presses = s.presses := rfl
@[simp] theorem pushWork_steps (s : State) (w : Work) : (pushWork s w).steps = s.steps := rfl
@[simp] theorem pushWork_ctxs (s : State) (w : Work) : (pushWork s w).ctxs = s.ctxs := rfl
@[simp] theorem pushWork_accesses (s : State) (w : Work) : (pushWork s w).accesses = s.accesses := rfl
@[simp] theorem pushWork_settling (s : State) (w : Work) : (pushWork s w).settling = s.settling := rfl
@[simp] theorem pushWork_memFires (s : State) (w : Work) : (pushWork s w).memFires = s.memFires := rfl
@[simp] theorem pushWork_fences (s : State) (w : Work) : (pushWork s w).fences = s.fences := rfl
@[simp] theorem pushWork_qfences (s : State) (w : Work) : (pushWork s w).qfences = s.qfences := rfl
@[simp] theorem pushWork_waiters (s : State) (w : Work) : (pushWork s w).waiters = s.waiters := rfl
@[simp] theorem pushWork_cards (s : State) (w : Work) : (pushWork s w).cards = s.cards := rfl
@[simp] theorem pushWork_cohorts (s : State) (w : Work) : (pushWork s w).cohorts = s.cohorts := rfl
@[simp] theorem pushWork_cohortOps (s : State) (w : Work) : (pushWork s w).cohortOps = s.cohortOps := rfl
@[simp] theorem pushWork_proofs (s : State) (w : Work) : (pushWork s w).proofs = s.proofs := rfl
@[simp] theorem pushWork_slotWait (s : State) (w : Work) : (pushWork s w).slotWait = s.slotWait := rfl
@[simp] theorem pushWork_slots (s : State) (w : Work) : (pushWork s w).slots = s.slots := rfl
@[simp] theorem pushWork_ways (s : State) (w : Work) : (pushWork s w).ways = s.ways := rfl
@[simp] theorem pushWork_raceBudget (s : State) (w : Work) : (pushWork s w).raceBudget = s.raceBudget := rfl
@[simp] theorem pushWork_raceMicro (s : State) (w : Work) : (pushWork s w).raceMicro = s.raceMicro := rfl
@[simp] theorem pushWork_migrations (s : State) (w : Work) : (pushWork s w).migrations = s.migrations := rfl
@[simp] theorem pushWork_invalidating (s : State) (w : Work) : (pushWork s w).invalidating = s.invalidating := rfl
@[simp] theorem pushWork_fabric (s : State) (w : Work) : (pushWork s w).fabric = s.fabric := rfl
@[simp] theorem pushWork_nextFabric (s : State) (w : Work) : (pushWork s w).nextFabric = s.nextFabric := rfl
@[simp] theorem pushWork_waves (s : State) (w : Work) : (pushWork s w).waves = s.waves := rfl
@[simp] theorem pushWork_links (s : State) (w : Work) : (pushWork s w).links = s.links := rfl
@[simp] theorem pushWork_leases (s : State) (w : Work) : (pushWork s w).leases = s.leases := rfl
@[simp] theorem pushWork_retires (s : State) (w : Work) : (pushWork s w).retires = s.retires := rfl
@[simp] theorem pushWork_xfers (s : State) (w : Work) : (pushWork s w).xfers = s.xfers := rfl
@[simp] theorem pushWork_remoteBuf (s : State) (w : Work) : (pushWork s w).remoteBuf = s.remoteBuf := rfl
@[simp] theorem pushWork_remoteBad (s : State) (w : Work) : (pushWork s w).remoteBad = s.remoteBad := rfl
@[simp] theorem pushWork_inXfers (s : State) (w : Work) : (pushWork s w).inXfers = s.inXfers := rfl
@[simp] theorem pushWork_shards (s : State) (w : Work) : (pushWork s w).shards = s.shards := rfl
@[simp] theorem pushWork_sentFlits (s : State) (w : Work) : (pushWork s w).sentFlits = s.sentFlits := rfl
@[simp] theorem pushWork_dist (s : State) (w : Work) : (pushWork s w).dist = s.dist := rfl
@[simp] theorem pushWork_chunks (s : State) (w : Work) : (pushWork s w).chunks = s.chunks := rfl
@[simp] theorem pushWork_chainStopped (s : State) (w : Work) : (pushWork s w).chainStopped = s.chainStopped := rfl
@[simp] theorem pushWork_devCounts (s : State) (w : Work) : (pushWork s w).devCounts = s.devCounts := rfl
@[simp] theorem pushWork_traceLast (s : State) (w : Work) : (pushWork s w).traceLast = s.traceLast := rfl
/-! pushEv. -/
@[simp] theorem pushEv_queue (s : State) (i : Instr) : (pushEv s i).queue = s.queue ++ [.event i] := rfl
@[simp] theorem pushEv_script (s : State) (i : Instr) : (pushEv s i).script = s.script := rfl
@[simp] theorem pushEv_cur (s : State) (i : Instr) : (pushEv s i).cur = s.cur := rfl
@[simp] theorem pushEv_freeCount (s : State) (i : Instr) : (pushEv s i).freeCount = s.freeCount := rfl
@[simp] theorem pushEv_nextId (s : State) (i : Instr) : (pushEv s i).nextId = s.nextId := rfl
@[simp] theorem pushEv_now (s : State) (i : Instr) : (pushEv s i).now = s.now := rfl
@[simp] theorem pushEv_meets (s : State) (i : Instr) : (pushEv s i).meets = s.meets := rfl
@[simp] theorem pushEv_tickBase (s : State) (i : Instr) : (pushEv s i).tickBase = s.tickBase := rfl
@[simp] theorem pushEv_tickAt (s : State) (i : Instr) : (pushEv s i).tickAt = s.tickAt := rfl
@[simp] theorem pushEv_lendLive (s : State) (i : Instr) : (pushEv s i).lendLive = s.lendLive := rfl
@[simp] theorem pushEv_lendAt (s : State) (i : Instr) : (pushEv s i).lendAt = s.lendAt := rfl
@[simp] theorem pushEv_hbm (s : State) (i : Instr) : (pushEv s i).hbm = s.hbm := rfl
@[simp] theorem pushEv_sram (s : State) (i : Instr) : (pushEv s i).sram = s.sram := rfl
@[simp] theorem pushEv_hostMem (s : State) (i : Instr) : (pushEv s i).hostMem = s.hostMem := rfl
@[simp] theorem pushEv_spoiled (s : State) (i : Instr) : (pushEv s i).spoiled = s.spoiled := rfl
@[simp] theorem pushEv_csrs (s : State) (i : Instr) : (pushEv s i).csrs = s.csrs := rfl
@[simp] theorem pushEv_ready (s : State) (i : Instr) : (pushEv s i).ready = s.ready := rfl
@[simp] theorem pushEv_failed (s : State) (i : Instr) : (pushEv s i).failed = s.failed := rfl
@[simp] theorem pushEv_ramped (s : State) (i : Instr) : (pushEv s i).ramped = s.ramped := rfl
@[simp] theorem pushEv_wakeAt (s : State) (i : Instr) : (pushEv s i).wakeAt = s.wakeAt := rfl
@[simp] theorem pushEv_keys (s : State) (i : Instr) : (pushEv s i).keys = s.keys := rfl
@[simp] theorem pushEv_keyLock (s : State) (i : Instr) : (pushEv s i).keyLock = s.keyLock := rfl
@[simp] theorem pushEv_attest (s : State) (i : Instr) : (pushEv s i).attest = s.attest := rfl
@[simp] theorem pushEv_attestStatus (s : State) (i : Instr) : (pushEv s i).attestStatus = s.attestStatus := rfl
@[simp] theorem pushEv_w4base (s : State) (i : Instr) : (pushEv s i).w4base = s.w4base := rfl
@[simp] theorem pushEv_hostReading (s : State) (i : Instr) : (pushEv s i).hostReading = s.hostReading := rfl
@[simp] theorem pushEv_ports (s : State) (i : Instr) : (pushEv s i).ports = s.ports := rfl
@[simp] theorem pushEv_rings (s : State) (i : Instr) : (pushEv s i).rings = s.rings := rfl
@[simp] theorem pushEv_egress (s : State) (i : Instr) : (pushEv s i).egress = s.egress := rfl
@[simp] theorem pushEv_eventWait (s : State) (i : Instr) : (pushEv s i).eventWait = s.eventWait := rfl
@[simp] theorem pushEv_faultWait (s : State) (i : Instr) : (pushEv s i).faultWait = s.faultWait := rfl
@[simp] theorem pushEv_quarWait (s : State) (i : Instr) : (pushEv s i).quarWait = s.quarWait := rfl
@[simp] theorem pushEv_faultSeq (s : State) (i : Instr) : (pushEv s i).faultSeq = s.faultSeq := rfl
@[simp] theorem pushEv_records (s : State) (i : Instr) : (pushEv s i).records = s.records := rfl
@[simp] theorem pushEv_hostOut (s : State) (i : Instr) : (pushEv s i).hostOut = s.hostOut := rfl
@[simp] theorem pushEv_arrivals (s : State) (i : Instr) : (pushEv s i).arrivals = s.arrivals := rfl
@[simp] theorem pushEv_promotions (s : State) (i : Instr) : (pushEv s i).promotions = s.promotions := rfl
@[simp] theorem pushEv_slotNotes (s : State) (i : Instr) : (pushEv s i).slotNotes = s.slotNotes := rfl
@[simp] theorem pushEv_unsent (s : State) (i : Instr) : (pushEv s i).unsent = s.unsent := rfl
@[simp] theorem pushEv_groups (s : State) (i : Instr) : (pushEv s i).groups = s.groups := rfl
@[simp] theorem pushEv_presses (s : State) (i : Instr) : (pushEv s i).presses = s.presses := rfl
@[simp] theorem pushEv_steps (s : State) (i : Instr) : (pushEv s i).steps = s.steps := rfl
@[simp] theorem pushEv_ctxs (s : State) (i : Instr) : (pushEv s i).ctxs = s.ctxs := rfl
@[simp] theorem pushEv_accesses (s : State) (i : Instr) : (pushEv s i).accesses = s.accesses := rfl
@[simp] theorem pushEv_settling (s : State) (i : Instr) : (pushEv s i).settling = s.settling := rfl
@[simp] theorem pushEv_memFires (s : State) (i : Instr) : (pushEv s i).memFires = s.memFires := rfl
@[simp] theorem pushEv_fences (s : State) (i : Instr) : (pushEv s i).fences = s.fences := rfl
@[simp] theorem pushEv_qfences (s : State) (i : Instr) : (pushEv s i).qfences = s.qfences := rfl
@[simp] theorem pushEv_waiters (s : State) (i : Instr) : (pushEv s i).waiters = s.waiters := rfl
@[simp] theorem pushEv_cards (s : State) (i : Instr) : (pushEv s i).cards = s.cards := rfl
@[simp] theorem pushEv_cohorts (s : State) (i : Instr) : (pushEv s i).cohorts = s.cohorts := rfl
@[simp] theorem pushEv_cohortOps (s : State) (i : Instr) : (pushEv s i).cohortOps = s.cohortOps := rfl
@[simp] theorem pushEv_proofs (s : State) (i : Instr) : (pushEv s i).proofs = s.proofs := rfl
@[simp] theorem pushEv_slotWait (s : State) (i : Instr) : (pushEv s i).slotWait = s.slotWait := rfl
@[simp] theorem pushEv_slots (s : State) (i : Instr) : (pushEv s i).slots = s.slots := rfl
@[simp] theorem pushEv_ways (s : State) (i : Instr) : (pushEv s i).ways = s.ways := rfl
@[simp] theorem pushEv_raceBudget (s : State) (i : Instr) : (pushEv s i).raceBudget = s.raceBudget := rfl
@[simp] theorem pushEv_raceMicro (s : State) (i : Instr) : (pushEv s i).raceMicro = s.raceMicro := rfl
@[simp] theorem pushEv_migrations (s : State) (i : Instr) : (pushEv s i).migrations = s.migrations := rfl
@[simp] theorem pushEv_invalidating (s : State) (i : Instr) : (pushEv s i).invalidating = s.invalidating := rfl
@[simp] theorem pushEv_fabric (s : State) (i : Instr) : (pushEv s i).fabric = s.fabric := rfl
@[simp] theorem pushEv_nextFabric (s : State) (i : Instr) : (pushEv s i).nextFabric = s.nextFabric := rfl
@[simp] theorem pushEv_waves (s : State) (i : Instr) : (pushEv s i).waves = s.waves := rfl
@[simp] theorem pushEv_links (s : State) (i : Instr) : (pushEv s i).links = s.links := rfl
@[simp] theorem pushEv_leases (s : State) (i : Instr) : (pushEv s i).leases = s.leases := rfl
@[simp] theorem pushEv_retires (s : State) (i : Instr) : (pushEv s i).retires = s.retires := rfl
@[simp] theorem pushEv_xfers (s : State) (i : Instr) : (pushEv s i).xfers = s.xfers := rfl
@[simp] theorem pushEv_remoteBuf (s : State) (i : Instr) : (pushEv s i).remoteBuf = s.remoteBuf := rfl
@[simp] theorem pushEv_remoteBad (s : State) (i : Instr) : (pushEv s i).remoteBad = s.remoteBad := rfl
@[simp] theorem pushEv_inXfers (s : State) (i : Instr) : (pushEv s i).inXfers = s.inXfers := rfl
@[simp] theorem pushEv_shards (s : State) (i : Instr) : (pushEv s i).shards = s.shards := rfl
@[simp] theorem pushEv_sentFlits (s : State) (i : Instr) : (pushEv s i).sentFlits = s.sentFlits := rfl
@[simp] theorem pushEv_dist (s : State) (i : Instr) : (pushEv s i).dist = s.dist := rfl
@[simp] theorem pushEv_chunks (s : State) (i : Instr) : (pushEv s i).chunks = s.chunks := rfl
@[simp] theorem pushEv_chainStopped (s : State) (i : Instr) : (pushEv s i).chainStopped = s.chainStopped := rfl
@[simp] theorem pushEv_devCounts (s : State) (i : Instr) : (pushEv s i).devCounts = s.devCounts := rfl
@[simp] theorem pushEv_traceLast (s : State) (i : Instr) : (pushEv s i).traceLast = s.traceLast := rfl
/-! pushEvs. -/
@[simp] theorem pushEvs_queue (s : State) (l : List Instr) : (pushEvs s l).queue = s.queue ++ l.map .event := rfl
@[simp] theorem pushEvs_script (s : State) (l : List Instr) : (pushEvs s l).script = s.script := rfl
@[simp] theorem pushEvs_cur (s : State) (l : List Instr) : (pushEvs s l).cur = s.cur := rfl
@[simp] theorem pushEvs_freeCount (s : State) (l : List Instr) : (pushEvs s l).freeCount = s.freeCount := rfl
@[simp] theorem pushEvs_nextId (s : State) (l : List Instr) : (pushEvs s l).nextId = s.nextId := rfl
@[simp] theorem pushEvs_now (s : State) (l : List Instr) : (pushEvs s l).now = s.now := rfl
@[simp] theorem pushEvs_meets (s : State) (l : List Instr) : (pushEvs s l).meets = s.meets := rfl
@[simp] theorem pushEvs_tickBase (s : State) (l : List Instr) : (pushEvs s l).tickBase = s.tickBase := rfl
@[simp] theorem pushEvs_tickAt (s : State) (l : List Instr) : (pushEvs s l).tickAt = s.tickAt := rfl
@[simp] theorem pushEvs_lendLive (s : State) (l : List Instr) : (pushEvs s l).lendLive = s.lendLive := rfl
@[simp] theorem pushEvs_lendAt (s : State) (l : List Instr) : (pushEvs s l).lendAt = s.lendAt := rfl
@[simp] theorem pushEvs_hbm (s : State) (l : List Instr) : (pushEvs s l).hbm = s.hbm := rfl
@[simp] theorem pushEvs_sram (s : State) (l : List Instr) : (pushEvs s l).sram = s.sram := rfl
@[simp] theorem pushEvs_hostMem (s : State) (l : List Instr) : (pushEvs s l).hostMem = s.hostMem := rfl
@[simp] theorem pushEvs_spoiled (s : State) (l : List Instr) : (pushEvs s l).spoiled = s.spoiled := rfl
@[simp] theorem pushEvs_csrs (s : State) (l : List Instr) : (pushEvs s l).csrs = s.csrs := rfl
@[simp] theorem pushEvs_ready (s : State) (l : List Instr) : (pushEvs s l).ready = s.ready := rfl
@[simp] theorem pushEvs_failed (s : State) (l : List Instr) : (pushEvs s l).failed = s.failed := rfl
@[simp] theorem pushEvs_ramped (s : State) (l : List Instr) : (pushEvs s l).ramped = s.ramped := rfl
@[simp] theorem pushEvs_wakeAt (s : State) (l : List Instr) : (pushEvs s l).wakeAt = s.wakeAt := rfl
@[simp] theorem pushEvs_keys (s : State) (l : List Instr) : (pushEvs s l).keys = s.keys := rfl
@[simp] theorem pushEvs_keyLock (s : State) (l : List Instr) : (pushEvs s l).keyLock = s.keyLock := rfl
@[simp] theorem pushEvs_attest (s : State) (l : List Instr) : (pushEvs s l).attest = s.attest := rfl
@[simp] theorem pushEvs_attestStatus (s : State) (l : List Instr) : (pushEvs s l).attestStatus = s.attestStatus := rfl
@[simp] theorem pushEvs_w4base (s : State) (l : List Instr) : (pushEvs s l).w4base = s.w4base := rfl
@[simp] theorem pushEvs_hostReading (s : State) (l : List Instr) : (pushEvs s l).hostReading = s.hostReading := rfl
@[simp] theorem pushEvs_ports (s : State) (l : List Instr) : (pushEvs s l).ports = s.ports := rfl
@[simp] theorem pushEvs_rings (s : State) (l : List Instr) : (pushEvs s l).rings = s.rings := rfl
@[simp] theorem pushEvs_egress (s : State) (l : List Instr) : (pushEvs s l).egress = s.egress := rfl
@[simp] theorem pushEvs_eventWait (s : State) (l : List Instr) : (pushEvs s l).eventWait = s.eventWait := rfl
@[simp] theorem pushEvs_faultWait (s : State) (l : List Instr) : (pushEvs s l).faultWait = s.faultWait := rfl
@[simp] theorem pushEvs_quarWait (s : State) (l : List Instr) : (pushEvs s l).quarWait = s.quarWait := rfl
@[simp] theorem pushEvs_faultSeq (s : State) (l : List Instr) : (pushEvs s l).faultSeq = s.faultSeq := rfl
@[simp] theorem pushEvs_records (s : State) (l : List Instr) : (pushEvs s l).records = s.records := rfl
@[simp] theorem pushEvs_hostOut (s : State) (l : List Instr) : (pushEvs s l).hostOut = s.hostOut := rfl
@[simp] theorem pushEvs_arrivals (s : State) (l : List Instr) : (pushEvs s l).arrivals = s.arrivals := rfl
@[simp] theorem pushEvs_promotions (s : State) (l : List Instr) : (pushEvs s l).promotions = s.promotions := rfl
@[simp] theorem pushEvs_slotNotes (s : State) (l : List Instr) : (pushEvs s l).slotNotes = s.slotNotes := rfl
@[simp] theorem pushEvs_unsent (s : State) (l : List Instr) : (pushEvs s l).unsent = s.unsent := rfl
@[simp] theorem pushEvs_groups (s : State) (l : List Instr) : (pushEvs s l).groups = s.groups := rfl
@[simp] theorem pushEvs_presses (s : State) (l : List Instr) : (pushEvs s l).presses = s.presses := rfl
@[simp] theorem pushEvs_steps (s : State) (l : List Instr) : (pushEvs s l).steps = s.steps := rfl
@[simp] theorem pushEvs_ctxs (s : State) (l : List Instr) : (pushEvs s l).ctxs = s.ctxs := rfl
@[simp] theorem pushEvs_accesses (s : State) (l : List Instr) : (pushEvs s l).accesses = s.accesses := rfl
@[simp] theorem pushEvs_settling (s : State) (l : List Instr) : (pushEvs s l).settling = s.settling := rfl
@[simp] theorem pushEvs_memFires (s : State) (l : List Instr) : (pushEvs s l).memFires = s.memFires := rfl
@[simp] theorem pushEvs_fences (s : State) (l : List Instr) : (pushEvs s l).fences = s.fences := rfl
@[simp] theorem pushEvs_qfences (s : State) (l : List Instr) : (pushEvs s l).qfences = s.qfences := rfl
@[simp] theorem pushEvs_waiters (s : State) (l : List Instr) : (pushEvs s l).waiters = s.waiters := rfl
@[simp] theorem pushEvs_cards (s : State) (l : List Instr) : (pushEvs s l).cards = s.cards := rfl
@[simp] theorem pushEvs_cohorts (s : State) (l : List Instr) : (pushEvs s l).cohorts = s.cohorts := rfl
@[simp] theorem pushEvs_cohortOps (s : State) (l : List Instr) : (pushEvs s l).cohortOps = s.cohortOps := rfl
@[simp] theorem pushEvs_proofs (s : State) (l : List Instr) : (pushEvs s l).proofs = s.proofs := rfl
@[simp] theorem pushEvs_slotWait (s : State) (l : List Instr) : (pushEvs s l).slotWait = s.slotWait := rfl
@[simp] theorem pushEvs_slots (s : State) (l : List Instr) : (pushEvs s l).slots = s.slots := rfl
@[simp] theorem pushEvs_ways (s : State) (l : List Instr) : (pushEvs s l).ways = s.ways := rfl
@[simp] theorem pushEvs_raceBudget (s : State) (l : List Instr) : (pushEvs s l).raceBudget = s.raceBudget := rfl
@[simp] theorem pushEvs_raceMicro (s : State) (l : List Instr) : (pushEvs s l).raceMicro = s.raceMicro := rfl
@[simp] theorem pushEvs_migrations (s : State) (l : List Instr) : (pushEvs s l).migrations = s.migrations := rfl
@[simp] theorem pushEvs_invalidating (s : State) (l : List Instr) : (pushEvs s l).invalidating = s.invalidating := rfl
@[simp] theorem pushEvs_fabric (s : State) (l : List Instr) : (pushEvs s l).fabric = s.fabric := rfl
@[simp] theorem pushEvs_nextFabric (s : State) (l : List Instr) : (pushEvs s l).nextFabric = s.nextFabric := rfl
@[simp] theorem pushEvs_waves (s : State) (l : List Instr) : (pushEvs s l).waves = s.waves := rfl
@[simp] theorem pushEvs_links (s : State) (l : List Instr) : (pushEvs s l).links = s.links := rfl
@[simp] theorem pushEvs_leases (s : State) (l : List Instr) : (pushEvs s l).leases = s.leases := rfl
@[simp] theorem pushEvs_retires (s : State) (l : List Instr) : (pushEvs s l).retires = s.retires := rfl
@[simp] theorem pushEvs_xfers (s : State) (l : List Instr) : (pushEvs s l).xfers = s.xfers := rfl
@[simp] theorem pushEvs_remoteBuf (s : State) (l : List Instr) : (pushEvs s l).remoteBuf = s.remoteBuf := rfl
@[simp] theorem pushEvs_remoteBad (s : State) (l : List Instr) : (pushEvs s l).remoteBad = s.remoteBad := rfl
@[simp] theorem pushEvs_inXfers (s : State) (l : List Instr) : (pushEvs s l).inXfers = s.inXfers := rfl
@[simp] theorem pushEvs_shards (s : State) (l : List Instr) : (pushEvs s l).shards = s.shards := rfl
@[simp] theorem pushEvs_sentFlits (s : State) (l : List Instr) : (pushEvs s l).sentFlits = s.sentFlits := rfl
@[simp] theorem pushEvs_dist (s : State) (l : List Instr) : (pushEvs s l).dist = s.dist := rfl
@[simp] theorem pushEvs_chunks (s : State) (l : List Instr) : (pushEvs s l).chunks = s.chunks := rfl
@[simp] theorem pushEvs_chainStopped (s : State) (l : List Instr) : (pushEvs s l).chainStopped = s.chainStopped := rfl
@[simp] theorem pushEvs_devCounts (s : State) (l : List Instr) : (pushEvs s l).devCounts = s.devCounts := rfl
@[simp] theorem pushEvs_traceLast (s : State) (l : List Instr) : (pushEvs s l).traceLast = s.traceLast := rfl
/-! bumpId. -/
@[simp] theorem bumpId_queue (s : State) : (bumpId s).queue = s.queue := rfl
@[simp] theorem bumpId_script (s : State) : (bumpId s).script = s.script := rfl
@[simp] theorem bumpId_cur (s : State) : (bumpId s).cur = s.cur := rfl
@[simp] theorem bumpId_freeCount (s : State) : (bumpId s).freeCount = s.freeCount := rfl
@[simp] theorem bumpId_nextId (s : State) : (bumpId s).nextId = s.nextId + 1 := rfl
@[simp] theorem bumpId_now (s : State) : (bumpId s).now = s.now := rfl
@[simp] theorem bumpId_meets (s : State) : (bumpId s).meets = s.meets := rfl
@[simp] theorem bumpId_tickBase (s : State) : (bumpId s).tickBase = s.tickBase := rfl
@[simp] theorem bumpId_tickAt (s : State) : (bumpId s).tickAt = s.tickAt := rfl
@[simp] theorem bumpId_lendLive (s : State) : (bumpId s).lendLive = s.lendLive := rfl
@[simp] theorem bumpId_lendAt (s : State) : (bumpId s).lendAt = s.lendAt := rfl
@[simp] theorem bumpId_hbm (s : State) : (bumpId s).hbm = s.hbm := rfl
@[simp] theorem bumpId_sram (s : State) : (bumpId s).sram = s.sram := rfl
@[simp] theorem bumpId_hostMem (s : State) : (bumpId s).hostMem = s.hostMem := rfl
@[simp] theorem bumpId_spoiled (s : State) : (bumpId s).spoiled = s.spoiled := rfl
@[simp] theorem bumpId_csrs (s : State) : (bumpId s).csrs = s.csrs := rfl
@[simp] theorem bumpId_ready (s : State) : (bumpId s).ready = s.ready := rfl
@[simp] theorem bumpId_failed (s : State) : (bumpId s).failed = s.failed := rfl
@[simp] theorem bumpId_ramped (s : State) : (bumpId s).ramped = s.ramped := rfl
@[simp] theorem bumpId_wakeAt (s : State) : (bumpId s).wakeAt = s.wakeAt := rfl
@[simp] theorem bumpId_keys (s : State) : (bumpId s).keys = s.keys := rfl
@[simp] theorem bumpId_keyLock (s : State) : (bumpId s).keyLock = s.keyLock := rfl
@[simp] theorem bumpId_attest (s : State) : (bumpId s).attest = s.attest := rfl
@[simp] theorem bumpId_attestStatus (s : State) : (bumpId s).attestStatus = s.attestStatus := rfl
@[simp] theorem bumpId_w4base (s : State) : (bumpId s).w4base = s.w4base := rfl
@[simp] theorem bumpId_hostReading (s : State) : (bumpId s).hostReading = s.hostReading := rfl
@[simp] theorem bumpId_ports (s : State) : (bumpId s).ports = s.ports := rfl
@[simp] theorem bumpId_rings (s : State) : (bumpId s).rings = s.rings := rfl
@[simp] theorem bumpId_egress (s : State) : (bumpId s).egress = s.egress := rfl
@[simp] theorem bumpId_eventWait (s : State) : (bumpId s).eventWait = s.eventWait := rfl
@[simp] theorem bumpId_faultWait (s : State) : (bumpId s).faultWait = s.faultWait := rfl
@[simp] theorem bumpId_quarWait (s : State) : (bumpId s).quarWait = s.quarWait := rfl
@[simp] theorem bumpId_faultSeq (s : State) : (bumpId s).faultSeq = s.faultSeq := rfl
@[simp] theorem bumpId_records (s : State) : (bumpId s).records = s.records := rfl
@[simp] theorem bumpId_hostOut (s : State) : (bumpId s).hostOut = s.hostOut := rfl
@[simp] theorem bumpId_arrivals (s : State) : (bumpId s).arrivals = s.arrivals := rfl
@[simp] theorem bumpId_promotions (s : State) : (bumpId s).promotions = s.promotions := rfl
@[simp] theorem bumpId_slotNotes (s : State) : (bumpId s).slotNotes = s.slotNotes := rfl
@[simp] theorem bumpId_unsent (s : State) : (bumpId s).unsent = s.unsent := rfl
@[simp] theorem bumpId_groups (s : State) : (bumpId s).groups = s.groups := rfl
@[simp] theorem bumpId_presses (s : State) : (bumpId s).presses = s.presses := rfl
@[simp] theorem bumpId_steps (s : State) : (bumpId s).steps = s.steps := rfl
@[simp] theorem bumpId_ctxs (s : State) : (bumpId s).ctxs = s.ctxs := rfl
@[simp] theorem bumpId_accesses (s : State) : (bumpId s).accesses = s.accesses := rfl
@[simp] theorem bumpId_settling (s : State) : (bumpId s).settling = s.settling := rfl
@[simp] theorem bumpId_memFires (s : State) : (bumpId s).memFires = s.memFires := rfl
@[simp] theorem bumpId_fences (s : State) : (bumpId s).fences = s.fences := rfl
@[simp] theorem bumpId_qfences (s : State) : (bumpId s).qfences = s.qfences := rfl
@[simp] theorem bumpId_waiters (s : State) : (bumpId s).waiters = s.waiters := rfl
@[simp] theorem bumpId_cards (s : State) : (bumpId s).cards = s.cards := rfl
@[simp] theorem bumpId_cohorts (s : State) : (bumpId s).cohorts = s.cohorts := rfl
@[simp] theorem bumpId_cohortOps (s : State) : (bumpId s).cohortOps = s.cohortOps := rfl
@[simp] theorem bumpId_proofs (s : State) : (bumpId s).proofs = s.proofs := rfl
@[simp] theorem bumpId_slotWait (s : State) : (bumpId s).slotWait = s.slotWait := rfl
@[simp] theorem bumpId_slots (s : State) : (bumpId s).slots = s.slots := rfl
@[simp] theorem bumpId_ways (s : State) : (bumpId s).ways = s.ways := rfl
@[simp] theorem bumpId_raceBudget (s : State) : (bumpId s).raceBudget = s.raceBudget := rfl
@[simp] theorem bumpId_raceMicro (s : State) : (bumpId s).raceMicro = s.raceMicro := rfl
@[simp] theorem bumpId_migrations (s : State) : (bumpId s).migrations = s.migrations := rfl
@[simp] theorem bumpId_invalidating (s : State) : (bumpId s).invalidating = s.invalidating := rfl
@[simp] theorem bumpId_fabric (s : State) : (bumpId s).fabric = s.fabric := rfl
@[simp] theorem bumpId_nextFabric (s : State) : (bumpId s).nextFabric = s.nextFabric := rfl
@[simp] theorem bumpId_waves (s : State) : (bumpId s).waves = s.waves := rfl
@[simp] theorem bumpId_links (s : State) : (bumpId s).links = s.links := rfl
@[simp] theorem bumpId_leases (s : State) : (bumpId s).leases = s.leases := rfl
@[simp] theorem bumpId_retires (s : State) : (bumpId s).retires = s.retires := rfl
@[simp] theorem bumpId_xfers (s : State) : (bumpId s).xfers = s.xfers := rfl
@[simp] theorem bumpId_remoteBuf (s : State) : (bumpId s).remoteBuf = s.remoteBuf := rfl
@[simp] theorem bumpId_remoteBad (s : State) : (bumpId s).remoteBad = s.remoteBad := rfl
@[simp] theorem bumpId_inXfers (s : State) : (bumpId s).inXfers = s.inXfers := rfl
@[simp] theorem bumpId_shards (s : State) : (bumpId s).shards = s.shards := rfl
@[simp] theorem bumpId_sentFlits (s : State) : (bumpId s).sentFlits = s.sentFlits := rfl
@[simp] theorem bumpId_dist (s : State) : (bumpId s).dist = s.dist := rfl
@[simp] theorem bumpId_chunks (s : State) : (bumpId s).chunks = s.chunks := rfl
@[simp] theorem bumpId_chainStopped (s : State) : (bumpId s).chainStopped = s.chainStopped := rfl
@[simp] theorem bumpId_devCounts (s : State) : (bumpId s).devCounts = s.devCounts := rfl
@[simp] theorem bumpId_traceLast (s : State) : (bumpId s).traceLast = s.traceLast := rfl
/-! csrSet. -/
@[simp] theorem csrSet_queue (s : State) (n : Nat) (v : Dbl) : (csrSet s n v).queue = s.queue := rfl
@[simp] theorem csrSet_script (s : State) (n : Nat) (v : Dbl) : (csrSet s n v).script = s.script := rfl
@[simp] theorem csrSet_cur (s : State) (n : Nat) (v : Dbl) : (csrSet s n v).cur = s.cur := rfl
@[simp] theorem csrSet_freeCount (s : State) (n : Nat) (v : Dbl) : (csrSet s n v).freeCount = s.freeCount := rfl
@[simp] theorem csrSet_nextId (s : State) (n : Nat) (v : Dbl) : (csrSet s n v).nextId = s.nextId := rfl
@[simp] theorem csrSet_now (s : State) (n : Nat) (v : Dbl) : (csrSet s n v).now = s.now := rfl
@[simp] theorem csrSet_meets (s : State) (n : Nat) (v : Dbl) : (csrSet s n v).meets = s.meets := rfl
@[simp] theorem csrSet_tickBase (s : State) (n : Nat) (v : Dbl) : (csrSet s n v).tickBase = s.tickBase := rfl
@[simp] theorem csrSet_tickAt (s : State) (n : Nat) (v : Dbl) : (csrSet s n v).tickAt = s.tickAt := rfl
@[simp] theorem csrSet_lendLive (s : State) (n : Nat) (v : Dbl) : (csrSet s n v).lendLive = s.lendLive := rfl
@[simp] theorem csrSet_lendAt (s : State) (n : Nat) (v : Dbl) : (csrSet s n v).lendAt = s.lendAt := rfl
@[simp] theorem csrSet_hbm (s : State) (n : Nat) (v : Dbl) : (csrSet s n v).hbm = s.hbm := rfl
@[simp] theorem csrSet_sram (s : State) (n : Nat) (v : Dbl) : (csrSet s n v).sram = s.sram := rfl
@[simp] theorem csrSet_hostMem (s : State) (n : Nat) (v : Dbl) : (csrSet s n v).hostMem = s.hostMem := rfl
@[simp] theorem csrSet_spoiled (s : State) (n : Nat) (v : Dbl) : (csrSet s n v).spoiled = s.spoiled := rfl
@[simp] theorem csrSet_csrs (s : State) (n : Nat) (v : Dbl) : (csrSet s n v).csrs = tabSet csrReset s.csrs n v := rfl
@[simp] theorem csrSet_ready (s : State) (n : Nat) (v : Dbl) : (csrSet s n v).ready = s.ready := rfl
@[simp] theorem csrSet_failed (s : State) (n : Nat) (v : Dbl) : (csrSet s n v).failed = s.failed := rfl
@[simp] theorem csrSet_ramped (s : State) (n : Nat) (v : Dbl) : (csrSet s n v).ramped = s.ramped := rfl
@[simp] theorem csrSet_wakeAt (s : State) (n : Nat) (v : Dbl) : (csrSet s n v).wakeAt = s.wakeAt := rfl
@[simp] theorem csrSet_keys (s : State) (n : Nat) (v : Dbl) : (csrSet s n v).keys = s.keys := rfl
@[simp] theorem csrSet_keyLock (s : State) (n : Nat) (v : Dbl) : (csrSet s n v).keyLock = s.keyLock := rfl
@[simp] theorem csrSet_attest (s : State) (n : Nat) (v : Dbl) : (csrSet s n v).attest = s.attest := rfl
@[simp] theorem csrSet_attestStatus (s : State) (n : Nat) (v : Dbl) : (csrSet s n v).attestStatus = s.attestStatus := rfl
@[simp] theorem csrSet_w4base (s : State) (n : Nat) (v : Dbl) : (csrSet s n v).w4base = s.w4base := rfl
@[simp] theorem csrSet_hostReading (s : State) (n : Nat) (v : Dbl) : (csrSet s n v).hostReading = s.hostReading := rfl
@[simp] theorem csrSet_ports (s : State) (n : Nat) (v : Dbl) : (csrSet s n v).ports = s.ports := rfl
@[simp] theorem csrSet_rings (s : State) (n : Nat) (v : Dbl) : (csrSet s n v).rings = s.rings := rfl
@[simp] theorem csrSet_egress (s : State) (n : Nat) (v : Dbl) : (csrSet s n v).egress = s.egress := rfl
@[simp] theorem csrSet_eventWait (s : State) (n : Nat) (v : Dbl) : (csrSet s n v).eventWait = s.eventWait := rfl
@[simp] theorem csrSet_faultWait (s : State) (n : Nat) (v : Dbl) : (csrSet s n v).faultWait = s.faultWait := rfl
@[simp] theorem csrSet_quarWait (s : State) (n : Nat) (v : Dbl) : (csrSet s n v).quarWait = s.quarWait := rfl
@[simp] theorem csrSet_faultSeq (s : State) (n : Nat) (v : Dbl) : (csrSet s n v).faultSeq = s.faultSeq := rfl
@[simp] theorem csrSet_records (s : State) (n : Nat) (v : Dbl) : (csrSet s n v).records = s.records := rfl
@[simp] theorem csrSet_hostOut (s : State) (n : Nat) (v : Dbl) : (csrSet s n v).hostOut = s.hostOut := rfl
@[simp] theorem csrSet_arrivals (s : State) (n : Nat) (v : Dbl) : (csrSet s n v).arrivals = s.arrivals := rfl
@[simp] theorem csrSet_promotions (s : State) (n : Nat) (v : Dbl) : (csrSet s n v).promotions = s.promotions := rfl
@[simp] theorem csrSet_slotNotes (s : State) (n : Nat) (v : Dbl) : (csrSet s n v).slotNotes = s.slotNotes := rfl
@[simp] theorem csrSet_unsent (s : State) (n : Nat) (v : Dbl) : (csrSet s n v).unsent = s.unsent := rfl
@[simp] theorem csrSet_groups (s : State) (n : Nat) (v : Dbl) : (csrSet s n v).groups = s.groups := rfl
@[simp] theorem csrSet_presses (s : State) (n : Nat) (v : Dbl) : (csrSet s n v).presses = s.presses := rfl
@[simp] theorem csrSet_steps (s : State) (n : Nat) (v : Dbl) : (csrSet s n v).steps = s.steps := rfl
@[simp] theorem csrSet_ctxs (s : State) (n : Nat) (v : Dbl) : (csrSet s n v).ctxs = s.ctxs := rfl
@[simp] theorem csrSet_accesses (s : State) (n : Nat) (v : Dbl) : (csrSet s n v).accesses = s.accesses := rfl
@[simp] theorem csrSet_settling (s : State) (n : Nat) (v : Dbl) : (csrSet s n v).settling = s.settling := rfl
@[simp] theorem csrSet_memFires (s : State) (n : Nat) (v : Dbl) : (csrSet s n v).memFires = s.memFires := rfl
@[simp] theorem csrSet_fences (s : State) (n : Nat) (v : Dbl) : (csrSet s n v).fences = s.fences := rfl
@[simp] theorem csrSet_qfences (s : State) (n : Nat) (v : Dbl) : (csrSet s n v).qfences = s.qfences := rfl
@[simp] theorem csrSet_waiters (s : State) (n : Nat) (v : Dbl) : (csrSet s n v).waiters = s.waiters := rfl
@[simp] theorem csrSet_cards (s : State) (n : Nat) (v : Dbl) : (csrSet s n v).cards = s.cards := rfl
@[simp] theorem csrSet_cohorts (s : State) (n : Nat) (v : Dbl) : (csrSet s n v).cohorts = s.cohorts := rfl
@[simp] theorem csrSet_cohortOps (s : State) (n : Nat) (v : Dbl) : (csrSet s n v).cohortOps = s.cohortOps := rfl
@[simp] theorem csrSet_proofs (s : State) (n : Nat) (v : Dbl) : (csrSet s n v).proofs = s.proofs := rfl
@[simp] theorem csrSet_slotWait (s : State) (n : Nat) (v : Dbl) : (csrSet s n v).slotWait = s.slotWait := rfl
@[simp] theorem csrSet_slots (s : State) (n : Nat) (v : Dbl) : (csrSet s n v).slots = s.slots := rfl
@[simp] theorem csrSet_ways (s : State) (n : Nat) (v : Dbl) : (csrSet s n v).ways = s.ways := rfl
@[simp] theorem csrSet_raceBudget (s : State) (n : Nat) (v : Dbl) : (csrSet s n v).raceBudget = s.raceBudget := rfl
@[simp] theorem csrSet_raceMicro (s : State) (n : Nat) (v : Dbl) : (csrSet s n v).raceMicro = s.raceMicro := rfl
@[simp] theorem csrSet_migrations (s : State) (n : Nat) (v : Dbl) : (csrSet s n v).migrations = s.migrations := rfl
@[simp] theorem csrSet_invalidating (s : State) (n : Nat) (v : Dbl) : (csrSet s n v).invalidating = s.invalidating := rfl
@[simp] theorem csrSet_fabric (s : State) (n : Nat) (v : Dbl) : (csrSet s n v).fabric = s.fabric := rfl
@[simp] theorem csrSet_nextFabric (s : State) (n : Nat) (v : Dbl) : (csrSet s n v).nextFabric = s.nextFabric := rfl
@[simp] theorem csrSet_waves (s : State) (n : Nat) (v : Dbl) : (csrSet s n v).waves = s.waves := rfl
@[simp] theorem csrSet_links (s : State) (n : Nat) (v : Dbl) : (csrSet s n v).links = s.links := rfl
@[simp] theorem csrSet_leases (s : State) (n : Nat) (v : Dbl) : (csrSet s n v).leases = s.leases := rfl
@[simp] theorem csrSet_retires (s : State) (n : Nat) (v : Dbl) : (csrSet s n v).retires = s.retires := rfl
@[simp] theorem csrSet_xfers (s : State) (n : Nat) (v : Dbl) : (csrSet s n v).xfers = s.xfers := rfl
@[simp] theorem csrSet_remoteBuf (s : State) (n : Nat) (v : Dbl) : (csrSet s n v).remoteBuf = s.remoteBuf := rfl
@[simp] theorem csrSet_remoteBad (s : State) (n : Nat) (v : Dbl) : (csrSet s n v).remoteBad = s.remoteBad := rfl
@[simp] theorem csrSet_inXfers (s : State) (n : Nat) (v : Dbl) : (csrSet s n v).inXfers = s.inXfers := rfl
@[simp] theorem csrSet_shards (s : State) (n : Nat) (v : Dbl) : (csrSet s n v).shards = s.shards := rfl
@[simp] theorem csrSet_sentFlits (s : State) (n : Nat) (v : Dbl) : (csrSet s n v).sentFlits = s.sentFlits := rfl
@[simp] theorem csrSet_dist (s : State) (n : Nat) (v : Dbl) : (csrSet s n v).dist = s.dist := rfl
@[simp] theorem csrSet_chunks (s : State) (n : Nat) (v : Dbl) : (csrSet s n v).chunks = s.chunks := rfl
@[simp] theorem csrSet_chainStopped (s : State) (n : Nat) (v : Dbl) : (csrSet s n v).chainStopped = s.chainStopped := rfl
@[simp] theorem csrSet_devCounts (s : State) (n : Nat) (v : Dbl) : (csrSet s n v).devCounts = s.devCounts := rfl
@[simp] theorem csrSet_traceLast (s : State) (n : Nat) (v : Dbl) : (csrSet s n v).traceLast = s.traceLast := rfl
/-! hbmWrite. -/
@[simp] theorem hbmWrite_queue (s : State) (pa : Nat) (bs : List Byte) : (hbmWrite s pa bs).queue = s.queue := rfl
@[simp] theorem hbmWrite_script (s : State) (pa : Nat) (bs : List Byte) : (hbmWrite s pa bs).script = s.script := rfl
@[simp] theorem hbmWrite_cur (s : State) (pa : Nat) (bs : List Byte) : (hbmWrite s pa bs).cur = s.cur := rfl
@[simp] theorem hbmWrite_freeCount (s : State) (pa : Nat) (bs : List Byte) : (hbmWrite s pa bs).freeCount = s.freeCount := rfl
@[simp] theorem hbmWrite_nextId (s : State) (pa : Nat) (bs : List Byte) : (hbmWrite s pa bs).nextId = s.nextId := rfl
@[simp] theorem hbmWrite_now (s : State) (pa : Nat) (bs : List Byte) : (hbmWrite s pa bs).now = s.now := rfl
@[simp] theorem hbmWrite_meets (s : State) (pa : Nat) (bs : List Byte) : (hbmWrite s pa bs).meets = s.meets := rfl
@[simp] theorem hbmWrite_tickBase (s : State) (pa : Nat) (bs : List Byte) : (hbmWrite s pa bs).tickBase = s.tickBase := rfl
@[simp] theorem hbmWrite_tickAt (s : State) (pa : Nat) (bs : List Byte) : (hbmWrite s pa bs).tickAt = s.tickAt := rfl
@[simp] theorem hbmWrite_lendLive (s : State) (pa : Nat) (bs : List Byte) : (hbmWrite s pa bs).lendLive = s.lendLive := rfl
@[simp] theorem hbmWrite_lendAt (s : State) (pa : Nat) (bs : List Byte) : (hbmWrite s pa bs).lendAt = s.lendAt := rfl
@[simp] theorem hbmWrite_hbm (s : State) (pa : Nat) (bs : List Byte) : (hbmWrite s pa bs).hbm = memWrite s.hbm pa bs := rfl
@[simp] theorem hbmWrite_sram (s : State) (pa : Nat) (bs : List Byte) : (hbmWrite s pa bs).sram = s.sram := rfl
@[simp] theorem hbmWrite_hostMem (s : State) (pa : Nat) (bs : List Byte) : (hbmWrite s pa bs).hostMem = s.hostMem := rfl
@[simp] theorem hbmWrite_spoiled (s : State) (pa : Nat) (bs : List Byte) : (hbmWrite s pa bs).spoiled = s.spoiled := rfl
@[simp] theorem hbmWrite_csrs (s : State) (pa : Nat) (bs : List Byte) : (hbmWrite s pa bs).csrs = s.csrs := rfl
@[simp] theorem hbmWrite_ready (s : State) (pa : Nat) (bs : List Byte) : (hbmWrite s pa bs).ready = s.ready := rfl
@[simp] theorem hbmWrite_failed (s : State) (pa : Nat) (bs : List Byte) : (hbmWrite s pa bs).failed = s.failed := rfl
@[simp] theorem hbmWrite_ramped (s : State) (pa : Nat) (bs : List Byte) : (hbmWrite s pa bs).ramped = s.ramped := rfl
@[simp] theorem hbmWrite_wakeAt (s : State) (pa : Nat) (bs : List Byte) : (hbmWrite s pa bs).wakeAt = s.wakeAt := rfl
@[simp] theorem hbmWrite_keys (s : State) (pa : Nat) (bs : List Byte) : (hbmWrite s pa bs).keys = s.keys := rfl
@[simp] theorem hbmWrite_keyLock (s : State) (pa : Nat) (bs : List Byte) : (hbmWrite s pa bs).keyLock = s.keyLock := rfl
@[simp] theorem hbmWrite_attest (s : State) (pa : Nat) (bs : List Byte) : (hbmWrite s pa bs).attest = s.attest := rfl
@[simp] theorem hbmWrite_attestStatus (s : State) (pa : Nat) (bs : List Byte) : (hbmWrite s pa bs).attestStatus = s.attestStatus := rfl
@[simp] theorem hbmWrite_w4base (s : State) (pa : Nat) (bs : List Byte) : (hbmWrite s pa bs).w4base = s.w4base := rfl
@[simp] theorem hbmWrite_hostReading (s : State) (pa : Nat) (bs : List Byte) : (hbmWrite s pa bs).hostReading = s.hostReading := rfl
@[simp] theorem hbmWrite_ports (s : State) (pa : Nat) (bs : List Byte) : (hbmWrite s pa bs).ports = s.ports := rfl
@[simp] theorem hbmWrite_rings (s : State) (pa : Nat) (bs : List Byte) : (hbmWrite s pa bs).rings = s.rings := rfl
@[simp] theorem hbmWrite_egress (s : State) (pa : Nat) (bs : List Byte) : (hbmWrite s pa bs).egress = s.egress := rfl
@[simp] theorem hbmWrite_eventWait (s : State) (pa : Nat) (bs : List Byte) : (hbmWrite s pa bs).eventWait = s.eventWait := rfl
@[simp] theorem hbmWrite_faultWait (s : State) (pa : Nat) (bs : List Byte) : (hbmWrite s pa bs).faultWait = s.faultWait := rfl
@[simp] theorem hbmWrite_quarWait (s : State) (pa : Nat) (bs : List Byte) : (hbmWrite s pa bs).quarWait = s.quarWait := rfl
@[simp] theorem hbmWrite_faultSeq (s : State) (pa : Nat) (bs : List Byte) : (hbmWrite s pa bs).faultSeq = s.faultSeq := rfl
@[simp] theorem hbmWrite_records (s : State) (pa : Nat) (bs : List Byte) : (hbmWrite s pa bs).records = s.records := rfl
@[simp] theorem hbmWrite_hostOut (s : State) (pa : Nat) (bs : List Byte) : (hbmWrite s pa bs).hostOut = s.hostOut := rfl
@[simp] theorem hbmWrite_arrivals (s : State) (pa : Nat) (bs : List Byte) : (hbmWrite s pa bs).arrivals = s.arrivals := rfl
@[simp] theorem hbmWrite_promotions (s : State) (pa : Nat) (bs : List Byte) : (hbmWrite s pa bs).promotions = s.promotions := rfl
@[simp] theorem hbmWrite_slotNotes (s : State) (pa : Nat) (bs : List Byte) : (hbmWrite s pa bs).slotNotes = s.slotNotes := rfl
@[simp] theorem hbmWrite_unsent (s : State) (pa : Nat) (bs : List Byte) : (hbmWrite s pa bs).unsent = s.unsent := rfl
@[simp] theorem hbmWrite_groups (s : State) (pa : Nat) (bs : List Byte) : (hbmWrite s pa bs).groups = s.groups := rfl
@[simp] theorem hbmWrite_presses (s : State) (pa : Nat) (bs : List Byte) : (hbmWrite s pa bs).presses = s.presses := rfl
@[simp] theorem hbmWrite_steps (s : State) (pa : Nat) (bs : List Byte) : (hbmWrite s pa bs).steps = s.steps := rfl
@[simp] theorem hbmWrite_ctxs (s : State) (pa : Nat) (bs : List Byte) : (hbmWrite s pa bs).ctxs = s.ctxs := rfl
@[simp] theorem hbmWrite_accesses (s : State) (pa : Nat) (bs : List Byte) : (hbmWrite s pa bs).accesses = s.accesses := rfl
@[simp] theorem hbmWrite_settling (s : State) (pa : Nat) (bs : List Byte) : (hbmWrite s pa bs).settling = s.settling := rfl
@[simp] theorem hbmWrite_memFires (s : State) (pa : Nat) (bs : List Byte) : (hbmWrite s pa bs).memFires = s.memFires := rfl
@[simp] theorem hbmWrite_fences (s : State) (pa : Nat) (bs : List Byte) : (hbmWrite s pa bs).fences = s.fences := rfl
@[simp] theorem hbmWrite_qfences (s : State) (pa : Nat) (bs : List Byte) : (hbmWrite s pa bs).qfences = s.qfences := rfl
@[simp] theorem hbmWrite_waiters (s : State) (pa : Nat) (bs : List Byte) : (hbmWrite s pa bs).waiters = s.waiters := rfl
@[simp] theorem hbmWrite_cards (s : State) (pa : Nat) (bs : List Byte) : (hbmWrite s pa bs).cards = s.cards := rfl
@[simp] theorem hbmWrite_cohorts (s : State) (pa : Nat) (bs : List Byte) : (hbmWrite s pa bs).cohorts = s.cohorts := rfl
@[simp] theorem hbmWrite_cohortOps (s : State) (pa : Nat) (bs : List Byte) : (hbmWrite s pa bs).cohortOps = s.cohortOps := rfl
@[simp] theorem hbmWrite_proofs (s : State) (pa : Nat) (bs : List Byte) : (hbmWrite s pa bs).proofs = s.proofs := rfl
@[simp] theorem hbmWrite_slotWait (s : State) (pa : Nat) (bs : List Byte) : (hbmWrite s pa bs).slotWait = s.slotWait := rfl
@[simp] theorem hbmWrite_slots (s : State) (pa : Nat) (bs : List Byte) : (hbmWrite s pa bs).slots = s.slots := rfl
@[simp] theorem hbmWrite_ways (s : State) (pa : Nat) (bs : List Byte) : (hbmWrite s pa bs).ways = s.ways := rfl
@[simp] theorem hbmWrite_raceBudget (s : State) (pa : Nat) (bs : List Byte) : (hbmWrite s pa bs).raceBudget = s.raceBudget := rfl
@[simp] theorem hbmWrite_raceMicro (s : State) (pa : Nat) (bs : List Byte) : (hbmWrite s pa bs).raceMicro = s.raceMicro := rfl
@[simp] theorem hbmWrite_migrations (s : State) (pa : Nat) (bs : List Byte) : (hbmWrite s pa bs).migrations = s.migrations := rfl
@[simp] theorem hbmWrite_invalidating (s : State) (pa : Nat) (bs : List Byte) : (hbmWrite s pa bs).invalidating = s.invalidating := rfl
@[simp] theorem hbmWrite_fabric (s : State) (pa : Nat) (bs : List Byte) : (hbmWrite s pa bs).fabric = s.fabric := rfl
@[simp] theorem hbmWrite_nextFabric (s : State) (pa : Nat) (bs : List Byte) : (hbmWrite s pa bs).nextFabric = s.nextFabric := rfl
@[simp] theorem hbmWrite_waves (s : State) (pa : Nat) (bs : List Byte) : (hbmWrite s pa bs).waves = s.waves := rfl
@[simp] theorem hbmWrite_links (s : State) (pa : Nat) (bs : List Byte) : (hbmWrite s pa bs).links = s.links := rfl
@[simp] theorem hbmWrite_leases (s : State) (pa : Nat) (bs : List Byte) : (hbmWrite s pa bs).leases = s.leases := rfl
@[simp] theorem hbmWrite_retires (s : State) (pa : Nat) (bs : List Byte) : (hbmWrite s pa bs).retires = s.retires := rfl
@[simp] theorem hbmWrite_xfers (s : State) (pa : Nat) (bs : List Byte) : (hbmWrite s pa bs).xfers = s.xfers := rfl
@[simp] theorem hbmWrite_remoteBuf (s : State) (pa : Nat) (bs : List Byte) : (hbmWrite s pa bs).remoteBuf = s.remoteBuf := rfl
@[simp] theorem hbmWrite_remoteBad (s : State) (pa : Nat) (bs : List Byte) : (hbmWrite s pa bs).remoteBad = s.remoteBad := rfl
@[simp] theorem hbmWrite_inXfers (s : State) (pa : Nat) (bs : List Byte) : (hbmWrite s pa bs).inXfers = s.inXfers := rfl
@[simp] theorem hbmWrite_shards (s : State) (pa : Nat) (bs : List Byte) : (hbmWrite s pa bs).shards = s.shards := rfl
@[simp] theorem hbmWrite_sentFlits (s : State) (pa : Nat) (bs : List Byte) : (hbmWrite s pa bs).sentFlits = s.sentFlits := rfl
@[simp] theorem hbmWrite_dist (s : State) (pa : Nat) (bs : List Byte) : (hbmWrite s pa bs).dist = s.dist := rfl
@[simp] theorem hbmWrite_chunks (s : State) (pa : Nat) (bs : List Byte) : (hbmWrite s pa bs).chunks = s.chunks := rfl
@[simp] theorem hbmWrite_chainStopped (s : State) (pa : Nat) (bs : List Byte) : (hbmWrite s pa bs).chainStopped = s.chainStopped := rfl
@[simp] theorem hbmWrite_devCounts (s : State) (pa : Nat) (bs : List Byte) : (hbmWrite s pa bs).devCounts = s.devCounts := rfl
@[simp] theorem hbmWrite_traceLast (s : State) (pa : Nat) (bs : List Byte) : (hbmWrite s pa bs).traceLast = s.traceLast := rfl
/-! touchShard. -/
@[simp] theorem touchShard_queue (s : State) (kind obj : Nat) : (touchShard s kind obj).queue = s.queue := rfl
@[simp] theorem touchShard_script (s : State) (kind obj : Nat) : (touchShard s kind obj).script = s.script := rfl
@[simp] theorem touchShard_cur (s : State) (kind obj : Nat) : (touchShard s kind obj).cur = s.cur := rfl
@[simp] theorem touchShard_freeCount (s : State) (kind obj : Nat) : (touchShard s kind obj).freeCount = s.freeCount := rfl
@[simp] theorem touchShard_nextId (s : State) (kind obj : Nat) : (touchShard s kind obj).nextId = s.nextId := rfl
@[simp] theorem touchShard_now (s : State) (kind obj : Nat) : (touchShard s kind obj).now = s.now := rfl
@[simp] theorem touchShard_meets (s : State) (kind obj : Nat) : (touchShard s kind obj).meets = s.meets := rfl
@[simp] theorem touchShard_tickBase (s : State) (kind obj : Nat) : (touchShard s kind obj).tickBase = s.tickBase := rfl
@[simp] theorem touchShard_tickAt (s : State) (kind obj : Nat) : (touchShard s kind obj).tickAt = s.tickAt := rfl
@[simp] theorem touchShard_lendLive (s : State) (kind obj : Nat) : (touchShard s kind obj).lendLive = s.lendLive := rfl
@[simp] theorem touchShard_lendAt (s : State) (kind obj : Nat) : (touchShard s kind obj).lendAt = s.lendAt := rfl
@[simp] theorem touchShard_hbm (s : State) (kind obj : Nat) : (touchShard s kind obj).hbm = s.hbm := rfl
@[simp] theorem touchShard_sram (s : State) (kind obj : Nat) : (touchShard s kind obj).sram = s.sram := rfl
@[simp] theorem touchShard_hostMem (s : State) (kind obj : Nat) : (touchShard s kind obj).hostMem = s.hostMem := rfl
@[simp] theorem touchShard_spoiled (s : State) (kind obj : Nat) : (touchShard s kind obj).spoiled = s.spoiled := rfl
@[simp] theorem touchShard_csrs (s : State) (kind obj : Nat) : (touchShard s kind obj).csrs = s.csrs := rfl
@[simp] theorem touchShard_ready (s : State) (kind obj : Nat) : (touchShard s kind obj).ready = s.ready := rfl
@[simp] theorem touchShard_failed (s : State) (kind obj : Nat) : (touchShard s kind obj).failed = s.failed := rfl
@[simp] theorem touchShard_ramped (s : State) (kind obj : Nat) : (touchShard s kind obj).ramped = s.ramped := rfl
@[simp] theorem touchShard_wakeAt (s : State) (kind obj : Nat) : (touchShard s kind obj).wakeAt = s.wakeAt := rfl
@[simp] theorem touchShard_keys (s : State) (kind obj : Nat) : (touchShard s kind obj).keys = s.keys := rfl
@[simp] theorem touchShard_keyLock (s : State) (kind obj : Nat) : (touchShard s kind obj).keyLock = s.keyLock := rfl
@[simp] theorem touchShard_attest (s : State) (kind obj : Nat) : (touchShard s kind obj).attest = s.attest := rfl
@[simp] theorem touchShard_attestStatus (s : State) (kind obj : Nat) : (touchShard s kind obj).attestStatus = s.attestStatus := rfl
@[simp] theorem touchShard_w4base (s : State) (kind obj : Nat) : (touchShard s kind obj).w4base = s.w4base := rfl
@[simp] theorem touchShard_hostReading (s : State) (kind obj : Nat) : (touchShard s kind obj).hostReading = s.hostReading := rfl
@[simp] theorem touchShard_ports (s : State) (kind obj : Nat) : (touchShard s kind obj).ports = s.ports := rfl
@[simp] theorem touchShard_rings (s : State) (kind obj : Nat) : (touchShard s kind obj).rings = s.rings := rfl
@[simp] theorem touchShard_egress (s : State) (kind obj : Nat) : (touchShard s kind obj).egress = s.egress := rfl
@[simp] theorem touchShard_eventWait (s : State) (kind obj : Nat) : (touchShard s kind obj).eventWait = s.eventWait := rfl
@[simp] theorem touchShard_faultWait (s : State) (kind obj : Nat) : (touchShard s kind obj).faultWait = s.faultWait := rfl
@[simp] theorem touchShard_quarWait (s : State) (kind obj : Nat) : (touchShard s kind obj).quarWait = s.quarWait := rfl
@[simp] theorem touchShard_faultSeq (s : State) (kind obj : Nat) : (touchShard s kind obj).faultSeq = s.faultSeq := rfl
@[simp] theorem touchShard_records (s : State) (kind obj : Nat) : (touchShard s kind obj).records = s.records := rfl
@[simp] theorem touchShard_hostOut (s : State) (kind obj : Nat) : (touchShard s kind obj).hostOut = s.hostOut := rfl
@[simp] theorem touchShard_arrivals (s : State) (kind obj : Nat) : (touchShard s kind obj).arrivals = s.arrivals := rfl
@[simp] theorem touchShard_promotions (s : State) (kind obj : Nat) : (touchShard s kind obj).promotions = s.promotions := rfl
@[simp] theorem touchShard_slotNotes (s : State) (kind obj : Nat) : (touchShard s kind obj).slotNotes = s.slotNotes := rfl
@[simp] theorem touchShard_unsent (s : State) (kind obj : Nat) : (touchShard s kind obj).unsent = s.unsent := rfl
@[simp] theorem touchShard_groups (s : State) (kind obj : Nat) : (touchShard s kind obj).groups = s.groups := rfl
@[simp] theorem touchShard_presses (s : State) (kind obj : Nat) : (touchShard s kind obj).presses = s.presses := rfl
@[simp] theorem touchShard_steps (s : State) (kind obj : Nat) : (touchShard s kind obj).steps = s.steps := rfl
@[simp] theorem touchShard_ctxs (s : State) (kind obj : Nat) : (touchShard s kind obj).ctxs = s.ctxs := rfl
@[simp] theorem touchShard_accesses (s : State) (kind obj : Nat) : (touchShard s kind obj).accesses = s.accesses := rfl
@[simp] theorem touchShard_settling (s : State) (kind obj : Nat) : (touchShard s kind obj).settling = s.settling := rfl
@[simp] theorem touchShard_memFires (s : State) (kind obj : Nat) : (touchShard s kind obj).memFires = s.memFires := rfl
@[simp] theorem touchShard_fences (s : State) (kind obj : Nat) : (touchShard s kind obj).fences = s.fences := rfl
@[simp] theorem touchShard_qfences (s : State) (kind obj : Nat) : (touchShard s kind obj).qfences = s.qfences := rfl
@[simp] theorem touchShard_waiters (s : State) (kind obj : Nat) : (touchShard s kind obj).waiters = s.waiters := rfl
@[simp] theorem touchShard_cards (s : State) (kind obj : Nat) : (touchShard s kind obj).cards = s.cards := rfl
@[simp] theorem touchShard_cohorts (s : State) (kind obj : Nat) : (touchShard s kind obj).cohorts = s.cohorts := rfl
@[simp] theorem touchShard_cohortOps (s : State) (kind obj : Nat) : (touchShard s kind obj).cohortOps = s.cohortOps := rfl
@[simp] theorem touchShard_proofs (s : State) (kind obj : Nat) : (touchShard s kind obj).proofs = s.proofs := rfl
@[simp] theorem touchShard_slotWait (s : State) (kind obj : Nat) : (touchShard s kind obj).slotWait = s.slotWait := rfl
@[simp] theorem touchShard_slots (s : State) (kind obj : Nat) : (touchShard s kind obj).slots = s.slots := rfl
@[simp] theorem touchShard_ways (s : State) (kind obj : Nat) : (touchShard s kind obj).ways = s.ways := rfl
@[simp] theorem touchShard_raceBudget (s : State) (kind obj : Nat) : (touchShard s kind obj).raceBudget = s.raceBudget := rfl
@[simp] theorem touchShard_raceMicro (s : State) (kind obj : Nat) : (touchShard s kind obj).raceMicro = s.raceMicro := rfl
@[simp] theorem touchShard_migrations (s : State) (kind obj : Nat) : (touchShard s kind obj).migrations = s.migrations := rfl
@[simp] theorem touchShard_invalidating (s : State) (kind obj : Nat) : (touchShard s kind obj).invalidating = s.invalidating := rfl
@[simp] theorem touchShard_fabric (s : State) (kind obj : Nat) : (touchShard s kind obj).fabric = s.fabric := rfl
@[simp] theorem touchShard_nextFabric (s : State) (kind obj : Nat) : (touchShard s kind obj).nextFabric = s.nextFabric := rfl
@[simp] theorem touchShard_waves (s : State) (kind obj : Nat) : (touchShard s kind obj).waves = s.waves := rfl
@[simp] theorem touchShard_links (s : State) (kind obj : Nat) : (touchShard s kind obj).links = s.links := rfl
@[simp] theorem touchShard_leases (s : State) (kind obj : Nat) : (touchShard s kind obj).leases = s.leases := rfl
@[simp] theorem touchShard_retires (s : State) (kind obj : Nat) : (touchShard s kind obj).retires = s.retires := rfl
@[simp] theorem touchShard_xfers (s : State) (kind obj : Nat) : (touchShard s kind obj).xfers = s.xfers := rfl
@[simp] theorem touchShard_remoteBuf (s : State) (kind obj : Nat) : (touchShard s kind obj).remoteBuf = s.remoteBuf := rfl
@[simp] theorem touchShard_remoteBad (s : State) (kind obj : Nat) : (touchShard s kind obj).remoteBad = s.remoteBad := rfl
@[simp] theorem touchShard_inXfers (s : State) (kind obj : Nat) : (touchShard s kind obj).inXfers = s.inXfers := rfl
@[simp] theorem touchShard_sentFlits (s : State) (kind obj : Nat) : (touchShard s kind obj).sentFlits = s.sentFlits := rfl
@[simp] theorem touchShard_dist (s : State) (kind obj : Nat) : (touchShard s kind obj).dist = s.dist := rfl
@[simp] theorem touchShard_chunks (s : State) (kind obj : Nat) : (touchShard s kind obj).chunks = s.chunks := rfl
@[simp] theorem touchShard_chainStopped (s : State) (kind obj : Nat) : (touchShard s kind obj).chainStopped = s.chainStopped := rfl
@[simp] theorem touchShard_devCounts (s : State) (kind obj : Nat) : (touchShard s kind obj).devCounts = s.devCounts := rfl
@[simp] theorem touchShard_traceLast (s : State) (kind obj : Nat) : (touchShard s kind obj).traceLast = s.traceLast := rfl
/-! pushEvOnce. -/
theorem pushEvOnce_cases (s : State) (i : Instr) : pushEvOnce s i = s ∨ pushEvOnce s i = pushEv s i := by
  unfold pushEvOnce
  split
  · exact .inl rfl
  · exact .inr rfl
@[simp] theorem pushEvOnce_script (s : State) (i : Instr) : (pushEvOnce s i).script = s.script := by rcases pushEvOnce_cases s i with h | h <;> simp [h]
@[simp] theorem pushEvOnce_cur (s : State) (i : Instr) : (pushEvOnce s i).cur = s.cur := by rcases pushEvOnce_cases s i with h | h <;> simp [h]
@[simp] theorem pushEvOnce_freeCount (s : State) (i : Instr) : (pushEvOnce s i).freeCount = s.freeCount := by rcases pushEvOnce_cases s i with h | h <;> simp [h]
@[simp] theorem pushEvOnce_nextId (s : State) (i : Instr) : (pushEvOnce s i).nextId = s.nextId := by rcases pushEvOnce_cases s i with h | h <;> simp [h]
@[simp] theorem pushEvOnce_now (s : State) (i : Instr) : (pushEvOnce s i).now = s.now := by rcases pushEvOnce_cases s i with h | h <;> simp [h]
@[simp] theorem pushEvOnce_meets (s : State) (i : Instr) : (pushEvOnce s i).meets = s.meets := by rcases pushEvOnce_cases s i with h | h <;> simp [h]
@[simp] theorem pushEvOnce_tickBase (s : State) (i : Instr) : (pushEvOnce s i).tickBase = s.tickBase := by rcases pushEvOnce_cases s i with h | h <;> simp [h]
@[simp] theorem pushEvOnce_tickAt (s : State) (i : Instr) : (pushEvOnce s i).tickAt = s.tickAt := by rcases pushEvOnce_cases s i with h | h <;> simp [h]
@[simp] theorem pushEvOnce_lendLive (s : State) (i : Instr) : (pushEvOnce s i).lendLive = s.lendLive := by rcases pushEvOnce_cases s i with h | h <;> simp [h]
@[simp] theorem pushEvOnce_lendAt (s : State) (i : Instr) : (pushEvOnce s i).lendAt = s.lendAt := by rcases pushEvOnce_cases s i with h | h <;> simp [h]
@[simp] theorem pushEvOnce_hbm (s : State) (i : Instr) : (pushEvOnce s i).hbm = s.hbm := by rcases pushEvOnce_cases s i with h | h <;> simp [h]
@[simp] theorem pushEvOnce_sram (s : State) (i : Instr) : (pushEvOnce s i).sram = s.sram := by rcases pushEvOnce_cases s i with h | h <;> simp [h]
@[simp] theorem pushEvOnce_hostMem (s : State) (i : Instr) : (pushEvOnce s i).hostMem = s.hostMem := by rcases pushEvOnce_cases s i with h | h <;> simp [h]
@[simp] theorem pushEvOnce_spoiled (s : State) (i : Instr) : (pushEvOnce s i).spoiled = s.spoiled := by rcases pushEvOnce_cases s i with h | h <;> simp [h]
@[simp] theorem pushEvOnce_csrs (s : State) (i : Instr) : (pushEvOnce s i).csrs = s.csrs := by rcases pushEvOnce_cases s i with h | h <;> simp [h]
@[simp] theorem pushEvOnce_ready (s : State) (i : Instr) : (pushEvOnce s i).ready = s.ready := by rcases pushEvOnce_cases s i with h | h <;> simp [h]
@[simp] theorem pushEvOnce_failed (s : State) (i : Instr) : (pushEvOnce s i).failed = s.failed := by rcases pushEvOnce_cases s i with h | h <;> simp [h]
@[simp] theorem pushEvOnce_ramped (s : State) (i : Instr) : (pushEvOnce s i).ramped = s.ramped := by rcases pushEvOnce_cases s i with h | h <;> simp [h]
@[simp] theorem pushEvOnce_wakeAt (s : State) (i : Instr) : (pushEvOnce s i).wakeAt = s.wakeAt := by rcases pushEvOnce_cases s i with h | h <;> simp [h]
@[simp] theorem pushEvOnce_keys (s : State) (i : Instr) : (pushEvOnce s i).keys = s.keys := by rcases pushEvOnce_cases s i with h | h <;> simp [h]
@[simp] theorem pushEvOnce_keyLock (s : State) (i : Instr) : (pushEvOnce s i).keyLock = s.keyLock := by rcases pushEvOnce_cases s i with h | h <;> simp [h]
@[simp] theorem pushEvOnce_attest (s : State) (i : Instr) : (pushEvOnce s i).attest = s.attest := by rcases pushEvOnce_cases s i with h | h <;> simp [h]
@[simp] theorem pushEvOnce_attestStatus (s : State) (i : Instr) : (pushEvOnce s i).attestStatus = s.attestStatus := by rcases pushEvOnce_cases s i with h | h <;> simp [h]
@[simp] theorem pushEvOnce_w4base (s : State) (i : Instr) : (pushEvOnce s i).w4base = s.w4base := by rcases pushEvOnce_cases s i with h | h <;> simp [h]
@[simp] theorem pushEvOnce_hostReading (s : State) (i : Instr) : (pushEvOnce s i).hostReading = s.hostReading := by rcases pushEvOnce_cases s i with h | h <;> simp [h]
@[simp] theorem pushEvOnce_ports (s : State) (i : Instr) : (pushEvOnce s i).ports = s.ports := by rcases pushEvOnce_cases s i with h | h <;> simp [h]
@[simp] theorem pushEvOnce_rings (s : State) (i : Instr) : (pushEvOnce s i).rings = s.rings := by rcases pushEvOnce_cases s i with h | h <;> simp [h]
@[simp] theorem pushEvOnce_egress (s : State) (i : Instr) : (pushEvOnce s i).egress = s.egress := by rcases pushEvOnce_cases s i with h | h <;> simp [h]
@[simp] theorem pushEvOnce_eventWait (s : State) (i : Instr) : (pushEvOnce s i).eventWait = s.eventWait := by rcases pushEvOnce_cases s i with h | h <;> simp [h]
@[simp] theorem pushEvOnce_faultWait (s : State) (i : Instr) : (pushEvOnce s i).faultWait = s.faultWait := by rcases pushEvOnce_cases s i with h | h <;> simp [h]
@[simp] theorem pushEvOnce_quarWait (s : State) (i : Instr) : (pushEvOnce s i).quarWait = s.quarWait := by rcases pushEvOnce_cases s i with h | h <;> simp [h]
@[simp] theorem pushEvOnce_faultSeq (s : State) (i : Instr) : (pushEvOnce s i).faultSeq = s.faultSeq := by rcases pushEvOnce_cases s i with h | h <;> simp [h]
@[simp] theorem pushEvOnce_records (s : State) (i : Instr) : (pushEvOnce s i).records = s.records := by rcases pushEvOnce_cases s i with h | h <;> simp [h]
@[simp] theorem pushEvOnce_hostOut (s : State) (i : Instr) : (pushEvOnce s i).hostOut = s.hostOut := by rcases pushEvOnce_cases s i with h | h <;> simp [h]
@[simp] theorem pushEvOnce_arrivals (s : State) (i : Instr) : (pushEvOnce s i).arrivals = s.arrivals := by rcases pushEvOnce_cases s i with h | h <;> simp [h]
@[simp] theorem pushEvOnce_promotions (s : State) (i : Instr) : (pushEvOnce s i).promotions = s.promotions := by rcases pushEvOnce_cases s i with h | h <;> simp [h]
@[simp] theorem pushEvOnce_slotNotes (s : State) (i : Instr) : (pushEvOnce s i).slotNotes = s.slotNotes := by rcases pushEvOnce_cases s i with h | h <;> simp [h]
@[simp] theorem pushEvOnce_unsent (s : State) (i : Instr) : (pushEvOnce s i).unsent = s.unsent := by rcases pushEvOnce_cases s i with h | h <;> simp [h]
@[simp] theorem pushEvOnce_groups (s : State) (i : Instr) : (pushEvOnce s i).groups = s.groups := by rcases pushEvOnce_cases s i with h | h <;> simp [h]
@[simp] theorem pushEvOnce_presses (s : State) (i : Instr) : (pushEvOnce s i).presses = s.presses := by rcases pushEvOnce_cases s i with h | h <;> simp [h]
@[simp] theorem pushEvOnce_steps (s : State) (i : Instr) : (pushEvOnce s i).steps = s.steps := by rcases pushEvOnce_cases s i with h | h <;> simp [h]
@[simp] theorem pushEvOnce_ctxs (s : State) (i : Instr) : (pushEvOnce s i).ctxs = s.ctxs := by rcases pushEvOnce_cases s i with h | h <;> simp [h]
@[simp] theorem pushEvOnce_accesses (s : State) (i : Instr) : (pushEvOnce s i).accesses = s.accesses := by rcases pushEvOnce_cases s i with h | h <;> simp [h]
@[simp] theorem pushEvOnce_settling (s : State) (i : Instr) : (pushEvOnce s i).settling = s.settling := by rcases pushEvOnce_cases s i with h | h <;> simp [h]
@[simp] theorem pushEvOnce_memFires (s : State) (i : Instr) : (pushEvOnce s i).memFires = s.memFires := by rcases pushEvOnce_cases s i with h | h <;> simp [h]
@[simp] theorem pushEvOnce_fences (s : State) (i : Instr) : (pushEvOnce s i).fences = s.fences := by rcases pushEvOnce_cases s i with h | h <;> simp [h]
@[simp] theorem pushEvOnce_qfences (s : State) (i : Instr) : (pushEvOnce s i).qfences = s.qfences := by rcases pushEvOnce_cases s i with h | h <;> simp [h]
@[simp] theorem pushEvOnce_waiters (s : State) (i : Instr) : (pushEvOnce s i).waiters = s.waiters := by rcases pushEvOnce_cases s i with h | h <;> simp [h]
@[simp] theorem pushEvOnce_cards (s : State) (i : Instr) : (pushEvOnce s i).cards = s.cards := by rcases pushEvOnce_cases s i with h | h <;> simp [h]
@[simp] theorem pushEvOnce_cohorts (s : State) (i : Instr) : (pushEvOnce s i).cohorts = s.cohorts := by rcases pushEvOnce_cases s i with h | h <;> simp [h]
@[simp] theorem pushEvOnce_cohortOps (s : State) (i : Instr) : (pushEvOnce s i).cohortOps = s.cohortOps := by rcases pushEvOnce_cases s i with h | h <;> simp [h]
@[simp] theorem pushEvOnce_proofs (s : State) (i : Instr) : (pushEvOnce s i).proofs = s.proofs := by rcases pushEvOnce_cases s i with h | h <;> simp [h]
@[simp] theorem pushEvOnce_slotWait (s : State) (i : Instr) : (pushEvOnce s i).slotWait = s.slotWait := by rcases pushEvOnce_cases s i with h | h <;> simp [h]
@[simp] theorem pushEvOnce_slots (s : State) (i : Instr) : (pushEvOnce s i).slots = s.slots := by rcases pushEvOnce_cases s i with h | h <;> simp [h]
@[simp] theorem pushEvOnce_ways (s : State) (i : Instr) : (pushEvOnce s i).ways = s.ways := by rcases pushEvOnce_cases s i with h | h <;> simp [h]
@[simp] theorem pushEvOnce_raceBudget (s : State) (i : Instr) : (pushEvOnce s i).raceBudget = s.raceBudget := by rcases pushEvOnce_cases s i with h | h <;> simp [h]
@[simp] theorem pushEvOnce_raceMicro (s : State) (i : Instr) : (pushEvOnce s i).raceMicro = s.raceMicro := by rcases pushEvOnce_cases s i with h | h <;> simp [h]
@[simp] theorem pushEvOnce_migrations (s : State) (i : Instr) : (pushEvOnce s i).migrations = s.migrations := by rcases pushEvOnce_cases s i with h | h <;> simp [h]
@[simp] theorem pushEvOnce_invalidating (s : State) (i : Instr) : (pushEvOnce s i).invalidating = s.invalidating := by rcases pushEvOnce_cases s i with h | h <;> simp [h]
@[simp] theorem pushEvOnce_fabric (s : State) (i : Instr) : (pushEvOnce s i).fabric = s.fabric := by rcases pushEvOnce_cases s i with h | h <;> simp [h]
@[simp] theorem pushEvOnce_nextFabric (s : State) (i : Instr) : (pushEvOnce s i).nextFabric = s.nextFabric := by rcases pushEvOnce_cases s i with h | h <;> simp [h]
@[simp] theorem pushEvOnce_waves (s : State) (i : Instr) : (pushEvOnce s i).waves = s.waves := by rcases pushEvOnce_cases s i with h | h <;> simp [h]
@[simp] theorem pushEvOnce_links (s : State) (i : Instr) : (pushEvOnce s i).links = s.links := by rcases pushEvOnce_cases s i with h | h <;> simp [h]
@[simp] theorem pushEvOnce_leases (s : State) (i : Instr) : (pushEvOnce s i).leases = s.leases := by rcases pushEvOnce_cases s i with h | h <;> simp [h]
@[simp] theorem pushEvOnce_retires (s : State) (i : Instr) : (pushEvOnce s i).retires = s.retires := by rcases pushEvOnce_cases s i with h | h <;> simp [h]
@[simp] theorem pushEvOnce_xfers (s : State) (i : Instr) : (pushEvOnce s i).xfers = s.xfers := by rcases pushEvOnce_cases s i with h | h <;> simp [h]
@[simp] theorem pushEvOnce_remoteBuf (s : State) (i : Instr) : (pushEvOnce s i).remoteBuf = s.remoteBuf := by rcases pushEvOnce_cases s i with h | h <;> simp [h]
@[simp] theorem pushEvOnce_remoteBad (s : State) (i : Instr) : (pushEvOnce s i).remoteBad = s.remoteBad := by rcases pushEvOnce_cases s i with h | h <;> simp [h]
@[simp] theorem pushEvOnce_inXfers (s : State) (i : Instr) : (pushEvOnce s i).inXfers = s.inXfers := by rcases pushEvOnce_cases s i with h | h <;> simp [h]
@[simp] theorem pushEvOnce_shards (s : State) (i : Instr) : (pushEvOnce s i).shards = s.shards := by rcases pushEvOnce_cases s i with h | h <;> simp [h]
@[simp] theorem pushEvOnce_sentFlits (s : State) (i : Instr) : (pushEvOnce s i).sentFlits = s.sentFlits := by rcases pushEvOnce_cases s i with h | h <;> simp [h]
@[simp] theorem pushEvOnce_dist (s : State) (i : Instr) : (pushEvOnce s i).dist = s.dist := by rcases pushEvOnce_cases s i with h | h <;> simp [h]
@[simp] theorem pushEvOnce_chunks (s : State) (i : Instr) : (pushEvOnce s i).chunks = s.chunks := by rcases pushEvOnce_cases s i with h | h <;> simp [h]
@[simp] theorem pushEvOnce_chainStopped (s : State) (i : Instr) : (pushEvOnce s i).chainStopped = s.chainStopped := by rcases pushEvOnce_cases s i with h | h <;> simp [h]
@[simp] theorem pushEvOnce_devCounts (s : State) (i : Instr) : (pushEvOnce s i).devCounts = s.devCounts := by rcases pushEvOnce_cases s i with h | h <;> simp [h]
@[simp] theorem pushEvOnce_traceLast (s : State) (i : Instr) : (pushEvOnce s i).traceLast = s.traceLast := by rcases pushEvOnce_cases s i with h | h <;> simp [h]

end Sys2Proof.Machine
end

