-- ==== Sys2Proof/Laws/Table.lean ====
section
/-! SUPPORT. What the operations on sparse tables and on memory bytes do: reads after writes, and the canonical form kept. -/

namespace Sys2Proof.Machine

/-! Lookups. -/

theorem tabFind_append {α : Type} (l r : Tab α) (k : Nat) : tabFind (l ++ r) k = (tabFind l k).or (tabFind r k) := by
  induction l with
  | nil => rfl
  | cons e l ih => by_cases h : e.1 = k <;> simp [tabFind, h, ih]

theorem tabFind_none {α : Type} (l : Tab α) (k : Nat) (h : ∀ e ∈ l, e.1 ≠ k) : tabFind l k = none := by
  induction l with
  | nil => rfl
  | cons e l ih =>
    have h1 : e.1 ≠ k := h e (List.mem_cons_self)
    simp [tabFind, h1, ih fun x hx => h x (List.mem_cons_of_mem _ hx)]

theorem tabFind_filter {α : Type} (l : Tab α) (p : Nat → Bool) (k : Nat) (h : p k = true) :
    tabFind (l.filter fun e => p e.1) k = tabFind l k := by
  induction l with
  | nil => rfl
  | cons e l ih =>
    by_cases hk : e.1 = k
    · subst hk; simp [h, tabFind]
    · by_cases hp : p e.1 = true <;> simp [hp, tabFind, hk, ih]

/-- A table entry put reads back; the others are as before. -/
theorem tabFind_tabPut {α : Type} (t : Tab α) (k j : Nat) (v : α) : tabFind (tabPut t k v) j = if j = k then some v else tabFind t j := by
  induction t with
  | nil => by_cases h : k = j <;> simp [tabPut, tabFind, h, eq_comm]
  | cons e t ih =>
    obtain ⟨i, w⟩ := e
    by_cases h1 : k < i
    · have e1 : tabPut ((i, w) :: t) k v = (k, v) :: (i, w) :: t := by simp [tabPut, h1]
      rw [e1]
      by_cases h2 : k = j <;> simp [tabFind, h2, eq_comm]
    · by_cases h2 : i = k
      · have e1 : tabPut ((i, w) :: t) k v = (k, v) :: t := by simp [tabPut, h2]
        rw [e1]
        by_cases h3 : j = k
        · simp [tabFind, h3]
        · simp [tabFind, h3, h2, Ne.symm h3]
      · have e1 : tabPut ((i, w) :: t) k v = (i, w) :: tabPut t k v := by simp [tabPut, h1, h2]
        rw [e1]
        by_cases h3 : i = j
        · subst h3; simp [h2, tabFind]
        · simp [h3, tabFind, ih]

theorem tabFind_tabUpdate {α : Type} (t : Tab α) (k j : Nat) (f : α → α) :
    tabFind (tabUpdate t k f) j = if j = k then (tabFind t k).map f else tabFind t j := by
  induction t with
  | nil => by_cases h : j = k <;> simp [tabUpdate, tabFind, h]
  | cons e t ih =>
    obtain ⟨i, w⟩ := e
    by_cases h2 : i = k
    · have e1 : tabUpdate ((i, w) :: t) k f = (i, f w) :: t := by simp [tabUpdate, h2]
      rw [e1]
      by_cases h3 : j = k
      · simp [tabFind, h3, h2]
      · simp [tabFind, h3, h2, Ne.symm h3]
    · have e1 : tabUpdate ((i, w) :: t) k f = (i, w) :: tabUpdate t k f := by simp [tabUpdate, h2]
      rw [e1]
      by_cases h3 : i = j
      · subst h3; simp [h2, tabFind]
      · simp [h2, h3, tabFind, ih]

/-! The canonical form. -/

theorem tabSorted_iff {α : Type} (lo : Option Nat) (t : Tab α) :
    tabSorted lo t = true ↔ (∀ e ∈ t, ∀ l, lo = some l → l < e.1) ∧ t.Pairwise fun x y => x.1 < y.1 := by
  induction t generalizing lo with
  | nil => simp [tabSorted]
  | cons e t ih =>
    obtain ⟨j, w⟩ := e
    simp only [tabSorted, Bool.and_eq_true, ih, List.pairwise_cons, List.mem_cons]
    constructor
    · rintro ⟨h1, h2, h3⟩
      refine ⟨?_, fun a ha => h2 a ha j rfl, h3⟩
      rintro x (rfl | hx) l rfl
      · simpa using h1
      · have h4 : l < j := by simpa using h1
        exact lt_trans h4 (h2 x hx j rfl)
    · rintro ⟨h1, h2, h3⟩
      refine ⟨?_, fun x hx l hl => ?_, h3⟩
      · cases lo with
        | none => rfl
        | some l => simpa using h1 (j, w) (.inl rfl) l rfl
      · have h4 := h2 x hx
        cases hl
        exact h4

/-- The canonical form of memory as a property of its list. -/
theorem memWf_iff (m : Tab Byte) : memWf m = true ↔ (m.Pairwise fun x y => x.1 < y.1) ∧ ∀ e ∈ m, e.2 ≠ 0 := by
  simp [memWf, tabSorted_iff]

theorem memRun_mem (a : Nat) (bs : List Byte) (e : Nat × Byte) (h : e ∈ memRun a bs) : a ≤ e.1 ∧ e.1 < a + bs.length ∧ e.2 ≠ 0 := by
  induction bs generalizing a with
  | nil => simp [memRun] at h
  | cons b r ih =>
    unfold memRun at h
    by_cases hb : b = 0
    · rw [if_pos hb] at h
      have := ih (a + 1) h
      simp only [List.length_cons]
      exact ⟨by omega, by omega, this.2.2⟩
    · rw [if_neg hb, List.mem_cons] at h
      rcases h with rfl | h
      · exact ⟨Nat.le_refl _, by simp, hb⟩
      · have := ih (a + 1) h
        simp only [List.length_cons]
        exact ⟨by omega, by omega, this.2.2⟩

theorem memRun_sorted (a : Nat) (bs : List Byte) : (memRun a bs).Pairwise fun x y => x.1 < y.1 := by
  induction bs generalizing a with
  | nil => exact List.Pairwise.nil
  | cons b r ih =>
    unfold memRun
    by_cases hb : b = 0
    · rw [if_pos hb]; exact ih (a + 1)
    · rw [if_neg hb, List.pairwise_cons]
      exact ⟨fun e he => by have := memRun_mem (a + 1) r e he; simp only; omega, ih (a + 1)⟩

/-- A write keeps the canonical form. -/
theorem memWf_memWrite (m : Tab Byte) (a : Nat) (bs : List Byte) (h : memWf m = true) : memWf (memWrite m a bs) = true := by
  rw [memWf_iff] at h ⊢
  unfold memWrite
  refine ⟨?_, ?_⟩
  · rw [List.pairwise_append, List.pairwise_append]
    refine ⟨⟨h.1.filter _, memRun_sorted a bs, ?_⟩, h.1.filter _, ?_⟩
    · intro x hx y hy
      have h1 := (List.mem_filter.mp hx).2
      have h2 := memRun_mem a bs y hy
      have h3 : x.1 < a := by simpa using h1
      omega
    · intro x hx y hy
      have h2 : a + bs.length ≤ y.1 := by simpa using (List.mem_filter.mp hy).2
      rcases List.mem_append.mp hx with hx | hx
      · have h3 : x.1 < a := by simpa using (List.mem_filter.mp hx).2
        omega
      · have := memRun_mem a bs x hx
        omega
  · intro e he
    rcases List.mem_append.mp he with he | he
    · rcases List.mem_append.mp he with he | he
      · exact h.2 e (List.mem_filter.mp he).1
      · exact (memRun_mem a bs e he).2.2
    · exact h.2 e (List.mem_filter.mp he).1

/-! Bytes. -/

theorem memByte_memRun (a : Nat) (bs : List Byte) (x : Nat) : memByte (memRun a bs) x = if a ≤ x then bs.getD (x - a) 0 else 0 := by
  induction bs generalizing a with
  | nil => simp [memRun, memByte, tabGet, tabFind]
  | cons b r ih =>
    have key : ∀ v : Byte, (if a ≤ x then (b :: r).getD (x - a) 0 else 0) = if a = x then b else memByte (memRun (a + 1) r) x := by
      intro _
      rw [ih (a + 1)]
      by_cases h1 : a = x
      · subst h1; simp
      · by_cases h2 : a ≤ x
        · have h3 : a + 1 ≤ x := by omega
          have h4 : x - a = x - (a + 1) + 1 := by omega
          simp only [h1, h2, h3, if_true, if_false, h4, List.getD_cons_succ]
        · have h3 : ¬ a + 1 ≤ x := by omega
          simp [h1, h2, h3]
    rw [key 0]
    by_cases hb : b = 0
    · rw [show memRun a (b :: r) = memRun (a + 1) r from if_pos hb]
      by_cases h1 : a = x
      · subst h1
        have : memByte (memRun (a + 1) r) a = 0 := by
          rw [ih (a + 1), if_neg (by omega)]
        simp [this, hb]
      · simp [h1]
    · rw [show memRun a (b :: r) = (a, b) :: memRun (a + 1) r from if_neg hb]
      by_cases h1 : a = x <;> simp [memByte, tabGet, tabFind, h1]

/-- A byte after a write: the one written, else the one before. -/
theorem memByte_memWrite (m : Tab Byte) (a : Nat) (bs : List Byte) (x : Nat) :
    memByte (memWrite m a bs) x = if a ≤ x ∧ x < a + bs.length then bs.getD (x - a) 0 else memByte m x := by
  have lo : ∀ k, ¬ k < a → tabFind (m.filter fun e => decide (e.1 < a)) k = none := fun k hk =>
    tabFind_none _ _ fun e he => by
      have : e.1 < a := by simpa using (List.mem_filter.mp he).2
      omega
  have hi : ∀ k, k < a + bs.length → tabFind (m.filter fun e => decide (a + bs.length ≤ e.1)) k = none := fun k hk =>
    tabFind_none _ _ fun e he => by
      have : a + bs.length ≤ e.1 := by simpa using (List.mem_filter.mp he).2
      omega
  have run : ∀ k, ¬ (a ≤ k ∧ k < a + bs.length) → tabFind (memRun a bs) k = none := fun k hk =>
    tabFind_none _ _ fun e he => by
      have := memRun_mem a bs e he
      omega
  have e1 : tabFind (memWrite m a bs) x =
      ((tabFind (m.filter fun e => decide (e.1 < a)) x).or (tabFind (memRun a bs) x)).or
        (tabFind (m.filter fun e => decide (a + bs.length ≤ e.1)) x) := by
    unfold memWrite; rw [tabFind_append, tabFind_append]
  by_cases h1 : x < a
  · rw [if_neg (by omega)]
    unfold memByte tabGet
    rw [e1, run x (by omega), hi x (by omega), tabFind_filter m (fun k => decide (k < a)) x (by simpa using h1)]
    simp
  · by_cases h2 : x < a + bs.length
    · rw [if_pos ⟨by omega, h2⟩]
      have h3 := memByte_memRun a bs x
      rw [if_pos (by omega)] at h3
      rw [← h3]
      unfold memByte tabGet
      rw [e1, lo x h1, hi x h2]
      simp
    · rw [if_neg (by omega)]
      unfold memByte tabGet
      rw [e1, lo x h1, run x (by omega), tabFind_filter m (fun k => decide (a + bs.length ≤ k)) x (by simpa using Nat.le_of_not_lt h2)]
      simp

/-- A read gives the bytes one by one. -/
theorem memRead_byte (m : Tab Byte) (a n i : Nat) (h : i < n) : (memRead m a n)[i]? = some (memByte m (a + i)) := by
  have e : memByte (m.filter fun e => decide (a ≤ e.1) && decide (e.1 < a + n)) (a + i) = memByte m (a + i) := by
    unfold memByte tabGet
    rw [tabFind_filter m (fun k => decide (a ≤ k) && decide (k < a + n)) (a + i) (by simp; omega)]
  simp [memRead, h, e]

/-- A read after a write of the same range gives the bytes written. -/
theorem memRead_memWrite (m : Tab Byte) (a : Nat) (bs : List Byte) : memRead (memWrite m a bs) a bs.length = bs := by
  apply List.ext_getElem?
  intro i
  by_cases h : i < bs.length
  · rw [memRead_byte _ _ _ _ h, memByte_memWrite, if_pos ⟨by omega, by omega⟩, Nat.add_sub_cancel_left]
    simp [h]
  · have h1 : (memRead (memWrite m a bs) a bs.length).length ≤ i := by simp [memRead]; omega
    rw [List.getElem?_eq_none h1, List.getElem?_eq_none (by omega)]

end Sys2Proof.Machine
end

