-- ==== Sys2Proof/Laws/Memory.lean ====
section
/-! SUPPORT. What the memory operations over State do: the canonical form that each keeps, what is read after each, and
what each leaves alone. -/

namespace Sys2Proof.Machine

/-! The canonical form. -/

theorem memsWf_iff (s : State) : memsWf s = true ↔ memWf s.hbm = true ∧ memWf s.sram = true ∧ memWf s.hostMem = true := by
  simp [memsWf, and_assoc]
theorem memWf_nil : memWf [] = true := rfl
theorem memsWf_reset : memsWf State.reset = true := rfl
/-- Equal memories are canonical together. -/
theorem memsWf_of_same (s t : State) (h : memsWf s = true) (a : t.hbm = s.hbm) (b : t.sram = s.sram) (c : t.hostMem = s.hostMem) :
    memsWf t = true := by simpa [memsWf, a, b, c] using h
theorem memsWf_hbmWrite (s : State) (pa : Nat) (bs : List Byte) (h : memsWf s = true) : memsWf (hbmWrite s pa bs) = true := by
  rw [memsWf_iff] at *
  exact ⟨memWf_memWrite _ _ _ h.1, h.2⟩
theorem memsWf_hbmPutDbl (s : State) (pa v : Nat) (h : memsWf s = true) : memsWf (hbmPutDbl s pa v) = true :=
  memsWf_hbmWrite s pa _ h
theorem memsWf_slotWrite (s : State) (g k o : Nat) (bs : List Byte) (h : memsWf s = true) : memsWf (slotWrite s g k o bs) = true := by
  rw [memsWf_iff] at *
  exact ⟨h.1, memWf_memWrite _ _ _ h.2.1, h.2.2⟩
theorem memsWf_hostPut (s : State) (link pasid a : Nat) (bs : List Byte) (h : memsWf s = true) :
    memsWf (hostPut s link pasid a bs) = true := by
  rw [memsWf_iff] at *
  exact ⟨h.1, h.2.1, memWf_memWrite _ _ _ h.2.2⟩

/-! Read after write. -/

theorem leBytes_length (n v : Nat) : (leBytes n v).length = n := by
  induction n generalizing v with
  | zero => rfl
  | succ n ih => simp [leBytes, ih]
/-- A number stored in `n` bytes and read back keeps its low `8 n` bits (R2). -/
theorem leNat_leBytes (n v : Nat) : leNat (leBytes n v) = v % 256 ^ n := by
  induction n generalizing v with
  | zero => simp [leBytes, leNat, Nat.mod_one]
  | succ n ih => simp [leBytes, leNat, ih, Nat.pow_succ, Nat.mul_comm (256 ^ n) 256, Nat.mod_mul]
theorem memRead_length (m : Tab Byte) (a n : Nat) : (memRead m a n).length = n := by simp [memRead]
theorem hbmByte_hbmWrite (s : State) (pa : Nat) (bs : List Byte) (x : Nat) :
    hbmByte (hbmWrite s pa bs) x = if pa ≤ x ∧ x < pa + bs.length then bs.getD (x - pa) 0 else hbmByte s x :=
  memByte_memWrite s.hbm pa bs x
theorem hbmRead_hbmWrite (s : State) (pa : Nat) (bs : List Byte) : hbmRead (hbmWrite s pa bs) pa bs.length = bs :=
  memRead_memWrite s.hbm pa bs
theorem hbmDbl_hbmPutDbl (s : State) (pa v : Nat) : hbmDbl (hbmPutDbl s pa v) pa = v % 2 ^ 64 := by
  have h := hbmRead_hbmWrite s pa (leBytes 8 v)
  rw [leBytes_length] at h
  simp only [hbmDbl, hbmPutDbl, h, leNat_leBytes]
  norm_num
theorem sramByte_slotWrite (s : State) (g k o : Nat) (bs : List Byte) (x : Nat) :
    sramByte (slotWrite s g k o bs) x =
      if slotAddr g k o ≤ x ∧ x < slotAddr g k o + bs.length then bs.getD (x - slotAddr g k o) 0 else sramByte s x :=
  memByte_memWrite s.sram _ bs x
theorem slotRead_slotWrite (s : State) (g k o : Nat) (bs : List Byte) : slotRead (slotWrite s g k o bs) g k o bs.length = bs :=
  memRead_memWrite s.sram _ bs
theorem hostByte_hostPut (s : State) (link pasid a : Nat) (bs : List Byte) (x : Nat) :
    memByte (hostPut s link pasid a bs).hostMem x =
      if pasid * 2 ^ 64 + a ≤ x ∧ x < pasid * 2 ^ 64 + a + bs.length then bs.getD (x - (pasid * 2 ^ 64 + a)) 0 else memByte s.hostMem x :=
  memByte_memWrite s.hostMem _ bs x
/-- Bytes that nothing has written read 0 (DESIGN CHOICE, log entry 3). -/
theorem hbmByte_reset (a : Nat) : hbmByte State.reset a = 0 := rfl

/-! What a write leaves alone. -/

theorem hbmWrite_rest (s : State) (pa : Nat) (bs : List Byte) : { hbmWrite s pa bs with hbm := s.hbm } = s := rfl
theorem hostPut_rest (s : State) (link pasid a : Nat) (bs : List Byte) :
    { hostPut s link pasid a bs with hostMem := s.hostMem, hostOut := s.hostOut } = s := rfl
/-- A write to a slot changes beside its bytes only what the Shard Watch counts from (R378). -/
theorem slotWrite_rest (s : State) (g k o : Nat) (bs : List Byte) :
    { slotWrite s g k o bs with sram := s.sram, shards := s.shards } = s := rfl

/-! Memory that reads as before. -/

theorem sameMemory_refl (s : State) : sameMemory s s := ⟨fun _ => rfl, fun _ => rfl, fun _ => rfl⟩
theorem sameMemory_trans (s t u : State) (h : sameMemory s t) (k : sameMemory t u) : sameMemory s u :=
  ⟨fun a => (k.1 a).trans (h.1 a), fun a => (k.2.1 a).trans (h.2.1 a), fun a => (k.2.2 a).trans (h.2.2 a)⟩
theorem sameMemory_of_eq (s t : State) (a : t.hbm = s.hbm) (b : t.sram = s.sram) (c : t.hostMem = s.hostMem) : sameMemory s t :=
  ⟨fun _ => by simp [hbmByte, a], fun _ => by simp [sramByte, b], fun _ => by simp [c]⟩

/-! Fields of numbers. -/

theorem bitsOf_lt (v hi lo : Nat) : bitsOf v hi lo < 2 ^ (hi + 1 - lo) := Nat.mod_lt _ (Nat.pos_of_ne_zero (by positivity))
/-- A field reads what was put there (R5). -/
theorem bitsOf_putBits (v hi lo x : Nat) : bitsOf (putBits v hi lo x) hi lo = x % 2 ^ (hi + 1 - lo) := by
  unfold putBits bitsOf
  have hp : 0 < 2 ^ lo := by positivity
  have hq : 0 < 2 ^ (hi + 1 - lo) := by positivity
  generalize 2 ^ lo = a at *
  generalize 2 ^ (hi + 1 - lo) = b at *
  have e := Nat.div_add_mod v a
  have e2 := Nat.div_add_mod (v / a) b
  have hv : v - v / a % b * a = a * (b * (v / a / b)) + v % a := by
    have : v = a * (b * (v / a / b)) + v / a % b * a + v % a := by
      calc v = a * (v / a) + v % a := e.symm
        _ = a * (b * (v / a / b) + v / a % b) + v % a := by rw [e2]
        _ = _ := by ring
    omega
  rw [hv]
  have : a * (b * (v / a / b)) + v % a + x % b * a = a * (b * (v / a / b) + x % b) + v % a := by ring
  rw [this, Nat.mul_add_div hp, Nat.div_eq_of_lt (Nat.mod_lt _ hp)]
  simp

end Sys2Proof.Machine
end

