-- ==== Sys2Proof/Laws/PerInstr.lean ====
section
/-! SUPPORT. Statements that are made of each instruction: the word that encodes it decodes to it (R145 to R156). -/

namespace Sys2Proof.Laws

open Sys2Proof

/-! Fields of a concatenation. -/

theorem append_last {m n : Nat} (a : BitVec m) (b : BitVec n) : (a ++ b).extractLsb' 0 n = b := by
  ext j hj
  simp only [BitVec.getElem_extractLsb', BitVec.getLsbD_append]
  rw [if_pos (by omega), Nat.zero_add, BitVec.getLsbD_eq_getElem hj]
theorem append_skip {m n : Nat} (a : BitVec m) (b : BitVec n) (i k : Nat) : (a ++ b).extractLsb' (n + i) k = a.extractLsb' i k := by
  ext j hj
  simp only [BitVec.getElem_extractLsb', BitVec.getLsbD_append]
  rw [if_neg (by omega)]
  congr 1
  omega
theorem append_whole {n : Nat} (b : BitVec n) : b.extractLsb' 0 n = b := by
  ext j hj
  simp
theorem append_first {m n : Nat} (a : BitVec m) (b : BitVec n) : (a ++ b).extractLsb' n m = a :=
  (append_skip a b 0 m).trans (append_whole a)
theorem append_field {m n p : Nat} (a : BitVec m) (b : BitVec n) (c : BitVec p) : (a ++ b ++ c : BitVec (m + n + p)).extractLsb' p n = b :=
  (append_skip (a ++ b) c 0 n).trans (append_last a b)
theorem bit_of_field {w : Nat} (v : BitVec w) (i : Nat) (b : Bool) (h : v.extractLsb' i 1 = bitOf b) : v.getLsbD i = b := by
  have := congrArg (fun x => x.getLsbD 0) h
  cases b <;> simpa [bitOf] using this
theorem bit_at {w : Nat} (v : BitVec w) (i : Nat) (hi : i < w) (b : Bool) (h : v.extractLsb' i 1 = bitOf b) : v[i] = b :=
  (BitVec.getLsbD_eq_getElem hi).symm.trans (bit_of_field v i b h)

/-! Codes. -/

theorem FireMode_code (x : FireMode) : FireMode.dec x.enc = x := by cases x <;> rfl
theorem IntTy_code (x : IntTy) : IntTy.dec x.enc = x := by cases x <;> rfl
theorem RawTy_code (x : RawTy) : RawTy.dec x.enc = x := by cases x <;> rfl
theorem FloatTy_code (x : FloatTy) : FloatTy.dec x.enc = x := by cases x <;> rfl
theorem AccTy_code (x : AccTy) : AccTy.dec x.enc = x := by cases x <;> rfl
theorem SpTy_code (x : SpTy) : SpTy.dec x.enc = x := by cases x <;> rfl
theorem Ord_code (x : Ord) : Ord.dec x.enc = x := by cases x <;> rfl
theorem Ex_code (x : Ex) : Ex.dec x.enc = some x := by cases x <;> rfl
theorem Ty_code (x : Ty) : Ty.dec x.enc = some x := by cases x <;> rfl
theorem AmoTy_code (x : AmoTy) : AmoTy.dec x.enc = some x := by cases x <;> rfl
theorem Scope_code (x : Scope) : Scope.dec x.enc = some x := by cases x <;> rfl
theorem Level_code (x : Level) : Level.dec x.enc = some x := by cases x <;> rfl
theorem Ap_code (x : Ap) : Ap.dec x.enc = some x := by cases x <;> rfl

/-! Formats. -/

theorem decode_fmtA (op : BitVec 6) (f : FireMode) (t : Target) (u : Target) (x : BitVec 5) (h : formatOf op.toNat = some .a) :
    decodeInstr (fmtA op f t u x) = decodeA op.toNat f t u x := by
  have e0 : (fmtA op f t u x).extractLsb' 31 1 = 0#1 := (append_skip (0#1 ++ op ++ f.enc ++ t ++ u) x 26 1).trans ((append_skip (0#1 ++ op ++ f.enc ++ t) u 17 1).trans ((append_skip (0#1 ++ op ++ f.enc) t 8 1).trans ((append_skip (0#1 ++ op) f.enc 6 1).trans (append_first 0#1 op))))
  have top : (fmtA op f t u x).getLsbD 31 = false := bit_of_field _ 31 false e0
  have e1 : (fmtA op f t u x).extractLsb' 25 6 = op := (append_skip (0#1 ++ op ++ f.enc ++ t ++ u) x 20 6).trans ((append_skip (0#1 ++ op ++ f.enc ++ t) u 11 6).trans ((append_skip (0#1 ++ op ++ f.enc) t 2 6).trans (append_field (0#1) op f.enc)))
  have e2 : (fmtA op f t u x).extractLsb' 23 2 = f.enc := (append_skip (0#1 ++ op ++ f.enc ++ t ++ u) x 18 2).trans ((append_skip (0#1 ++ op ++ f.enc ++ t) u 9 2).trans (append_field (0#1 ++ op) f.enc t))
  have e3 : (fmtA op f t u x).extractLsb' 14 9 = t := (append_skip (0#1 ++ op ++ f.enc ++ t ++ u) x 9 9).trans (append_field (0#1 ++ op ++ f.enc) t u)
  have e4 : (fmtA op f t u x).extractLsb' 5 9 = u := append_field (0#1 ++ op ++ f.enc ++ t) u x
  have e5 : (fmtA op f t u x).extractLsb' 0 5 = x := append_last (0#1 ++ op ++ f.enc ++ t ++ u) x
  simp only [decodeInstr, top, decodeFull, e1, e2, e3, e4, e5, FireMode_code, h, Bool.false_eq_true, if_false]
theorem decode_fmtI (op : BitVec 6) (f : FireMode) (t : Target) (k : BitVec 14) (h : formatOf op.toNat = some .i) :
    decodeInstr (fmtI op f t k) = decodeI op.toNat f t k := by
  have e0 : (fmtI op f t k).extractLsb' 31 1 = 0#1 := (append_skip (0#1 ++ op ++ f.enc ++ t) k 17 1).trans ((append_skip (0#1 ++ op ++ f.enc) t 8 1).trans ((append_skip (0#1 ++ op) f.enc 6 1).trans (append_first 0#1 op)))
  have top : (fmtI op f t k).getLsbD 31 = false := bit_of_field _ 31 false e0
  have e1 : (fmtI op f t k).extractLsb' 25 6 = op := (append_skip (0#1 ++ op ++ f.enc ++ t) k 11 6).trans ((append_skip (0#1 ++ op ++ f.enc) t 2 6).trans (append_field (0#1) op f.enc))
  have e2 : (fmtI op f t k).extractLsb' 23 2 = f.enc := (append_skip (0#1 ++ op ++ f.enc ++ t) k 9 2).trans (append_field (0#1 ++ op) f.enc t)
  have e3 : (fmtI op f t k).extractLsb' 14 9 = t := append_field (0#1 ++ op ++ f.enc) t k
  have e4 : (fmtI op f t k).extractLsb' 0 14 = k := append_last (0#1 ++ op ++ f.enc ++ t) k
  simp only [decodeInstr, top, decodeFull, e1, e2, e3, e4, FireMode_code, h, Bool.false_eq_true, if_false]
theorem decode_fmtM (op : BitVec 6) (f : FireMode) (l : BitVec 5) (m : BitVec 18) (h : formatOf op.toNat = some .m) :
    decodeInstr (fmtM op f l m) = decodeM op.toNat f l m := by
  have e0 : (fmtM op f l m).extractLsb' 31 1 = 0#1 := (append_skip (0#1 ++ op ++ f.enc ++ l) m 13 1).trans ((append_skip (0#1 ++ op ++ f.enc) l 8 1).trans ((append_skip (0#1 ++ op) f.enc 6 1).trans (append_first 0#1 op)))
  have top : (fmtM op f l m).getLsbD 31 = false := bit_of_field _ 31 false e0
  have e1 : (fmtM op f l m).extractLsb' 25 6 = op := (append_skip (0#1 ++ op ++ f.enc ++ l) m 7 6).trans ((append_skip (0#1 ++ op ++ f.enc) l 2 6).trans (append_field (0#1) op f.enc))
  have e2 : (fmtM op f l m).extractLsb' 23 2 = f.enc := (append_skip (0#1 ++ op ++ f.enc ++ l) m 5 2).trans (append_field (0#1 ++ op) f.enc l)
  have e3 : (fmtM op f l m).extractLsb' 18 5 = l := append_field (0#1 ++ op ++ f.enc) l m
  have e4 : (fmtM op f l m).extractLsb' 0 18 = m := append_last (0#1 ++ op ++ f.enc ++ l) m
  simp only [decodeInstr, top, decodeFull, e1, e2, e3, e4, FireMode_code, h, Bool.false_eq_true, if_false]
theorem decode_fmtB (op : BitVec 6) (f : FireMode) (e : BitVec 3) (o : BitVec 20) (h : formatOf op.toNat = some .b) :
    decodeInstr (fmtB op f e o) = decodeB op.toNat f e o := by
  have e0 : (fmtB op f e o).extractLsb' 31 1 = 0#1 := (append_skip (0#1 ++ op ++ f.enc ++ e) o 11 1).trans ((append_skip (0#1 ++ op ++ f.enc) e 8 1).trans ((append_skip (0#1 ++ op) f.enc 6 1).trans (append_first 0#1 op)))
  have top : (fmtB op f e o).getLsbD 31 = false := bit_of_field _ 31 false e0
  have e1 : (fmtB op f e o).extractLsb' 25 6 = op := (append_skip (0#1 ++ op ++ f.enc ++ e) o 5 6).trans ((append_skip (0#1 ++ op ++ f.enc) e 2 6).trans (append_field (0#1) op f.enc))
  have e2 : (fmtB op f e o).extractLsb' 23 2 = f.enc := (append_skip (0#1 ++ op ++ f.enc ++ e) o 3 2).trans (append_field (0#1 ++ op) f.enc e)
  have e3 : (fmtB op f e o).extractLsb' 20 3 = e := append_field (0#1 ++ op ++ f.enc) e o
  have e4 : (fmtB op f e o).extractLsb' 0 20 = o := append_last (0#1 ++ op ++ f.enc ++ e) o
  simp only [decodeInstr, top, decodeFull, e1, e2, e3, e4, FireMode_code, h, Bool.false_eq_true, if_false]
theorem decode_fmtG (op : BitVec 6) (f : FireMode) (g : BitVec 8) (t : Target) (x : BitVec 6) (h : formatOf op.toNat = some .g) :
    decodeInstr (fmtG op f g t x) = decodeG op.toNat f g t x := by
  have e0 : (fmtG op f g t x).extractLsb' 31 1 = 0#1 := (append_skip (0#1 ++ op ++ f.enc ++ g ++ t) x 25 1).trans ((append_skip (0#1 ++ op ++ f.enc ++ g) t 16 1).trans ((append_skip (0#1 ++ op ++ f.enc) g 8 1).trans ((append_skip (0#1 ++ op) f.enc 6 1).trans (append_first 0#1 op))))
  have top : (fmtG op f g t x).getLsbD 31 = false := bit_of_field _ 31 false e0
  have e1 : (fmtG op f g t x).extractLsb' 25 6 = op := (append_skip (0#1 ++ op ++ f.enc ++ g ++ t) x 19 6).trans ((append_skip (0#1 ++ op ++ f.enc ++ g) t 10 6).trans ((append_skip (0#1 ++ op ++ f.enc) g 2 6).trans (append_field (0#1) op f.enc)))
  have e2 : (fmtG op f g t x).extractLsb' 23 2 = f.enc := (append_skip (0#1 ++ op ++ f.enc ++ g ++ t) x 17 2).trans ((append_skip (0#1 ++ op ++ f.enc ++ g) t 8 2).trans (append_field (0#1 ++ op) f.enc g))
  have e3 : (fmtG op f g t x).extractLsb' 15 8 = g := (append_skip (0#1 ++ op ++ f.enc ++ g ++ t) x 9 8).trans (append_field (0#1 ++ op ++ f.enc) g t)
  have e4 : (fmtG op f g t x).extractLsb' 6 9 = t := append_field (0#1 ++ op ++ f.enc ++ g) t x
  have e5 : (fmtG op f g t x).extractLsb' 0 6 = x := append_last (0#1 ++ op ++ f.enc ++ g ++ t) x
  simp only [decodeInstr, top, decodeFull, e1, e2, e3, e4, e5, FireMode_code, h, Bool.false_eq_true, if_false]
theorem decode_fmtE (op : BitVec 6) (f : FireMode) (i : BitVec 10) (t : Target) (x : BitVec 4) (h : formatOf op.toNat = some .e) :
    decodeInstr (fmtE op f i t x) = decodeE op.toNat f i t x := by
  have e0 : (fmtE op f i t x).extractLsb' 31 1 = 0#1 := (append_skip (0#1 ++ op ++ f.enc ++ i ++ t) x 27 1).trans ((append_skip (0#1 ++ op ++ f.enc ++ i) t 18 1).trans ((append_skip (0#1 ++ op ++ f.enc) i 8 1).trans ((append_skip (0#1 ++ op) f.enc 6 1).trans (append_first 0#1 op))))
  have top : (fmtE op f i t x).getLsbD 31 = false := bit_of_field _ 31 false e0
  have e1 : (fmtE op f i t x).extractLsb' 25 6 = op := (append_skip (0#1 ++ op ++ f.enc ++ i ++ t) x 21 6).trans ((append_skip (0#1 ++ op ++ f.enc ++ i) t 12 6).trans ((append_skip (0#1 ++ op ++ f.enc) i 2 6).trans (append_field (0#1) op f.enc)))
  have e2 : (fmtE op f i t x).extractLsb' 23 2 = f.enc := (append_skip (0#1 ++ op ++ f.enc ++ i ++ t) x 19 2).trans ((append_skip (0#1 ++ op ++ f.enc ++ i) t 10 2).trans (append_field (0#1 ++ op) f.enc i))
  have e3 : (fmtE op f i t x).extractLsb' 13 10 = i := (append_skip (0#1 ++ op ++ f.enc ++ i ++ t) x 9 10).trans (append_field (0#1 ++ op ++ f.enc) i t)
  have e4 : (fmtE op f i t x).extractLsb' 4 9 = t := append_field (0#1 ++ op ++ f.enc ++ i) t x
  have e5 : (fmtE op f i t x).extractLsb' 0 4 = x := append_last (0#1 ++ op ++ f.enc ++ i ++ t) x
  simp only [decodeInstr, top, decodeFull, e1, e2, e3, e4, e5, FireMode_code, h, Bool.false_eq_true, if_false]
theorem decode_fmtC (op : BitVec 4) (f : FireMode) (t : Target) :
    decodeInstr (fmtC op f t) = decodeCompact (op ++ t ++ f.enc) := by
  have e0 : (fmtC op f t).extractLsb' 31 1 = 1#1 := (append_skip (1#1 ++ op ++ t ++ f.enc) 0#16 15 1).trans ((append_skip (1#1 ++ op ++ t) f.enc 13 1).trans ((append_skip (1#1 ++ op) t 4 1).trans (append_first 1#1 op)))
  have top : (fmtC op f t).getLsbD 31 = true := bit_of_field _ 31 true e0
  have e1 : (fmtC op f t).extractLsb' 0 16 = 0#16 := append_last (1#1 ++ op ++ t ++ f.enc) 0#16
  have e2 : (fmtC op f t).extractLsb' 16 15 = op ++ t ++ f.enc := by
    apply BitVec.eq_of_getLsbD_eq
    intro j hj
    simp only [fmtC, BitVec.getLsbD_extractLsb', BitVec.getLsbD_append, hj, decide_true, Bool.true_and]
    rw [if_neg (by omega), Nat.add_sub_cancel_left]
    by_cases h2 : j < 2
    · simp only [h2, if_true]
    · by_cases h11 : j - 2 < 9
      · simp only [h2, h11, if_true, if_false]
      · have h15 : j - 2 - 9 < 4 := by omega
        simp only [h2, h11, h15, if_true, if_false]
  simp only [decodeInstr, top, e1, e2, zeroField, if_true]
  cases decodeCompact (op ++ t ++ f.enc) <;> rfl
theorem compact_fields (op : BitVec 4) (f : FireMode) (t : Target) :
    decodeCompact (op ++ t ++ f.enc) = decodeCompact (op ++ t ++ f.enc) ∧ (op ++ t ++ f.enc).extractLsb' 0 2 = f.enc ∧
      (op ++ t ++ f.enc).extractLsb' 2 9 = t ∧ (op ++ t ++ f.enc).extractLsb' 11 4 = op :=
  ⟨rfl, append_last (op ++ t) f.enc, append_field (op) t f.enc, (append_skip (op ++ t) f.enc 9 4).trans (append_first op t)⟩

/-! The family: an instruction's word decodes to it. -/

namespace RoundTrip

/-- The word that encodes a legal instruction decodes to it. -/
def Statement (i : Instr) : Prop := i.hasWord = true → i.wf = true → decodeInstr (encode i) = .ok i

theorem addInt (f : FireMode) (t : Target) (u : Target) (y : IntTy) : Statement (.addInt f t u y) := fun _ h => by
  refine (decode_fmtA 0x01 f t u (0#3 ++ y.enc) rfl).trans ?_
  cases y <;> rfl
theorem subInt (f : FireMode) (t : Target) (u : Target) (y : IntTy) : Statement (.subInt f t u y) := fun _ h => by
  refine (decode_fmtA 0x01 f t u (1#3 ++ y.enc) rfl).trans ?_
  cases y <;> rfl
theorem addClamp (f : FireMode) (t : Target) (u : Target) (y : IntTy) : Statement (.addClamp f t u y) := fun _ h => by
  refine (decode_fmtA 0x01 f t u (2#3 ++ y.enc) rfl).trans ?_
  cases y <;> rfl
theorem subClamp (f : FireMode) (t : Target) (u : Target) (y : IntTy) : Statement (.subClamp f t u y) := fun _ h => by
  refine (decode_fmtA 0x01 f t u (3#3 ++ y.enc) rfl).trans ?_
  cases y <;> rfl
theorem minInt (f : FireMode) (t : Target) (u : Target) (y : IntTy) : Statement (.minInt f t u y) := fun _ h => by
  refine (decode_fmtA 0x01 f t u (4#3 ++ y.enc) rfl).trans ?_
  cases y <;> rfl
theorem maxInt (f : FireMode) (t : Target) (u : Target) (y : IntTy) : Statement (.maxInt f t u y) := fun _ h => by
  refine (decode_fmtA 0x01 f t u (5#3 ++ y.enc) rfl).trans ?_
  cases y <;> rfl
theorem absInt (f : FireMode) (t : Target) (u : Target) (wide : Bool) : Statement (.absInt f t u wide) := fun _ h => by
  refine (decode_fmtA 0x01 f t u (6#3 ++ bitOf wide ++ 0#1) rfl).trans ?_
  cases wide <;> rfl
theorem mulInt (f : FireMode) (t : Target) (u : Target) (y : IntTy) : Statement (.mulInt f t u y) := fun _ h => by
  refine (decode_fmtA 0x04 f t u (0#3 ++ y.enc) rfl).trans ?_
  cases y <;> rfl
theorem mulh (f : FireMode) (t : Target) (u : Target) (y : IntTy) : Statement (.mulh f t u y) := fun _ h => by
  refine (decode_fmtA 0x04 f t u (1#3 ++ y.enc) rfl).trans ?_
  cases y <;> rfl
theorem div (f : FireMode) (t : Target) (u : Target) (y : IntTy) : Statement (.div f t u y) := fun _ h => by
  refine (decode_fmtA 0x04 f t u (2#3 ++ y.enc) rfl).trans ?_
  cases y <;> rfl
theorem rem (f : FireMode) (t : Target) (u : Target) (y : IntTy) : Statement (.rem f t u y) := fun _ h => by
  refine (decode_fmtA 0x04 f t u (3#3 ++ y.enc) rfl).trans ?_
  cases y <;> rfl
theorem mulClamp (f : FireMode) (t : Target) (u : Target) (y : IntTy) : Statement (.mulClamp f t u y) := fun _ h => by
  refine (decode_fmtA 0x04 f t u (4#3 ++ y.enc) rfl).trans ?_
  cases y <;> rfl
theorem and (f : FireMode) (t : Target) (u : Target) (y : RawTy) : Statement (.and f t u y) := fun _ h => by
  refine (decode_fmtA 0x02 f t u (0#3 ++ y.enc) rfl).trans ?_
  cases y <;> rfl
theorem or (f : FireMode) (t : Target) (u : Target) (y : RawTy) : Statement (.or f t u y) := fun _ h => by
  refine (decode_fmtA 0x02 f t u (1#3 ++ y.enc) rfl).trans ?_
  cases y <;> rfl
theorem xor (f : FireMode) (t : Target) (u : Target) (y : RawTy) : Statement (.xor f t u y) := fun _ h => by
  refine (decode_fmtA 0x02 f t u (2#3 ++ y.enc) rfl).trans ?_
  cases y <;> rfl
theorem andn (f : FireMode) (t : Target) (u : Target) (y : RawTy) : Statement (.andn f t u y) := fun _ h => by
  refine (decode_fmtA 0x02 f t u (3#3 ++ y.enc) rfl).trans ?_
  cases y <;> rfl
theorem orn (f : FireMode) (t : Target) (u : Target) (y : RawTy) : Statement (.orn f t u y) := fun _ h => by
  refine (decode_fmtA 0x02 f t u (4#3 ++ y.enc) rfl).trans ?_
  cases y <;> rfl
theorem xnor (f : FireMode) (t : Target) (u : Target) (y : RawTy) : Statement (.xnor f t u y) := fun _ h => by
  refine (decode_fmtA 0x02 f t u (5#3 ++ y.enc) rfl).trans ?_
  cases y <;> rfl
theorem shl (f : FireMode) (t : Target) (u : Target) (y : RawTy) : Statement (.shl f t u y) := fun _ h => by
  refine (decode_fmtA 0x03 f t u (0#3 ++ y.enc) rfl).trans ?_
  cases y <;> rfl
theorem shr (f : FireMode) (t : Target) (u : Target) (y : RawTy) : Statement (.shr f t u y) := fun _ h => by
  refine (decode_fmtA 0x03 f t u (1#3 ++ y.enc) rfl).trans ?_
  cases y <;> rfl
theorem sar (f : FireMode) (t : Target) (u : Target) (y : RawTy) : Statement (.sar f t u y) := fun _ h => by
  refine (decode_fmtA 0x03 f t u (2#3 ++ y.enc) rfl).trans ?_
  cases y <;> rfl
theorem rotl (f : FireMode) (t : Target) (u : Target) (y : RawTy) : Statement (.rotl f t u y) := fun _ h => by
  refine (decode_fmtA 0x03 f t u (3#3 ++ y.enc) rfl).trans ?_
  cases y <;> rfl
theorem popc (f : FireMode) (t : Target) (u : Target) (y : RawTy) : Statement (.popc f t u y) := fun _ h => by
  refine (decode_fmtA 0x03 f t u (4#3 ++ y.enc) rfl).trans ?_
  cases y <;> rfl
theorem clz (f : FireMode) (t : Target) (u : Target) (y : RawTy) : Statement (.clz f t u y) := fun _ h => by
  refine (decode_fmtA 0x03 f t u (5#3 ++ y.enc) rfl).trans ?_
  cases y <;> rfl
theorem ctz (f : FireMode) (t : Target) (u : Target) (y : RawTy) : Statement (.ctz f t u y) := fun _ h => by
  refine (decode_fmtA 0x03 f t u (6#3 ++ y.enc) rfl).trans ?_
  cases y <;> rfl
theorem brev (f : FireMode) (t : Target) (u : Target) (y : RawTy) : Statement (.brev f t u y) := fun _ h => by
  refine (decode_fmtA 0x03 f t u (7#3 ++ y.enc) rfl).trans ?_
  cases y <;> rfl
theorem cmpEq (f : FireMode) (t : Target) (u : Target) (y : IntTy) : Statement (.cmpEq f t u y) := fun _ h => by
  refine (decode_fmtA 0x05 f t u (0#3 ++ y.enc) rfl).trans ?_
  cases y <;> rfl
theorem cmpNe (f : FireMode) (t : Target) (u : Target) (y : IntTy) : Statement (.cmpNe f t u y) := fun _ h => by
  refine (decode_fmtA 0x05 f t u (1#3 ++ y.enc) rfl).trans ?_
  cases y <;> rfl
theorem cmpLt (f : FireMode) (t : Target) (u : Target) (y : IntTy) : Statement (.cmpLt f t u y) := fun _ h => by
  refine (decode_fmtA 0x05 f t u (2#3 ++ y.enc) rfl).trans ?_
  cases y <;> rfl
theorem cmpLe (f : FireMode) (t : Target) (u : Target) (y : IntTy) : Statement (.cmpLe f t u y) := fun _ h => by
  refine (decode_fmtA 0x05 f t u (3#3 ++ y.enc) rfl).trans ?_
  cases y <;> rfl
theorem cmpGt (f : FireMode) (t : Target) (u : Target) (y : IntTy) : Statement (.cmpGt f t u y) := fun _ h => by
  refine (decode_fmtA 0x05 f t u (4#3 ++ y.enc) rfl).trans ?_
  cases y <;> rfl
theorem cmpGe (f : FireMode) (t : Target) (u : Target) (y : IntTy) : Statement (.cmpGe f t u y) := fun _ h => by
  refine (decode_fmtA 0x05 f t u (5#3 ++ y.enc) rfl).trans ?_
  cases y <;> rfl
theorem cmpEqFloat (f : FireMode) (t : Target) (u : Target) (y : FloatTy) : Statement (.cmpEqFloat f t u y) := fun _ h => by
  refine (decode_fmtA 0x06 f t u (0#3 ++ y.enc) rfl).trans ?_
  cases y <;> rfl
theorem cmpNeFloat (f : FireMode) (t : Target) (u : Target) (y : FloatTy) : Statement (.cmpNeFloat f t u y) := fun _ h => by
  refine (decode_fmtA 0x06 f t u (1#3 ++ y.enc) rfl).trans ?_
  cases y <;> rfl
theorem cmpLtFloat (f : FireMode) (t : Target) (u : Target) (y : FloatTy) : Statement (.cmpLtFloat f t u y) := fun _ h => by
  refine (decode_fmtA 0x06 f t u (2#3 ++ y.enc) rfl).trans ?_
  cases y <;> rfl
theorem cmpLeFloat (f : FireMode) (t : Target) (u : Target) (y : FloatTy) : Statement (.cmpLeFloat f t u y) := fun _ h => by
  refine (decode_fmtA 0x06 f t u (3#3 ++ y.enc) rfl).trans ?_
  cases y <;> rfl
theorem cmpGtFloat (f : FireMode) (t : Target) (u : Target) (y : FloatTy) : Statement (.cmpGtFloat f t u y) := fun _ h => by
  refine (decode_fmtA 0x06 f t u (4#3 ++ y.enc) rfl).trans ?_
  cases y <;> rfl
theorem cmpGeFloat (f : FireMode) (t : Target) (u : Target) (y : FloatTy) : Statement (.cmpGeFloat f t u y) := fun _ h => by
  refine (decode_fmtA 0x06 f t u (5#3 ++ y.enc) rfl).trans ?_
  cases y <;> rfl
theorem sel (f : FireMode) (t : Target) (u : Target) (y : RawTy) : Statement (.sel f t u y) := fun _ h => by
  refine (decode_fmtA 0x07 f t u (0#3 ++ y.enc) rfl).trans ?_
  cases y <;> rfl
theorem addi (f : FireMode) (t : Target) (k : BitVec 14) : Statement (.addi f t k) := fun _ h => by
  refine (decode_fmtI 0x08 f t k rfl).trans ?_
  rfl
theorem andi (f : FireMode) (t : Target) (k : BitVec 14) : Statement (.andi f t k) := fun _ h => by
  refine (decode_fmtI 0x09 f t k rfl).trans ?_
  rfl
theorem ori (f : FireMode) (t : Target) (k : BitVec 14) : Statement (.ori f t k) := fun _ h => by
  refine (decode_fmtI 0x0A f t k rfl).trans ?_
  rfl
theorem xori (f : FireMode) (t : Target) (k : BitVec 14) : Statement (.xori f t k) := fun _ h => by
  refine (decode_fmtI 0x0B f t k rfl).trans ?_
  rfl
theorem shli (f : FireMode) (t : Target) (k : BitVec 5) : Statement (.shli f t k) := fun _ h => by
  refine (decode_fmtI 0x0C f t (0#9 ++ k) rfl).trans ?_
  have e0 : (0#9 ++ k).extractLsb' 5 9 = 0#9 := append_first 0#9 k
  have e1 : (0#9 ++ k).extractLsb' 0 5 = k := append_last (0#9) k
  simp [decodeI, zeroField, e0, e1]
theorem shri (f : FireMode) (t : Target) (k : BitVec 5) : Statement (.shri f t k) := fun _ h => by
  refine (decode_fmtI 0x0D f t (0#9 ++ k) rfl).trans ?_
  have e0 : (0#9 ++ k).extractLsb' 5 9 = 0#9 := append_first 0#9 k
  have e1 : (0#9 ++ k).extractLsb' 0 5 = k := append_last (0#9) k
  simp [decodeI, zeroField, e0, e1]
theorem sari (f : FireMode) (t : Target) (k : BitVec 5) : Statement (.sari f t k) := fun _ h => by
  refine (decode_fmtI 0x0E f t (0#9 ++ k) rfl).trans ?_
  have e0 : (0#9 ++ k).extractLsb' 5 9 = 0#9 := append_first 0#9 k
  have e1 : (0#9 ++ k).extractLsb' 0 5 = k := append_last (0#9) k
  simp [decodeI, zeroField, e0, e1]
theorem movi (f : FireMode) (t : Target) (k : BitVec 12) : Statement (.movi f t k) := fun _ h => by
  refine (decode_fmtI 0x0F f t (0#2 ++ k) rfl).trans ?_
  have e0 : (0#2 ++ k).extractLsb' 12 2 = 0#2 := append_first 0#2 k
  have e1 : (0#2 ++ k).extractLsb' 0 12 = k := append_last (0#2) k
  simp [decodeI, e0, e1]
theorem movhi (f : FireMode) (t : Target) (k : BitVec 12) : Statement (.movhi f t k) := fun _ h => by
  refine (decode_fmtI 0x0F f t (1#2 ++ k) rfl).trans ?_
  have e0 : (1#2 ++ k).extractLsb' 12 2 = 1#2 := append_first 1#2 k
  have e1 : (1#2 ++ k).extractLsb' 0 12 = k := append_last (1#2) k
  simp [decodeI, e0, e1]
theorem cmpiEq (f : FireMode) (t : Target) (k : BitVec 12) : Statement (.cmpiEq f t k) := fun _ h => by
  refine (decode_fmtI 0x0F f t (2#2 ++ k) rfl).trans ?_
  have e0 : (2#2 ++ k).extractLsb' 12 2 = 2#2 := append_first 2#2 k
  have e1 : (2#2 ++ k).extractLsb' 0 12 = k := append_last (2#2) k
  simp [decodeI, e0, e1]
theorem cmpiLt (f : FireMode) (t : Target) (k : BitVec 12) : Statement (.cmpiLt f t k) := fun _ h => by
  refine (decode_fmtI 0x0F f t (3#2 ++ k) rfl).trans ?_
  have e0 : (3#2 ++ k).extractLsb' 12 2 = 3#2 := append_first 3#2 k
  have e1 : (3#2 ++ k).extractLsb' 0 12 = k := append_last (3#2) k
  simp [decodeI, e0, e1]
theorem addFloat (f : FireMode) (t : Target) (u : Target) (x : Ex) (y : FloatTy) : Statement (.addFloat f t u x y) := fun _ h => by
  refine (decode_fmtA 0x10 f t u (0#1 ++ x.enc ++ y.enc) rfl).trans ?_
  cases x <;> cases y <;> rfl
theorem subFloat (f : FireMode) (t : Target) (u : Target) (x : Ex) (y : FloatTy) : Statement (.subFloat f t u x y) := fun _ h => by
  refine (decode_fmtA 0x10 f t u (1#1 ++ x.enc ++ y.enc) rfl).trans ?_
  cases x <;> cases y <;> rfl
theorem mulFloat (f : FireMode) (t : Target) (u : Target) (x : Ex) (y : FloatTy) : Statement (.mulFloat f t u x y) := fun _ h => by
  refine (decode_fmtA 0x11 f t u (0#1 ++ x.enc ++ y.enc) rfl).trans ?_
  cases x <;> cases y <;> rfl
theorem fma (f : FireMode) (t : Target) (u : Target) (x : Ex) (y : FloatTy) : Statement (.fma f t u x y) := fun _ h => by
  refine (decode_fmtA 0x12 f t u (0#1 ++ x.enc ++ y.enc) rfl).trans ?_
  cases x <;> cases y <;> rfl
theorem fms (f : FireMode) (t : Target) (u : Target) (x : Ex) (y : FloatTy) : Statement (.fms f t u x y) := fun _ h => by
  refine (decode_fmtA 0x12 f t u (1#1 ++ x.enc ++ y.enc) rfl).trans ?_
  cases x <;> cases y <;> rfl
theorem minFloat (f : FireMode) (t : Target) (u : Target) (y : FloatTy) : Statement (.minFloat f t u y) := fun _ h => by
  refine (decode_fmtA 0x13 f t u (0#3 ++ y.enc) rfl).trans ?_
  cases y <;> rfl
theorem maxFloat (f : FireMode) (t : Target) (u : Target) (y : FloatTy) : Statement (.maxFloat f t u y) := fun _ h => by
  refine (decode_fmtA 0x13 f t u (1#3 ++ y.enc) rfl).trans ?_
  cases y <;> rfl
theorem absFloat (f : FireMode) (t : Target) (u : Target) (y : FloatTy) : Statement (.absFloat f t u y) := fun _ h => by
  refine (decode_fmtA 0x13 f t u (2#3 ++ y.enc) rfl).trans ?_
  cases y <;> rfl
theorem negFloat (f : FireMode) (t : Target) (u : Target) (y : FloatTy) : Statement (.negFloat f t u y) := fun _ h => by
  refine (decode_fmtA 0x13 f t u (3#3 ++ y.enc) rfl).trans ?_
  cases y <;> rfl
theorem cvt (f : FireMode) (d : Ty) (s : Ty) (t : Target) (x : Ex) : Statement (.cvt f d s t x) := fun _ h => by
  refine (decode_fmtG 0x14 f (d.enc ++ s.enc) t (x.enc ++ 0#4) rfl).trans ?_
  have e0 : (d.enc ++ s.enc).extractLsb' 4 4 = d.enc := append_first d.enc s.enc
  have e1 : (d.enc ++ s.enc).extractLsb' 0 4 = s.enc := append_last (d.enc) s.enc
  have g0 : (x.enc ++ 0#4).extractLsb' 4 2 = x.enc := append_first x.enc 0#4
  have g1 : (x.enc ++ 0#4).extractLsb' 0 4 = 0#4 := append_last (x.enc) 0#4
  simp [decodeG, zeroField, cvtField, legalOperand, h, e0, e1, g0, g1, Ex_code, Ty_code]
theorem exp2 (f : FireMode) (t : Target) (u : Target) (y : SpTy) : Statement (.exp2 f t u y) := fun _ h => by
  refine (decode_fmtA 0x15 f t u (0#3 ++ y.enc ++ 0#1) rfl).trans ?_
  cases y <;> rfl
theorem log2 (f : FireMode) (t : Target) (u : Target) (y : SpTy) : Statement (.log2 f t u y) := fun _ h => by
  refine (decode_fmtA 0x15 f t u (1#3 ++ y.enc ++ 0#1) rfl).trans ?_
  cases y <;> rfl
theorem rcp (f : FireMode) (t : Target) (u : Target) (y : SpTy) : Statement (.rcp f t u y) := fun _ h => by
  refine (decode_fmtA 0x15 f t u (2#3 ++ y.enc ++ 0#1) rfl).trans ?_
  cases y <;> rfl
theorem rsqrt (f : FireMode) (t : Target) (u : Target) (y : SpTy) : Statement (.rsqrt f t u y) := fun _ h => by
  refine (decode_fmtA 0x15 f t u (3#3 ++ y.enc ++ 0#1) rfl).trans ?_
  cases y <;> rfl
theorem sigm (f : FireMode) (t : Target) (u : Target) (y : SpTy) : Statement (.sigm f t u y) := fun _ h => by
  refine (decode_fmtA 0x15 f t u (4#3 ++ y.enc ++ 0#1) rfl).trans ?_
  cases y <;> rfl
theorem tanh (f : FireMode) (t : Target) (u : Target) (y : SpTy) : Statement (.tanh f t u y) := fun _ h => by
  refine (decode_fmtA 0x15 f t u (5#3 ++ y.enc ++ 0#1) rfl).trans ?_
  cases y <;> rfl
theorem scaleApply (f : FireMode) (t : Target) (u : Target) (y : FloatTy) : Statement (.scaleApply f t u y) := fun _ h => by
  refine (decode_fmtA 0x16 f t u (0#1 ++ 0#2 ++ y.enc) rfl).trans ?_
  cases y <;> rfl
theorem scaleStrip (f : FireMode) (t : Target) (u : Target) (y : FloatTy) : Statement (.scaleStrip f t u y) := fun _ h => by
  refine (decode_fmtA 0x16 f t u (1#1 ++ 0#2 ++ y.enc) rfl).trans ?_
  cases y <;> rfl
theorem perm (f : FireMode) (t : Target) (u : Target) (y : RawTy) : Statement (.perm f t u y) := fun _ h => by
  refine (decode_fmtA 0x17 f t u (0#3 ++ y.enc) rfl).trans ?_
  cases y <;> rfl
theorem bcast (f : FireMode) (t : Target) (u : Target) (y : RawTy) : Statement (.bcast f t u y) := fun _ h => by
  refine (decode_fmtA 0x17 f t u (1#3 ++ y.enc) rfl).trans ?_
  cases y <;> rfl
theorem redAdd (f : FireMode) (t : Target) (u : Target) (y : AccTy) : Statement (.redAdd f t u y) := fun _ h => by
  refine (decode_fmtA 0x17 f t u (2#3 ++ y.enc) rfl).trans ?_
  cases y <;> rfl
theorem redMax (f : FireMode) (t : Target) (u : Target) (y : AccTy) : Statement (.redMax f t u y) := fun _ h => by
  refine (decode_fmtA 0x17 f t u (3#3 ++ y.enc) rfl).trans ?_
  cases y <;> rfl
theorem redMin (f : FireMode) (t : Target) (u : Target) (y : AccTy) : Statement (.redMin f t u y) := fun _ h => by
  refine (decode_fmtA 0x17 f t u (4#3 ++ y.enc) rfl).trans ?_
  cases y <;> rfl
theorem scanAdd (f : FireMode) (t : Target) (u : Target) (y : AccTy) : Statement (.scanAdd f t u y) := fun _ h => by
  refine (decode_fmtA 0x17 f t u (5#3 ++ y.enc) rfl).trans ?_
  cases y <;> rfl
theorem rpack (f : FireMode) (t : Target) (u : Target) (y : RawTy) : Statement (.rpack f t u y) := fun _ h => by
  refine (decode_fmtA 0x17 f t u (6#3 ++ y.enc) rfl).trans ?_
  cases y <;> rfl
theorem turn (f : FireMode) (t : Target) (u : Target) (y : RawTy) : Statement (.turn f t u y) := fun _ h => by
  refine (decode_fmtA 0x17 f t u (7#3 ++ y.enc) rfl).trans ?_
  cases y <;> first | rfl | simp [Instr.wf] at h
theorem movFull (f : FireMode) (t : Target) (u : Target) : Statement (.movFull f t u) := fun _ h => by
  refine (decode_fmtA 0x18 f t u 0 rfl).trans ?_
  rfl
theorem nullFull (f : FireMode) (t : Target) (u : Target) : Statement (.nullFull f t u) := fun _ h => by
  refine (decode_fmtA 0x18 f t u 1 rfl).trans ?_
  rfl
theorem movCompact (f : FireMode) (t : Target) : Statement (.movCompact f t) := fun _ h => by
  have c := (compact_fields 0#4 f t).2
  exact (decode_fmtC 0 f t).trans (by simp only [decodeCompact, BitVec.ofNat_eq_ofNat, c.1, c.2.1, c.2.2, FireMode_code]; rfl)
theorem nullCompact (f : FireMode) (t : Target) : Statement (.nullCompact f t) := fun _ h => by
  have c := (compact_fields 1#4 f t).2
  exact (decode_fmtC 1 f t).trans (by simp only [decodeCompact, BitVec.ofNat_eq_ofNat, c.1, c.2.1, c.2.2, FireMode_code]; rfl)
theorem not (f : FireMode) (t : Target) : Statement (.not f t) := fun _ h => by
  have c := (compact_fields 2#4 f t).2
  exact (decode_fmtC 2 f t).trans (by simp only [decodeCompact, BitVec.ofNat_eq_ofNat, c.1, c.2.1, c.2.2, FireMode_code]; rfl)
theorem neg (f : FireMode) (t : Target) : Statement (.neg f t) := fun _ h => by
  have c := (compact_fields 3#4 f t).2
  exact (decode_fmtC 3 f t).trans (by simp only [decodeCompact, BitVec.ofNat_eq_ofNat, c.1, c.2.1, c.2.2, FireMode_code]; rfl)
theorem inc (f : FireMode) (t : Target) : Statement (.inc f t) := fun _ h => by
  have c := (compact_fields 4#4 f t).2
  exact (decode_fmtC 4 f t).trans (by simp only [decodeCompact, BitVec.ofNat_eq_ofNat, c.1, c.2.1, c.2.2, FireMode_code]; rfl)
theorem dec (f : FireMode) (t : Target) : Statement (.dec f t) := fun _ h => by
  have c := (compact_fields 5#4 f t).2
  exact (decode_fmtC 5 f t).trans (by simp only [decodeCompact, BitVec.ofNat_eq_ofNat, c.1, c.2.1, c.2.2, FireMode_code]; rfl)
theorem isz (f : FireMode) (t : Target) : Statement (.isz f t) := fun _ h => by
  have c := (compact_fields 6#4 f t).2
  exact (decode_fmtC 6 f t).trans (by simp only [decodeCompact, BitVec.ofNat_eq_ofNat, c.1, c.2.1, c.2.2, FireMode_code]; rfl)
theorem nz (f : FireMode) (t : Target) : Statement (.nz f t) := fun _ h => by
  have c := (compact_fields 7#4 f t).2
  exact (decode_fmtC 7 f t).trans (by simp only [decodeCompact, BitVec.ofNat_eq_ofNat, c.1, c.2.1, c.2.2, FireMode_code]; rfl)
theorem rdg (f : FireMode) (g : BitVec 8) (t : Target) : Statement (.rdg f g t) := fun _ h => by
  refine (decode_fmtG 0x19 f g t 0 rfl).trans ?_
  rfl
theorem wrg (f : FireMode) (g : BitVec 8) : Statement (.wrg f g) := fun _ h => by
  refine (decode_fmtG 0x1A f g noTarget 0 rfl).trans ?_
  rfl
theorem iter (f : FireMode) (t : Target) : Statement (.iter f t) := fun _ h => by
  refine (decode_fmtI 0x1B f t 0 rfl).trans ?_
  rfl
theorem lfld (f : FireMode) (t : Target) (u : Target) (r : RawTy) : Statement (.lfld f t u r) := fun _ h => by
  refine (decode_fmtA 0x1C f t u (0#3 ++ r.enc) rfl).trans ?_
  cases r <;> rfl
theorem lfst (f : FireMode) (r : RawTy) : Statement (.lfst f r) := fun _ h => by
  refine (decode_fmtA 0x1D f noTarget noTarget (0#3 ++ r.enc) rfl).trans ?_
  cases r <;> rfl
theorem lfldV (f : FireMode) (t : Target) (u : Target) (r : RawTy) : Statement (.lfldV f t u r) := fun _ h => by
  refine (decode_fmtA 0x1E f t u (0#3 ++ r.enc) rfl).trans ?_
  cases r <;> rfl
theorem lfstV (f : FireMode) (r : RawTy) : Statement (.lfstV f r) := fun _ h => by
  refine (decode_fmtA 0x1E f noTarget noTarget (1#3 ++ r.enc) rfl).trans ?_
  cases r <;> rfl
theorem lfswp (f : FireMode) (t : Target) (u : Target) (r : RawTy) : Statement (.lfswp f t u r) := fun _ h => by
  refine (decode_fmtA 0x1F f t u (0#3 ++ r.enc) rfl).trans ?_
  cases r <;> rfl
theorem ld (f : FireMode) (l : BitVec 5) (t : Target) (b : BitVec 4) (y : Ty) (acq : Bool) : Statement (.ld f l t b y acq) := fun _ h => by
  refine (decode_fmtM 0x20 f l (memLd t b y acq) rfl).trans ?_
  have e0 : (memLd t b y acq).extractLsb' 9 9 = t := (append_skip (t ++ b ++ y.enc) (bitOf acq) 8 9).trans ((append_skip (t ++ b) y.enc 4 9).trans (append_first t b))
  have e1 : (memLd t b y acq).extractLsb' 5 4 = b := (append_skip (t ++ b ++ y.enc) (bitOf acq) 4 4).trans (append_field (t) b y.enc)
  have e2 : (memLd t b y acq).extractLsb' 1 4 = y.enc := append_field (t ++ b) y.enc (bitOf acq)
  have e3 : (memLd t b y acq)[0] = acq := bit_at _ 0 (by decide) acq (append_last (t ++ b ++ y.enc) (bitOf acq))
  simp [decodeM, tyField, e0, e1, e2, e3, Ty_code]
theorem ldV (f : FireMode) (l : BitVec 5) (t : Target) (b : BitVec 4) (y : Ty) (acq : Bool) : Statement (.ldV f l t b y acq) := fun _ h => by
  refine (decode_fmtM 0x21 f l (memLd t b y acq) rfl).trans ?_
  have e0 : (memLd t b y acq).extractLsb' 9 9 = t := (append_skip (t ++ b ++ y.enc) (bitOf acq) 8 9).trans ((append_skip (t ++ b) y.enc 4 9).trans (append_first t b))
  have e1 : (memLd t b y acq).extractLsb' 5 4 = b := (append_skip (t ++ b ++ y.enc) (bitOf acq) 4 4).trans (append_field (t) b y.enc)
  have e2 : (memLd t b y acq).extractLsb' 1 4 = y.enc := append_field (t ++ b) y.enc (bitOf acq)
  have e3 : (memLd t b y acq)[0] = acq := bit_at _ 0 (by decide) acq (append_last (t ++ b ++ y.enc) (bitOf acq))
  simp [decodeM, tyField, e0, e1, e2, e3, Ty_code]
theorem st (f : FireMode) (l : BitVec 5) (b : BitVec 4) (y : Ty) (rel : Bool) (k : BitVec 9) : Statement (.st f l b y rel k) := fun _ h => by
  refine (decode_fmtM 0x22 f l (memSt b y rel k) rfl).trans ?_
  have e0 : (memSt b y rel k).extractLsb' 14 4 = b := (append_skip (b ++ y.enc ++ bitOf rel) k 5 4).trans ((append_skip (b ++ y.enc) (bitOf rel) 4 4).trans (append_first b y.enc))
  have e1 : (memSt b y rel k).extractLsb' 10 4 = y.enc := (append_skip (b ++ y.enc ++ bitOf rel) k 1 4).trans (append_field (b) y.enc (bitOf rel))
  have e2 : (memSt b y rel k)[9] = rel := bit_at _ 9 (by decide) rel (append_field (b ++ y.enc) (bitOf rel) k)
  have e3 : (memSt b y rel k).extractLsb' 0 9 = k := append_last (b ++ y.enc ++ bitOf rel) k
  simp [decodeM, tyField, e0, e1, e2, e3, Ty_code]
theorem stV (f : FireMode) (l : BitVec 5) (b : BitVec 4) (y : Ty) (rel : Bool) (k : BitVec 9) : Statement (.stV f l b y rel k) := fun _ h => by
  refine (decode_fmtM 0x23 f l (memSt b y rel k) rfl).trans ?_
  have e0 : (memSt b y rel k).extractLsb' 14 4 = b := (append_skip (b ++ y.enc ++ bitOf rel) k 5 4).trans ((append_skip (b ++ y.enc) (bitOf rel) 4 4).trans (append_first b y.enc))
  have e1 : (memSt b y rel k).extractLsb' 10 4 = y.enc := (append_skip (b ++ y.enc ++ bitOf rel) k 1 4).trans (append_field (b) y.enc (bitOf rel))
  have e2 : (memSt b y rel k)[9] = rel := bit_at _ 9 (by decide) rel (append_field (b ++ y.enc) (bitOf rel) k)
  have e3 : (memSt b y rel k).extractLsb' 0 9 = k := append_last (b ++ y.enc ++ bitOf rel) k
  simp [decodeM, tyField, e0, e1, e2, e3, Ty_code]
theorem amoAdd (f : FireMode) (l : BitVec 5) (t : Target) (y : AmoTy) (o : Ord) (sys : Bool) : Statement (.amoAdd f l t y o sys) := fun _ h => by
  refine (decode_fmtM 0x24 f l (memAmo t 0#3 y o sys) rfl).trans ?_
  have e0 : (memAmo t 0#3 y o sys).extractLsb' 9 9 = t := (append_skip (t ++ 0#3 ++ y.enc ++ o.enc) (bitOf sys) 8 9).trans ((append_skip (t ++ 0#3 ++ y.enc) o.enc 6 9).trans ((append_skip (t ++ 0#3) y.enc 3 9).trans (append_first t 0#3)))
  have e1 : (memAmo t 0#3 y o sys).extractLsb' 6 3 = 0#3 := (append_skip (t ++ 0#3 ++ y.enc ++ o.enc) (bitOf sys) 5 3).trans ((append_skip (t ++ 0#3 ++ y.enc) o.enc 3 3).trans (append_field (t) 0#3 y.enc))
  have e2 : (memAmo t 0#3 y o sys).extractLsb' 3 3 = y.enc := (append_skip (t ++ 0#3 ++ y.enc ++ o.enc) (bitOf sys) 2 3).trans (append_field (t ++ 0#3) y.enc o.enc)
  have e3 : (memAmo t 0#3 y o sys).extractLsb' 1 2 = o.enc := append_field (t ++ 0#3 ++ y.enc) o.enc (bitOf sys)
  have e4 : (memAmo t 0#3 y o sys)[0] = sys := bit_at _ 0 (by decide) sys (append_last (t ++ 0#3 ++ y.enc ++ o.enc) (bitOf sys))
  simp [decodeM, amoField, legalOperand, Instr.wf, e0, e1, e2, e3, e4, AmoTy_code, Ord_code]
theorem amoAnd (f : FireMode) (l : BitVec 5) (t : Target) (y : AmoTy) (o : Ord) (sys : Bool) : Statement (.amoAnd f l t y o sys) := fun _ h => by
  refine (decode_fmtM 0x24 f l (memAmo t 1#3 y o sys) rfl).trans ?_
  have e0 : (memAmo t 1#3 y o sys).extractLsb' 9 9 = t := (append_skip (t ++ 1#3 ++ y.enc ++ o.enc) (bitOf sys) 8 9).trans ((append_skip (t ++ 1#3 ++ y.enc) o.enc 6 9).trans ((append_skip (t ++ 1#3) y.enc 3 9).trans (append_first t 1#3)))
  have e1 : (memAmo t 1#3 y o sys).extractLsb' 6 3 = 1#3 := (append_skip (t ++ 1#3 ++ y.enc ++ o.enc) (bitOf sys) 5 3).trans ((append_skip (t ++ 1#3 ++ y.enc) o.enc 3 3).trans (append_field (t) 1#3 y.enc))
  have e2 : (memAmo t 1#3 y o sys).extractLsb' 3 3 = y.enc := (append_skip (t ++ 1#3 ++ y.enc ++ o.enc) (bitOf sys) 2 3).trans (append_field (t ++ 1#3) y.enc o.enc)
  have e3 : (memAmo t 1#3 y o sys).extractLsb' 1 2 = o.enc := append_field (t ++ 1#3 ++ y.enc) o.enc (bitOf sys)
  have e4 : (memAmo t 1#3 y o sys)[0] = sys := bit_at _ 0 (by decide) sys (append_last (t ++ 1#3 ++ y.enc ++ o.enc) (bitOf sys))
  simp [decodeM, amoField, legalOperand, h, e0, e1, e2, e3, e4, AmoTy_code, Ord_code]
theorem amoOr (f : FireMode) (l : BitVec 5) (t : Target) (y : AmoTy) (o : Ord) (sys : Bool) : Statement (.amoOr f l t y o sys) := fun _ h => by
  refine (decode_fmtM 0x24 f l (memAmo t 2#3 y o sys) rfl).trans ?_
  have e0 : (memAmo t 2#3 y o sys).extractLsb' 9 9 = t := (append_skip (t ++ 2#3 ++ y.enc ++ o.enc) (bitOf sys) 8 9).trans ((append_skip (t ++ 2#3 ++ y.enc) o.enc 6 9).trans ((append_skip (t ++ 2#3) y.enc 3 9).trans (append_first t 2#3)))
  have e1 : (memAmo t 2#3 y o sys).extractLsb' 6 3 = 2#3 := (append_skip (t ++ 2#3 ++ y.enc ++ o.enc) (bitOf sys) 5 3).trans ((append_skip (t ++ 2#3 ++ y.enc) o.enc 3 3).trans (append_field (t) 2#3 y.enc))
  have e2 : (memAmo t 2#3 y o sys).extractLsb' 3 3 = y.enc := (append_skip (t ++ 2#3 ++ y.enc ++ o.enc) (bitOf sys) 2 3).trans (append_field (t ++ 2#3) y.enc o.enc)
  have e3 : (memAmo t 2#3 y o sys).extractLsb' 1 2 = o.enc := append_field (t ++ 2#3 ++ y.enc) o.enc (bitOf sys)
  have e4 : (memAmo t 2#3 y o sys)[0] = sys := bit_at _ 0 (by decide) sys (append_last (t ++ 2#3 ++ y.enc ++ o.enc) (bitOf sys))
  simp [decodeM, amoField, legalOperand, h, e0, e1, e2, e3, e4, AmoTy_code, Ord_code]
theorem amoXor (f : FireMode) (l : BitVec 5) (t : Target) (y : AmoTy) (o : Ord) (sys : Bool) : Statement (.amoXor f l t y o sys) := fun _ h => by
  refine (decode_fmtM 0x24 f l (memAmo t 3#3 y o sys) rfl).trans ?_
  have e0 : (memAmo t 3#3 y o sys).extractLsb' 9 9 = t := (append_skip (t ++ 3#3 ++ y.enc ++ o.enc) (bitOf sys) 8 9).trans ((append_skip (t ++ 3#3 ++ y.enc) o.enc 6 9).trans ((append_skip (t ++ 3#3) y.enc 3 9).trans (append_first t 3#3)))
  have e1 : (memAmo t 3#3 y o sys).extractLsb' 6 3 = 3#3 := (append_skip (t ++ 3#3 ++ y.enc ++ o.enc) (bitOf sys) 5 3).trans ((append_skip (t ++ 3#3 ++ y.enc) o.enc 3 3).trans (append_field (t) 3#3 y.enc))
  have e2 : (memAmo t 3#3 y o sys).extractLsb' 3 3 = y.enc := (append_skip (t ++ 3#3 ++ y.enc ++ o.enc) (bitOf sys) 2 3).trans (append_field (t ++ 3#3) y.enc o.enc)
  have e3 : (memAmo t 3#3 y o sys).extractLsb' 1 2 = o.enc := append_field (t ++ 3#3 ++ y.enc) o.enc (bitOf sys)
  have e4 : (memAmo t 3#3 y o sys)[0] = sys := bit_at _ 0 (by decide) sys (append_last (t ++ 3#3 ++ y.enc ++ o.enc) (bitOf sys))
  simp [decodeM, amoField, legalOperand, h, e0, e1, e2, e3, e4, AmoTy_code, Ord_code]
theorem amoMin (f : FireMode) (l : BitVec 5) (t : Target) (y : AmoTy) (o : Ord) (sys : Bool) : Statement (.amoMin f l t y o sys) := fun _ h => by
  refine (decode_fmtM 0x24 f l (memAmo t 4#3 y o sys) rfl).trans ?_
  have e0 : (memAmo t 4#3 y o sys).extractLsb' 9 9 = t := (append_skip (t ++ 4#3 ++ y.enc ++ o.enc) (bitOf sys) 8 9).trans ((append_skip (t ++ 4#3 ++ y.enc) o.enc 6 9).trans ((append_skip (t ++ 4#3) y.enc 3 9).trans (append_first t 4#3)))
  have e1 : (memAmo t 4#3 y o sys).extractLsb' 6 3 = 4#3 := (append_skip (t ++ 4#3 ++ y.enc ++ o.enc) (bitOf sys) 5 3).trans ((append_skip (t ++ 4#3 ++ y.enc) o.enc 3 3).trans (append_field (t) 4#3 y.enc))
  have e2 : (memAmo t 4#3 y o sys).extractLsb' 3 3 = y.enc := (append_skip (t ++ 4#3 ++ y.enc ++ o.enc) (bitOf sys) 2 3).trans (append_field (t ++ 4#3) y.enc o.enc)
  have e3 : (memAmo t 4#3 y o sys).extractLsb' 1 2 = o.enc := append_field (t ++ 4#3 ++ y.enc) o.enc (bitOf sys)
  have e4 : (memAmo t 4#3 y o sys)[0] = sys := bit_at _ 0 (by decide) sys (append_last (t ++ 4#3 ++ y.enc ++ o.enc) (bitOf sys))
  simp [decodeM, amoField, legalOperand, Instr.wf, e0, e1, e2, e3, e4, AmoTy_code, Ord_code]
theorem amoMax (f : FireMode) (l : BitVec 5) (t : Target) (y : AmoTy) (o : Ord) (sys : Bool) : Statement (.amoMax f l t y o sys) := fun _ h => by
  refine (decode_fmtM 0x24 f l (memAmo t 5#3 y o sys) rfl).trans ?_
  have e0 : (memAmo t 5#3 y o sys).extractLsb' 9 9 = t := (append_skip (t ++ 5#3 ++ y.enc ++ o.enc) (bitOf sys) 8 9).trans ((append_skip (t ++ 5#3 ++ y.enc) o.enc 6 9).trans ((append_skip (t ++ 5#3) y.enc 3 9).trans (append_first t 5#3)))
  have e1 : (memAmo t 5#3 y o sys).extractLsb' 6 3 = 5#3 := (append_skip (t ++ 5#3 ++ y.enc ++ o.enc) (bitOf sys) 5 3).trans ((append_skip (t ++ 5#3 ++ y.enc) o.enc 3 3).trans (append_field (t) 5#3 y.enc))
  have e2 : (memAmo t 5#3 y o sys).extractLsb' 3 3 = y.enc := (append_skip (t ++ 5#3 ++ y.enc ++ o.enc) (bitOf sys) 2 3).trans (append_field (t ++ 5#3) y.enc o.enc)
  have e3 : (memAmo t 5#3 y o sys).extractLsb' 1 2 = o.enc := append_field (t ++ 5#3 ++ y.enc) o.enc (bitOf sys)
  have e4 : (memAmo t 5#3 y o sys)[0] = sys := bit_at _ 0 (by decide) sys (append_last (t ++ 5#3 ++ y.enc ++ o.enc) (bitOf sys))
  simp [decodeM, amoField, legalOperand, Instr.wf, e0, e1, e2, e3, e4, AmoTy_code, Ord_code]
theorem amoXchg (f : FireMode) (l : BitVec 5) (t : Target) (y : AmoTy) (o : Ord) (sys : Bool) : Statement (.amoXchg f l t y o sys) := fun _ h => by
  refine (decode_fmtM 0x24 f l (memAmo t 6#3 y o sys) rfl).trans ?_
  have e0 : (memAmo t 6#3 y o sys).extractLsb' 9 9 = t := (append_skip (t ++ 6#3 ++ y.enc ++ o.enc) (bitOf sys) 8 9).trans ((append_skip (t ++ 6#3 ++ y.enc) o.enc 6 9).trans ((append_skip (t ++ 6#3) y.enc 3 9).trans (append_first t 6#3)))
  have e1 : (memAmo t 6#3 y o sys).extractLsb' 6 3 = 6#3 := (append_skip (t ++ 6#3 ++ y.enc ++ o.enc) (bitOf sys) 5 3).trans ((append_skip (t ++ 6#3 ++ y.enc) o.enc 3 3).trans (append_field (t) 6#3 y.enc))
  have e2 : (memAmo t 6#3 y o sys).extractLsb' 3 3 = y.enc := (append_skip (t ++ 6#3 ++ y.enc ++ o.enc) (bitOf sys) 2 3).trans (append_field (t ++ 6#3) y.enc o.enc)
  have e3 : (memAmo t 6#3 y o sys).extractLsb' 1 2 = o.enc := append_field (t ++ 6#3 ++ y.enc) o.enc (bitOf sys)
  have e4 : (memAmo t 6#3 y o sys)[0] = sys := bit_at _ 0 (by decide) sys (append_last (t ++ 6#3 ++ y.enc ++ o.enc) (bitOf sys))
  simp [decodeM, amoField, legalOperand, Instr.wf, e0, e1, e2, e3, e4, AmoTy_code, Ord_code]
theorem cas (f : FireMode) (l : BitVec 5) (t : Target) (wide : Bool) (o : Ord) (sys : Bool) : Statement (.cas f l t wide o sys) := fun _ h => by
  refine (decode_fmtM 0x25 f l (t ++ bitOf wide ++ o.enc ++ bitOf sys ++ 0#5) rfl).trans ?_
  have e0 : (t ++ bitOf wide ++ o.enc ++ bitOf sys ++ 0#5).extractLsb' 9 9 = t := (append_skip (t ++ bitOf wide ++ o.enc ++ bitOf sys) 0#5 4 9).trans ((append_skip (t ++ bitOf wide ++ o.enc) (bitOf sys) 3 9).trans ((append_skip (t ++ bitOf wide) o.enc 1 9).trans (append_first t (bitOf wide))))
  have e1 : (t ++ bitOf wide ++ o.enc ++ bitOf sys ++ 0#5)[8] = wide := bit_at _ 8 (by decide) wide ((append_skip (t ++ bitOf wide ++ o.enc ++ bitOf sys) 0#5 3 1).trans ((append_skip (t ++ bitOf wide ++ o.enc) (bitOf sys) 2 1).trans (append_field (t) (bitOf wide) o.enc)))
  have e2 : (t ++ bitOf wide ++ o.enc ++ bitOf sys ++ 0#5).extractLsb' 6 2 = o.enc := (append_skip (t ++ bitOf wide ++ o.enc ++ bitOf sys) 0#5 1 2).trans (append_field (t ++ bitOf wide) o.enc (bitOf sys))
  have e3 : (t ++ bitOf wide ++ o.enc ++ bitOf sys ++ 0#5)[5] = sys := bit_at _ 5 (by decide) sys (append_field (t ++ bitOf wide ++ o.enc) (bitOf sys) 0#5)
  have e4 : (t ++ bitOf wide ++ o.enc ++ bitOf sys ++ 0#5).extractLsb' 0 5 = 0#5 := append_last (t ++ bitOf wide ++ o.enc ++ bitOf sys) 0#5
  simp [decodeM, zeroField, e0, e1, e2, e3, e4, Ord_code]
theorem fence (f : FireMode) (l : BitVec 5) (t : Target) (s : Scope) (v : Level) : Statement (.fence f l t s v) := fun _ h => by
  refine (decode_fmtM 0x26 f l (t ++ 0#1 ++ s.enc ++ v.enc ++ 0#3) rfl).trans ?_
  have e0 : (t ++ 0#1 ++ s.enc ++ v.enc ++ 0#3).extractLsb' 9 9 = t := (append_skip (t ++ 0#1 ++ s.enc ++ v.enc) 0#3 6 9).trans ((append_skip (t ++ 0#1 ++ s.enc) v.enc 4 9).trans ((append_skip (t ++ 0#1) s.enc 1 9).trans (append_first t 0#1)))
  have e1 : (t ++ 0#1 ++ s.enc ++ v.enc ++ 0#3)[8] = false := bit_at _ 8 (by decide) false ((append_skip (t ++ 0#1 ++ s.enc ++ v.enc) 0#3 5 1).trans ((append_skip (t ++ 0#1 ++ s.enc) v.enc 3 1).trans (append_field (t) 0#1 s.enc)))
  have e2 : (t ++ 0#1 ++ s.enc ++ v.enc ++ 0#3).extractLsb' 5 3 = s.enc := (append_skip (t ++ 0#1 ++ s.enc ++ v.enc) 0#3 2 3).trans (append_field (t ++ 0#1) s.enc v.enc)
  have e3 : (t ++ 0#1 ++ s.enc ++ v.enc ++ 0#3).extractLsb' 3 2 = v.enc := append_field (t ++ 0#1 ++ s.enc) v.enc 0#3
  have e4 : (t ++ 0#1 ++ s.enc ++ v.enc ++ 0#3).extractLsb' 0 3 = 0#3 := append_last (t ++ 0#1 ++ s.enc ++ v.enc) 0#3
  simp [decodeM, fenceField, zeroField, legalOperand, h, e0, e1, e2, e3, e4, Scope_code, Level_code]
theorem qfence (f : FireMode) (t : Target) (m : BitVec 8) : Statement (.qfence f t m) := fun _ h => by
  refine (decode_fmtM 0x26 f 0 (t ++ 1#1 ++ m) rfl).trans ?_
  have e0 : (t ++ 1#1 ++ m).extractLsb' 9 9 = t := (append_skip (t ++ 1#1) m 1 9).trans (append_first t 1#1)
  have e1 : (t ++ 1#1 ++ m)[8] = true := bit_at _ 8 (by decide) true (append_field (t) 1#1 m)
  have e2 : (t ++ 1#1 ++ m).extractLsb' 0 8 = m := append_last (t ++ 1#1) m
  simp [decodeM, zeroField, e0, e1, e2]
theorem bset (f : FireMode) (n : BitVec 4) : Statement (.bset f n) := fun _ h => by
  refine (decode_fmtG 0x27 f (0#4 ++ n) noTarget (0#3 ++ 0#3) rfl).trans ?_
  have e0 : (0#4 ++ n).extractLsb' 4 4 = 0#4 := append_first 0#4 n
  have e1 : (0#4 ++ n).extractLsb' 0 4 = n := append_last (0#4) n
  simp [decodeG, zeroField, sinkField, e0, e1]
theorem badd (f : FireMode) (n : BitVec 4) : Statement (.badd f n) := fun _ h => by
  refine (decode_fmtG 0x27 f (0#4 ++ n) noTarget (1#3 ++ 0#3) rfl).trans ?_
  have e0 : (0#4 ++ n).extractLsb' 4 4 = 0#4 := append_first 0#4 n
  have e1 : (0#4 ++ n).extractLsb' 0 4 = n := append_last (0#4) n
  simp [decodeG, zeroField, sinkField, e0, e1]
theorem bget (f : FireMode) (n : BitVec 4) (t : Target) : Statement (.bget f n t) := fun _ h => by
  refine (decode_fmtG 0x27 f (0#4 ++ n) t (2#3 ++ 0#3) rfl).trans ?_
  have e0 : (0#4 ++ n).extractLsb' 4 4 = 0#4 := append_first 0#4 n
  have e1 : (0#4 ++ n).extractLsb' 0 4 = n := append_last (0#4) n
  simp [decodeG, zeroField, e0, e1]
theorem cvta (f : FireMode) (t : Target) (p : Ap) : Statement (.cvta f t p) := fun _ h => by
  refine (decode_fmtG 0x27 f (0#4 ++ 0#4) t (3#3 ++ p.enc) rfl).trans ?_
  cases p <;> rfl
theorem isap (f : FireMode) (t : Target) (p : Ap) : Statement (.isap f t p) := fun _ h => by
  refine (decode_fmtG 0x27 f (0#4 ++ 0#4) t (4#3 ++ p.enc) rfl).trans ?_
  cases p <;> rfl
theorem tileFill (f : FireMode) (i : BitVec 10) (t : Target) : Statement (.tileFill f i t) := fun _ h => by
  refine (decode_fmtE 0x28 f i t 0 rfl).trans ?_
  rfl
theorem tileReady (f : FireMode) (i : BitVec 10) (t : Target) : Statement (.tileReady f i t) := fun _ h => by
  refine (decode_fmtE 0x28 f i t 1 rfl).trans ?_
  rfl
theorem tileDrain (f : FireMode) (i : BitVec 10) (t : Target) : Statement (.tileDrain f i t) := fun _ h => by
  refine (decode_fmtE 0x28 f i t 2 rfl).trans ?_
  rfl
theorem tileFree (f : FireMode) (i : BitVec 10) (t : Target) : Statement (.tileFree f i t) := fun _ h => by
  refine (decode_fmtE 0x28 f i t 3 rfl).trans ?_
  rfl
theorem tileStat (f : FireMode) (t : Target) : Statement (.tileStat f t) := fun _ h => by
  refine (decode_fmtE 0x28 f 0 t 4 rfl).trans ?_
  rfl
theorem ringDef (f : FireMode) (i : BitVec 10) (t : Target) : Statement (.ringDef f i t) := fun _ h => by
  refine (decode_fmtE 0x29 f i t 0 rfl).trans ?_
  rfl
theorem mxDef (f : FireMode) (i : BitVec 10) (t : Target) (m : Bool) : Statement (.mxDef f i t m) := fun _ h => by
  refine (decode_fmtE 0x2A f i t (bitOf m ++ 0#3) rfl).trans ?_
  cases m <;> rfl
theorem mxUnbind (f : FireMode) (t : Target) (m : Bool) : Statement (.mxUnbind f t m) := fun _ h => by
  refine (decode_fmtE 0x2A f 0 t (bitOf m ++ 1#3) rfl).trans ?_
  cases m <;> rfl
theorem gvAff (f : FireMode) (i : BitVec 10) (t : Target) (g : BitVec 2) : Statement (.gvAff f i t g) := fun _ h => by
  refine (decode_fmtE 0x2B f i t (g ++ 0#2) rfl).trans ?_
  have e0 : (g ++ 0#2).extractLsb' 2 2 = g := append_first g 0#2
  have e1 : (g ++ 0#2).extractLsb' 0 2 = 0#2 := append_last (g) 0#2
  simp [decodeE, e0, e1]
theorem gvInd (f : FireMode) (i : BitVec 10) (t : Target) (g : BitVec 2) : Statement (.gvInd f i t g) := fun _ h => by
  refine (decode_fmtE 0x2B f i t (g ++ 1#2) rfl).trans ?_
  have e0 : (g ++ 1#2).extractLsb' 2 2 = g := append_first g 1#2
  have e1 : (g ++ 1#2).extractLsb' 0 2 = 1#2 := append_last (g) 1#2
  simp [decodeE, e0, e1]
theorem gvGo (f : FireMode) (t : Target) (g : BitVec 2) : Statement (.gvGo f t g) := fun _ h => by
  refine (decode_fmtE 0x2B f 0 t (g ++ 2#2) rfl).trans ?_
  have e0 : (g ++ 2#2).extractLsb' 2 2 = g := append_first g 2#2
  have e1 : (g ++ 2#2).extractLsb' 0 2 = 2#2 := append_last (g) 2#2
  simp [decodeE, zeroField, e0, e1]
theorem cpGo (f : FireMode) (n : BitVec 10) (t : Target) : Statement (.cpGo f n t) := fun _ h => by
  refine (decode_fmtE 0x2C f n t 0 rfl).trans ?_
  rfl
theorem cpRem (f : FireMode) (n : BitVec 10) (t : Target) : Statement (.cpRem f n t) := fun _ h => by
  refine (decode_fmtE 0x2C f n t 1 rfl).trans ?_
  rfl
theorem engCmd (f : FireMode) (t : Target) (q : BitVec 3) : Statement (.engCmd f t q) := fun _ h => by
  refine (decode_fmtE 0x2D f 0 t (0#1 ++ q) rfl).trans ?_
  have e0 : (0#1 ++ q).extractLsb' 3 1 = 0#1 := append_first 0#1 q
  have e1 : (0#1 ++ q).extractLsb' 0 3 = q := append_last (0#1) q
  simp [decodeE, zeroField, e0, e1]
theorem plateLd (f : FireMode) (t : Target) (u : Target) : Statement (.plateLd f t u) := fun _ h => by
  refine (decode_fmtA 0x2E f t u 0 rfl).trans ?_
  rfl
theorem plateEv (f : FireMode) (t : Target) (u : Target) : Statement (.plateEv f t u) := fun _ h => by
  refine (decode_fmtA 0x2E f t u 1 rfl).trans ?_
  rfl
theorem plateQ (f : FireMode) (t : Target) (u : Target) : Statement (.plateQ f t u) := fun _ h => by
  refine (decode_fmtA 0x2E f t u 2 rfl).trans ?_
  rfl
theorem emit (f : FireMode) (t : Target) (u : Target) : Statement (.emit f t u) := fun _ h => by
  refine (decode_fmtA 0x30 f t u 0 rfl).trans ?_
  rfl
theorem emitT (f : FireMode) (t : Target) (u : Target) : Statement (.emitT f t u) := fun _ h => by
  refine (decode_fmtA 0x30 f t u 1 rfl).trans ?_
  rfl
theorem emitX (f : FireMode) (t : Target) (u : Target) : Statement (.emitX f t u) := fun _ h => by
  refine (decode_fmtA 0x30 f t u 2 rfl).trans ?_
  rfl
theorem spawn (f : FireMode) (t : Target) (k : BitVec 14) : Statement (.spawn f t k) := fun _ h => by
  refine (decode_fmtI 0x31 f t k rfl).trans ?_
  rfl
theorem rest (f : FireMode) : Statement (.rest f) := fun _ h => by
  refine (decode_fmtA 0x32 f noTarget noTarget 0 rfl).trans ?_
  rfl
theorem bind (f : FireMode) (t : Target) (u : Target) : Statement (.bind f t u) := fun _ h => by
  refine (decode_fmtA 0x33 f t u 0 rfl).trans ?_
  rfl
theorem hint (f : FireMode) (t : Target) (u : Target) : Statement (.hint f t u) := fun _ h => by
  refine (decode_fmtA 0x33 f t u 1 rfl).trans ?_
  rfl
theorem aq (f : FireMode) (t : Target) (u : Target) : Statement (.aq f t u) := fun _ h => by
  refine (decode_fmtA 0x33 f t u 2 rfl).trans ?_
  rfl
theorem join (f : FireMode) (t : Target) (u : Target) : Statement (.join f t u) := fun _ h => by
  refine (decode_fmtA 0x34 f t u 0 rfl).trans ?_
  rfl
theorem leave (f : FireMode) (t : Target) (u : Target) : Statement (.leave f t u) := fun _ h => by
  refine (decode_fmtA 0x34 f t u 1 rfl).trans ?_
  rfl
theorem cbar (f : FireMode) (t : Target) (u : Target) : Statement (.cbar f t u) := fun _ h => by
  refine (decode_fmtA 0x34 f t u 2 rfl).trans ?_
  rfl
theorem cq (f : FireMode) (t : Target) (u : Target) : Statement (.cq f t u) := fun _ h => by
  refine (decode_fmtA 0x34 f t u 3 rfl).trans ?_
  rfl
theorem credAddI32 (f : FireMode) (t : Target) (u : Target) : Statement (.credAddI32 f t u) := fun _ h => by
  refine (decode_fmtA 0x34 f t u 8 rfl).trans ?_
  rfl
theorem credAddF32 (f : FireMode) (t : Target) (u : Target) : Statement (.credAddF32 f t u) := fun _ h => by
  refine (decode_fmtA 0x34 f t u 9 rfl).trans ?_
  rfl
theorem credMaxI32 (f : FireMode) (t : Target) (u : Target) : Statement (.credMaxI32 f t u) := fun _ h => by
  refine (decode_fmtA 0x34 f t u 10 rfl).trans ?_
  rfl
theorem credMaxF32 (f : FireMode) (t : Target) (u : Target) : Statement (.credMaxF32 f t u) := fun _ h => by
  refine (decode_fmtA 0x34 f t u 11 rfl).trans ?_
  rfl
theorem credMinI32 (f : FireMode) (t : Target) (u : Target) : Statement (.credMinI32 f t u) := fun _ h => by
  refine (decode_fmtA 0x34 f t u 12 rfl).trans ?_
  rfl
theorem credMinF32 (f : FireMode) (t : Target) (u : Target) : Statement (.credMinF32 f t u) := fun _ h => by
  refine (decode_fmtA 0x34 f t u 13 rfl).trans ?_
  rfl
theorem leaseReq (f : FireMode) (t : Target) (u : Target) : Statement (.leaseReq f t u) := fun _ h => by
  refine (decode_fmtA 0x35 f t u 0 rfl).trans ?_
  rfl
theorem leaseGive (f : FireMode) (t : Target) (u : Target) : Statement (.leaseGive f t u) := fun _ h => by
  refine (decode_fmtA 0x35 f t u 1 rfl).trans ?_
  rfl
theorem leaseRev (f : FireMode) (t : Target) (u : Target) : Statement (.leaseRev f t u) := fun _ h => by
  refine (decode_fmtA 0x35 f t u 2 rfl).trans ?_
  rfl
theorem leaseQ (f : FireMode) (t : Target) (u : Target) : Statement (.leaseQ f t u) := fun _ h => by
  refine (decode_fmtA 0x35 f t u 3 rfl).trans ?_
  rfl
theorem exit (f : FireMode) (e : BitVec 3) (o : BitVec 20) : Statement (.exit f e o) := fun _ h => by
  refine (decode_fmtB 0x38 f e o rfl).trans ?_
  simp [decodeB, legalOperand, h]
theorem exitI (f : FireMode) (e : BitVec 3) : Statement (.exitI f e) := fun _ h => by
  refine (decode_fmtB 0x39 f e 0 rfl).trans ?_
  simp [decodeB, legalOperand, zeroField, h]
theorem trap (f : FireMode) (n : BitVec 8) : Statement (.trap f n) := fun _ h => by
  refine (decode_fmtI 0x3C f noTarget (0#1 ++ 0#5 ++ n) rfl).trans ?_
  have e0 : (0#6 ++ n).extractLsb' 8 5 = 0#5 := (append_skip (0#6) n 0 5).trans (by decide)
  have e1 : (0#6 ++ n).extractLsb' 0 8 = n := append_last (0#6) n
  have e3 : (0#6 ++ n)[13] = false := bit_at _ 13 (by decide) false ((append_skip (0#6) n 5 1).trans (by decide))
  simp [decodeI, sinkField, zeroField, e0, e1, e3]
theorem tret (f : FireMode) : Statement (.tret f) := fun _ h => by
  refine (decode_fmtI 0x3C f noTarget (1#1 ++ 0#5 ++ 0#8) rfl).trans ?_
  rfl
theorem mfs (f : FireMode) (t : Target) (c : BitVec 12) : Statement (.mfs f t c) := fun _ h => by
  refine (decode_fmtI 0x3D f t (0#2 ++ c) rfl).trans ?_
  have e0 : (0#2 ++ c).extractLsb' 12 2 = 0#2 := append_first 0#2 c
  have e1 : (0#2 ++ c).extractLsb' 0 12 = c := append_last (0#2) c
  simp [decodeI, legalOperand, h, e0, e1]
theorem mts (f : FireMode) (c : BitVec 12) : Statement (.mts f c) := fun _ h => by
  refine (decode_fmtI 0x3D f noTarget (1#2 ++ c) rfl).trans ?_
  have e0 : (1#2 ++ c).extractLsb' 12 2 = 1#2 := append_first 1#2 c
  have e1 : (1#2 ++ c).extractLsb' 0 12 = c := append_last (1#2) c
  simp [decodeI, sinkField, legalOperand, h, e0, e1]
theorem nop (f : FireMode) : Statement (.nop f) := fun _ h => by
  refine (decode_fmtI 0x3E f noTarget (0#4 ++ 0#10) rfl).trans ?_
  rfl
theorem brk (f : FireMode) (k : BitVec 10) : Statement (.brk f k) := fun _ h => by
  refine (decode_fmtI 0x3E f noTarget (1#4 ++ k) rfl).trans ?_
  have e0 : (1#4 ++ k).extractLsb' 10 4 = 1#4 := append_first 1#4 k
  have e1 : (1#4 ++ k).extractLsb' 0 10 = k := append_last (1#4) k
  simp [decodeI, sinkField, e0, e1]
theorem trmk (f : FireMode) (t : Target) (k : BitVec 10) : Statement (.trmk f t k) := fun _ h => by
  refine (decode_fmtI 0x3E f t (2#4 ++ k) rfl).trans ?_
  have e0 : (2#4 ++ k).extractLsb' 10 4 = 2#4 := append_first 2#4 k
  have e1 : (2#4 ++ k).extractLsb' 0 10 = k := append_last (2#4) k
  simp [decodeI, e0, e1]
theorem stylus (f : FireMode) (k : BitVec 10) : Statement (.stylus f k) := fun _ h => by
  refine (decode_fmtI 0x3E f noTarget (3#4 ++ k) rfl).trans ?_
  have e0 : (3#4 ++ k).extractLsb' 10 4 = 3#4 := append_first 3#4 k
  have e1 : (3#4 ++ k).extractLsb' 0 10 = k := append_last (3#4) k
  simp [decodeI, sinkField, e0, e1]
theorem ctrRd (f : FireMode) (t : Target) (k : BitVec 10) : Statement (.ctrRd f t k) := fun _ h => by
  refine (decode_fmtI 0x3E f t (4#4 ++ k) rfl).trans ?_
  have e0 : (4#4 ++ k).extractLsb' 10 4 = 4#4 := append_first 4#4 k
  have e1 : (4#4 ++ k).extractLsb' 0 10 = k := append_last (4#4) k
  simp [decodeI, e0, e1]
theorem ctrClr (f : FireMode) (k : BitVec 10) : Statement (.ctrClr f k) := fun _ h => by
  refine (decode_fmtI 0x3E f noTarget (5#4 ++ k) rfl).trans ?_
  have e0 : (5#4 ++ k).extractLsb' 10 4 = 5#4 := append_first 5#4 k
  have e1 : (5#4 ++ k).extractLsb' 0 10 = k := append_last (5#4) k
  simp [decodeI, sinkField, e0, e1]
theorem preempt (f : FireMode) : Statement (.preempt f) := fun _ h => by
  refine (decode_fmtI 0x3E f noTarget (6#4 ++ 0#10) rfl).trans ?_
  rfl
theorem abort (f : FireMode) (q : Bool) : Statement (.abort f q) := fun _ h => by
  refine (decode_fmtI 0x3E f noTarget (7#4 ++ 0#9 ++ bitOf q) rfl).trans ?_
  cases q <;> rfl
theorem registerWrite (win : Window) (func : Nat) (link : Nat) (off : Nat) (v : Dbl) : Statement (.registerWrite win func link off v) := fun h => by cases h
theorem selfTestDone (bit : Nat) (passed : Bool) : Statement (.selfTestDone bit passed) := fun h => by cases h
theorem pressPowerUp (press : Nat) : Statement (.pressPowerUp press) := fun h => by cases h
theorem matrixRampDone (press : Nat) : Statement (.matrixRampDone press) := fun h => by cases h
theorem w4Write (func : Nat) (link : Nat) (addr : Nat) (bytes : List Byte) : Statement (.w4Write func link addr bytes) := fun h => by cases h
theorem w4Read (func : Nat) (link : Nat) (addr : Nat) (n : Nat) : Statement (.w4Read func link addr n) := fun h => by cases h
theorem portBindingWrite (link : Nat) (port : Nat) (v : Dbl) : Statement (.portBindingWrite link port v) := fun h => by cases h
theorem prodWrite (func : Nat) (link : Nat) (port : Nat) (v : Dbl) : Statement (.prodWrite func link port v) := fun h => by cases h
theorem ingressAccept (port : Nat) : Statement (.ingressAccept port) := fun h => by cases h
theorem egressDrain (ten : Nat) (ring : Nat) : Statement (.egressDrain ten ring) := fun h => by cases h
theorem keySlotWrite (slot : Nat) (off : Nat) (v : Dbl) : Statement (.keySlotWrite slot off v) := fun h => by cases h
theorem stimulusArrival (walker : Nat) : Statement (.stimulusArrival walker) := fun h => by cases h
theorem queueRefill (ten : Nat) (agent : Nat) : Statement (.queueRefill ten agent) := fun h => by cases h
theorem demotion (ten : Nat) (agent : Nat) : Statement (.demotion ten agent) := fun h => by cases h
theorem entryMove (ten : Nat) (agent : Nat) : Statement (.entryMove ten agent) := fun h => by cases h
theorem plateLoadStart (group : Nat) (load : Nat) : Statement (.plateLoadStart group load) := fun h => by cases h
theorem plateLoadComplete (group : Nat) (load : Nat) : Statement (.plateLoadComplete group load) := fun h => by cases h
theorem impressionGather (group : Nat) : Statement (.impressionGather group) := fun h => by cases h
theorem batchWindowExpiry (group : Nat) (imp : Nat) : Statement (.batchWindowExpiry group imp) := fun h => by cases h
theorem admission (group : Nat) : Statement (.admission group) := fun h => by cases h
theorem shareTableSwap (press : Nat) : Statement (.shareTableSwap press) := fun h => by cases h
theorem spawnStarve (press : Nat) : Statement (.spawnStarve press) := fun h => by cases h
theorem cardDeal (group : Nat) : Statement (.cardDeal group) := fun h => by cases h
theorem blockFetch (ctx : Nat) : Statement (.blockFetch ctx) := fun h => by cases h
theorem regionAcquire (ctx : Nat) : Statement (.regionAcquire ctx) := fun h => by cases h
theorem mapperPlace (ctx : Nat) : Statement (.mapperPlace ctx) := fun h => by cases h
theorem configPacketComplete (ctx : Nat) (inst : Nat) : Statement (.configPacketComplete ctx inst) := fun h => by cases h
theorem tokenArrival (ctx : Nat) (tok : Token) : Statement (.tokenArrival ctx tok) := fun h => by cases h
theorem iterEmit (ctx : Nat) (inst : Nat) : Statement (.iterEmit ctx inst) := fun h => by cases h
theorem commit (ctx : Nat) : Statement (.commit ctx) := fun h => by cases h
theorem blockWatchExpiry (ctx : Nat) : Statement (.blockWatchExpiry ctx) := fun h => by cases h
theorem pageWalkComplete (acc : Nat) : Statement (.pageWalkComplete acc) := fun h => by cases h
theorem accessPerformed (acc : Nat) : Statement (.accessPerformed acc) := fun h => by cases h
theorem migrationComplete (ten : Nat) (va : Nat) : Statement (.migrationComplete ten va) := fun h => by cases h
theorem tileDrainComplete (op : Nat) : Statement (.tileDrainComplete op) := fun h => by cases h
theorem engineOpStart (press : Nat) (queue : Nat) : Statement (.engineOpStart press queue) := fun h => by cases h
theorem mxConfigure (press : Nat) (unit : Nat) : Statement (.mxConfigure press unit) := fun h => by cases h
theorem mxFiring (press : Nat) (unit : Nat) : Statement (.mxFiring press unit) := fun h => by cases h
theorem epilogueWrite (press : Nat) (unit : Nat) : Statement (.epilogueWrite press unit) := fun h => by cases h
theorem graverStream (op : Nat) : Statement (.graverStream op) := fun h => by cases h
theorem copyComplete (op : Nat) : Statement (.copyComplete op) := fun h => by cases h
theorem engCmdDeliver (op : Nat) : Statement (.engCmdDeliver op) := fun h => by cases h
theorem plateEvictionComplete (group : Nat) (ten : Nat) (num : Nat) : Statement (.plateEvictionComplete group ten num) := fun h => by cases h
theorem spawnStart (press : Nat) : Statement (.spawnStart press) := fun h => by cases h
theorem agentOpAtWalker (walker : Nat) : Statement (.agentOpAtWalker walker) := fun h => by cases h
theorem retirement (stp : Nat) : Statement (.retirement stp) := fun h => by cases h
theorem dispositionResume (ten : Nat) (seq : Nat) : Statement (.dispositionResume ten seq) := fun h => by cases h
theorem dispositionAbort (ten : Nat) (seq : Nat) (qmask : Dbl) : Statement (.dispositionAbort ten seq qmask) := fun h => by cases h
theorem drainCutComplete (ctx : Nat) : Statement (.drainCutComplete ctx) := fun h => by cases h
theorem proofRestore (slot : Nat) : Statement (.proofRestore slot) := fun h => by cases h
theorem shardWatchExpiry (kind : Nat) (obj : Nat) : Statement (.shardWatchExpiry kind obj) := fun h => by cases h
theorem domainModeEnable (dom : Nat) : Statement (.domainModeEnable dom) := fun h => by cases h
theorem metadataClearDone (dom : Nat) : Statement (.metadataClearDone dom) := fun h => by cases h
theorem slotSweep (dom : Nat) (slot : Nat) : Statement (.slotSweep dom slot) := fun h => by cases h
theorem distributionReport (dev : Nat) (res : Nat) : Statement (.distributionReport dev res) := fun h => by cases h
theorem wavelengthLocked (j : Nat) : Statement (.wavelengthLocked j) := fun h => by cases h
theorem wavelengthDark (j : Nat) : Statement (.wavelengthDark j) := fun h => by cases h
theorem lightRestored (j : Nat) : Statement (.lightRestored j) := fun h => by cases h
theorem write (nbr : Nat) (flit : Flit) : Statement (.write nbr flit) := fun h => by cases h
theorem data (nbr : Nat) (flit : Flit) : Statement (.data nbr flit) := fun h => by cases h
theorem loadreq (nbr : Nat) (flit : Flit) : Statement (.loadreq nbr flit) := fun h => by cases h
theorem loadrsp (nbr : Nat) (flit : Flit) : Statement (.loadrsp nbr flit) := fun h => by cases h
theorem amoreq (nbr : Nat) (flit : Flit) : Statement (.amoreq nbr flit) := fun h => by cases h
theorem amorsp (nbr : Nat) (flit : Flit) : Statement (.amorsp nbr flit) := fun h => by cases h
theorem ack (nbr : Nat) (flit : Flit) : Statement (.ack nbr flit) := fun h => by cases h
theorem nak (nbr : Nat) (flit : Flit) : Statement (.nak nbr flit) := fun h => by cases h
theorem stim (nbr : Nat) (flit : Flit) : Statement (.stim nbr flit) := fun h => by cases h
theorem plate (nbr : Nat) (flit : Flit) : Statement (.plate nbr flit) := fun h => by cases h
theorem linkctl (nbr : Nat) (flit : Flit) : Statement (.linkctl nbr flit) := fun h => by cases h
theorem restripe (nbr : Nat) (flit : Flit) : Statement (.restripe nbr flit) := fun h => by cases h
theorem lease (nbr : Nat) (flit : Flit) : Statement (.lease nbr flit) := fun h => by cases h
theorem drain (nbr : Nat) (flit : Flit) : Statement (.drain nbr flit) := fun h => by cases h
theorem flitTransit (nbr : Nat) (flit : Flit) : Statement (.flitTransit nbr flit) := fun h => by cases h
theorem lossOfLight (nbr : Nat) (lost : Dbl) (els : Option Nat) : Statement (.lossOfLight nbr lost els) := fun h => by cases h
theorem realignComplete (nbr : Nat) : Statement (.realignComplete nbr) := fun h => by cases h
theorem counterSweep (ctx : Nat) (event : Nat) : Statement (.counterSweep ctx event) := fun h => by cases h
theorem monitorLimitCross (power : BitVec 16) (temp : BitVec 16) : Statement (.monitorLimitCross power temp) := fun h => by cases h
theorem reservedTypeFlit (nbr : Nat) (pilot : Bool) (flit : Flit) : Statement (.reservedTypeFlit nbr pilot flit) := fun h => by cases h
theorem resetBoot : Statement (.resetBoot) := fun h => by cases h
theorem keyTableLock : Statement (.keyTableLock) := fun h => by cases h
theorem attestationRequest : Statement (.attestationRequest) := fun h => by cases h
theorem attestationComplete : Statement (.attestationComplete) := fun h => by cases h
theorem promotionRetry : Statement (.promotionRetry) := fun h => by cases h
theorem probe : Statement (.probe) := fun h => by cases h
theorem probeClear : Statement (.probeClear) := fun h => by cases h
theorem probeUnblock : Statement (.probeUnblock) := fun h => by cases h
theorem probeResult : Statement (.probeResult) := fun h => by cases h
theorem ageTick : Statement (.ageTick) := fun h => by cases h
theorem placementCacheFlush : Statement (.placementCacheFlush) := fun h => by cases h
theorem tlbInvalidatePage : Statement (.tlbInvalidatePage) := fun h => by cases h
theorem tlbInvalidateTenancy : Statement (.tlbInvalidateTenancy) := fun h => by cases h
theorem tlbInvalidateAll : Statement (.tlbInvalidateAll) := fun h => by cases h
theorem tlbInvalidateDone : Statement (.tlbInvalidateDone) := fun h => by cases h
theorem tileWaitSatisfied : Statement (.tileWaitSatisfied) := fun h => by cases h
theorem fenceComplete : Statement (.fenceComplete) := fun h => by cases h
theorem qfenceComplete : Statement (.qfenceComplete) := fun h => by cases h
theorem cohortOpAtHome : Statement (.cohortOpAtHome) := fun h => by cases h
theorem faultRingFlush : Statement (.faultRingFlush) := fun h => by cases h
theorem quarantineFlush : Statement (.quarantineFlush) := fun h => by cases h
theorem preemptRequest : Statement (.preemptRequest) := fun h => by cases h
theorem proofRelease : Statement (.proofRelease) := fun h => by cases h
theorem actorSlotAcquire : Statement (.actorSlotAcquire) := fun h => by cases h
theorem raceBudgetInterval : Statement (.raceBudgetInterval) := fun h => by cases h
theorem fabricLoad : Statement (.fabricLoad) := fun h => by cases h
theorem fabricReconfigure : Statement (.fabricReconfigure) := fun h => by cases h
theorem fabricResume : Statement (.fabricResume) := fun h => by cases h
theorem pilotsLocked : Statement (.pilotsLocked) := fun h => by cases h
theorem reconfDrainDone : Statement (.reconfDrainDone) := fun h => by cases h
theorem distributionStart : Statement (.distributionStart) := fun h => by cases h
theorem leaseArbitrate : Statement (.leaseArbitrate) := fun h => by cases h
theorem leaseAgeExpiry : Statement (.leaseAgeExpiry) := fun h => by cases h
theorem replayTimeout : Statement (.replayTimeout) := fun h => by cases h
theorem linkctlBeacon : Statement (.linkctlBeacon) := fun h => by cases h
theorem remoteTimeout : Statement (.remoteTimeout) := fun h => by cases h
theorem traceRestart : Statement (.traceRestart) := fun h => by cases h
theorem eventRingFlush : Statement (.eventRingFlush) := fun h => by cases h

end RoundTrip

end Sys2Proof.Laws
end

