-- ==== Sys2Proof/Laws/Work.lean ====
section
/-! SUPPORT. The shapes that the meanings share, said once: what a firing's meaning can answer, what a request leaves open and an
answer closes, and how the accessors of State read after a write. -/

namespace Sys2Proof.Machine

/-! Accessors after writes. -/

theorem ctxAt_setCtx (s : State) (c d : Nat) (v : Ctx) : ctxAt (setCtx s c v) d = if d = c then some v else ctxAt s d :=
  tabFind_tabPut s.ctxs c d v
theorem ctxAt_modCtx (s : State) (c d : Nat) (f : Ctx → Ctx) :
    ctxAt (modCtx s c f) d = if d = c then (ctxAt s c).map f else ctxAt s d := tabFind_tabUpdate s.ctxs c d f
theorem stepAt_modStep (s : State) (i j : Nat) (f : StepRec → StepRec) :
    stepAt (modStep s i f) j = if j = i then (stepAt s i).map f else stepAt s j := tabFind_tabUpdate s.steps i j f
theorem tabFind_tabDrop {α : Type} (t : Tab α) (k j : Nat) (h : j ≠ k) : tabFind (tabDrop t k) j = tabFind t j := by
  induction t with
  | nil => rfl
  | cons e r ih => grind [tabDrop, tabFind]
theorem tabFind_tabDrop_same {α : Type} (t : Tab α) (k : Nat) (h : t.Pairwise fun x y => x.1 < y.1) : tabFind (tabDrop t k) k = none := by
  induction t with
  | nil => rfl
  | cons e r ih =>
    obtain ⟨h1, h2⟩ := List.pairwise_cons.mp h
    by_cases hk : e.1 = k
    · rw [show tabDrop (e :: r) k = r by simp [tabDrop, hk]]
      exact tabFind_none r k fun d hd => by have := h1 d hd; omega
    · simp [tabDrop, tabFind, hk, ih h2]

/-! Work added. -/

theorem pushEvOnce_has (s : State) (i : Instr) : (.event i : Work) ∈ (pushEvOnce s i).queue := by
  unfold pushEvOnce
  split
  next h => exact List.contains_iff_mem.mp h
  next => simp [pushEv, pushWork]
theorem pushEvOnce_keeps (s : State) (i : Instr) (w : Work) (h : w ∈ s.queue) : w ∈ (pushEvOnce s i).queue := by
  unfold pushEvOnce
  split
  · exact h
  · simp [pushEv, pushWork, h]
/-- An event awaited once adds at most itself. -/
theorem pushEvOnce_sends (s : State) (i : Instr) : onlySends s (pushEvOnce s i) [] ∨ onlySends s (pushEvOnce s i) [.event i] := by
  unfold pushEvOnce
  split
  · exact .inl (by simp [onlySends])
  · exact .inr rfl
theorem settle_sends (s : State) (c : Nat) : onlySends s (settle s c) [] ∨ onlySends s (settle s c) [.event (.commit c)] := by
  unfold settle
  split
  · exact pushEvOnce_sends s _
  · exact .inl (by simp [onlySends])

/-! What a firing's meaning answers. -/

/-- With no firing in hand it is the model's own stop; else it goes on as the EOS, the lack of a fired element, a null operand, or its
operation says (R118, R136, R164). -/
theorem onFire_cases (m : FireMode) (s : State) (eos : Firing → Nat → State) (null go : Firing → State) :
    (s.cur = none ∧ onFire m s eos null go = .fault .noFiring) ∨
    ∃ f, s.cur = some f ∧
      ((∃ b, f.eos = some b ∧ onFire m s eos null go = .next (eos f b)) ∨
       (f.eos = none ∧ (firedElems m f).isEmpty = true ∧ onFire m s eos null go = .next s) ∨
       (f.eos = none ∧ (firedElems m f).isEmpty = false ∧ nullOperand f = true ∧ onFire m s eos null go = .next (null f)) ∨
       (Acting m s f ∧ onFire m s eos null go = .next (go f))) := by
  unfold onFire
  cases hc : s.cur with
  | none => exact .inl ⟨rfl, rfl⟩
  | some f =>
    refine .inr ⟨f, rfl, ?_⟩
    rcases he : f.eos with - | b
    · rcases hf : (firedElems m f).isEmpty with - | -
      · rcases hn : nullOperand f with - | -
        · exact .inr (.inr (.inr ⟨⟨hc, he, hf, hn⟩, by simp only [he, hf, hn, Bool.false_eq_true, if_false]⟩))
        · exact .inr (.inr (.inl ⟨rfl, rfl, rfl, by simp only [he, hf, hn, Bool.false_eq_true, if_false, if_true]⟩))
      · exact .inr (.inl ⟨rfl, rfl, by simp only [he, hf, if_true]⟩)
    · exact .inl ⟨b, rfl, by simp only [he]⟩
theorem onFire_acts (m : FireMode) (s : State) (f : Firing) (eos : Firing → Nat → State) (null go : Firing → State)
    (h : Acting m s f) : onFire m s eos null go = .next (go f) := by
  simp [onFire, h.cur, h.value, h.fires, h.noNull]
theorem onFire_idle (m : FireMode) (s : State) (eos : Firing → Nat → State) (null go : Firing → State) (h : s.cur = none) :
    onFire m s eos null go = .fault .noFiring := by simp [onFire, h]
/-- With a firing in hand a meaning never stops. -/
theorem onFire_next (m : FireMode) (s : State) (f : Firing) (eos : Firing → Nat → State) (null go : Firing → State)
    (h : s.cur = some f) : ∃ t, onFire m s eos null go = .next t := by simp [onFire, h]

/-- A stream instruction handles an EOS or its tokens (R183 to R187). -/
theorem onStream_cases (s : State) (eos : Firing → Nat → State) (go : Firing → State) :
    (s.cur = none ∧ onStream s eos go = .fault .noFiring) ∨
    ∃ f, s.cur = some f ∧
      ((∃ b, f.eos = some b ∧ onStream s eos go = .next (eos f b)) ∨ (f.eos = none ∧ onStream s eos go = .next (go f))) := by
  unfold onStream
  cases hc : s.cur with
  | none => exact .inl ⟨rfl, rfl⟩
  | some f =>
    refine .inr ⟨f, rfl, ?_⟩
    rcases he : f.eos with - | b
    · exact .inr ⟨rfl, by simp only [he]⟩
    · exact .inl ⟨b, rfl, by simp only [he]⟩

/-- A request consumes an EOS, answers a null with a null, and faults on an operand of another width or of many elements (R304). -/
theorem onRequest_acts (m : FireMode) (ts : List Target) (s : State) (f : Firing) (wa : Width) (go : Firing → State)
    (h : Acting m s f) : onRequest m ts s wa go =
      .next (match onesFault f wa with
        | some c => fireFault s f c (fireInfo f)
        | none => go f) := onFire_acts m s f _ _ _ h
theorem onRequest_next (m : FireMode) (ts : List Target) (s : State) (f : Firing) (wa : Width) (go : Firing → State)
    (h : s.cur = some f) : ∃ t, onRequest m ts s wa go = .next t := onFire_next m s f _ _ _ h

/-! Single values. -/

/-- One value of the width asked for meets the checks of the special registers and branches (R225, R236). -/
theorem oneElem_ok (f : Firing) (w : Width) (v : Dbl) (h : oneValue f w v) : oneElem f w = none := by
  obtain ⟨-, h2, h3, a, h4, h5, h6, h7⟩ := h
  have : operandFault f (fun q => if q == Port.a then some w else none) [] .pass = none := by
    simp [operandFault, widthBad, scaleBad, scaleStates, operand, h2, h3, h4, h5]
  unfold oneElem
  rw [this]
  simp [h7]
/-- One value that fires is element 0. -/
theorem oneValue_elem (m : FireMode) (f : Firing) (w : Width) (v : Dbl) (hf : (firedElems m f).isEmpty = false) (h : oneValue f w v) :
    firedElems m f = [0] ∧ elemAt f.a 0 = v.toNat ∧ aFirst m f = v.toNat := by
  obtain ⟨hl, h2, h3, a, h4, h5, h6, h7⟩ := h
  have : firedElems m f = [0] := by
    have hf' : ((List.range f.len).filter (modeHolds m f)).isEmpty = false := hf
    show (List.range f.len).filter (modeHolds m f) = [0]
    rw [hl, show List.range 1 = [0] from rfl] at *
    cases h : modeHolds m f 0
    · simp [List.filter, h] at hf'
    · simp [List.filter, h]
  exact ⟨this, by simp [elemAt, h4, h6], by simp [aFirst, this, elemAt, h4, h6]⟩
/-- A bit field of a register as a number is the slice that an extract takes. -/
theorem extract_bitsOf (v : Dbl) (hi lo : Nat) : (v.extractLsb' lo (hi + 1 - lo)).toNat = bitsOf v.toNat hi lo := by
  simp [bitsOf, Nat.shiftRight_eq_div_pow]

/-! Requests and their replies (R119, R128). -/

/-- A request with a target counts as outstanding at its instruction, and nothing else changes. -/
theorem openReply_state (s : State) (m : FireMode) (f : Firing) (ts : List Target) :
    (openReply s m f ts).1 = if (ts.filter fun t => t != noTarget).isEmpty then s
      else modCtx s f.ctx fun x => { x with owed := tabSet (fun _ => 0) x.owed f.inst (owedAt x f.inst + 1) } := rfl
theorem openReply_memory (s : State) (m : FireMode) (f : Firing) (ts : List Target) : sameMemory s (openReply s m f ts).1 := by
  rw [openReply_state]
  split
  · exact sameMemory_refl s
  · exact sameMemory_of_eq _ _ rfl rfl rfl
theorem openReply_targets (s : State) (m : FireMode) (f : Firing) (ts : List Target) :
    (openReply s m f ts).2.ctx = f.ctx ∧ (openReply s m f ts).2.inst = f.inst ∧
      (openReply s m f ts).2.targets = ts.filter fun t => t != noTarget := ⟨rfl, rfl, rfl⟩
/-- Reply tokens are token arrivals at the requester. -/
theorem sendReply_sends (s : State) (r : Reply) (t : Token) :
    ∃ l, (∀ w ∈ l, bringsTokens r.ctx w) ∧ onlySends s (sendReply s r t) l := sendTokens_sends _ _ _ _ _ _

/-! Freezing (R359, R361). -/

/-- Work of a frozen context is kept behind what it keeps already. -/
theorem parkWork_kept (s : State) (c : Nat) (w : Work) (x : Ctx) (h : ctxAt s c = some x) :
    ctxAt (parkWork s c w) c = some { x with parked := x.parked ++ [w] } := by
  unfold parkWork
  rw [ctxAt_modCtx]
  simp [h]
theorem parkWork_memory (s : State) (c : Nat) (w : Work) : sameMemory s (parkWork s c w) := sameMemory_of_eq _ _ rfl rfl rfl
/-- A condition that arises while the context is frozen writes no record: its work is held (R361). -/
theorem takeFault_frozen (s : State) (c cause : Nat) (i : FaultInfo) (w : Work) (x : Ctx) (h : ctxAt s c = some x)
    (hf : x.frozen.isSome = true) : takeFault s c cause i (some w) = parkWork s c w := by simp [takeFault, h, hf]
theorem takeFault_absent (s : State) (c cause : Nat) (i : FaultInfo) (w : Option Work) (h : ctxAt s c = none) :
    takeFault s c cause i w = s := by simp [takeFault, h]

/-! A flit taken (R276). -/

theorem receiveFlit_cases (s : State) (n : Nat) (f : Flit) (k : State → State) :
    receiveFlit s n f k = s ∨ ∃ t, linkTake s n f = some t ∧
      ((f.dst.toNat = deviceNumber s ∧ receiveFlit s n f k = k t) ∨
       (f.dst.toNat ≠ deviceNumber s ∧ receiveFlit s n f k = forwardFlit t f (some (n, flitVc f)))) := by
  unfold receiveFlit
  cases h : linkTake s n f with
  | none => exact .inl rfl
  | some t =>
    refine .inr ⟨t, rfl, ?_⟩
    by_cases hd : f.dst.toNat = deviceNumber s
    · exact .inl ⟨hd, by simp [hd]⟩
    · exact .inr ⟨hd, by simp [hd]⟩

end Sys2Proof.Machine
end

