-- ==== Sys2Proof/Tests/Slice0.lean ====
section
/-! SUPPORT. Tests of the model: words of the encoding written out from the specification, terms that are not well formed, examples of the
specification and values worked out by hand, and for every claim states and operands that meet its hypotheses. -/

namespace Sys2Proof.Tests

open Sys2Proof.Machine
set_option Elab.async false

/-! Words, their fields apart as R146 to R153 lay them out: bit 31, opcode, fire mode, then the format's own. -/

/-- A word reads as an instruction, which is well formed and is encoded as that word. -/
def readsAs (e : BitVec 32 × Instr) : Bool :=
  (match decodeInstr e.1 with
   | .ok i => i == e.2
   | .error _ => false) && e.2.wf && encode e.2 == e.1

/-- Opcode 0x01. -/
theorem test_words_integer : [
    (0b0_000001_01_101001110_111111111_000_01, .addInt .any 0x14E 0x1FF .n32),
    (0b0_000001_10_000000011_101111100_001_10, .subInt .onTrue 0x003 0x17C .i64),
    (0b0_000001_11_111111011_000110011_010_11, .addClamp .onFalse 0x1FB 0x033 .n64),
    (0b0_000001_00_010000000_111111111_011_00, .subClamp .always 0x080 0x1FF .i32),
    (0b0_000001_01_010100101_101111100_100_01, .minInt .any 0x0A5 0x17C .n32),
    (0b0_000001_10_101001110_000110011_101_10, .maxInt .onTrue 0x14E 0x033 .i64),
    (0b0_000001_11_000000011_111111111_110_10, .absInt .onFalse 0x003 0x1FF true),
    (0b0_000001_00_111111011_101111100_110_00, .absInt .always 0x1FB 0x17C false)].all readsAs = true := by
  decide +kernel
/-- Opcodes 0x02 to 0x03. -/
theorem test_words_raw : [
    (0b0_000010_01_010000000_000110011_000_01, .and .any 0x080 0x033 .h),
    (0b0_000010_10_010100101_111111111_001_10, .or .onTrue 0x0A5 0x1FF .b),
    (0b0_000010_11_101001110_101111100_010_11, .xor .onFalse 0x14E 0x17C .d),
    (0b0_000010_00_000000011_000110011_011_00, .andn .always 0x003 0x033 .w),
    (0b0_000010_01_111111011_111111111_100_01, .orn .any 0x1FB 0x1FF .h),
    (0b0_000010_10_010000000_101111100_101_10, .xnor .onTrue 0x080 0x17C .b),
    (0b0_000011_11_010100101_000110011_000_01, .shl .onFalse 0x0A5 0x033 .h),
    (0b0_000011_00_101001110_111111111_001_10, .shr .always 0x14E 0x1FF .b),
    (0b0_000011_01_000000011_101111100_010_11, .sar .any 0x003 0x17C .d),
    (0b0_000011_10_111111011_000110011_011_00, .rotl .onTrue 0x1FB 0x033 .w),
    (0b0_000011_11_010000000_111111111_100_01, .popc .onFalse 0x080 0x1FF .h),
    (0b0_000011_00_010100101_101111100_101_10, .clz .always 0x0A5 0x17C .b),
    (0b0_000011_01_101001110_000110011_110_11, .ctz .any 0x14E 0x033 .d),
    (0b0_000011_10_000000011_111111111_111_00, .brev .onTrue 0x003 0x1FF .w)].all readsAs = true := by
  decide +kernel
/-- Opcodes 0x04 to 0x05. -/
theorem test_words_multiply_compare : [
    (0b0_000100_11_111111011_101111100_000_01, .mulInt .onFalse 0x1FB 0x17C .n32),
    (0b0_000100_00_010000000_000110011_001_10, .mulh .always 0x080 0x033 .i64),
    (0b0_000100_01_010100101_111111111_010_11, .div .any 0x0A5 0x1FF .n64),
    (0b0_000100_10_101001110_101111100_011_00, .rem .onTrue 0x14E 0x17C .i32),
    (0b0_000100_11_000000011_000110011_100_01, .mulClamp .onFalse 0x003 0x033 .n32),
    (0b0_000101_00_111111011_111111111_000_01, .cmpEq .always 0x1FB 0x1FF .n32),
    (0b0_000101_01_010000000_101111100_001_10, .cmpNe .any 0x080 0x17C .i64),
    (0b0_000101_10_010100101_000110011_010_11, .cmpLt .onTrue 0x0A5 0x033 .n64),
    (0b0_000101_11_101001110_111111111_011_00, .cmpLe .onFalse 0x14E 0x1FF .i32),
    (0b0_000101_00_000000011_101111100_100_01, .cmpGt .always 0x003 0x17C .n32),
    (0b0_000101_01_111111011_000110011_101_10, .cmpGe .any 0x1FB 0x033 .i64)].all readsAs = true := by
  decide +kernel
/-- Opcodes 0x06 to 0x07. -/
theorem test_words_float_compare : [
    (0b0_000110_10_010000000_111111111_000_01, .cmpEqFloat .onTrue 0x080 0x1FF .t32),
    (0b0_000110_11_010100101_101111100_001_10, .cmpNeFloat .onFalse 0x0A5 0x17C .bf16),
    (0b0_000110_00_101001110_000110011_010_11, .cmpLtFloat .always 0x14E 0x033 .f32),
    (0b0_000110_01_000000011_111111111_011_00, .cmpLeFloat .any 0x003 0x1FF .t16),
    (0b0_000110_10_111111011_101111100_100_01, .cmpGtFloat .onTrue 0x1FB 0x17C .t32),
    (0b0_000110_11_010000000_000110011_101_10, .cmpGeFloat .onFalse 0x080 0x033 .bf16),
    (0b0_000111_00_010100101_111111111_000_11, .sel .always 0x0A5 0x1FF .d)].all readsAs = true := by
  decide +kernel
/-- Opcodes 0x08 to 0x0F. -/
theorem test_words_immediate : [
    (0b0_001000_01_101001110_10000000000000, .addi .any 0x14E (-8192)),
    (0b0_001001_10_000000011_11111111111111, .andi .onTrue 0x003 16383),
    (0b0_001010_11_111111011_10000000000001, .ori .onFalse 0x1FB 8193),
    (0b0_001011_00_010000000_00000000000101, .xori .always 0x080 5),
    (0b0_001100_01_010100101_000000000_11111, .shli .any 0x0A5 31),
    (0b0_001101_10_101001110_000000000_00001, .shri .onTrue 0x14E 1),
    (0b0_001110_11_000000011_000000000_10000, .sari .onFalse 0x003 16),
    (0b0_001111_00_111111011_00_100000000000, .movi .always 0x1FB (-2048)),
    (0b0_001111_01_010000000_01_001101000101, .movhi .any 0x080 0x345),
    (0b0_001111_10_010100101_10_111111111111, .cmpiEq .onTrue 0x0A5 (-1)),
    (0b0_001111_11_101001110_11_011111111111, .cmpiLt .onFalse 0x14E 2047)].all readsAs = true := by
  decide +kernel
/-- Opcodes 0x10 to 0x13. -/
theorem test_words_float : [
    (0b0_010000_00_000000011_111111111_0_01_00, .addFloat .always 0x003 0x1FF .scaled .t16),
    (0b0_010000_01_111111011_101111100_1_10_01, .subFloat .any 0x1FB 0x17C .unscaled .t32),
    (0b0_010001_10_010000000_000110011_0_00_10, .mulFloat .onTrue 0x080 0x033 .pass .bf16),
    (0b0_010010_11_010100101_111111111_0_10_11, .fma .onFalse 0x0A5 0x1FF .unscaled .f32),
    (0b0_010010_00_101001110_101111100_1_01_10, .fms .always 0x14E 0x17C .scaled .bf16),
    (0b0_010011_01_000000011_000110011_000_01, .minFloat .any 0x003 0x033 .t32),
    (0b0_010011_10_111111011_111111111_001_10, .maxFloat .onTrue 0x1FB 0x1FF .bf16),
    (0b0_010011_11_010000000_101111100_010_11, .absFloat .onFalse 0x080 0x17C .f32),
    (0b0_010011_00_010100101_000110011_011_00, .negFloat .always 0x0A5 0x033 .t16)].all readsAs = true := by
  decide +kernel
/-- Opcodes 0x14 to 0x16. -/
theorem test_words_convert_special : [
    (0b0_010100_01_1010_1100_101001110_10_0000, .cvt .any .t16 .d8 0x14E .unscaled),
    (0b0_010100_10_1110_0001_000000011_00_0000, .cvt .onTrue .f32 .i8 0x003 .pass),
    (0b0_010101_11_111111011_000110011_000_0_0, .exp2 .onFalse 0x1FB 0x033 .t16),
    (0b0_010101_00_010000000_111111111_001_1_0, .log2 .always 0x080 0x1FF .bf16),
    (0b0_010101_01_010100101_101111100_010_0_0, .rcp .any 0x0A5 0x17C .t16),
    (0b0_010101_10_101001110_000110011_011_1_0, .rsqrt .onTrue 0x14E 0x033 .bf16),
    (0b0_010101_11_000000011_111111111_100_0_0, .sigm .onFalse 0x003 0x1FF .t16),
    (0b0_010101_00_111111011_101111100_101_1_0, .tanh .always 0x1FB 0x17C .bf16),
    (0b0_010110_01_010000000_000110011_0_00_10, .scaleApply .any 0x080 0x033 .bf16),
    (0b0_010110_10_010100101_111111111_1_00_01, .scaleStrip .onTrue 0x0A5 0x1FF .t32)].all readsAs = true := by
  decide +kernel
/-- Opcodes 0x17 to 0x18. -/
theorem test_words_run_mov : [
    (0b0_010111_11_101001110_101111100_000_01, .perm .onFalse 0x14E 0x17C .h),
    (0b0_010111_00_000000011_000110011_001_11, .bcast .always 0x003 0x033 .d),
    (0b0_010111_01_111111011_111111111_010_11, .redAdd .any 0x1FB 0x1FF .f32),
    (0b0_010111_10_010000000_101111100_011_01, .redMax .onTrue 0x080 0x17C .i64),
    (0b0_010111_11_010100101_000110011_100_10, .redMin .onFalse 0x0A5 0x033 .t32),
    (0b0_010111_00_101001110_111111111_101_00, .scanAdd .always 0x14E 0x1FF .i32),
    (0b0_010111_01_000000011_101111100_110_10, .rpack .any 0x003 0x17C .b),
    (0b0_010111_10_111111011_000110011_111_00, .turn .onTrue 0x1FB 0x033 .w),
    (0b0_011000_11_010000000_111111111_00000, .movFull .onFalse 0x080 0x1FF),
    (0b0_011000_00_010100101_101111100_00001, .nullFull .always 0x0A5 0x17C)].all readsAs = true := by
  decide +kernel
/-- Opcodes 0x19 to 0x1B. -/
theorem test_words_register_iter : [
    (0b0_011001_01_10100111_101001110_000000, .rdg .any 0xA7 0x14E),
    (0b0_011010_10_00111100_111111111_000000, .wrg .onTrue 0x3C),
    (0b0_011011_11_111111011_00000000000000, .iter .onFalse 0x1FB)].all readsAs = true := by
  decide +kernel
/-- Opcodes 0x1C to 0x1F. -/
theorem test_words_lane_file : [
    (0b0_011100_00_010000000_000110011_000_01, .lfld .always 0x080 0x033 .h),
    (0b0_011101_01_111111111_111111111_000_11, .lfst .any .d),
    (0b0_011110_10_101001110_101111100_000_10, .lfldV .onTrue 0x14E 0x17C .b),
    (0b0_011110_11_111111111_111111111_001_01, .lfstV .onFalse .h),
    (0b0_011111_00_111111011_111111111_000_00, .lfswp .always 0x1FB 0x1FF .w)].all readsAs = true := by
  decide +kernel
/-- Opcodes 0x20 to 0x23. -/
theorem test_words_load_store : [
    (0b0_100000_01_00011_010000000_0010_0011_1, .ld .any 3 0x080 2 .i32 true),
    (0b0_100001_10_11111_010100101_1111_1101_0, .ldV .onTrue 31 0x0A5 15 .bf16 false),
    (0b0_100010_11_10000_0101_0110_1_100000000, .st .onFalse 16 5 .n16 true (-256)),
    (0b0_100011_00_00001_1100_1001_0_011111111, .stV .always 1 12 .t8 false 255)].all readsAs = true := by
  decide +kernel
/-- Opcodes 0x24 to 0x26. -/
theorem test_words_atomic_fence : [
    (0b0_100100_01_00111_111111011_000_011_00_1, .amoAdd .any 7 0x1FB .f32 .plain true),
    (0b0_100100_10_01000_010000000_001_001_01_0, .amoAnd .onTrue 8 0x080 .n32 .acq false),
    (0b0_100100_11_01001_010100101_010_010_10_1, .amoOr .onFalse 9 0x0A5 .i64 .rel true),
    (0b0_100100_00_01010_101001110_011_000_11_0, .amoXor .always 10 0x14E .i32 .acqRel false),
    (0b0_100100_01_01011_000000011_100_100_01_1, .amoMin .any 11 0x003 .t16 .acq true),
    (0b0_100100_10_01100_111111011_101_011_10_0, .amoMax .onTrue 12 0x1FB .f32 .rel false),
    (0b0_100100_11_01101_010000000_110_010_11_1, .amoXchg .onFalse 13 0x080 .i64 .acqRel true),
    (0b0_100101_00_01001_010100101_1_10_1_00000, .cas .always 9 0x0A5 true .rel true),
    (0b0_100110_01_11110_101001110_0_100_01_000, .fence .any 30 0x14E .system .acc),
    (0b0_100110_10_00000_000000011_1_10000001, .qfence .onTrue 0x003 0x81)].all readsAs = true := by
  decide +kernel
/-- Opcode 0x27. -/
theorem test_words_base_register : [
    (0b0_100111_11_0000_1001_111111111_000_000, .bset .onFalse 9),
    (0b0_100111_00_0000_1111_111111111_001_000, .badd .always 15),
    (0b0_100111_01_0000_0110_010100101_010_000, .bget .any 6 0x0A5),
    (0b0_100111_10_0000_0000_101001110_011_001, .cvta .onTrue 0x14E .lf),
    (0b0_100111_11_0000_0000_000000011_100_011, .isap .onFalse 0x003 .dev)].all readsAs = true := by
  decide +kernel
/-- Opcodes 0x28 to 0x29. -/
theorem test_words_tile_ring : [
    (0b0_101000_00_1000000001_111111011_0000, .tileFill .always 513 0x1FB),
    (0b0_101000_01_1111111110_010000000_0001, .tileReady .any 1022 0x080),
    (0b0_101000_10_0000000010_010100101_0010, .tileDrain .onTrue 2 0x0A5),
    (0b0_101000_11_1010111100_101001110_0011, .tileFree .onFalse 700 0x14E),
    (0b0_101000_00_0000000000_000000011_0100, .tileStat .always 0x003),
    (0b0_101001_01_1000000010_111111011_0000, .ringDef .any 514 0x1FB)].all readsAs = true := by
  decide +kernel
/-- Opcodes 0x2A to 0x2D. -/
theorem test_words_engine : [
    (0b0_101010_10_1001011000_010000000_1_000, .mxDef .onTrue 600 0x080 true),
    (0b0_101010_11_0000000000_010100101_0_001, .mxUnbind .onFalse 0x0A5 false),
    (0b0_101011_00_0000000011_101001110_11_00, .gvAff .always 3 0x14E 3),
    (0b0_101011_01_1111101000_000000011_01_01, .gvInd .any 1000 0x003 1),
    (0b0_101011_10_0000000000_111111011_10_10, .gvGo .onTrue 0x1FB 2),
    (0b0_101100_11_1111111111_010000000_000_0, .cpGo .onFalse 1023 0x080),
    (0b0_101100_00_0001000000_010100101_000_1, .cpRem .always 64 0x0A5),
    (0b0_101101_01_0000000000_101001110_0_110, .engCmd .any 0x14E 6)].all readsAs = true := by
  decide +kernel
/-- Opcodes 0x2E to 0x33. -/
theorem test_words_plate_agent : [
    (0b0_101110_10_000000011_101111100_00000, .plateLd .onTrue 0x003 0x17C),
    (0b0_101110_11_111111011_000110011_00001, .plateEv .onFalse 0x1FB 0x033),
    (0b0_101110_00_010000000_111111111_00010, .plateQ .always 0x080 0x1FF),
    (0b0_110000_01_010100101_101111100_00000, .emit .any 0x0A5 0x17C),
    (0b0_110000_10_101001110_000110011_00001, .emitT .onTrue 0x14E 0x033),
    (0b0_110000_11_000000011_111111111_00010, .emitX .onFalse 0x003 0x1FF),
    (0b0_110001_00_111111011_11111111111101, .spawn .always 0x1FB (-3)),
    (0b0_110010_01_111111111_111111111_00000, .rest .any),
    (0b0_110011_10_010100101_111111111_00000, .bind .onTrue 0x0A5 0x1FF),
    (0b0_110011_11_101001110_101111100_00001, .hint .onFalse 0x14E 0x17C),
    (0b0_110011_00_000000011_000110011_00010, .aq .always 0x003 0x033)].all readsAs = true := by
  decide +kernel
/-- Opcodes 0x34 to 0x35. -/
theorem test_words_cohort_lease : [
    (0b0_110100_01_111111011_111111111_00000, .join .any 0x1FB 0x1FF),
    (0b0_110100_10_010000000_101111100_00001, .leave .onTrue 0x080 0x17C),
    (0b0_110100_11_010100101_000110011_00010, .cbar .onFalse 0x0A5 0x033),
    (0b0_110100_00_101001110_111111111_00011, .cq .always 0x14E 0x1FF),
    (0b0_110100_01_000000011_101111100_01000, .credAddI32 .any 0x003 0x17C),
    (0b0_110100_10_111111011_000110011_01001, .credAddF32 .onTrue 0x1FB 0x033),
    (0b0_110100_11_010000000_111111111_01010, .credMaxI32 .onFalse 0x080 0x1FF),
    (0b0_110100_00_010100101_101111100_01011, .credMaxF32 .always 0x0A5 0x17C),
    (0b0_110100_01_101001110_000110011_01100, .credMinI32 .any 0x14E 0x033),
    (0b0_110100_10_000000011_111111111_01101, .credMinF32 .onTrue 0x003 0x1FF),
    (0b0_110101_11_111111011_101111100_00000, .leaseReq .onFalse 0x1FB 0x17C),
    (0b0_110101_00_010000000_000110011_00001, .leaseGive .always 0x080 0x033),
    (0b0_110101_01_010100101_111111111_00010, .leaseRev .any 0x0A5 0x1FF),
    (0b0_110101_10_101001110_101111100_00011, .leaseQ .onTrue 0x14E 0x17C)].all readsAs = true := by
  decide +kernel
/-- Opcodes 0x38 to 0x3C. -/
theorem test_words_exit_trap : [
    (0b0_111000_11_110_10000000000000000000, .exit .onFalse 6 0x80000),
    (0b0_111000_00_000_11111111111111111110, .exit .always 0 (-2)),
    (0b0_111001_01_010_00000000000000000000, .exitI .any 2),
    (0b0_111100_10_111111111_0_00000_11111110, .trap .onTrue 0xFE),
    (0b0_111100_11_111111111_1_00000_00000000, .tret .onFalse)].all readsAs = true := by
  decide +kernel
/-- Opcodes 0x3D to 0x3E. -/
theorem test_words_system : [
    (0b0_111101_00_000000011_00_000000010010, .mfs .always 0x003 0x012),
    (0b0_111101_01_111111111_01_000000010011, .mts .any 0x013),
    (0b0_111110_10_111111111_0000_0000000000, .nop .onTrue),
    (0b0_111110_11_111111111_0001_1111111111, .brk .onFalse 1023),
    (0b0_111110_00_101001110_0010_0000000101, .trmk .always 0x14E 5),
    (0b0_111110_01_111111111_0011_1000000000, .stylus .any 512),
    (0b0_111110_10_111111011_0100_1000000011, .ctrRd .onTrue 0x1FB 0x203),
    (0b0_111110_11_111111111_0101_0000000010, .ctrClr .onFalse 2),
    (0b0_111110_00_111111111_0110_0000000000, .preempt .always),
    (0b0_111110_01_111111111_0111_0000000001, .abort .any true)].all readsAs = true := by
  decide +kernel
/-- Compact pairs (R147): bit 31, the first half, the flag of a second, the second half; a half is OP4, T0 and the fire mode. -/
theorem test_words_compact :
    ((bodySplit 0b1_0000_010100101_01_1_0001_101001110_10).map decodeInstr = [.ok (.movCompact .any 0x0A5), .ok (.nullCompact .onTrue 0x14E)] ∧
     (bodySplit 0b1_0010_000000011_11_1_0011_111111111_00).map decodeInstr = [.ok (.not .onFalse 0x003), .ok (.neg .always 0x1FF)] ∧
     (bodySplit 0b1_0100_111111011_01_1_0101_010000000_10).map decodeInstr = [.ok (.inc .any 0x1FB), .ok (.dec .onTrue 0x080)] ∧
     (bodySplit 0b1_0110_010100101_11_1_0111_000000011_00).map decodeInstr = [.ok (.isz .onFalse 0x0A5), .ok (.nz .always 0x003)] ∧
     (bodySplit 0b1_0111_000000001_00_0_0000_000000000_00).map decodeInstr = [.ok (.nz .always 0x001)]) := by
  refine ⟨rfl, rfl, rfl, rfl, rfl⟩
/-- Words that are no instruction, with their causes (R151, R154, R155): opcodes 0x00 and 0x3F; a sub-operation code that is not listed;
EX 11; OP4 8; a field of zeros that is not zero, a sink with a target; an illegal operand. -/
theorem test_not_instructions :
    [(0 : BitVec 32), 0b0_111111_00_000000000_00000000000000, 0b0_000001_00_000000000_111111111_111_00,
     0b0_010000_00_000000000_111111111_0_11_00, 0b1_1000_000000000_00_0_0000_000000000_00, 0b0_011011_00_000000000_00000000000001,
     0b0_110010_00_000000000_111111111_00000, 0b0_010100_00_1100_1010_000000000_00_0000].map
       (fun w => (decodeInstr w).toOption) = List.replicate 8 none ∧
    [(0 : BitVec 32), 0b0_000001_00_000000000_111111111_111_00, 0b1_1000_000000000_00_0_0000_000000000_00,
     0b0_011011_00_000000000_00000000000001, 0b0_010100_00_1100_1010_000000000_00_0000].map
       (fun w => match decodeInstr w with
         | .error c => c
         | .ok _ => 0) = [0x001, 0x002, 0x003, 0x004, 0x009] := by
  decide +kernel

/-! Well-formedness: a term that each check refuses, and beside it the nearest one that it admits. -/

/-- A token of 32-bit values that runs from iteration 0. -/
def tok (vals : List Dbl) : Token := freshToken 0 vals .w32 false 0
/-- A flit with these bytes, from device 1 to device 0. -/
def flit (kind : BitVec 5) (xtag : BitVec 12) (payload : List Byte) : Flit :=
  { resp := false, hop := 0, kind := kind, dst := 0, src := 1, xtag := xtag, idx := 0, payload := payload, seq := 0, crc := 0 }
/-- `n` zero bytes. -/
def zeros (n : Nat) : List Byte := List.replicate n 0

/-- R43, R44, R153, R155, R187: operands of instructions that are refused. -/
theorem test_ill_formed_instructions : ([.cvt .always .d8 .f32 0 .pass, .cvt .always .i8 .d8 0 .pass, .amoAnd .always 0 0 .f32 .plain false,
    .amoOr .always 0 0 .t16 .plain false, .amoXor .always 0 0 .f32 .plain false, .fence .always 0 0 .device .acc, .fence .always 0 0 .ctx .vis,
    .mfs .always 0 0xFFF, .mts .always 0xFFF, .exit .always 7 0,
    .turn .always 0 0 .d] : List Instr).any (·.wf) = false ∧
  ([.cvt .always .f32 .d8 0 .pass, .cvt .always .i8 .f32 0 .pass, .amoAnd .always 0 0 .i64 .plain false,
    .amoOr .always 0 0 .n32 .plain false, .amoXor .always 0 0 .i32 .plain false, .fence .always 0 0 .system .acc, .fence .always 0 0 .ctx .order,
    .mfs .always 0 0x012, .mts .always 0x013, .exit .always 6 0, .exitI .always 7,
    .turn .always 0 0 .w] : List Instr).all (·.wf) = true := by
  decide +kernel

/-- R1, R66, R68: events that name what does not exist. -/
theorem test_ill_formed_events : ([.registerWrite .w2 17 0 0 0, .registerWrite .w2 0 2 0 0, .registerWrite .w2 0 0 4 0, .selfTestDone 390 true,
    .pressPowerUp 256, .matrixRampDone 256, .shareTableSwap 256, .spawnStarve 256, .spawnStart 256, .w4Write 0 0 0 [], .w4Write 17 0 0 [0],
    .w4Read 0 0 0 0, .w4Read 0 2 0 1, .portBindingWrite 2 0 0, .portBindingWrite 0 4096 0, .prodWrite 17 0 0 0, .prodWrite 0 0 4096 0,
    .ingressAccept 4096, .keySlotWrite 16 0 0, .keySlotWrite 0 4 0, .w4Write 0 0 4095 [0, 0], .w4Read 0 0 0 4097,
    .w4Read 0 0 (2 ^ 39) 1, .stimulusArrival 8, .agentOpAtWalker 8, .impressionGather 32, .admission 32,
    .cardDeal 32, .plateLoadStart 32 0, .plateLoadComplete 32 0, .batchWindowExpiry 32 0, .plateEvictionComplete 32 0 0, .engineOpStart 256 0,
    .engineOpStart 0 8, .mxConfigure 0 2, .mxFiring 256 0, .epilogueWrite 0 2, .tokenArrival 0 (tok []), .tokenArrival 0 (tok (List.replicate 33 0)),
    .write 0 (flit 1 0 []), .data 0 (flit 2 0 (zeros 129)), .plate 0 (flit 10 0 []), .plate 0 (flit 10 0 (zeros 129)),
    .lossOfLight 0 0 (some 64)] : List Instr).any (·.wf) = false ∧
  ([.registerWrite .w2 16 1 8 0, .selfTestDone 389 true, .pressPowerUp 255, .matrixRampDone 255, .shareTableSwap 255, .spawnStarve 255,
    .spawnStart 255, .w4Write 16 1 0 [0], .w4Read 16 1 0 1, .portBindingWrite 1 4095 0, .prodWrite 16 1 4095 0, .ingressAccept 4095,
    .keySlotWrite 15 8 0, .w4Write 0 0 4094 [0, 0], .w4Read 0 0 0 4096, .w4Read 0 0 (2 ^ 39 - 1) 1, .stimulusArrival 7, .agentOpAtWalker 7, .impressionGather 31, .admission 31, .cardDeal 31, .plateLoadStart 31 0,
    .plateLoadComplete 31 0, .batchWindowExpiry 31 0, .plateEvictionComplete 31 0 0, .engineOpStart 255 7, .mxConfigure 255 1, .mxFiring 255 1,
    .epilogueWrite 255 1, .tokenArrival 0 (tok [0]), .tokenArrival 0 (tok (List.replicate 32 0)), .write 0 (flit 1 0 (zeros 1)),
    .data 0 (flit 2 0 (zeros 128)), .plate 0 (flit 10 0 (zeros 8)), .plate 0 (flit 10 0 (zeros 128)), .lossOfLight 0 0 (some 63)]
    : List Instr).all (·.wf) = true := by
  decide +kernel

/-! What single firings deliver. Values marked R are examples of the specification, the others are worked out by hand from the rule. -/

/-- A token of one value. -/
def one (w : Width) (v : Dbl) : Token := freshToken 0 [v] w false 0
/-- A scaled token of one value. -/
def scaled (w : Width) (v : Dbl) : Token := freshToken 0 [v] w true 0
/-- The firing of instruction 0 of context 0 with operands on ports a, b and c. -/
def firing (a b c : Option Token) : Firing := { bareFiring 0 0 0 1 0 with a := a, b := b, c := c }
/-- The state in which an instruction, placed alone, has a firing in hand. -/
def holding (i : Instr) (f : Firing) : State :=
  { State.reset.withFetchWord 32 (encode i).toNat with queue := [], cur := some f }
/-- The values, bits and scale state of the tokens that a next state has on their way. -/
def tokensOf (s : State) : List (List Dbl × BitVec 5 × Bool) := s.queue.filterMap fun w => match w with
  | .event (.tokenArrival _ t) => some (t.vals, t.sb, t.scaled)
  | _ => none
/-- What an instruction delivers. -/
def gives (i : Instr) (a b c : Option Token) : List (List Dbl × BitVec 5 × Bool) :=
  match exec i (holding i (firing a b c)) with
  | .next t => tokensOf t
  | _ => []
/-- What an instruction with values on ports a and b delivers to one target, with its bits. -/
def two (i : Instr) (w : Width) (a b : Dbl) : List (List Dbl × BitVec 5 × Bool) := gives i (some (one w a)) (some (one w b)) none
/-- What one with a value on port a delivers. -/
def mono (i : Instr) (w : Width) (a : Dbl) : List (List Dbl × BitVec 5 × Bool) := gives i (some (one w a)) none none
/-- One unscaled value without bits. -/
def plain (v : Dbl) : List (List Dbl × BitVec 5 × Bool) := [([v], 0, false)]
/-- One unscaled value with bits. -/
def withBits (v : Dbl) (b : BitVec 5) : List (List Dbl × BitVec 5 × Bool) := [([v], b, false)]

/-- What the instructions deliver is what is written beside it. -/
def agree (l : List (List (List Dbl × BitVec 5 × Bool) × List (List Dbl × BitVec 5 × Bool))) : Bool := l.all fun e => e.1 == e.2

/-- R165's example of `add` with and without clamping; a difference and a product that wrap. -/
theorem test_add_sub : agree [
    (two (.addClamp .always 1 0x1FF .n32) .w32 0xFFFFFFF0 0x20, withBits 0xFFFFFFFF 0b01000),
    (two (.addInt .always 1 0x1FF .n32) .w32 0xFFFFFFF0 0x20, plain 0x10),
    (two (.subInt .always 1 0x1FF .i64) .w64 3 5, plain 0xFFFFFFFFFFFFFFFE),
    (two (.subClamp .always 1 0x1FF .n32) .w32 3 5, withBits 0 0b01000),
    (two (.subClamp .always 1 0x1FF .i32) .w32 0x80000000 1, withBits 0x80000000 0b01000)] = true := by decide +kernel
/-- R165: products, their high halves signed and unsigned, and the clamped product. -/
theorem test_mul : agree [
    (two (.mulInt .always 1 0x1FF .i32) .w32 0x10000 0x10000, plain 0),
    (two (.mulh .always 1 0x1FF .n32) .w32 0xFFFFFFFF 0xFFFFFFFF, plain 0xFFFFFFFE),
    (two (.mulh .always 1 0x1FF .i32) .w32 0xFFFFFFFF 0xFFFFFFFF, plain 0),
    (two (.mulClamp .always 1 0x1FF .i32) .w32 0x10000 0xFFFF0000, withBits 0x80000000 0b01000)] = true := by decide +kernel
/-- R165, R41: the examples of division, and the most negative dividend by -1. -/
theorem test_div_rem : agree [
    (two (.div .always 1 0x1FF .i32) .w32 0xFFFFFFF9 2, plain 0xFFFFFFFD),
    (two (.rem .always 1 0x1FF .i32) .w32 0xFFFFFFF9 2, plain 0xFFFFFFFF), (two (.div .always 1 0x1FF .i32) .w32 9 0, withBits 0 1),
    (two (.rem .always 1 0x1FF .i32) .w32 9 0, withBits 9 1),
    (two (.div .always 1 0x1FF .i32) .w32 0x80000000 0xFFFFFFFF, plain 0x80000000)] = true := by decide +kernel
/-- R165: `min`, `max` and `abs`, where signedness tells. -/
theorem test_min_max_abs : agree [
    (two (.minInt .always 1 0x1FF .i32) .w32 0xFFFFFFFF 1, plain 0xFFFFFFFF),
    (two (.minInt .always 1 0x1FF .n32) .w32 0xFFFFFFFF 1, plain 1),
    (two (.maxInt .always 1 0x1FF .i64) .w64 0x8000000000000000 7, plain 7),
    (mono (.absInt .always 1 0x1FF true) .w64 0xFFFFFFFFFFFFFFFB, plain 5),
    (mono (.absInt .always 1 0x1FF false) .w32 0x80000000, plain 0x80000000)] = true := by decide +kernel
/-- R167: the logic operations. -/
theorem test_logic : agree [
    (two (.and .always 1 0x1FF .b) .w8 0xF0 0x3C, plain 0x30), (two (.or .always 1 0x1FF .b) .w8 0xF0 0x3C, plain 0xFC),
    (two (.xor .always 1 0x1FF .b) .w8 0xF0 0x3C, plain 0xCC), (two (.andn .always 1 0x1FF .b) .w8 0xF0 0x3C, plain 0xC0),
    (two (.orn .always 1 0x1FF .h) .w16 0xF0 0x3C, plain 0xFFF3), (two (.xnor .always 1 0x1FF .b) .w8 0xF0 0x3C, plain 0x33)] = true := by decide +kernel
/-- R167: shifts by 33, which is 1 modulo the width, and the bit counts. -/
theorem test_shifts : agree [
    (two (.shl .always 1 0x1FF .w) .w32 0x80000001 33, plain 2), (two (.shr .always 1 0x1FF .w) .w32 0x80000001 33, plain 0x40000000),
    (two (.sar .always 1 0x1FF .w) .w32 0x80000001 33, plain 0xC0000000), (two (.rotl .always 1 0x1FF .w) .w32 0x80000001 33, plain 3),
    (mono (.popc .always 1 0x1FF .d) .w64 0xF00000000000000F, plain 8), (mono (.clz .always 1 0x1FF .h) .w16 0x00FF, plain 8),
    (mono (.clz .always 1 0x1FF .h) .w16 0, plain 16), (mono (.ctz .always 1 0x1FF .b) .w8 0x50, plain 4),
    (mono (.ctz .always 1 0x1FF .b) .w8 0, plain 8), (mono (.brev .always 1 0x1FF .b) .w8 0x13, plain 0xC8)] = true := by decide +kernel
/-- R168, R169: compares of -1 with 1, signed and unsigned, and the selection. -/
theorem test_compares : agree [
    (two (.cmpLt .always 1 0x1FF .i32) .w32 0xFFFFFFFF 1, plain 1), (two (.cmpLt .always 1 0x1FF .n32) .w32 0xFFFFFFFF 1, plain 0),
    (two (.cmpLe .always 1 0x1FF .i64) .w64 5 5, plain 1), (two (.cmpGt .always 1 0x1FF .n32) .w32 0xFFFFFFFF 1, plain 1),
    (two (.cmpGe .always 1 0x1FF .i32) .w32 0xFFFFFFFF 1, plain 0), (two (.cmpEq .always 1 0x1FF .i32) .w32 7 7, plain 1),
    (two (.cmpNe .always 1 0x1FF .i32) .w32 7 7, plain 0),
    (gives (.sel .always 1 0x1FF .h) (some (one .w16 0xA)) (some (one .w16 0xB)) (some (one .w32 0)), plain 0xB),
    (gives (.sel .always 1 0x1FF .h) (some (one .w16 0xA)) (some (one .w16 0xB)) (some (one .w32 2)), plain 0xA)] = true := by decide +kernel
/-- R170: the immediate forms, with R170's example of `movi` and `movhi`. -/
theorem test_immediates : agree [
    (mono (.addi .always 1 (-3)) .w32 1, plain 0xFFFFFFFE), (mono (.andi .always 1 0x3FFF) .w32 0xFFFFFFFF, plain 0x3FFF),
    (mono (.ori .always 1 0x2000) .w32 1, plain 0x2001), (mono (.xori .always 1 0x3FFF) .w32 1, plain 0x3FFE),
    (mono (.shli .always 1 31) .w32 3, plain 0x80000000), (mono (.shri .always 1 31) .w32 0x80000000, plain 1),
    (mono (.sari .always 1 31) .w32 0x80000000, plain 0xFFFFFFFF), (mono (.movhi .always 1 0x345) .w32 0x12, plain 0x12345),
    (gives (.movi .always 1 0x800) none none none, plain 0xFFFFF800), (mono (.cmpiEq .always 1 0xFFF) .w32 0xFFFFFFFF, plain 1),
    (mono (.cmpiLt .always 1 0xFFF) .w32 0xFFFFFFFE, plain 1)] = true := by decide +kernel
/-- R193: the compact forms. -/
theorem test_compact : agree [
    (mono (.not .always 1) .w32 0xF, plain 0xFFFFFFF0), (mono (.neg .always 1) .w32 1, plain 0xFFFFFFFF),
    (mono (.inc .always 1) .w32 0xFFFFFFFF, plain 0), (mono (.dec .always 1) .w32 0, plain 0xFFFFFFFF),
    (mono (.isz .always 1) .w32 0, plain 1), (mono (.nz .always 1) .w32 0, plain 0), (mono (.movCompact .always 1) .w8 0xAB, plain 0xAB)] = true := by decide +kernel
/-- R176's examples in `.t16`; in `.f32` 1.5 + 2.5, 1.5 - 2.5, 3 times 2 plus and minus 1. -/
theorem test_float : agree [
    (two (.addFloat .always 1 0x1FF .pass .t16) .w16 0x4C00 0x4000, plain 0x5000),
    (two (.mulFloat .always 1 0x1FF .pass .t16) .w16 0x7FFF 0x4800, withBits 0x7FFF 0b01010),
    (two (.addFloat .always 1 0x1FF .pass .f32) .w32 0x3FC00000 0x40200000, plain 0x40800000),
    (two (.subFloat .always 1 0x1FF .pass .f32) .w32 0x3FC00000 0x40200000, plain 0xBF800000),
    (gives (.fma .always 1 0x1FF .pass .f32) (some (one .w32 0x40400000)) (some (one .w32 0x40000000)) (some (one .w32 0x3F800000)), plain 0x40E00000),
    (gives (.fms .always 1 0x1FF .pass .f32) (some (one .w32 0x40400000)) (some (one .w32 0x40000000)) (some (one .w32 0x3F800000)), plain 0x40A00000)] = true := by decide +kernel
/-- R177, R178 and its examples: NaR is below -3.0 and equals itself; a NaN is unordered; `abs` of -0 is +0. -/
theorem test_float_order : agree [
    (two (.cmpLtFloat .always 1 0x1FF .t16) .w16 0x8000 0xB400, plain 1),
    (two (.cmpEqFloat .always 1 0x1FF .t16) .w16 0x8000 0x8000, plain 1),
    (two (.cmpLtFloat .always 1 0x1FF .f32) .w32 0x7FC00000 0x3F800000, plain 0),
    (two (.cmpNeFloat .always 1 0x1FF .f32) .w32 0x7FC00000 0x7FC00000, plain 1),
    (two (.cmpLeFloat .always 1 0x1FF .f32) .w32 0x80000000 0, plain 1),
    (two (.cmpGtFloat .always 1 0x1FF .bf16) .w16 0x4000 0x3F80, plain 1),
    (two (.cmpGeFloat .always 1 0x1FF .t32) .w32 0x80000000 1, plain 0),
    (two (.minFloat .always 1 0x1FF .t16) .w16 0xB400 0x4C00, plain 0xB400),
    (two (.maxFloat .always 1 0x1FF .f32) .w32 0xBF800000 0x3F800000, plain 0x3F800000),
    (mono (.absFloat .always 1 0x1FF .f32) .w32 0x80000000, plain 0), (mono (.negFloat .always 1 0x1FF .t16) .w16 0x4C00, plain 0xB400),
    (mono (.negFloat .always 1 0x1FF .t32) .w32 0x80000000, withBits 0x80000000 0b10000)] = true := by decide +kernel
/-- R44, R179: the examples of conversions. -/
theorem test_convert : agree [
    (mono (.cvt .always .i32 .f32 1 .pass) .w32 0x40600000, withBits 4 0b00010),
    (mono (.cvt .always .i16 .i32 1 .pass) .w32 40000, withBits 32767 0b01000),
    (mono (.cvt .always .f32 .t8 1 .pass) .w8 0x80, withBits 0x7FC00000 0b10000),
    (mono (.cvt .always .t32 .f32 1 .pass) .w32 0x000116C2, withBits 1 0b00110),
    (gives (.cvt .always .t8 .d8 1 .pass) (some (one .w8 0x66)) none none, [([0x1C], 0, true)]),
    (gives (.cvt .always .t16 .d8 1 .pass) (some (one .w8 0x09)) none none, [([0x3800], 0, true)])] = true := by decide +kernel
/-- R181's example of `scale.apply` and its inverse; R182's examples, and other exact results. -/
theorem test_scale_special : agree [
    (gives (.scaleApply .always 1 0x1FF .t16) (some (scaled .w16 0x3800)) (some (one .w32 0xFFFFFFFE)) none, plain 0x2800),
    (gives (.scaleStrip .always 1 0x1FF .t16) (some (one .w16 0x2800)) (some (one .w32 0xFFFFFFFE)) none, [([0x3800], 0, true)]),
    (mono (.exp2 .always 1 0x1FF .t16) .w16 0x4800, plain 0x5000), (mono (.log2 .always 1 0x1FF .bf16) .w16 0x4000, plain 0x3F80),
    (mono (.rcp .always 1 0x1FF .bf16) .w16 0x4000, plain 0x3F00), (mono (.rsqrt .always 1 0x1FF .bf16) .w16 0x4080, plain 0x3F00),
    (mono (.sigm .always 1 0x1FF .t16) .w16 0, plain 0x3800), (mono (.tanh .always 1 0x1FF .bf16) .w16 0, plain 0)] = true := by decide +kernel
/-- R171, R183: `mov`, `null`, `perm` with an index beyond the token, and `bcast`. -/
theorem test_moves : agree [
    (mono (.movFull .always 1 5) .w64 7, [([7], 0, false), ([7], 0, false)]), (gives (.nullFull .always 1 0x1FF) none none none, plain 0),
    (gives (.nullCompact .always 1) none none none, plain 0),
    (gives (.perm .always 1 0x1FF .h) (some (one .w16 9)) (some (one .w32 0)) none, plain 9),
    (gives (.perm .always 1 0x1FF .h) (some (one .w16 9)) (some (one .w32 1)) none, plain 0),
    (mono (.bcast .always 1 0x1FF .b) .w8 5, plain 5)] = true := by decide +kernel
/-- R49 with its example: `rem` by zero with Exception Enable 0b00001 and an input that carries IX faults with cause 0x084 and delivers
nothing, and with divisor 2 it delivers with IX alone. -/
theorem test_exception_enable :
    let i : Instr := .rem .always 1 0x1FF .i32
    let fires := fun (d : Dbl) => exec i (modCtx (holding i (firing (some { one .w32 9 with sb := 0b00010 }) (some (one .w32 d)) none)) 0
      fun x => { x with eenable := 0b00001 })
    (match fires 0 with
     | .next t => (tokensOf t, (ctxAt t 0).bind fun x => x.frozen.map (·.cause))
     | _ => ([], none)) = ([], some 0x084) ∧
    (match fires 2 with
     | .next t => (tokensOf t, (ctxAt t 0).bind fun x => x.frozen.map (·.cause))
     | _ => ([], none)) = ([([1], 0b00010, false)], none) := by decide +kernel

/-- The sum of squares of 08: its words, and the Mapper accepts its image. -/
theorem test_square_sum :
    let img : List Word := [0xB0E10418, 0, 3, 0, 0x36010000, 0x28718200, 0x300301A0, 0x22043FE3, 0x2E053FEB, 0x281F0600, 0x3400FFC0, 0x70080000,
      0x00000008, 0x000000E7, 0, 0]
    (blkInstrs img).map (fun w => (decodeInstr w).toOption) = [some (.iter .always 0x004), some (.cvt .always .f32 .i32 0x008 .pass),
      some (.movFull .always 0x00C 0x00D), some (.mulFloat .always 0x010 0x1FF .pass .f32), some (.redAdd .always 0x014 0x1FF .f32),
      some (.cvt .always .i32 .f32 0x018 .pass), some (.wrg .always 1), some (.exit .always 0 0x80000)] ∧
    mapperCheck img 0x1000 = none ∧ (mapperCheck (img.set 5 0x28710200) 0x1000).isNone = true := by
  decide +kernel

/-! Hypotheses that can be met: for every claim a state and operands that meet them, and for a claim of several clauses each clause's. -/

/-- A context that runs a block in region 0 of Press 0, alone in step 0. -/
def runs (img : List Word) : Ctx := { ctxNew 0 0 0 0 0 0 with phase := .running, image := img, region := some 0, configured := [0] }
/-- Its context where an instruction is placed alone. -/
def alone (i : Instr) : Ctx := runs (placedImage i (encode i))
/-- Step 0 of tenancy 0, with 64 window words and one member. -/
def step0 : StepRec :=
  { ten := 0, group := 0, press := 0, plate := 0, headsz := 0, words := 64,
    members := [{ agent := 0, stim := { bytes := zeros 16, clock := none, card := none }, sbase := 0 }],
    window := [], held := [], root := 0, retiring := false, admittedAt := 0 }
/-- The module with context 0 and step 0 alone. -/
def machine (x : Ctx) : State := { State.reset with queue := [], ctxs := [(0, x)], steps := [(0, step0)] }
/-- The same with a firing in hand. -/
def acting (x : Ctx) (f : Firing) : State := { machine x with cur := some f }
/-- A running context without work of its own. -/
def idle : Ctx := alone (.nop .always)
/-- The firing with a value of a width on each port, all in one scale state. -/
def three (wa wb wc : Width) (sc : Bool) : Firing :=
  firing (some { one wa 1 with scaled := sc }) (some { one wb 1 with scaled := sc }) (some { one wc 1 with scaled := sc })

theorem widths_met (wa wb wc : Width) (sc : Bool) : hasWidths (three wa wb wc sc) wa wb wc := by
  refine ⟨?_, ?_, ?_⟩ <;> intro t h <;> cases h <;> rfl
theorem scale_met (f : Firing) (ps : List Port) (sc : Bool) (n : Nat) (h : scaleStates f ps = List.replicate (n + 1) sc) : inScale f ps sc := by
  refine ⟨by simp [h], ?_⟩
  rw [h]
  exact fun d hd => List.eq_of_mem_replicate hd
theorem acts (x : Ctx) (f : Firing) (m : FireMode) (h1 : f.eos = none) (h2 : (firedElems m f).isEmpty = false) (h3 : nullOperand f = false) :
    Acting m (acting x f) f := ⟨rfl, h1, h2, h3⟩

/-- IntegerArithmetic to ConversionsFunctionsAndScales: what the claims about the compute families ask for together, in any widths and
scale state, where no bit is caught. -/
theorem witness_compute (wa wb wc : Width) (sc : Bool) : ∃ s f, Acting .always s f ∧ hasWidths f wa wb wc ∧ inScale f [.a] sc ∧
    inScale f [.a, .b] sc ∧ inScale f [.a, .b, .c] sc ∧ ∀ own, noTrap .always s f own :=
  ⟨acting idle (three wa wb wc sc), three wa wb wc sc, acts _ _ _ rfl rfl rfl, widths_met wa wb wc sc, scale_met _ _ _ 0 rfl, scale_met _ _ _ 1 rfl,
    scale_met _ _ _ 2 rfl, fun own j _ => by
      have : enableOf (acting idle (three wa wb wc sc)) 0 = 0 := rfl
      show own j &&& enableOf (acting idle (three wa wb wc sc)) 0 = 0
      simp [this]⟩
/-- The scale states that the declarations EX admit. -/
theorem witness_admits : exAdmits .pass true ∧ exAdmits .pass false ∧ exAdmits .scaled true ∧ exAdmits .unscaled false :=
  ⟨⟨nofun, nofun⟩, ⟨nofun, nofun⟩, ⟨fun _ => rfl, nofun⟩, ⟨nofun, fun _ => rfl⟩⟩
/-- ClampAndDivide, FloatArithmetic: a bit that is raised and not caught, and with another enabled. -/
theorem witness_no_trap : noTrap .always (acting { idle with eenable := 0b00111 } (three .w32 .w32 .w32 false)) (three .w32 .w32 .w32 false)
    (fun _ => 0b01000) := by
  unfold noTrap
  decide

/-- MovesAndTokensFromNothing: one operand; an operand and indices; none, without a predicate and with one that holds. -/
theorem witness_moves :
    (∃ s f a, Acting .always s f ∧ f.a = some a ∧ f.c = none ∧ f.b = none) ∧
    (∃ s f a, Acting .always s f ∧ f.a = some a ∧ f.c = none ∧ hasWidths f .w16 .w32 .w32) ∧
    ∃ (s : State) (f : Firing), s.cur = some f ∧ f.eos = none ∧ (firedElems .always f).isEmpty = false ∧ f.a = none ∧ f.b = none ∧ f.c = none ∧ f.p = none :=
  ⟨⟨_, firing (some (one .w8 1)) none none, _, acts idle _ _ rfl rfl rfl, rfl, rfl, rfl⟩,
    ⟨_, firing (some (one .w16 1)) (some (one .w32 31)) none, _, acts idle _ _ rfl rfl rfl, rfl, rfl, by
      refine ⟨?_, ?_, ?_⟩ <;> intro t h <;> cases h <;> rfl⟩,
    ⟨acting idle _, firing none none none, rfl, rfl, rfl, rfl, rfl, rfl, rfl⟩⟩
theorem witness_predicate : ∃ f : Firing, f.p.isSome = true ∧ f.a = none ∧ f.b = none ∧ f.c = none ∧ (firedElems .onTrue f).isEmpty = false :=
  ⟨{ bareFiring 0 0 0 1 0 with p := some (one .w32 1) }, rfl, rfl, rfl, rfl, rfl⟩

/-- WritesAndExitsForTheCommit: a G write that is declared; an exit; an exit to the end and to a block. -/
theorem witness_exits :
    (∃ s f x a v, Acting .always s f ∧ ctxAt s f.ctx = some x ∧ f.b = none ∧ f.c = none ∧ f.len = 1 ∧ manyElems f = false ∧ f.a = some a ∧ a.ew = .w32 ∧ a.vals = [v] ∧
      (∀ w ∈ x.gws, w.1 ≠ f.inst) ∧ x.gws.length < blkWrites x.image) ∧
    (∃ s f x, Acting .always s f ∧ ctxAt s f.ctx = some x ∧ f.b = none ∧ f.c = none ∧ f.len = 1 ∧ manyElems f = false ∧ x.exits = [] ∧ f.a = none) ∧
    ∀ v : Dbl, ∃ s f x a, Acting .always s f ∧ ctxAt s f.ctx = some x ∧ f.b = none ∧ f.c = none ∧ f.len = 1 ∧ manyElems f = false ∧ x.exits = [] ∧ f.a = some a ∧
      a.ew = .w64 ∧ a.vals = [v] := by
  refine ⟨⟨_, firing (some (one .w32 7)) none none, alone (.wrg .always 1), _, _, acts _ _ _ rfl rfl rfl, rfl, rfl, rfl, rfl, rfl, rfl, rfl, rfl, by decide,
      by decide +kernel⟩,
    ⟨_, firing none none none, idle, acts _ _ _ rfl rfl rfl, rfl, rfl, rfl, rfl, rfl, rfl, rfl⟩, fun v =>
    ⟨_, firing (some (one .w64 v)) none none, idle, _, acts _ _ _ rfl rfl rfl, rfl, rfl, rfl, rfl, rfl, rfl, rfl, rfl, rfl⟩⟩
theorem witness_exit_values : (0xFFFFFFFFFFFFFFF0 : Dbl).extractLsb' 0 4 = 0 ∧ (0x00FFFFFFFFFFFFF0 : Dbl).extractLsb' 56 8 = 0 ∧
    (0x00FFFFFFFFFFFFF0 : Dbl).extractLsb' 0 4 = 0 := by decide

/-- The sum of squares of 08. -/
def squares : List Word :=
  [0xB0E10418, 0, 3, 0, 0x36010000, 0x28718200, 0x300301A0, 0x22043FE3, 0x2E053FEB, 0x281F0600, 0x3400FFC0, 0x70080000, 0x00000008, 0x000000E7, 0, 0]
/-- IterEmitsRuns: at block start; with a run to go; with none left. -/
theorem witness_iter :
    (∃ s f x, Acting .always s f ∧ f.ctx = 0 ∧ f.inst = 0 ∧ ctxAt s 0 = some x ∧ x.iterNext = none ∧ s.queue.contains (.event (.iterEmit 0 0)) = false) ∧
    (∃ s x, ctxAt s 0 = some x ∧ x.frozen = none ∧ x.iterNext = some (0, 0, 0) ∧ instrAt x.image 0 = some (.iter .always 4) ∧
      0 < loopTrips x.image - 0 ∧ frameReach x.image ≠ [] ∧ framesHeld x + min (loopRun x.image) 8 ≤ loopFrames x.image) ∧
    ∃ s x, ctxAt s 0 = some x ∧ x.frozen = none ∧ x.iterNext = some (0, 8, 2) ∧ instrAt x.image 0 = some (.iter .always 4) ∧
      loopTrips x.image - 8 = 0 :=
  ⟨⟨_, firing none none none, runs squares, acts _ _ _ rfl rfl rfl, rfl, rfl, rfl, rfl, by decide⟩,
    ⟨machine { runs squares with iterNext := some (0, 0, 0) }, _, rfl, rfl, rfl, by decide +kernel, by decide +kernel, by decide +kernel, by decide +kernel⟩,
    ⟨machine { runs squares with iterNext := some (0, 8, 2) }, _, rfl, rfl, rfl, by decide +kernel, by decide +kernel⟩⟩

/-- ReductionsAndScan: an element whose turn has come, before any other and after seven; an EOS of an empty stream and behind eight. -/
theorem witness_reductions :
    (∀ n, n = 0 ∨ n = 7 → ∃ s f x a, s.cur = some f ∧ ctxAt s f.ctx = some x ∧ f.eos = none ∧ f.waive = none ∧ f.a = some a ∧ f.b = none ∧ f.c = none ∧
      a.nul = false ∧ a.ew = .w32 ∧ allStanding f = false ∧ (firedElems .always f).isEmpty = false ∧
      iterOffset x.image f.iter = (streamAt x f.inst).taken ∧ (streamAt x f.inst).taken = n ∧
      ((streamAt x f.inst).scaled = none ∨ (streamAt x f.inst).scaled = some a.scaled) ∧ 0 &&& x.eenable = 0) ∧
    ∀ n, n = 0 ∨ n = 8 → ∃ s f x b, s.cur = some f ∧ ctxAt s f.ctx = some x ∧ f.eos = some b ∧ (streamAt x f.inst).late = [] ∧
      (streamAt x f.inst).taken = n ∧ (streamAt x f.inst).taken ≤ iterOffset x.image b := by
  refine ⟨fun n h => ?_, fun n h => ?_⟩ <;> rcases h with rfl | rfl
  · exact ⟨acting (runs squares) _, firing (some (one .w32 1)) none none, runs squares, _, rfl, rfl, rfl, rfl, rfl, rfl, rfl, rfl, rfl, rfl, rfl,
      by decide +kernel, rfl, .inl rfl, rfl⟩
  · exact ⟨acting { runs squares with streams := [(0, { streamReset with taken := 7, scaled := some false })] } _,
      { firing (some { one .w32 1 with iter := 7 }) none none with iter := 7 }, _, _, rfl, rfl, rfl, rfl, rfl, rfl, rfl, rfl, rfl, rfl, rfl,
      by decide +kernel, rfl, .inr rfl, rfl⟩
  · exact ⟨acting (runs squares) _, { firing none none none with eos := some 0 }, runs squares, 0, rfl, rfl, rfl, rfl, rfl, by decide +kernel⟩
  · exact ⟨acting { runs squares with streams := [(0, { streamReset with taken := 8, scaled := some false })] } _,
      { firing none none none with eos := some 8 }, _, 8, rfl, rfl, rfl, rfl, rfl, by decide +kernel⟩

/-- ReductionsAndScan: the accumulator of one element that is NaR, which is made anew with NR, and of two; neither bit is enabled. -/
theorem witness_reduced : ∃ x : Ctx, ∀ bare, ∃ (st : Stream) (v : Dbl), st.acc = some v ∧ st.bare = bare ∧
    (if bare then deliverElem (accTy .t32) v.toNat else (v.toNat, 0)).2 &&& x.eenable = 0 ∧ (deliverElem (accTy .t32) v.toNat).2 = 0b10000 :=
  ⟨idle, fun b => ⟨{ streamReset with acc := some 0x80000000, bare := b }, 0x80000000, rfl, rfl, by cases b <;> decide +kernel, by decide +kernel⟩⟩

/-- RunsRegrouped: an element of a stream, with the turn buffers free, and an EOS. -/
theorem witness_regrouped :
    (∃ s f x a, s.cur = some f ∧ ctxAt s f.ctx = some x ∧ f.eos = none ∧ f.a = some a ∧ f.b = none ∧ f.c = none ∧ a.nul = false ∧ a.standing = false ∧
      a.ew = .w16 ∧ turnHeld s f x = false) ∧
    ∃ s f x b, s.cur = some f ∧ ctxAt s f.ctx = some x ∧ f.eos = some b ∧ (streamAt x f.inst).late = [] :=
  ⟨⟨acting (runs squares) _, firing (some (one .w16 1)) none none, runs squares, _, rfl, rfl, rfl, rfl, rfl, rfl, rfl, rfl, rfl, by decide +kernel⟩,
    ⟨acting (runs squares) _, { firing none none none with eos := some 8 }, runs squares, 8, rfl, rfl, rfl, rfl⟩⟩

/-- LaneFileAccesses: the last word of the window is inside it, with the offset on port a or b; a misaligned offset faults, and so does
the first word beyond the window. -/
theorem witness_lane_file : ∀ q, q = Port.a ∨ q = Port.b →
    (∃ s f x w, Acting .always s f ∧ ctxAt s f.ctx = some x ∧ stepAt s x.stp = some w ∧ hasWidths f .w32 .w32 .w32 ∧ f.waive = none ∧
      firedElems .always f = [0] ∧ elemNat f q .w32 0 % 4 = 0 ∧ elemNat f q .w32 0 + 4 = 128 * w.words) ∧
    (∃ s f x w, Acting .always s f ∧ ctxAt s f.ctx = some x ∧ stepAt s x.stp = some w ∧ hasWidths f .w32 .w32 .w32 ∧ f.waive = none ∧
      firedElems .always f = [] ++ 0 :: [] ∧ elemNat f q .w32 0 % 4 ≠ 0) ∧
    ∃ s f x w, Acting .always s f ∧ ctxAt s f.ctx = some x ∧ stepAt s x.stp = some w ∧ hasWidths f .w32 .w32 .w32 ∧ f.waive = none ∧
      firedElems .always f = [] ++ 0 :: [] ∧ elemNat f q .w32 0 % 4 = 0 ∧ 128 * w.words < elemNat f q .w32 0 + 4 := by
  intro q h
  have w (v : Dbl) : hasWidths (firing (some (one .w32 v)) (some (one .w32 v)) none) .w32 .w32 .w32 := by
    refine ⟨?_, ?_, ?_⟩ <;> intro t h <;> cases h <;> rfl
  refine ⟨⟨_, firing (some (one .w32 8188)) (some (one .w32 8188)) none, idle, step0, acts _ _ _ rfl rfl rfl, rfl, rfl, w _, rfl, rfl, ?_⟩,
    ⟨_, firing (some (one .w32 8187)) (some (one .w32 8187)) none, idle, step0, acts _ _ _ rfl rfl rfl, rfl, rfl, w _, rfl, rfl, ?_⟩,
    ⟨_, firing (some (one .w32 8192)) (some (one .w32 8192)) none, idle, step0, acts _ _ _ rfl rfl rfl, rfl, rfl, w _, rfl, rfl, ?_⟩⟩ <;>
  rcases h with rfl | rfl <;> decide +kernel
/-- The `.v` forms: the word of iteration 31 is the last of 32. -/
theorem witness_lane_vector : elemNat (firing (some (one .w32 0)) none none) .a .w32 0 + 4 * (iterAt { bareFiring 0 0 31 1 0 with a := none } 0 % 32) = 124 := by
  decide +kernel

/-- A firing with a double on port a. -/
def dbl (v : Dbl) : Firing := firing (some (one .w64 v)) none none
/-- A firing with a word on port a. -/
def word (v : Dbl) : Firing := firing (some (one .w32 v)) none none
theorem one_dbl (v : Dbl) : oneValue (dbl v) .w64 v := ⟨rfl, rfl, rfl, _, rfl, rfl, rfl, rfl⟩
theorem one_word (v : Dbl) : oneValue (word v) .w32 v := ⟨rfl, rfl, rfl, _, rfl, rfl, rfl, rfl⟩
theorem acts_dbl (x : Ctx) (v : Dbl) : Acting .always (acting x (dbl v)) (dbl v) := acts _ _ _ rfl rfl rfl
theorem acts_word (x : Ctx) (v : Dbl) : Acting .always (acting x (word v)) (word v) := acts _ _ _ rfl rfl rfl
/-- Every unit of the module ready, with some registers set. -/
def upWith (s : State) (csrs : Tab Dbl) : State := { s with csrs := csrs, ready := ~~~0 }
theorem acts_up (x : Ctx) (f : Firing) (m : FireMode) (csrs : Tab Dbl) (h : Acting m (acting x f) f) : Acting m (upWith (acting x f) csrs) f :=
  ⟨h.1, h.2, h.3, h.4⟩

/-- TrapsReturnsAndBreaks: outside a handler with a trap block that is valid; inside one; BRK of tenancy 0 clear and set. -/
theorem witness_traps :
    (∃ s f x, Acting .always s f ∧ ctxAt s f.ctx = some x ∧ x.divert = none ∧ x.th = false ∧ csrBits s (0x480 + x.ten) 0 0 = 1) ∧
    (∃ s f x, Acting .always s f ∧ ctxAt s f.ctx = some x ∧ x.divert = none ∧ x.th = true) ∧
    (∃ s f x, Acting .always s f ∧ ctxAt s f.ctx = some x ∧ csrBits s 0x0F9 x.ten x.ten = 0) ∧
    ∃ s f x, Acting .always s f ∧ ctxAt s f.ctx = some x ∧ csrBits s 0x0F9 x.ten x.ten = 1 ∧ f.waive = none :=
  ⟨⟨_, _, idle, acts_up idle _ _ [(0x480, 1)] (acts_word idle 0), rfl, rfl, rfl, by decide +kernel⟩,
    ⟨_, _, { idle with th := true }, acts_word _ 0, rfl, rfl, rfl⟩,
    ⟨_, _, idle, acts_word idle 0, rfl, by decide +kernel⟩,
    ⟨_, _, { idle with ten := 15 }, acts_up _ _ _ [(0x0F9, 0x8000)] (acts_word _ 0), rfl, by decide +kernel, rfl⟩⟩
/-- A firing cut from a token of two elements. -/
def pair : Firing := firing (some { one .w32 7 with span := 2 }) none none
/-- TraceMarks: one value, alone and of two; none, with the walk of the Press over and under way. -/
theorem witness_marks :
    (∀ b, ∃ s f x a, Acting .always s f ∧ ctxAt s f.ctx = some x ∧ x.frozen = none ∧ f.a = some a ∧ f.b = none ∧ f.c = none ∧ manyElems f = b ∧
      f.waive = none) ∧
    (∃ s f x, Acting .always s f ∧ ctxAt s f.ctx = some x ∧ x.frozen = none ∧ (pressAt s x.press).stylus ≤ cycleNow s) ∧
    ∃ s f x, Acting .always s f ∧ ctxAt s f.ctx = some x ∧ x.frozen = none ∧ cycleNow s < (pressAt s x.press).stylus :=
  ⟨fun b => match b with
    | false => ⟨_, _, idle, _, acts_word _ 7, rfl, rfl, rfl, rfl, rfl, rfl, rfl⟩
    | true => ⟨_, pair, idle, _, acts idle pair .always rfl rfl rfl, rfl, rfl, rfl, rfl, rfl, by decide, rfl⟩,
    ⟨_, firing none none none, idle, acts _ _ _ rfl rfl rfl, rfl, rfl, by decide +kernel⟩,
    ⟨{ acting idle (firing none none none) with presses := [(0, { Press.empty with stylus := 64 })] }, firing none none none, idle,
      ⟨rfl, rfl, rfl, rfl⟩, rfl, rfl, by decide +kernel⟩⟩
/-- SpecialRegistersAndCounters: a double; a context that may read and write all, and one that may not; the first device event. -/
theorem witness_registers :
    (∃ s f x, Acting .always s f ∧ ctxAt s f.ctx = some x ∧ f.waive = none ∧ oneValue f .w64 0b11111 ∧ mayRead s x 0x300 = false ∧
      mayRead s x 0x010 = true ∧ contextScope 0x300 = false ∧ supervisor s x = false) ∧
    ∀ v : Dbl, v.toNat < 2 → ∃ s f x, Acting .always s f ∧ ctxAt s f.ctx = some x ∧ f.waive = none ∧ oneValue f .w64 5 ∧ mayRead s x 0x300 = true ∧
      supervisor s x = true ∧ eventListed 0x00B = false ∧ eventListed 0x20B = false ∧ csrBits s 0x3F0 0 0 = v.toNat := by
  refine ⟨⟨_, _, idle, acts_dbl idle _, rfl, rfl, one_dbl _, by decide +kernel, by decide +kernel, by decide +kernel, by decide +kernel⟩, fun v h =>
    ⟨_, _, idle, acts_up idle _ _ [(0x0F8, 1), (0x3F0, v)] (acts_dbl idle _), rfl, rfl, one_dbl _, ?_, ?_, by decide +kernel, by decide +kernel, ?_⟩⟩ <;>
  (have e : v = 0 ∨ v = 1 := by
    rcases (by omega : v.toNat = 0 ∨ v.toNat = 1) with h | h
    · exact .inl (BitVec.eq_of_toNat_eq h)
    · exact .inr (BitVec.eq_of_toNat_eq h)
   rcases e with rfl | rfl <;> decide +kernel)

/-- LoadsAndStoresIssueAccesses: an index; a value of the width of its store, with LSID 31 in the store mask; iteration 31 of `st.v`. -/
theorem witness_loads_stores :
    (∃ s f x a, Acting .always s f ∧ ctxAt s f.ctx = some x ∧ f.a = some a ∧ f.b = none ∧ f.c = none ∧ a.ew = .w32 ∧ manyElems f = false ∧
      inLoop s f.ctx = false) ∧
    (∃ s f x a, Acting .always s f ∧ ctxAt s f.ctx = some x ∧ f.a = some a ∧ f.b = none ∧ f.c = none ∧ a.ew = memWidth .n32 ∧
      longOperand f = false ∧ lsidBad s f 31 = false) ∧
    ∃ s f x a, Acting .always s f ∧ ctxAt s f.ctx = some x ∧ f.a = some a ∧ f.b = none ∧ f.c = none ∧ a.ew = memWidth .n64 ∧
      lsidBad s f 31 = false ∧ inLoop s f.ctx = false ∧ (∀ j ∈ firedElems .always f, (f.iter + j) % 65536 ≤ 31) ∧ f.iter = 31 :=
  ⟨⟨_, _, idle, _, acts_word idle 0xFFFFFFFF, rfl, rfl, rfl, rfl, rfl, by decide, by decide +kernel⟩,
    ⟨_, _, alone (.st .always 31 0 .n32 false 0), _, acts_word _ 5, rfl, rfl, rfl, rfl, rfl, rfl, by decide +kernel⟩,
    ⟨_, { firing (some { one .w64 5 with iter := 31 }) none none with iter := 31 }, alone (.stV .always 31 0 .n64 false 0), _, acts _ _ _ rfl rfl rfl, rfl,
      rfl, rfl, rfl, rfl, by decide +kernel, by decide +kernel, by decide +kernel, rfl⟩⟩
/-- AtomicsIssueAccesses: an `amo` of a double and a `cas` of a word. -/
theorem witness_atomics :
    (∃ s f a b, Acting .always s f ∧ f.a = some a ∧ f.b = some b ∧ a.ew = .w64 ∧ longOperand f = false ∧ lsidBad s f 0 = false ∧
      b.ew = tyWidth (amoTy .i64) ∧ f.c = none) ∧
    ∃ s f a b c, Acting .always s f ∧ f.a = some a ∧ f.b = some b ∧ a.ew = .w64 ∧ longOperand f = false ∧ lsidBad s f 0 = false ∧ f.c = some c ∧
      b.scaled = c.scaled ∧ b.ew = .w32 ∧ c.ew = .w32 :=
  ⟨⟨_, firing (some (one .w64 8)) (some (one .w64 1)) none, _, _, acts (alone (.amoAdd .always 0 0 .i64 .plain false)) _ _ rfl rfl rfl, rfl, rfl, rfl, rfl,
      by decide +kernel, rfl, rfl⟩,
    ⟨_, firing (some (one .w64 8)) (some (one .w32 1)) (some (one .w32 2)), _, _, _, acts (alone (.cas .always 0 0 false .plain false)) _ _ rfl rfl rfl, rfl,
      rfl, rfl, rfl, by decide +kernel, rfl, rfl, rfl, rfl⟩⟩

/-- An access of 8 bytes at the start of HBM, accepted and not performed. -/
def accOf (k : AccKind) : Access :=
  { id := 1, fire := 1, ctx := 0, inst := 0, elem := 0, iter := 0, entry := 0, lsid := 0, block := 0, word := 0, kind := k, addr := 0, size := 8, val := 5,
    val2 := 6, acq := false, rel := false, sys := false, parts := [(.hbm 0, 8, 1, false)], walked := true, sent := false, got := [], waive := none,
    held := false, twin := none }
/-- The module with that access in hand. -/
def accessing (k : AccKind) : State :=
  { upWith (machine idle) [] with
    accesses := [accOf k]
    memFires := [{ id := 1, firing := word 0, reply := (openReply (machine idle) .always (word 0) []).2, ty := .i64, ew := .w64, toAccept := 0, left := 1,
                   lsid := none, vec := false, results := [], own := 0 }] }
/-- AccessesArePerformed, for each kind of access. -/
theorem witness_accesses : ∀ k ∈ [AccKind.load, .store, .amo 0 .i64, .cas true], ∃ s a x m, accAt s 1 = some a ∧ ctxAt s a.ctx = some x ∧
    memFireAt s a.fire = some m ∧ a.held = false ∧ a.walked = true ∧ mayPerform s x a = true ∧ a.acq = false ∧ a.rel = false ∧ x.actor = none ∧
    x.undo = [] ∧ a.parts = [(.hbm 0, 8, 1, false)] ∧ 8 = a.size ∧ stackReady s 0 = true ∧ badGranule s a = none ∧ a.kind = k ∧
    (amoNew 0 .i64 0 a.val.toNat).2 &&& x.eenable = 0 := by
  intro k hk
  simp only [List.mem_cons, List.not_mem_nil, or_false] at hk
  rcases hk with rfl | rfl | rfl | rfl <;>
  exact ⟨accessing _, accOf _, idle, _, rfl, rfl, rfl, rfl, rfl, by decide +kernel, rfl, rfl, rfl, rfl, rfl, rfl, by decide +kernel, by decide +kernel, rfl,
    by decide +kernel⟩

/-- An operation of context 0 in queue `q`. -/
def opOf (q : Nat) (k : EngKind) : EngOp := newOp 7 0 q 2 k (openReply (machine idle) .always (word 0) []).2
/-- The module with an operation in queue `q` of Press 0. -/
def queued (s : State) (q : Nat) (o : EngOp) : State := { s with presses := [(0, { Press.empty with queues := [(q, [o])] })] }
/-- The module with an operation at work in Press 0. -/
def working (s : State) (o : EngOp) : State := { s with presses := [(0, { Press.empty with running := [o] })] }
/-- A fence at a scope whose waits are met. -/
def fenceOf (scope : Scope) (waive : Bool) : FenceRec :=
  { id := 3, reply := (openReply (machine idle) .always (word 0) []).2, entry := 0, lsid := 0, scope := scope, level := .order, ops := [],
    waive := waive }
/-- FencesWaitAndAnswer: a firing, with no operation of its queues and with one; a fence and a `qfence` whose waits are met. -/
theorem witness_fences :
    (∃ s f x, Acting .always s f ∧ ctxAt s f.ctx = some x ∧ queueOps (openReply s .always f [1]).1 f.ctx 0xFF = []) ∧
    (∃ s f x, Acting .always s f ∧ ctxAt s f.ctx = some x ∧ queueOps (openReply s .always f [1]).1 f.ctx 0x80 ≠ []) ∧
    (∀ scope b, scope = .device ∨ scope = .system → ∃ s r x, s.fences.find? (fenceReady s) = some r ∧ r.waive = b ∧ r.scope = scope ∧
      (r.waive = false → ctxFence s r.reply.ctx (scopeCode r.scope) = .ok s) ∧ ctxAt s r.reply.ctx = some x) ∧
    ∃ (s : State) (q : QFenceRec) (x : Ctx), ctxAt s 0 = some x ∧
      (s.qfences.find? fun q => !ctxFrozen s q.reply.ctx && q.ops.all (opPerformed s q.reply.ctx)) = some q ∧ q.reply.ctx = 0 :=
  ⟨⟨_, firing none none none, idle, acts _ _ _ rfl rfl rfl, rfl, by decide +kernel⟩,
    ⟨queued (acting idle (firing none none none)) 7 (opOf 7 (.remoteCopy 0 0 64)), firing none none none, idle, ⟨rfl, rfl, rfl, rfl⟩, rfl, by decide +kernel⟩,
    fun scope b h => ⟨{ machine idle with fences := [fenceOf scope b] }, fenceOf scope b, idle, by rcases h with rfl | rfl <;> cases b <;> decide +kernel,
      rfl, rfl, fun _ => by rcases h with rfl | rfl <;> cases b <;> rfl, rfl⟩,
    ⟨{ machine idle with qfences := [⟨4, (fenceOf .ctx true).reply, [(9, 0)]⟩] }, ⟨4, (fenceOf .ctx true).reply, [(9, 0)]⟩, idle, rfl, by decide +kernel, rfl⟩⟩

/-- BaseRegistersAndApertures: a double; a word; addresses; and for each aperture an address in it and one outside it, at its bounds. -/
theorem witness_base : (∃ s f, Acting .always s f ∧ oneValue f .w64 8) ∧ (∃ s f, Acting .always s f ∧ oneValue f .w32 0xFFFFFFFF) ∧
    (∃ s f, Acting .always s f ∧ hasWidths f .w64 .w64 .w64) ∧
    (∀ p : Nat → Prop, ∃ v : Nat → Nat, ∀ j, (p j → v j = 1) ∧ (¬ p j → v j = 0)) :=
  ⟨⟨_, _, acts_dbl idle _, one_dbl _⟩, ⟨_, _, acts_word idle _, one_word _⟩,
    ⟨_, three .w64 .w64 .w64 false, acts idle _ _ rfl rfl rfl, widths_met _ _ _ _⟩,
    fun p => ⟨fun j => open Classical in if p j then 1 else 0, fun j => ⟨fun h => by simp [h], fun h => by simp [h]⟩⟩⟩
/-- R236, R237: addresses rewritten into an aperture and not; addresses inside an aperture and just beyond it. -/
theorem test_apertures : agree [
    (mono (.cvta .always 1 .lf) .w64 0xFFFFFFFF, plain 0xE0000000FFFFFFFF), (mono (.cvta .always 1 .lf) .w64 0x100000000, plain 0xFFFFFFFFFFFFFFFF),
    (mono (.cvta .always 1 .glob) .w64 0xE000000000000000, plain 0xFFFFFFFFFFFFFFFF), (mono (.cvta .always 1 .grp) .w64 0x1FFFFFF, plain 0xE800000001FFFFFF),
    (mono (.isap .always 1 .grp) .w64 0xE800000001FFFFFF, plain 1), (mono (.isap .always 1 .grp) .w64 0xE800000002000000, plain 0),
    (mono (.isap .always 1 .lf) .w64 0xE0000001FFFFFFFF, plain 0), (mono (.isap .always 1 .dev) .w64 0xEC3E000001FFFFFF, plain 1),
    (mono (.isap .always 1 .glob) .w64 0x00FFFFFFFFFFFFFF, plain 1)] = true := by decide +kernel

/-- What has been read, where a read succeeds. -/
theorem got_ok {α : Type} (g : State × Got α) (v : α) (h : g.2 = .ok v) : ∃ s1 v, g = (s1, .ok v) := ⟨g.1, v, Prod.ext rfl h⟩
theorem pair_ok {α : Type} (g : State × α) (v : α) (h : g.2 = v) : g = (g.1, v) := Prod.ext rfl h
/-- The bytes read by a read that succeeds. -/
def gotOk {α : Type} (g : State × Got α) : Bool :=
  match g.2 with
  | .ok _ => true
  | _ => false
theorem got_any {α : Type} (g : State × Got α) (h : gotOk g = true) : ∃ s1 v, g = (s1, .ok v) := by
  obtain ⟨s1, r⟩ := g
  cases r with
  | ok v => exact ⟨s1, v, rfl⟩
  | bad => exact absurd h (by simp [gotOk])
  | wait => exact absurd h (by simp [gotOk])

/-- Bytes that have come from a peer, 128 at a time, are read. -/
theorem remoteRead_kept (owner peer : Nat) (s : State) (k : Nat) : ∀ pa, pa % 128 = 0 →
    (∀ j < k, ∃ e ∈ s.remoteBuf, e.1 = owner ∧ e.2.1 = peer ∧ e.2.2.1 = pa + 128 * j ∧ e.2.2.2.length = 128) →
    ∀ fuel, k < fuel → ∃ bs, remoteRead fuel s owner peer pa (128 * k) = (s, .ok bs) := by
  induction k with
  | zero =>
    intro pa _ _ fuel hf
    obtain ⟨f, rfl⟩ : ∃ f, fuel = f + 1 := ⟨fuel - 1, by omega⟩
    exact ⟨[], by simp [remoteRead]⟩
  | succ k ih =>
    intro pa ha h fuel hf
    obtain ⟨f, rfl⟩ : ∃ f, fuel = f + 1 := ⟨fuel - 1, by omega⟩
    obtain ⟨bs, hb⟩ := ih (pa + 128) (by omega) (fun j hj => by
      obtain ⟨e, he, h1, h2, h3, h4⟩ := h (j + 1) (by omega)
      exact ⟨e, he, h1, h2, by omega, h4⟩) f (by omega)
    obtain ⟨e, he, h1, h2, h3, h4⟩ := h 0 (by omega)
    have hm : min (128 * (k + 1)) (128 - pa % 128) = 128 := by omega
    have hs : (s.remoteBuf.find? fun e => e.1 == owner && e.2.1 == peer && e.2.2.1 == pa && e.2.2.2.length == 128).isSome = true :=
      List.find?_isSome.mpr ⟨e, he, by simp [h1, h2, h3, h4]⟩
    obtain ⟨d, hd⟩ := Option.isSome_iff_exists.mp hs
    have hn : 128 * (k + 1) - 128 = 128 * k := by omega
    exact ⟨d.2.2.2 ++ bs, by simp [remoteRead, hm, hd, hn, hb]⟩

/-- A page of tenancy 0 at VA 0, valid for every access, in frame 0, with A and D set. -/
def page0 : TlbEntry := { ten := 0, va := 0, size := 65536, pte := 0xF400003000000000, pteAddr := 0x100000, count := 0 }
/-- Press 0 translates page 0. -/
def mapped (s : State) : State := { csrSet s 0x407 1 with presses := [(0, { Press.empty with tlb := [page0] })] }
/-- A migration of page 0 to frame 5, and all of the page come from device 3. -/
def moving : Migration := { ten := 0, va := 0, pteAddr := 0x100000, peer := 3, oldFrame := 9, newFrame := 5 }

/-- TranslationsAndMigrationsEnd: the last 8 bytes of a page that is translated. -/
theorem witness_translation : ∃ s a x l, accAt s 1 = some a ∧ a.walked = false ∧ ctxAt s a.ctx = some x ∧ x.frozen = none ∧
    a.addr.extractLsb' 56 8 = 0 ∧ (isAtomic a = true → a.addr.toNat % a.size = 0) ∧
    spotsFind s (some (x.press, x.group)) x.ten (wayOf a.kind) (partsOf a.addr.toNat a.size) = .ok l :=
  ⟨{ mapped (accessing .load) with accesses := [{ accOf (.cas true) with walked := false, parts := [], addr := 0xFFF8 }] },
    { accOf (.cas true) with walked := false, parts := [], addr := 0xFFF8 }, idle,
    [({ pa := 0xFFF8, mode := 0, peer := 0, kind := 1, checked := false, pte := 0xF400003000000000, pteAddr := 0x100000, size := 65536 }, 0xFFF8, 8)], rfl,
    rfl, rfl, rfl, by decide, by decide, by decide +kernel⟩
/-- A part of the page as it has come from device 3. -/
def pagePart (k : Nat) : Nat × Nat × Nat × List Byte := (2 ^ 44, 3, 9 * 65536 + 128 * k, zeros 128)
/-- All of it. -/
def pageParts : List (Nat × Nat × Nat × List Byte) := (List.range 512).map pagePart
/-- The module with page 0 moving and bytes that have come from a peer. -/
def migratedWith (l : List (Nat × Nat × Nat × List Byte)) : State := { upWith (machine idle) [] with migrations := [moving], remoteBuf := l }
theorem migrated_keeps (l : List (Nat × Nat × Nat × List Byte)) : (migratedWith l).remoteBuf = l := rfl
/-- The state in which that migration ends. -/
def migrated : State := migratedWith pageParts
theorem part_in (j : Nat) (hj : j < 512) : pagePart j ∈ migrated.remoteBuf := by
  rw [show migrated = migratedWith pageParts from rfl, migrated_keeps]
  unfold pageParts
  exact List.mem_map.mpr ⟨j, List.mem_range.mpr hj, rfl⟩
theorem witness_migration : migrated.migrations.find? (fun m => m.ten == 0 && m.va == 0) = some moving ∧ migrated.accesses = [] ∧
    remoteFail migrated (2 ^ 44) = none ∧ moving.newFrame < 2 ^ 32 ∧
    ∃ bs, remoteRead 600 migrated (2 ^ 44) 3 (9 * 65536) (128 * 512) = (migrated, .ok bs) := by
  refine ⟨by decide, rfl, by decide, by decide, ?_⟩
  exact remoteRead_kept (2 ^ 44) 3 migrated 512 (9 * 65536) (by decide) (fun j hj =>
    ⟨pagePart j, part_in j hj, rfl, rfl, rfl, by simp [pagePart, zeros]⟩) 600 (by decide)
/-- TlbInvalidation: an invalidation under way, with nothing in flight but a write of another tenancy. -/
theorem witness_invalidation : ∃ s : State, s.invalidating = some (0, 0, 0) ∧ (∀ a ∈ s.accesses, accUnder s (0 : BitVec 2).toNat 0 0 a = false) ∧
    s.xfers ≠ [] ∧ ∀ r ∈ s.xfers, writeUnder s (0 : BitVec 2).toNat 0 r = false :=
  ⟨{ machine idle with invalidating := some (0, 0, 0), xfers := [⟨0, 3, 0, .unitWrite 0, 0, 0, false, false, 1, 0⟩] }, rfl,
    fun _ ha => absurd ha List.not_mem_nil, by decide, by decide⟩

/-- Slot 1023 of Group 0 in a state, of tenancy 0 with tensor 2. -/
def tiled (s : State) (st : BitVec 2) : State :=
  { s with groups := [(0, { Group.empty with tiles := if st = 0 then [] else [(1023, { tileReset with state := st, tid := 2 })] })] }
/-- A context with a ring of the last slot. -/
def ringed : Ctx := { idle with rings := [(15, ⟨1023, 1, 0, 0, 0, 2⟩)] }
/-- What the tile claims ask for: an instruction of tensor 2 on a slot in a state. -/
def tileMet (v : Dbl) (rings fills : Bool) (r : Option Nat) (st : BitVec 2) : Prop :=
  ∃ s s1 f x d, Acting .always s f ∧ oneValue f .w64 v ∧ ctxAt s f.ctx = some x ∧ tensorRead s x (tensorOwner f.ctx f.inst) 2 = (s1, .ok d) ∧
    handleSlot x v.toNat rings fills = .ok (1023, r) ∧ (tileAt s1 x.group 1023).state = st ∧ (tileAt s1 x.group 1023).ten.toNat = x.ten ∧
    (st ≠ 0 → (tileAt s1 x.group 1023).tid = 2) ∧ (tileAt s1 x.group 1023).pl = false ∧ f.done = 0 ∧ slotStores s1 f.ctx x.group 1023 = [] ∧
    slotReads s1 x.group 1023 = false ∧ queueFull s1 x.press 6 = false
theorem tile_met (v : Dbl) (rings fills : Bool) (r : Option Nat) (st : BitVec 2) (h1 : handleSlot ringed v.toNat rings fills = .ok (1023, r))
    (h2 : (tileAt (tiled (acting ringed (dbl v)) st) 0 1023).state = st) (h3 : (tileAt (tiled (acting ringed (dbl v)) st) 0 1023).ten = 0)
    (h4 : st ≠ 0 → (tileAt (tiled (acting ringed (dbl v)) st) 0 1023).tid = 2) (h5 : (tileAt (tiled (acting ringed (dbl v)) st) 0 1023).pl = false) :
    tileMet v rings fills r st :=
  ⟨tiled (acting ringed (dbl v)) st, _, dbl v, ringed, _, ⟨rfl, rfl, rfl, rfl⟩, one_dbl _, rfl, rfl, h1, h2, by rw [show ringed.group = 0 from rfl, h3]; rfl, h4,
    h5, rfl, rfl, rfl, rfl⟩
/-- TileInstructions: the last slot by its number and through a ring, in each state. -/
theorem witness_tiles : tileMet 0xE800000000FFC000 true true none 0 ∧ tileMet 0xF00000000000000F true true (some 15) 0 ∧
    tileMet 0xE800000000FFC000 false false none 1 ∧ tileMet 0xE800000000FFC000 true false none 2 ∧ tileMet 0xF00000000000000F true false (some 15) 2 := by
  refine ⟨tile_met _ _ _ _ _ rfl ?_ ?_ ?_ ?_, tile_met _ _ _ _ _ rfl ?_ ?_ ?_ ?_, tile_met _ _ _ _ _ rfl ?_ ?_ ?_ ?_, tile_met _ _ _ _ _ rfl ?_ ?_ ?_ ?_,
    tile_met _ _ _ _ _ rfl ?_ ?_ ?_ ?_⟩ <;> decide +kernel
/-- A waiting firing of an instruction of a context. -/
def waiterOf (c k : Nat) : Waiter := ⟨8 * c + k, { word 0 with ctx := c, inst := k }⟩
/-- WaitersDrainsAndCopies: firings of two contexts that wait, the last to come being the first by context tag and instruction index. -/
theorem witness_waiters : ∃ (s : State) (l : List Waiter), s.waiters = [waiterOf 1 0, waiterOf 0 1, waiterOf 0 0] ∧ l.Perm s.waiters ∧
    l.Pairwise (fun v w => ∀ x y, ctxAt s v.firing.ctx = some x → ctxAt s w.firing.ctx = some y → x.tag < y.tag ∨
      x.tag = y.tag ∧ v.firing.inst < w.firing.inst) ∧ ∀ w ∈ s.waiters, w.firing.inst < 128 ∧ ∃ x, ctxAt s w.firing.ctx = some x := by
  refine ⟨{ machine idle with ctxs := [(0, idle), (1, { idle with tag := 1 })], waiters := [waiterOf 1 0, waiterOf 0 1, waiterOf 0 0] },
    [waiterOf 0 0, waiterOf 0 1, waiterOf 1 0], rfl, by decide, ?_, ?_⟩
  · refine List.Pairwise.cons ?_ (List.Pairwise.cons ?_ (List.Pairwise.cons ?_ List.Pairwise.nil)) <;>
    · intro w hw x y hx hy
      simp only [List.mem_cons, List.not_mem_nil, or_false] at hw <;> rcases hw with rfl | rfl <;> (cases hx; cases hy; decide)
  · intro w hw
    simp only [List.mem_cons, List.not_mem_nil, or_false] at hw
    rcases hw with rfl | rfl | rfl <;> exact ⟨by decide, _, rfl⟩
/-- One of them tried: a `tile.fill` that goes on. -/
theorem witness_tried : ∃ (s t : State) (w : Waiter) (x : Ctx) (i : Instr), ctxAt s w.firing.ctx = some x ∧ x.frozen = none ∧
    decodeInstr (wordFor x.image w.firing.inst w.firing.iter).1 = .ok i ∧
    refire i { s with waiters := s.waiters.filter (fun v => v.id != w.id), cur := some w.firing } = .next t := by
  let s := { machine (alone (.tileFill .always 2 1)) with waiters := [waiterOf 0 0] }
  have h : (match refire (.tileFill .always 2 1) { s with waiters := [], cur := some (waiterOf 0 0).firing } with
      | .next _ => true
      | _ => false) = true := by decide +kernel
  refine ⟨s, (match refire (.tileFill .always 2 1) { s with waiters := [], cur := some (waiterOf 0 0).firing } with
      | .next t => t
      | _ => s), waiterOf 0 0, alone (.tileFill .always 2 1), .tileFill .always 2 1, rfl, rfl, rfl, ?_⟩
  show refire (.tileFill .always 2 1) { s with waiters := [], cur := some (waiterOf 0 0).firing } = _
  revert h
  cases refire (.tileFill .always 2 1) { s with waiters := [], cur := some (waiterOf 0 0).firing } with
  | next t => exact fun _ => rfl
  | fault f => exact nofun
  | refused r => exact nofun
/-- A drain of the last slot that has written `n` granules. -/
def drainOf (n : Nat) : EngOp :=
  { opOf 6 (.drain 1023 none 0) with pos := n, data := [0, tdtMade false 7, 0xFFF, 4, 0, 0, 0, 0].flatMap fun v => leBytes 8 v }
/-- The module with the first of these and page 0, to which the slot is drained. -/
def draining : State := { tiled (upWith (machine idle) [(0x407, 1)]) 3 with presses := [(0, { Press.empty with running := [drainOf 254], tlb := [page0] })] }
/-- Granule 254 of the slot read. -/
def drained : State × Got (List Byte) := engFetch draining idle (opOwner 7) (slotHandle 1023 + 64 * 254) 64 none
/-- Its bytes written to the tensor. -/
def stored : State × Got Unit :=
  engStore drained.1 idle 0 (opOwner 7) ((tdtDbl (dblsOf (drainOf 254).data) 0 + 16384 * 0) % 2 ^ 64 + 64 * 254) (zeros 64) none
/-- A drain with granule 254 to write, and one that has written all. -/
theorem witness_drain :
    (∃ s1 s2 bs, opAt draining 7 = some (0, drainOf 254) ∧ ctxAt draining (drainOf 254).ctx = some idle ∧ idle.frozen = none ∧
      (drainOf 254).stalled = false ∧ (drainOf 254).kind = .drain 1023 none 0 ∧ tdtReadOnly (dblsOf (drainOf 254).data) = false ∧ (drainOf 254).pos = 254 ∧
      engFetch draining idle (opOwner 7) (slotHandle 1023 + 64 * 254) 64 none = (s1, .ok bs) ∧
      engStore s1 idle 0 (opOwner 7) ((tdtDbl (dblsOf (drainOf 254).data) 0 + 16384 * 0) % 2 ^ 64 + 64 * 254) bs none = (s2, .ok ())) ∧
    ∃ s p o x, opAt s 7 = some (p, o) ∧ ctxAt s o.ctx = some x ∧ x.frozen = none ∧ o.stalled = false ∧ o.kind = .drain 1023 none 0 ∧
      tdtReadOnly (dblsOf o.data) = false ∧ o.pos = 256 ∧ remoteFail s (opOwner o.id) = none ∧ opWriting s o = false ∧
      slotReads s x.group 1023 = false := by
  refine ⟨?_, ⟨working (machine idle) (drainOf 256), 0, drainOf 256, idle, rfl, rfl, rfl, rfl, rfl, by decide +kernel, rfl, rfl, rfl, rfl⟩⟩
  exact ⟨drained.1, stored.1, zeros 64, rfl, rfl, rfl, rfl, rfl, by decide +kernel, rfl, pair_ok drained (.ok (zeros 64)) (by decide +kernel),
    pair_ok stored (.ok ()) (by decide +kernel)⟩
/-- A copy of 128 bytes from the start of the window to its second half, with its source read. -/
def copyOf (k : EngKind) (n : Nat) : EngOp := { opOf 6 k with pos := n, data := zeros 128 }
/-- The window place at an offset. -/
def lane (o : Nat) : Nat := 0xE0 * 2 ^ 56 + o
/-- The module with a copy at work. -/
def copying (k : EngKind) (n : Nat) : State := working (upWith (machine idle) []) (copyOf k n)
/-- Its first 64 bytes written. -/
def copied (k : EngKind) : State × EngGot Unit := engWrite (copying k 0) idle (copyOf k 0) 0 (lane 4096 + 0) (zeros 64)
theorem witness_copy : ∀ k, k = EngKind.copy (lane 4096) (lane 0) 128 ∨ k = .restWrite (lane 4096) (zeros 128) →
    ∃ s1, opAt (copying k 0) 7 = some (0, copyOf k 0) ∧ ctxAt (copying k 0) 0 = some idle ∧ idle.frozen = none ∧
      (copyOf k 0).stalled = false ∧ (copyOf k 0).kind = k ∧
      (copyOf k 0).data.length = 128 ∧ ((copyOf k 0).data.drop 0).take 64 = zeros 64 ∧ 0 + 64 < (copyOf k 0).data.length ∧
      engWrite (copying k 0) idle (copyOf k 0) 0 (lane 4096 + 0) (zeros 64) = (s1, .ok ()) := by
  intro k h
  rcases h with rfl | rfl
  · exact ⟨(copied _).1, rfl, rfl, rfl, rfl, rfl, by decide +kernel, by decide +kernel, by decide +kernel, pair_ok (copied _) (.ok ()) (by decide +kernel)⟩
  · exact ⟨(copied _).1, rfl, rfl, rfl, rfl, rfl, by decide +kernel, by decide +kernel, by decide +kernel, pair_ok (copied _) (.ok ()) (by decide +kernel)⟩
/-- A copy, local or to a peer, that has written all. -/
theorem witness_copied : ∀ k, k = EngKind.copy (lane 4096) (lane 0) 128 ∨ k = .remoteCopy 0 0 128 →
    opAt (copying k 128) 7 = some (0, copyOf k 128) ∧ ctxAt (copying k 128) 0 = some idle ∧ idle.frozen = none ∧
      (copyOf k 128).stalled = false ∧ (copyOf k 128).kind = k ∧
      (copyOf k 128).data.length = 128 ∧ (copyOf k 128).pos = 128 ∧ remoteFail (copying k 128) (opOwner 7) = none ∧
      opWriting (copying k 128) (copyOf k 128) = false ∧ ∀ t ∈ (copying k 128).xfers, t.kind = .copy 7 → t.acc = true := by
  intro k h
  rcases h with rfl | rfl <;>
  exact ⟨rfl, rfl, rfl, rfl, rfl, by decide +kernel, rfl, by decide +kernel, by decide +kernel, fun t ht => absurd ht List.not_mem_nil⟩

/-- RingsAndEngineQueues: a ring of the last 64 slots, with a tensor of the context; then the queue that is not full. -/
theorem witness_ring : ∃ s s1 f x d, Acting .always s f ∧ oneValue f .w64 (0xF0FFC00000000000 : Dbl) ∧ ctxAt s f.ctx = some x ∧
    tensorRead s x (tensorOwner f.ctx f.inst) 2 = (s1, .ok d) ∧ (0xF0FFC00000000000 : Dbl).extractLsb' 56 4 = 0 ∧
    (0xF0FFC00000000000 : Dbl).extractLsb' 0 40 = 0 ∧
    ((0xF0FFC00000000000 : Dbl).extractLsb' 40 10).toNat + (((0xF0FFC00000000000 : Dbl).extractLsb' 50 6).toNat + 1) ≤ 1024 ∧
    ringOverlap s f.ctx x.group 15 960 1023 = false ∧ ringBusy s f.ctx x 15 = false ∧ ringEntriesUsed s1 x.press < Config.ringEntries := by
  refine ⟨_, _, dbl _, idle, _, acts_dbl idle _, one_dbl _, rfl, rfl, by decide, by decide, by decide, by decide +kernel, by decide +kernel, by decide +kernel⟩
theorem witness_marker : (∃ s f x, Acting .always s f ∧ oneValue f .w32 5 ∧ ctxAt s f.ctx = some x ∧ queueFull s x.press (7 : BitVec 3).toNat = false) ∧
    (∃ s o, nextMarker s 0 7 [] (queueAt s 0 7) = some o) ∧
    (∃ s o, nextMarker s 0 6 [] (queueAt s 0 6) = none ∧ unitBack s 0 6 = none ∧ engineBusy s 0 6 = false ∧ nextOp s 0 6 = some o) ∧
    ∃ s o x, opAt s 7 = some (0, o) ∧ ctxAt s o.ctx = some x ∧ x.frozen = none ∧ o.stalled = false ∧ o.kind = .marker 5 :=
  ⟨⟨_, _, idle, acts_word idle _, one_word _, rfl, by decide +kernel⟩,
    ⟨queued (machine idle) 7 (opOf 7 (.marker 5)), opOf 7 (.marker 5), by decide +kernel⟩,
    ⟨queued (machine idle) 6 (opOf 6 (.copy 0 0 64)), opOf 6 (.copy 0 0 64), by decide +kernel, by decide +kernel, by decide +kernel, by decide +kernel⟩,
    ⟨working (machine idle) (opOf 7 (.marker 5)), opOf 7 (.marker 5), idle, rfl, rfl, rfl, rfl, rfl⟩⟩

/-- An operation bound to matrix unit 0 of Press 0. -/
def boundOf (c : MxConfig) : MxBound :=
  { op := opOf 0 (.matrix (lane 0) 0), cfg := c, fired := 0, written := 0, staging := [], unbinding := false, unbinders := [] }
/-- A configuration of one firing of tiles of T8 with 8-bit weights from rings 0 and 1 into ring 2. -/
def mxOne : MxConfig :=
  { path := 0, fromRing := true, aring := 0, bring := 1, cring := 2, kt := 1, rows := 1, btile := 0, count := 1, otype := 9, fn := 0, bias := [],
    scale := [], base := 0, tid := 0, tdt := [] }
/-- A context with three rings of one slot. -/
def matrixCtx : Ctx := { idle with rings := [(0, ⟨1, 1, 0, 0, 0, 2⟩), (1, ⟨2, 1, 0, 0, 0, 2⟩), (2, ⟨3, 1, 0, 0, 0, 2⟩)] }
/-- EngineOperationsAreAsked: each queue that is not full; a unit that holds an operation of the context, and one that does not. -/
theorem witness_engines :
    (∃ s f x, Acting .always s f ∧ ctxAt s f.ctx = some x ∧ oneValue f .w64 (0x1000 : Dbl) ∧ (0x1000 : Dbl).extractLsb' 0 6 = 0 ∧
      (∀ q < 8, queueFull s x.press q = false) ∧
      (∀ e ∈ (pressAt (openReply s .always f [1]).1 x.press).units, e.2.op.ctx = f.ctx → e.2.op.queue ≠ 1)) ∧
    (∃ s f x, Acting .always s f ∧ ctxAt s f.ctx = some x ∧ oneValue f .w32 0xFFFF ∧ queueFull s x.press 5 = false ∧ openStream s f.ctx f.inst = none ∧
      goMode s f.ctx 5 ≠ some (true, false)) ∧
    (∃ s f x, Acting .always s f ∧ ctxAt s f.ctx = some x ∧ goMode s f.ctx 5 = some (true, false) ∧ queueFull s x.press 5 = false ∧
      openStream s f.ctx f.inst = none) ∧
    (∃ s f x, Acting .always s f ∧ ctxAt s f.ctx = some x ∧ hasWidths f .w64 .w64 .w64 ∧ manyElems f = false ∧ queueFull s x.press 6 = false ∧
      queueFull s x.press 7 = false) ∧
    ∃ s f x k b, Acting .always s f ∧ ctxAt s f.ctx = some x ∧
      (pressAt (openReply s .always f [1]).1 x.press).units.find? (fun e => e.2.op.ctx == f.ctx && e.2.op.queue == 0) = some (k, b) :=
  ⟨⟨_, _, idle, acts_dbl idle _, rfl, one_dbl _, by decide, by decide +kernel, by decide +kernel⟩,
    ⟨_, _, idle, acts_word idle _, rfl, one_word _, by decide +kernel, by decide +kernel, by decide +kernel⟩,
    ⟨acting { idle with graver := [(5, { gvConfig (dblsOf (zeros 64)) [] false 0 with store := true })] } (word 0), word 0, _, acts_word _ 0, rfl,
      by decide +kernel, by decide +kernel, by decide +kernel⟩,
    ⟨_, three .w64 .w64 .w64 false, idle, acts _ _ _ rfl rfl rfl, rfl, widths_met _ _ _ _, rfl, by decide +kernel, by decide +kernel⟩,
    ⟨{ acting idle (word 0) with presses := [(0, { Press.empty with units := [(0, boundOf mxOne)] })] }, word 0, idle, 0, boundOf mxOne, ⟨rfl, rfl, rfl, rfl⟩,
      rfl, by decide +kernel⟩⟩

/-- The descriptor of such an operation, of weights from ring 1 or from the plate. -/
def mxDesc (ring : Bool) : List Byte :=
  leBytes 8 ((if ring then 2 ^ 60 + 2 ^ 52 else 0) + 2 * 2 ^ 48 + 2 ^ 40 + 1) ++ leBytes 8 (9 * 2 ^ 60) ++ zeros 48
/-- What has been read for it: the descriptor, the entries of its rings' tensors, and no vectors. -/
def mxData (ring : Bool) : List Byte :=
  mxDesc ring ++ (leBytes 8 0 ++ leBytes 8 (tdtMade false 9) ++ zeros 48) ++ (leBytes 8 0 ++ leBytes 8 (tdtMade false 9) ++ zeros 48) ++ zeros 1088
/-- The operation that is to be bound. -/
def mxOp (ring : Bool) : EngOp := { opOf 0 (.matrix (lane 0) 0) with data := mxData ring }
/-- Plate 0 with a tile of D8 in slot 2. -/
def plate0 : Plate :=
  { ten := 0, num := 0, slots := [2], dir := [{ ty := 12, rows := 127, cols := 127, scale := 0, block := false }], uses := 0, marked := false, matched := 0,
    evictors := [] }
/-- The module with it. -/
def plated (s : State) : State :=
  { s with groups := [(0, { Group.empty with
      plates := [plate0]
      tiles := [(1, { tileReset with state := 2, tid := 2 }), (2, { tileReset with state := 2, tid := 2, pl := true })] })] }
/-- What the claim about binding asks for. -/
def bindMet (s : State) (x : Ctx) (o : EngOp) (ring : Bool) : Bool :=
  let part := fun (off n : Nat) => (o.data.drop off).take n
  let d := fun (i : Nat) => tdtDbl (dblsOf (part 0 64)) i
  let path := bitsOf (d 0) 63 62
  let kt := bitsOf (d 0) 47 40
  let tb := dblsOf (part 128 64)
  decide (ring = (bitsOf (d 0) 61 60 == 1)) && o.data.length == 1280 && !mxDescBad (d 0) (d 1) ((dblsOf (part 0 64)).drop 4) &&
    (match ringOf x (bitsOf (d 0) 59 56), ringOf x (bitsOf (d 0) 51 48), ringOf x (bitsOf (d 0) 55 52) with
     | some a, some _, some b => decide (kt ≤ a.len) && (if ring then decide (kt ≤ b.len) && !tdtBlocks tb else !mxPlateBad (mxPlate s x 0 kt) kt path o.tid)
     | _, _, _ => false) && tdtCode (dblsOf (part 64 64)) == actCode path
/-- MatrixOperations: an operation of each source of weights that is to be bound. -/
theorem witness_bind : ∀ ring : Bool, ∃ s o, unitAt s 0 0 = none ∧ (runningOf s 0 0).find? (fun o => !o.held && !ctxFrozen s o.ctx && !o.stalled) = some o ∧ opAt s o.id = some (0, o) ∧
    ctxAt s o.ctx = some matrixCtx ∧ matrixCtx.frozen = none ∧ o.kind = .matrix (lane 0) 0 ∧ bindMet s matrixCtx o ring = true := by
  intro ring
  exact ⟨plated (working (machine matrixCtx) (mxOp ring)), mxOp ring, rfl, rfl, rfl, rfl, rfl, rfl, by cases ring <;> decide +kernel⟩
/-- A tile slot that an engine may read is read. -/
theorem fetch_tile (s : State) (x : Ctx) (owner v n g k o : Nat) (w : Option (BitVec 10))
    (h : (match engPlace s x v n true w with
      | .ok p => some p
      | .error _ => none) = some (.tile g k o))
    (hb : sramBad s (slotAddr g k o) n = none) : engFetch s x owner v n w = (s, .ok (slotRead s g k o n)) := by
  unfold engFetch
  cases hp : engPlace s x v n true w with
  | error c => simp [hp] at h
  | ok p =>
    simp only [hp, Option.some.injEq] at h
    subst h
    simp only [hb]
/-- The module with the unit bound and its tiles ready. -/
def firingUnit : State :=
  { plated (upWith (machine matrixCtx) []) with presses := [(0, { Press.empty with units := [(0, boundOf mxOne)] })] }
/-- A firing whose tiles are there. -/
theorem witness_firing : ∃ s1 s2 l es, unitAt firingUnit 0 0 = some (boundOf mxOne) ∧ ctxAt firingUnit 0 = some matrixCtx ∧ mxOwes (boundOf mxOne) = true ∧
    mxSlots firingUnit matrixCtx mxOne = some ([1], [2], 3) ∧ mxPresent firingUnit 0 ([1], [2], 3) = true ∧ (boundOf mxOne).staging.length < 4 ∧
    (∀ k ∈ [1] ++ [2], slotReads firingUnit 0 k = false) ∧ shareTurn firingUnit 0 0 = some s1 ∧ tilesRead s1 matrixCtx none ([1] ++ [2]) = .ok l ∧
    scalesRead s1 matrixCtx (boundOf mxOne) 0 [] = (s2, .ok es) := by
  have f1 := fetch_tile firingUnit matrixCtx 0 (slotHandle 1) 16384 0 1 0 none (by decide +kernel) (by decide +kernel)
  have f2 := fetch_tile firingUnit matrixCtx 0 (slotHandle 2) 16384 0 2 0 none (by decide +kernel) (by decide +kernel)
  have h : tilesRead firingUnit matrixCtx none ([1] ++ [2]) =
      .ok [slotRead firingUnit 0 1 0 16384, slotRead firingUnit 0 2 0 16384] := by
    simp only [List.cons_append, List.nil_append, tilesRead, f1, f2, engGot]
  exact ⟨firingUnit, firingUnit, _, [], rfl, rfl, rfl, by decide +kernel, by decide +kernel, by decide, by decide +kernel, by decide +kernel, h, rfl⟩
/-- A staged output without own bits, and with own bits that are not caught; its slot Filling. -/
theorem witness_staged : ∃ s b x t r, unitAt s 0 0 = some b ∧ ctxAt s b.op.ctx = some x ∧ x.frozen = none ∧ b.staging = t :: r ∧ t.own &&& x.eenable = 0 ∧
    t.own = 0b01000 ∧ (tileAt s x.group t.slot).state = 1 ∧ (tileAt s x.group t.slot).ten.toNat = x.ten :=
  ⟨{ firingUnit with
      groups := [(0, { Group.empty with tiles := [(3, { tileReset with state := 1, tid := 2 })] })]
      presses := [(0, { Press.empty with units := [(0, { boundOf mxOne with staging := [⟨3, zeros 16384, 0b01000, 0b01000, false⟩] })] })] }, _,
    matrixCtx, _, _, rfl, rfl, rfl, rfl, by decide, rfl, by decide +kernel, by decide +kernel⟩

/-- A Graver operation at work, of tensor 0. -/
def gvOp (k : EngKind) : EngOp := { opOf 2 k with tid := 0 }
/-- The module with it. -/
def walking (k : EngKind) : State := working (upWith (machine idle) []) (gvOp k)
/-- The pattern of one element that a descriptor of zeros gives. -/
def gvOne : GvConfig := gvConfig (dblsOf (zeros 64)) (tdtOwn (walking (.graverRun false none 0)) idle 0) false 0
/-- GraverOperations: a configuration whose descriptor lies in the window; a run that starts; and one with its last element to read. -/
theorem witness_graver :
    (∃ s1 s2 bs e, opAt (walking (.graverConfig (lane 0) false)) 7 = some (0, gvOp (.graverConfig (lane 0) false)) ∧
      (gvOp (.graverConfig (lane 0) false)).pos = 0 ∧ (gvOp (.graverConfig (lane 0) false)).stalled = false ∧
      engFetch (walking (.graverConfig (lane 0) false)) idle (opOwner 7) (lane 0) 64 none = (s1, .ok bs) ∧ gvBad (dblsOf bs) false 0 = false ∧
      tensorRead s1 idle (opOwner 7) 0 = (s2, .ok e) ∧ (gvConfig (dblsOf bs) e false 0).ringed = false) ∧
    (∃ x, ctxAt { walking (.graverRun false none 0) with ctxs := [(0, { idle with graver := [(2, gvOne)] })] } 0 = some x ∧
      tabFind x.graver (gvOp (.graverRun false none 0)).queue = some gvOne) ∧
    ∃ s1 e, gvOne.store = false ∧ gvOne.ringed = false ∧ gvOne.total = 1 ∧ 0 < e ∧ ([0] : List Nat) ≠ [] ∧
      gvReads (min gvOne.total ((0 / gvOne.run + 1) * gvOne.run) - 0) (walking (.graverRun false (some gvOne) 0)) idle
        (gvOp (.graverRun false (some gvOne) 0)) gvOne 0 0 = (s1, [0], e, .ok ()) := by
  refine ⟨⟨_, _, zeros 64, _, rfl, rfl, rfl, pair_ok _ _ (by decide +kernel), by decide +kernel, rfl, by decide +kernel⟩, ⟨_, rfl, rfl⟩, ?_⟩
  exact ⟨(gvReads (min gvOne.total ((0 / gvOne.run + 1) * gvOne.run) - 0) (walking (.graverRun false (some gvOne) 0)) idle
        (gvOp (.graverRun false (some gvOne) 0)) gvOne 0 0).1, 1, by decide +kernel, by decide +kernel, by decide +kernel, by decide, by decide,
    pair_ok _ ([0], 1, EngGot.ok ()) (by decide +kernel)⟩


/-! The digest of an image of one tile that is all zero: SHA-256's rounds with their words computed one by one, the same by proof. -/

/-- `f n`, with `n` computed first. -/
def strict {α : Type} (n : Nat) (f : Nat → α) : α := match n with
  | 0 => f 0
  | k + 1 => f (k + 1)
theorem strict_eq {α : Type} (n : Nat) (f : Nat → α) : strict n f = f n := by cases n <;> rfl
/-- The exclusive or of three windows of `d` over `c` copies of a number, without notation. -/
def spinOver (c d j m n v : Nat) : Nat :=
  strict (Nat.mul v c) fun w => Nat.xor (Nat.mod (Nat.shiftRight w j) d)
    (Nat.xor (Nat.mod (Nat.shiftRight w m) d) (Nat.xor (Nat.mod (Nat.shiftRight w n) d) 0))
theorem spinOver_eq (c d j m n v : Nat) : spinOver c d j m n v = [j, m, n].foldr (fun n acc => ((v * c) >>> n) % d ^^^ acc) 0 := by
  rw [spinOver, strict_eq]; rfl
/-- `spin` of three counts without notation. -/
def spinBare (j m n v : Nat) : Nat := spinOver 4294967297 4294967296 j m n v
theorem spinBare_eq (j m n v : Nat) : spinBare j m n v = spin [j, m, n] v := spinOver_eq ..
/-- The rounds of a block of zeros with these constants, and then `k`. -/
def rounds (l : List Nat) (k : Nat → Nat → Nat → Nat → Nat → Nat → Nat → Nat → List Nat) (a b c d e f g i : Nat) : List Nat :=
  match l with
  | [] => k a b c d e f g i
  | w :: r =>
    strict (Nat.add (Nat.add (Nat.add (Nat.add w 0) i) (Nat.xor g (Nat.land e (Nat.xor f g)))) (spinBare 6 11 25 e)) fun u =>
    strict (Nat.mod (Nat.add (Nat.add u (spinBare 2 13 22 a)) (Nat.lor (Nat.land a b) (Nat.land c (Nat.lor a b)))) 4294967296) fun x =>
    strict (Nat.mod (Nat.add u d) 4294967296) fun y => rounds r k x a b c y e f g
/-- What a block of zeros adds to the hash value, and then `k`. -/
def zeroBlock (k : Nat → Nat → Nat → Nat → Nat → Nat → Nat → Nat → List Nat) (a b c d e f g i : Nat) : List Nat :=
  rounds shaK (fun a' b' c' d' e' f' g' i' =>
    strict (Nat.mod (Nat.add a a') 4294967296) fun a => strict (Nat.mod (Nat.add b b') 4294967296) fun b =>
    strict (Nat.mod (Nat.add c c') 4294967296) fun c => strict (Nat.mod (Nat.add d d') 4294967296) fun d =>
    strict (Nat.mod (Nat.add e e') 4294967296) fun e => strict (Nat.mod (Nat.add f f') 4294967296) fun f =>
    strict (Nat.mod (Nat.add g g') 4294967296) fun g => strict (Nat.mod (Nat.add i i') 4294967296) fun i => k a b c d e f g i) a b c d e f g i
/-- The hash value after `n` blocks of zeros. -/
def zeroBlocks (n a b c d e f g i : Nat) : List Nat := match n with
  | 0 => [a, b, c, d, e, f, g, i]
  | n + 1 => zeroBlock (zeroBlocks n) a b c d e f g i

theorem rounds_eq (l : List Nat) : ∀ a b c d e f g i, ∃ a' b' c' d' e' f' g' i',
    (l.map fun k => (k, 0)).foldl shaRound [a, b, c, d, e, f, g, i] = [a', b', c', d', e', f', g', i'] ∧
    ∀ k, rounds l k a b c d e f g i = k a' b' c' d' e' f' g' i' := by
  induction l with
  | nil => exact fun a b c d e f g i => ⟨a, b, c, d, e, f, g, i, rfl, fun _ => rfl⟩
  | cons w r ih =>
    intro a b c d e f g i
    obtain ⟨a', b', c', d', e', f', g', i', h, hk⟩ := ih _ a b c _ e f g
    refine ⟨a', b', c', d', e', f', g', i', h, fun k => ?_⟩
    rw [rounds, strict_eq, strict_eq, strict_eq, spinBare_eq, spinBare_eq]
    exact hk k
theorem zeroBlock_eq (a b c d e f g i : Nat) : ∃ a' b' c' d' e' f' g' i',
    shaBlock [a, b, c, d, e, f, g, i] (zeros 64) = [a', b', c', d', e', f', g', i'] ∧
    ∀ k, zeroBlock k a b c d e f g i = k a' b' c' d' e' f' g' i' := by
  obtain ⟨a', b', c', d', e', f', g', i', h, hk⟩ := rounds_eq shaK a b c d e f g i
  have hz : List.zip shaK (shaGrow 48 ((chunksOf 4 16 (zeros 64)).map beNat).reverse).reverse = shaK.map fun k => (k, 0) := by decide +kernel
  refine ⟨_, _, _, _, _, _, _, _, by simp only [shaBlock, hz, h]; rfl, fun k => ?_⟩
  rw [zeroBlock, hk]
  simp only [strict_eq]
  rfl
theorem zeroBlocks_eq (n : Nat) : ∀ a b c d e f g i,
    (List.replicate n (zeros 64)).foldl shaBlock [a, b, c, d, e, f, g, i] = zeroBlocks n a b c d e f g i := by
  induction n with
  | zero => exact fun a b c d e f g i => rfl
  | succ n ih =>
    intro a b c d e f g i
    obtain ⟨a', b', c', d', e', f', g', i', h, hk⟩ := zeroBlock_eq a b c d e f g i
    rw [List.replicate_succ, List.foldl_cons, h, ih, zeroBlocks, hk]
theorem chunks_zero (n m : Nat) (l : List Byte) : chunksOf 64 (n + m) (zeros (64 * n) ++ l) = List.replicate n (zeros 64) ++ chunksOf 64 m l := by
  induction n with
  | zero => simp [zeros]
  | succ n ih =>
    have e : zeros (64 * (n + 1)) ++ l = zeros 64 ++ (zeros (64 * n) ++ l) := by
      rw [← List.append_assoc]
      congr 1
    have hl : (zeros 64).length = 64 := by simp [zeros]
    rw [e, Nat.add_right_comm, chunksOf, if_neg (by simp [zeros]), List.take_left' hl, List.drop_left' hl, ih]
    rfl
/-- The digest of the image's tiles with its directory. -/
def zeroDigest : List Byte :=
  [0x00, 0xac, 0x63, 0xe5, 0x21, 0x49, 0xfc, 0x5b, 0xd3, 0xfb, 0x4f, 0xc0, 0xe7, 0x02, 0x73, 0x22, 0x0b, 0xb9, 0xc8, 0x9e, 0x2f, 0x31, 0xa5, 0x7d,
   0x84, 0x2e, 0x5f, 0x82, 0xc3, 0xeb, 0xd9, 0x9b]
theorem zero_digest : sha256 (zeros 32512) = zeroDigest := by
  have hl : (zeros 32512).length = 32512 := List.length_replicate ..
  have hm : (zeros 32512 ++ [0x80] ++ List.replicate 55 0 ++ beBytes 8 260096).length / 64 = 508 + 1 := by
    simp only [List.length_append, hl, List.length_replicate, show (beBytes 8 260096).length = 8 by decide +kernel]
    rfl
  have hc : chunksOf 64 (508 + 1) (zeros 32512 ++ ([0x80] ++ (List.replicate 55 0 ++ beBytes 8 260096))) =
      List.replicate 508 (zeros 64) ++ chunksOf 64 1 ([0x80] ++ (List.replicate 55 0 ++ beBytes 8 260096)) := chunks_zero 508 1 _
  have hb : (List.replicate 508 (zeros 64)).foldl shaBlock shaStart = zeroBlocks 508 0x6a09e667 0xbb67ae85 0x3c6ef372 0xa54ff53a 0x510e527f 0x9b05688c
      0x1f83d9ab 0x5be0cd19 := zeroBlocks_eq 508 ..
  have he : ((chunksOf 64 1 ([0x80] ++ (List.replicate 55 0 ++ beBytes 8 260096))).foldl shaBlock
      (zeroBlocks 508 0x6a09e667 0xbb67ae85 0x3c6ef372 0xa54ff53a 0x510e527f 0x9b05688c 0x1f83d9ab 0x5be0cd19)).flatMap (beBytes 4) = zeroDigest := by
    decide +kernel
  have hs : sha256 (zeros 32512) = ((chunksOf 64 ((zeros 32512 ++ [0x80] ++ List.replicate 55 0 ++ beBytes 8 260096).length / 64)
      (zeros 32512 ++ [0x80] ++ List.replicate 55 0 ++ beBytes 8 260096)).foldl shaBlock shaStart).flatMap (beBytes 4) := by
    simp only [sha256, hl]
  rw [hs, hm, List.append_assoc, List.append_assoc, hc, List.foldl_append, hb, he]

/-- An image's header and directory: a digest, the signature, and the rest zero. -/
def headBytes (r : Nat) : List Byte := (1 :: zeros 31) ++ zeroDigest ++ beBytes 32 r ++ beBytes 32 r ++ zeros 144
/-- A number that is a signature's two halves, the digest of what is signed and a point's first coordinate at once. -/
def sigHalf : Nat := 0x8b5a73a98ea9ddfa86560183495b6b83cf637ea886573a87a9df816be262e78e
/-- A load of tenancy 0's plate 7, of `t` tiles. -/
def loadOfTiles (t : Nat) (slots : List Nat) (head : List Byte) : Load :=
  { id := 3, ten := 0, num := 7, image := 2 ^ 60, running := true, overdue := false, retried := false, slots := slots, tiles := t, head := head,
    keys := [], key := (0xfb98ec17daf9b5e501785f8299147de58fc063607703008013cae738c6aac9ee, 0x10045ee06b267cb438949e46431f0908bf4e74e333260118e5bca2e4c638a577),
    wanted := [], replies := [], evictors := [], reports := [], startedAt := 0 }
/-- A Group's state put in. -/
def grouped (s : State) (q : Group) : State := { s with groups := [(0, q)] }
theorem moved {m : FireMode} {s t : State} {f : Firing} (h : Acting m s f) (e : t.cur = s.cur) : Acting m t f := ⟨e.trans h.1, h.2, h.3, h.4⟩
/-- Plates, the instructions: no Group ready; one that is, with the plate present, absent, and with its load in progress. -/
theorem witness_plate_ld : ∀ v : Dbl, v = 0x7000000000001 ∨ v = 0x7FC0000000001 →
    ∃ s1 s2 s3 s4 f x, Acting .always s1 f ∧ Acting .always s2 f ∧ Acting .always s3 f ∧ Acting .always s4 f ∧ ctxAt s1 f.ctx = some x ∧
      ctxAt s2 f.ctx = some x ∧ ctxAt s3 f.ctx = some x ∧ ctxAt s4 f.ctx = some x ∧ oneValue f .w64 v ∧
      (v.extractLsb' 48 16).toNat = 7 ∧
      let g := if v.extractLsb' 42 1 = 1 then (v.extractLsb' 43 5).toNat else x.group
      groupReady s1 g = false ∧ groupReady s2 g = true ∧ loadOf s2 g x.ten 7 = none ∧ plateHere s2 g x.ten 7 = true ∧
      groupReady s3 g = true ∧ plateHere s3 g x.ten 7 = false ∧ groupReady s4 g = true ∧ (loadOf s4 g x.ten 7).isSome = true := by
  intro v h
  let put := fun (q : Group) => { upWith (acting idle (dbl v)) [] with groups := [(0, q), (31, q)] }
  refine ⟨acting idle (dbl v), put { Group.empty with plates := [{ plate0 with num := 7 }] }, put Group.empty,
    put { Group.empty with loads := [loadOfTiles 1 [] []] }, dbl v, idle, acts_dbl idle v, moved (acts_dbl idle v) rfl,
    moved (acts_dbl idle v) rfl, moved (acts_dbl idle v) rfl, rfl, rfl, rfl, rfl, one_dbl v, ?_⟩
  rcases h with rfl | rfl <;> decide +kernel
/-- The requests: a plate that is there, one whose load is in progress, and none. -/
theorem witness_plate_ev : ∃ (w : Word) (s1 s2 s3 : State) (f : Firing) (x : Ctx) (l : Load), Acting .always s1 f ∧ Acting .always s2 f ∧
    Acting .always s3 f ∧ ctxAt s1 f.ctx = some x ∧ ctxAt s2 f.ctx = some x ∧ ctxAt s3 f.ctx = some x ∧ oneValue f .w32 (w.setWidth 64) ∧
    w.extractLsb' 22 10 = 0 ∧ w.extractLsb' 21 1 = 1 ∧ (w.extractLsb' 16 5).toNat = 0 ∧ (w.extractLsb' 0 16).toNat = 7 ∧
    (plateAt s1 0 x.ten 7).isSome = true ∧ plateAt s2 0 x.ten 7 = none ∧ loadOf s2 0 x.ten 7 = some l ∧ plateAt s3 0 x.ten 7 = none ∧
    loadOf s3 0 x.ten 7 = none :=
  ⟨0x200007, grouped (acting idle (word 0x200007)) { Group.empty with plates := [{ plate0 with num := 7 }] },
    grouped (acting idle (word 0x200007)) { Group.empty with loads := [loadOfTiles 1 [] []] }, acting idle (word 0x200007), word 0x200007, idle,
    loadOfTiles 1 [] [], moved (acts_word idle _) rfl, moved (acts_word idle _) rfl, acts_word idle _, rfl, rfl, rfl, one_word _, by decide, by decide, by decide,
    by decide, by decide +kernel, by decide +kernel, by decide +kernel, by decide +kernel, by decide +kernel⟩
/-- Plates, a load that has passed its checks: of one tile, and of as many as the Group has free. -/
theorem witness_plate_start : ∀ t, t = 1 ∨ t = 768 → ∃ s l, loadAt s 0 3 = some l ∧ l.slots = [] ∧ l.running = true ∧ l.head ≠ [] ∧ l.tiles = t ∧
    l.tiles ≤ (emptySlots s 0).length := by
  intro t h
  refine ⟨grouped (machine idle) { Group.empty with loads := [loadOfTiles t [] (headBytes 0)] }, loadOfTiles t [] (headBytes 0), rfl, rfl, rfl, ?_, rfl, ?_⟩
  · rcases h with rfl | rfl <;> decide +kernel
  · rcases h with rfl | rfl <;> decide +kernel
/-- The module with a load whose image is all there, of zeros from its directory on, and with some check words spoiled. -/
def imaged (r : Nat) (bad : List Nat) : State :=
  { grouped (upWith (machine idle) []) { Group.empty with loads := [loadOfTiles 1 [5] (headBytes r)] } with spoiled := bad }
theorem imaged_bad (r : Nat) (bad : List Nat) (a n : Nat) :
    hbmBad (imaged r bad) a n = ((granules a n).find? fun g => bad.contains (2 * g)).map (64 * ·) := rfl
theorem memRead_nil (a n : Nat) : memRead [] a n = zeros n := by
  simp only [memRead, List.filter_nil, zeros]
  exact List.ext_getElem (by simp) fun i _ _ => by simp [memByte, tabGet, tabFind]
theorem image_read (r : Nat) (bad : List Nat) (h : bad = [] ∨ bad = [0]) :
    imageRead (imaged r bad) (loadOfTiles 1 [5] (headBytes r)) 272 32496 = (imaged r bad, .ok (zeros 32496)) := by
  have h1 : Config.hbmBytes < (loadOfTiles 1 [5] (headBytes r)).image - 2 ^ 60 + 272 + 32496 ↔ False := by
    simp only [loadOfTiles]
    decide +kernel
  have h2 : stackReady (imaged r bad) ((loadOfTiles 1 [5] (headBytes r)).image - 2 ^ 60 + 272) = true :=
    show readyBit (upWith (machine idle) []) (288 + (2 ^ 60 - 2 ^ 60 + 272) / Config.stackBytes) = true by decide +kernel
  have h3 : hbmBad (imaged r bad) ((loadOfTiles 1 [5] (headBytes r)).image - 2 ^ 60 + 272) 32496 = none := by
    rw [imaged_bad]
    show ((granules (2 ^ 60 - 2 ^ 60 + 272) 32496).find? _).map _ = none
    rcases h with rfl | rfl <;> decide +kernel
  have h4 : 2 ^ 60 ≤ (loadOfTiles 1 [5] (headBytes r)).image := Nat.le_refl _
  have h5 (a n : Nat) : hbmRead (imaged r bad) a n = zeros n := memRead_nil a n
  unfold imageRead
  simp only [if_pos h4, h1, h2, h3, h5]
  rfl
theorem nothing_dropped (s : State) (o : Nat) (h : s.remoteBuf.isEmpty = true) : dropRemote s o = s := by simp only [dropRemote, h, if_true]
/-- The check words of its header and directory: all good, and the first one bad. -/
theorem image_spoiled (r : Nat) (bad : List Nat) : imageSpoiled (dropRemote (imaged r bad) (loadOwner 3)) (loadOfTiles 1 [5] (headBytes r)) 0 272 =
    (((granules 0 272).find? fun g => bad.contains (2 * g)).map (64 * ·)).map fun g => (checkAux 2 g, 0) := by
  have h4 : 2 ^ 60 ≤ (loadOfTiles 1 [5] (headBytes r)).image := Nat.le_refl _
  unfold imageSpoiled imageParts
  rw [if_pos h4]
  have ha : (loadOfTiles 1 [5] (headBytes r)).image - 2 ^ 60 + 0 = 0 := show 2 ^ 60 - 2 ^ 60 + 0 = 0 by decide
  rw [nothing_dropped _ _ rfl, ha]
  simp only [Option.getD_some, List.findSome?_cons, List.findSome?_nil, imaged_bad]
  cases ((granules 0 272).find? fun g => bad.contains (2 * g)) <;> rfl
theorem head_cut (r : Nat) (h : r = sigHalf ∨ r = 0) : (headBytes r).drop 256 = zeros 16 ∧ ((headBytes r).drop 0x20).take 32 = zeroDigest ∧
    ((headBytes r).drop 0x40).take 32 = beBytes 32 r ∧ ((headBytes r).drop 0x60).take 32 = beBytes 32 r ∧
    (headBytes r).take 0x40 = (1 :: zeros 31) ++ zeroDigest := by
  rcases h with rfl | rfl <;> decide +kernel
/-- Plates, an image that has all come, signed and not signed; and one whose first check word is bad. -/
theorem witness_plate_complete : ∀ r, r = sigHalf ∨ r = 0 → ∃ s s1 l rest, loadAt s 0 3 = some l ∧ l.slots ≠ [] ∧
    imageRead s l (256 + 16 * l.tiles) (tilesAt l.tiles + 16384 * l.tiles - (256 + 16 * l.tiles)) = (s1, .ok rest) ∧
    imageSpoiled (dropRemote s1 (loadOwner 3)) l 0 (256 + 16 * l.tiles) = none ∧
    imageSigned l (l.head.drop 256 ++ rest) = decide (r = sigHalf) := by
  intro r h
  obtain ⟨c1, c2, c3, c4, c5⟩ := head_cut r h
  have e1 : tilesAt (loadOfTiles 1 [5] (headBytes r)).tiles + 16384 * (loadOfTiles 1 [5] (headBytes r)).tiles -
      (256 + 16 * (loadOfTiles 1 [5] (headBytes r)).tiles) = 32496 := show tilesAt 1 + 16384 * 1 - (256 + 16 * 1) = 32496 by decide +kernel
  refine ⟨imaged r [], imaged r [], loadOfTiles 1 [5] (headBytes r), zeros 32496, rfl, List.cons_ne_nil _ _, by rw [e1]; exact image_read r [] (.inl rfl), image_spoiled r [], ?_⟩
  have hb : (loadOfTiles 1 [5] (headBytes r)).head.drop 256 ++ zeros 32496 = zeros 32512 := by
    show (headBytes r).drop 256 ++ _ = _
    rw [c1]
    exact List.replicate_append_replicate ..
  show (sha256 ((loadOfTiles 1 [5] (headBytes r)).head.drop 256 ++ zeros 32496) == ((headBytes r).drop 0x20).take 32 &&
    ecdsaVerify (sha256 ((headBytes r).take 0x40)) (beNat (((headBytes r).drop 0x40).take 32)) (beNat (((headBytes r).drop 0x60).take 32))
      (loadOfTiles 1 [5] (headBytes r)).key.1 (loadOfTiles 1 [5] (headBytes r)).key.2) = _
  rw [hb, zero_digest, c2, c3, c4, c5]
  rcases h with rfl | rfl <;> decide +kernel
theorem witness_plate_spoiled : ∃ s s1 l rest aux a, loadAt s 0 3 = some l ∧ l.slots ≠ [] ∧
    imageRead s l (256 + 16 * l.tiles) (tilesAt l.tiles + 16384 * l.tiles - (256 + 16 * l.tiles)) = (s1, .ok rest) ∧
    imageSpoiled (dropRemote s1 (loadOwner 3)) l 0 (256 + 16 * l.tiles) = some (aux, a) := by
  have e1 : tilesAt (loadOfTiles 1 [5] (headBytes 0)).tiles + 16384 * (loadOfTiles 1 [5] (headBytes 0)).tiles -
      (256 + 16 * (loadOfTiles 1 [5] (headBytes 0)).tiles) = 32496 := show tilesAt 1 + 16384 * 1 - (256 + 16 * 1) = 32496 by decide +kernel
  exact ⟨imaged 0 [0], imaged 0 [0], loadOfTiles 1 [5] (headBytes 0), zeros 32496, checkAux 2 0, 0, rfl, List.cons_ne_nil _ _,
    by rw [e1]; exact image_read 0 [0] (.inr rfl), (image_spoiled 0 [0]).trans (by decide +kernel)⟩
/-- Plates, a marked plate that nothing uses. -/
theorem witness_plate_gone : ∃ s p, plateAt s 0 0 0 = some p ∧ p.marked = true ∧ plateBusy s 0 p = false ∧ p.slots = [2] ∧
    ∀ k ∈ p.slots, slotReads s 0 k = false :=
  ⟨grouped (machine idle) { Group.empty with plates := [{ plate0 with marked := true }] }, { plate0 with marked := true }, rfl, rfl, by decide +kernel, rfl,
    by decide +kernel⟩

/-- A stimulus for agent 5 of tenancy 0 with 16 bytes of payload, its check word not yet made. -/
def packet : List Byte := stimHead 1 0 0 0 0 false 5 0 0 ++ zeros 16
/-- A fabric of one neighbour, 255, which is device 9: its pilot is wavelength 0, and wavelength 1 is its other. -/
def wired : Fabric :=
  { circuit := [(0, 0xC00000FF), (1, 0x800000FF)], nbrs := [(255, BitVec.ofNat 64 (2 ^ 63 + 9 * 2 ^ 42 + 1))], routes := [(9, 0x800000FF)] }
/-- The module with that fabric running. -/
def linked (s : State) : State := { upWith s [(0x371, BitVec.ofNat 64 (2 ^ 58))] with fabric := some wired }
/-- An emission of the packet at the start of the window. -/
def emits (y : Dbl) : Firing := firing (some (one .w64 (BitVec.ofNat 64 (lane 0)))) (some (one .w32 y)) none
/-- The module with that packet in the window. -/
def emitting (y : Dbl) : State :=
  { linked (acting idle (emits y)) with steps := [(0, { step0 with window := memWrite [] 0 packet })] }
/-- What the claim about emissions asks for before the packet is sent. -/
def emitMet (y : Nat) (s : State) (f : Firing) (x : Ctx) : Bool :=
  let raw := keptBytes (keepBytes f packet)
  aFirst .always f % 16 == 0 && bFirst .always f == y && emitReady s f.ctx x (aFirst .always f) && stimTen raw == x.ten && !stimBad (emitSeen false raw) &&
    !stimBad (emitSeen true raw) && (freeXtag s).isSome && !manyElems f &&
    earlierDone s f.ctx (x.entry + 1) 0 3 && earlierDone s f.ctx (x.entry + 1) 0 4
/-- Emissions: to the device itself, to device 9, and to sink ring 7. -/
theorem witness_emissions : ∀ y, y = 2 ^ 32 - 1 ∨ y = 9 ∨ y = 7 → ∃ s s1 s2 f x w,
    Acting .always s f ∧ f.waive = none ∧ f.done ≠ 1 ∧ ctxAt s f.ctx = some x ∧ emitMet y s f x = true ∧
    packetRead s x (emitOwner f.ctx f.inst) (aFirst .always f) 16 = (s1, .ok (packet.take 16)) ∧
    packetRead s1 x (emitOwner f.ctx f.inst + 2 ^ 50) (aFirst .always f) ((stimLen (packet.take 16) + 1) * 16) = (s2, .ok packet) ∧ s2 = s ∧
    raceAccess s2 f.ctx (emitRace f (aFirst .always f)) true (engLines s2 x (aFirst .always f) packet.length .read) = .ok s ∧ stepAt s x.stp = some w ∧
    w.held.length < Config.heldArea ∧ (∀ scope, ctxRelease s f.ctx scope = (.ok s, none)) ∧
    (y = 2 ^ 32 - 1 → emitDest s false y = some (deviceNumber s)) ∧
    (y = 9 → emitDest s false y = some 9 ∧ deviceNumber s ≠ 9 ∧ linkTo s 9 = some 255) := by
  intro y h
  refine ⟨emitting (BitVec.ofNat 64 y), emitting (BitVec.ofNat 64 y), emitting (BitVec.ofNat 64 y), emits (BitVec.ofNat 64 y), idle, _,
    moved (acts idle (emits (BitVec.ofNat 64 y)) .always rfl rfl rfl) rfl, rfl, nofun, rfl, ?_, ?_, ?_, rfl, ?_, rfl, ?_, ?_, ?_, ?_⟩
  · rcases h with rfl | rfl | rfl <;> decide +kernel
  · rcases h with rfl | rfl | rfl <;> decide +kernel
  · rcases h with rfl | rfl | rfl <;> decide +kernel
  · rcases h with rfl | rfl | rfl <;> rfl
  · decide
  · intro scope
    have ha : actorOf (emitting (BitVec.ofNat 64 y)) (emits (BitVec.ofNat 64 y)).ctx = some (emitting (BitVec.ofNat 64 y), none) := by
      rcases h with rfl | rfl | rfl <;> decide +kernel
    simp only [ctxRelease, ha]
  · rintro rfl
    decide +kernel
  · rintro rfl
    decide +kernel

/-- The module with a request for a child at VA 16, whose header is there. -/
def spawning : State :=
  { upWith (machine (alone (.spawn .always 1 1))) [(0x407, 1)] with
    presses := [(0, { Press.empty with tlb := [page0], spawns := [(word 7, 0)] })], hbm := memWrite [] 16 (leBytes 4 0xB0E10002 ++ zeros 12) }
/-- Its header read. -/
def spawned : State × Got (List Byte) :=
  vaRead spawning (some (0, 0)) (spawnOwner 0) 0 .exec (spawnAt (alone (.spawn .always 1 1)) (word 7)).1 16
theorem no_actor (s : State) (c : Nat) (x : Ctx) (h : ctxAt s c = some x) (hd : domOf s x.ten = none) (n : Nat) : ctxRelease s c n = (.ok s, none) := by
  have ha : actorOf s c = some (s, none) := by simp only [actorOf, h, hd]
  simp only [ctxRelease, ha]
/-- ChildrenAreSpawned: a request; one whose child's header allows it; one that waits for the limit of Spawn Starve Cycles. -/
theorem witness_spawn :
    (∃ s f x, Acting .always s f ∧ ctxAt s f.ctx = some x ∧ hasWidths f .w32 .w32 .w32) ∧
    (∃ s1 y bs, (pressAt spawning 0).spawns.find? (fun e => !ctxFrozen spawning e.1.ctx) = some (word 7, 0) ∧ (freeTag spawning 0 true).isSome = true ∧
      ctxAt spawning 0 = some (alone (.spawn .always 1 1)) ∧ (word 7).waive = none ∧ spawned = (s1, .ok bs) ∧ blkSpawn (wordsOf bs) = true ∧
      domOf s1 0 = none ∧ (∀ d, domOf s1 0 = some d → freeSlot s1 d ≠ none) ∧ ctxRelease s1 0 1 = (.ok s1, none) ∧ ctxAt s1 0 = some y) ∧
    ∃ (s : State) (x : Ctx), (pressAt s 0).spawns = (word 7, 0) :: [] ∧ ctxAt s 0 = some x ∧
      csrBits s 0x307 30 0 ≤ cyclesOf (starvedFor s 0) := by
  refine ⟨⟨_, word 7, idle, acts_word idle 7, rfl, ?_⟩, ⟨spawned.1, alone (.spawn .always 1 1), leBytes 4 0xB0E10002 ++ zeros 12, by decide +kernel,
    by decide +kernel, rfl, rfl, pair_ok spawned (.ok (leBytes 4 0xB0E10002 ++ zeros 12)) (by decide +kernel), by decide +kernel, by decide +kernel,
    fun _ h => absurd h (by rw [show domOf spawned.1 0 = none by decide +kernel]; exact nofun), no_actor _ _ _ (show ctxAt spawned.1 0 = some (alone (.spawn .always 1 1)) by decide +kernel) (by decide +kernel) _, by decide +kernel⟩,
    ⟨{ spawning with now := 2 ^ 31 }, _, rfl, rfl, by decide +kernel⟩⟩
  refine ⟨?_, ?_, ?_⟩ <;> intro t h <;> cases h <;> rfl

/-- A step with 32 members. -/
def step32 : StepRec :=
  { step0 with members := (List.range 32).map fun k => { agent := k, stim := { bytes := zeros 16, clock := none, card := none }, sbase := 0 } }
/-- RestAndAgentRequests: all members, and the last of them; an agent and words of its requests with every bit set that may be. -/
theorem witness_rest :
    (∃ s f x, Acting .always s f ∧ ctxAt s f.ctx = some x ∧ List.range (memberCount s x) ≠ [] ∧
      ∀ k, (h : k < (List.range (memberCount s x)).length) → (List.range (memberCount s x))[k] < memberCount s x ∧
        (List.range (memberCount s x))[k] ∉ x.rests ++ (List.range (memberCount s x)).take k) ∧
    (∃ s f x, Acting .onTrue s f ∧ ctxAt s f.ctx = some x ∧ ((firedElems .onTrue f).map fun j => (f.iter + j) % 65536) = [31] ∧
      31 < memberCount s x ∧ 31 ∉ x.rests) := by
  refine ⟨⟨acting idle (word 0), word 0, idle, acts_word idle 0, rfl, by decide, ?_⟩,
    ⟨{ acting idle { firing none none none with p := some { one .w32 1 with iter := 31 }, iter := 31 } with steps := [(0, step32)] },
      { firing none none none with p := some { one .w32 1 with iter := 31 }, iter := 31 }, idle, ⟨rfl, rfl, rfl, rfl⟩, rfl, by decide +kernel,
      by decide +kernel, by decide⟩⟩
  intro k h
  have : k = 0 := Nat.lt_one_iff.mp h
  subst this
  exact ⟨by simpa using h, by simp [show idle.rests = [] from rfl]⟩
theorem witness_agent_requests :
    (∃ (w : Word) (s : State) (f : Firing) (x : Ctx) (b : Token), Acting .always s f ∧ ctxAt s f.ctx = some x ∧
      f.a.map (fun t => (t.ew, t.vals)) = some (.w32, [w.setWidth 64]) ∧ f.len = 1 ∧ manyElems f = false ∧ f.b = some b ∧ b.ew = .w32 ∧
      w.extractLsb' 28 4 = 0 ∧ bitsOf (bFirst .always f) 31 16 = 0 ∧ w = 0x0FFFFFFF ∧ bitsOf (bFirst .always f) 15 0 = 0xFFFF) ∧
    ∀ v : Dbl, v = 0x000000FE0FFFFFFF ∨ v = 0x600000000FFFFFFF → ∃ s f x, Acting .always s f ∧ ctxAt s f.ctx = some x ∧ oneValue f .w64 v ∧
      (v = 0x000000FE0FFFFFFF → v.extractLsb' 40 24 = 0 ∧ v.extractLsb' 28 5 = 0) ∧
      (v = 0x600000000FFFFFFF → v.extractLsb' 63 1 = 0 ∧ v.extractLsb' 28 33 = 0) :=
  ⟨⟨0x0FFFFFFF, _, firing (some (one .w32 0x0FFFFFFF)) (some (one .w32 0xFFFF)) none, idle, _, acts idle _ _ rfl rfl rfl, rfl, rfl, rfl, rfl, rfl, rfl,
      by decide, by decide +kernel, rfl, by decide +kernel⟩,
    fun v _ => ⟨_, dbl v, idle, acts_dbl idle v, rfl, one_dbl v, fun h => by subst h; decide, fun h => by subst h; decide⟩⟩

/-- A word that names cohort 4095 at this device or at device 9, and agent 0. -/
def cohWord (here : Bool) : Nat := (if here then 2 ^ 49 else 9 * 2 ^ 50) + 4095
/-- A firing with it. -/
def cohFires (here : Bool) : Firing := firing (some (one .w64 (BitVec.ofNat 64 (cohWord here)))) (some (one .w32 5)) none
/-- CohortOperations, at its context: a home that is this device and one that is not. -/
theorem witness_cohort_sends : ∀ here : Bool, ∃ s f x, Acting .always s f ∧ ctxAt s f.ctx = some x ∧ x.frozen = none ∧ f.waive = none ∧
    cohPieces (fun j => cohHome s (elemAt f.a j) * 4096 + bitsOf (elemAt f.a j) 11 0) (firedElems .always f) = [(0, f.len)] ∧
    cohHome s (elemAt f.a ((firedElems .always f).headD 0)) = (if here then deviceNumber s else 9) ∧ deviceNumber s ≠ 9 ∧ linkTo s 9 ≠ none ∧
    freeXtag s ≠ none ∧ ([0, 1, 3, 2, 8, 9, 10, 11, 12, 13].all fun k => (cohFault s .always f x k).isNone) = true ∧
    arrivalReady s f.ctx x 3 = true ∧ arrivalReady s f.ctx x 4 = true ∧ ∀ n, ctxRelease s f.ctx n = (.ok s, none) := by
  intro here
  refine ⟨linked (acting idle (cohFires here)), cohFires here, idle, moved (acts idle (cohFires here) .always rfl rfl rfl) rfl, rfl, rfl, rfl, ?_, ?_, ?_, ?_, ?_,
    ?_, ?_, ?_, no_actor _ _ idle rfl ?_⟩ <;> cases here <;> decide +kernel
/-- An operation of agent 0 at its home. -/
def cohOp (xop : Nat) : CohortOp :=
  { id := 1, dev := 0, ten := 0, xop := xop, agents := [0], vals := [5], sb := 0, coh := 4095, ch := 0, reply := none, firing := none, waive := none, xtag := 0 }
/-- Its home, with cohorts enabled and the cohort's members and round. -/
def atHome (xop : Nat) (members : List (Nat × Nat)) (round : Option Round) : State :=
  { upWith (machine idle) [(0x390, 1)] with cohortOps := [cohOp xop], cohorts := [(4095, { cohortReset with members := members, round := round })] }
/-- CohortOperations, at home: a join, a leave, a query, an arrival with one to come and the last. -/
theorem witness_cohort_home :
    (∀ xop ms r, (xop, ms, r) ∈ ([(0, [(0, 1)], none), (1, [(0, 0), (0, 1)], none), (3, [], none), (2, [(0, 0), (0, 1)], none), (13, [(0, 0), (9, 0)], none),
        (8, [(0, 0), (0, 1)], some ⟨8, [(1, 7, 0)]⟩), (2, [(0, 0)], none)] : List (Nat × List (Nat × Nat) × Option Round)) →
      (atHome xop ms r).cohortOps.find? (fun o => o.dev != deviceNumber (atHome xop ms r) || o.xtag == 0) = some (cohOp xop) ∧
      (cohOp xop).dev = deviceNumber (atHome xop ms r) ∧
      cohRefuses { atHome xop ms r with cohortOps := (atHome xop ms r).cohortOps.filter fun o => o.id != (cohOp xop).id } (cohOp xop) = none ∧
      (cohortAt (atHome xop ms r) 4095).members = ms ∧ (cohortAt (atHome xop ms r) 4095).round = r) ∧
    ((0, 0) ∉ [(0, 1)]) ∧
    (∃ k ∈ [(0, 0), (0, 1)], ∀ e ∈ ([] ++ [(cohKey 0 0, 5, 0)] : List (Nat × Word × BitVec 5)), e.1 ≠ cohKey k.1 k.2) ∧
    (∃ k ∈ [(0, 0), (9, 0)], ∀ e ∈ ([] ++ [(cohKey 0 0, 5, 0)] : List (Nat × Word × BitVec 5)), e.1 ≠ cohKey k.1 k.2) ∧
    (∀ k ∈ [(0, 0), (0, 1)], ∃ e ∈ ([(1, 7, 0)] ++ [(cohKey 0 0, 5, 0)] : List (Nat × Word × BitVec 5)), e.1 = cohKey k.1 k.2) ∧
    (∀ e ∈ ([(1, 7, 0)] : List (Nat × Word × BitVec 5)), e.1 ≠ cohKey 0 0) ∧
    ∀ k ∈ [(0, 0)], ∃ e ∈ ([] ++ [(cohKey 0 0, 5, 0)] : List (Nat × Word × BitVec 5)), e.1 = cohKey k.1 k.2 := by
  refine ⟨?_, by decide, by decide +kernel, by decide +kernel, by decide +kernel, by decide +kernel, by decide +kernel⟩
  intro xop ms r h
  simp only [List.mem_cons, List.not_mem_nil, or_false, Prod.mk.injEq] at h
  rcases h with ⟨rfl, rfl, rfl⟩ | ⟨rfl, rfl, rfl⟩ | ⟨rfl, rfl, rfl⟩ | ⟨rfl, rfl, rfl⟩ | ⟨rfl, rfl, rfl⟩ | ⟨rfl, rfl, rfl⟩ | ⟨rfl, rfl, rfl⟩ <;>
  exact ⟨by decide +kernel, by decide +kernel, by decide +kernel, by decide +kernel, by decide +kernel⟩

/-- The module with the fabric of one neighbour, its two wavelengths in these states, and its link. -/
def waved (s : State) (p d : Wave) (l : Link) : State := { linked s with waves := [(0, p), (1, d)], links := [(255, l)] }
/-- A link with both its wavelengths LIVE. -/
def bothLive : Link := { linkReset with live := 3 }
/-- Leases: a request, a give, a revocation and a query of neighbour 255, each with the CSRs that allow it. -/
theorem witness_lease_requests :
    (∃ s f x, Acting .always s f ∧ oneValue f .w32 0x1000FF ∧ ctxAt s f.ctx = some x ∧ reqIllegal s (0x1000FF : Dbl).toNat = false ∧
      csrBits s 0x0F8 (16 + x.ten) (16 + x.ten) = 1) ∧
    (∃ s f x, Acting .always s f ∧ oneValue f .w32 0x1000FF ∧ ctxAt s f.ctx = some x ∧ giveIllegal s (0x1000FF : Dbl).toNat = false ∧
      csrBits s 0x0F8 (16 + x.ten) (16 + x.ten) = 1 ∧ supervisor s x = true) ∧
    ∃ s f x, Acting .always s f ∧ oneValue f .w32 255 ∧ ctxAt s f.ctx = some x ∧ bitsOf (255 : Dbl).toNat 31 8 = 0 := by
  refine ⟨⟨{ waved (acting idle (word 0x1000FF)) .live .dark bothLive with csrs := [(0x0F8, 0x10000)] }, word 0x1000FF, idle,
      moved (acts_word idle 0x1000FF) rfl, one_word _, rfl, by decide +kernel, by decide +kernel⟩,
    ⟨{ waved (acting idle (word 0x1000FF)) .live .live bothLive with csrs := [(0x0F8, 0x10001)] }, word 0x1000FF, idle,
      moved (acts_word idle 0x1000FF) rfl, one_word _, rfl, by decide +kernel, by decide +kernel, by decide +kernel⟩,
    ⟨_, word 255, idle, acts_word idle 255, one_word _, rfl, by decide⟩⟩
/-- A flit with these bytes and its own check word. -/
def sealed (kind : BitVec 5) (xtag : BitVec 12) (payload : List Byte) : Flit := { flit kind xtag payload with crc := flitCrc (flit kind xtag payload) }
/-- A pending lease request for a wavelength of neighbour 255. -/
def leaseOf : LeaseReq := ⟨1, opOf 0 (.marker 0) |>.reply, word 0x1000FF, 255, 1, 0, false, false, 0⟩
/-- Leases: the fabric runs, a peer asks for wavelength 1, and a request has waited longer than the limit. -/
theorem witness_leases :
    (∃ s : State, fabricState s = 1 ∧ s.leases = [leaseOf]) ∧
    (∃ s g, pilotOk s 255 g = true ∧ payNat g 0 4 = 1 ∧
      ((maskWaves (fabricOf s) 255 (BitVec.ofNat 64 (payNat g 8 8))).filter fun j => waveAt s j == .dark).take (litRoom s) = [1]) ∧
    ∃ s q, s.leases.find? (fun q => decide (csrBits s 0x375 31 0 < s.now - q.since)) = some q ∧ mostSurplus s = some (255, 1) ∧
      csrBits s 0x3D8 4 4 = 1 ∧ fabricState s = 1 ∧ (∀ r ∈ s.retires, r.reply.isSome = true) ∧ ∀ w ∈ s.waves, w.2 ≠ .retiring := by
  refine ⟨⟨{ linked (machine idle) with leases := [leaseOf] }, by decide +kernel, rfl⟩,
    ⟨{ waved (machine idle) .live .dark bothLive with csrs := [(0x374, 64)] }, sealed 0x12 0 (leBytes 4 1 ++ zeros 4 ++ leBytes 8 2), by decide +kernel,
      by decide +kernel, by decide +kernel⟩,
    ⟨{ waved (machine idle) .live .live bothLive with csrs := [(0x371, BitVec.ofNat 64 (2 ^ 58)), (0x3D8, 0x13)], leases := [leaseOf], now := 2 ^ 32 }, leaseOf,
      by decide +kernel, by decide +kernel, by decide +kernel, by decide +kernel, fun r hr => absurd hr List.not_mem_nil, by decide +kernel⟩⟩

/-- WavelengthsAndStripes: a wavelength that locks for a link that grows by it, one that retires and one that failed. -/
theorem witness_wavelengths :
    (∃ s, waveAt s 1 = .locking ∧ waveNbr s 1 = 255 ∧ (linkAt s 255).grow &&& waveBit s 1 ≠ 0 ∧ waveReady s 1 = true) ∧ (∃ s, waveAt s 1 = .retiring) ∧
    ∃ s, waveAt s 1 = .failed :=
  ⟨⟨waved (machine idle) .live .locking { linkReset with live := 1, grow := 2 }, by decide +kernel, by decide +kernel, by decide +kernel, by decide +kernel⟩,
    ⟨waved (machine idle) .live .retiring bothLive, by decide +kernel⟩, ⟨waved (machine idle) .live .failed bothLive, by decide +kernel⟩⟩
/-- The wavelengths of neighbour 255 that a loss of light finds lit. -/
def lit (s : State) (lost : Dbl) (els : Option Nat) : List Nat :=
  let dark : List Nat := match els with
    | none => maskWaves (fabricOf s) 255 lost
    | some e => (nbrWaves (fabricOf s) 255).filter (elsFeeds e)
  dark.filter fun j => waveAt s j == .locking || waveAt s j == .live || waveAt s j == .retiring
/-- The loss of the pilot, of a wavelength that carries data in either mode, and of one that has not locked; a laser source that feeds both. -/
theorem witness_losses :
    (∃ s, nbrLive s 255 = true ∧ (linkAt s 255).down = false ∧ nbrPilot (fabricOf s) 255 = some 0 ∧ lit s 3 none = [0, 1] ∧ lit s 0 (some 0) = [0, 1]) ∧
    (∀ b, b = 0 ∨ b = 1 → ∃ s, nbrLive s 255 = true ∧ (linkAt s 255).down = false ∧ nbrPilot (fabricOf s) 255 = some 0 ∧ lit s 2 none = [1] ∧
      waveAt s 1 ≠ .locking ∧ csrBits s 0x3D8 0 0 = b) ∧
    ∃ s, nbrLive s 255 = true ∧ (linkAt s 255).down = false ∧ nbrPilot (fabricOf s) 255 = some 0 ∧ lit s 2 none = [1] ∧ waveAt s 1 = .locking :=
  ⟨⟨waved (machine idle) .live .live bothLive, by decide +kernel, by decide +kernel, by decide +kernel, by decide +kernel, by decide +kernel⟩,
    fun b hb => ⟨csrPoke (waved (machine idle) .live .live bothLive) 0x3D8 0 0 b, by
      rcases hb with rfl | rfl <;> exact ⟨by decide +kernel, by decide +kernel, by decide +kernel, by decide +kernel, by decide +kernel, by decide +kernel⟩⟩,
    ⟨waved (machine idle) .live .locking bothLive, by decide +kernel, by decide +kernel, by decide +kernel, by decide +kernel, by decide +kernel⟩⟩
/-- A request to restripe whose wavelengths have locked and one that must wait for a lock, and an answer to one; lanes to realign. -/
theorem witness_stripes :
    (∀ owed : Bool, ∃ s g, pilotOk s 255 g = true ∧ lockOwed s 255 (BitVec.ofNat 64 (payNat g 8 8)) = owed ∧
      (linkAcked (linkAt s 255) s.now (BitVec.ofNat 24 (payNat g 24 8))).asked = none) ∧
    (∃ s g, pilotOk s 255 g = true ∧ (linkAcked (linkAt s 255) s.now (BitVec.ofNat 24 (payNat g 24 8))).asked =
      some (BitVec.ofNat 64 (payNat g 8 8), some 63, BitVec.ofNat 64 (payNat g 16 8))) ∧
    ∃ s, (linkAt s 255).stopped = true ∧ (linkAt s 255).down = false ∧ (linkAt s 255).asked = none := by
  let g := sealed 0x11 0 (leBytes 4 7 ++ leBytes 4 0 ++ leBytes 8 1 ++ leBytes 8 2 ++ leBytes 8 0)
  let g2 := sealed 0x11 0 (leBytes 4 7 ++ leBytes 4 0 ++ leBytes 8 2 ++ leBytes 8 0 ++ leBytes 8 0)
  refine ⟨fun owed => ⟨waved (machine idle) .live .locking { linkReset with live := 1, grow := 2 }, if owed then g2 else g, by
      cases owed <;> exact ⟨by decide +kernel, by decide +kernel, by decide +kernel⟩⟩,
    ⟨waved (machine idle) .live .live { bothLive with asked := some (1, some 63, 2) }, g, by decide +kernel, by decide +kernel⟩,
    ⟨waved (machine idle) .live .live { bothLive with stopped := true }, by decide +kernel, by decide +kernel, by decide +kernel⟩⟩

/-- A context with the sum of squares at VA 0x1000, in a phase of a block's life. -/
def living (ph : Phase) : Ctx := { idle with phase := ph, image := squares, block := 0x1000, region := none, configured := [] }
/-- The module with that image in HBM and page 0 translated. -/
def fetching (r : Option (List Word)) : State :=
  { upWith (machine (living .fetching)) [(0x407, 1)] with
    hbm := memWrite [] 0x1000 (squares.flatMap fun w => leBytes 4 w.toNat)
    presses := [(0, { Press.empty with tlb := [page0], regions := match r with
      | none => []
      | some i => [(3, i)] })] }
/-- The image fetched. -/
def fetched (r : Option (List Word)) : State × Got (List Word) := fetchImage (fetching r) (some (0, 0)) 0 0 0x1000
/-- LifeOfABlock: an image fetched that stands in region 3, and in no region. -/
theorem witness_fetch : ∀ r, r = none ∨ r = some squares → ∃ s1, ctxAt (fetching r) 0 = some (living .fetching) ∧ (living .fetching).frozen = none ∧
    fetched r = (s1, .ok squares) ∧ regionWith s1 0 squares = r.map (fun _ => 3) ∧ ∀ e ∈ (groupAt s1 0).cache, placedAs s1 squares e = false := by
  intro r h
  rcases h with rfl | rfl <;>
  exact ⟨(fetched _).1, rfl, rfl, pair_ok (fetched _) (.ok squares) (by decide +kernel), by decide +kernel, by decide +kernel⟩
/-- One in no region that the Group's placement cache holds. -/
theorem witness_cached : ∃ s s1, ctxAt s 0 = some (living .fetching) ∧ fetchImage s (some (0, 0)) 0 0 0x1000 = (s1, .ok squares) ∧
    regionWith s1 0 squares = none ∧ ∃ e ∈ (groupAt s1 0).cache, placedAs s1 squares e = true := by
  let s := cachePut (fetching none) 0 squares
  let r := fetchImage s (some (0, 0)) 0 0 0x1000
  refine ⟨s, r.1, rfl, pair_ok r (.ok squares) (by decide +kernel), by decide +kernel, ?_⟩
  exact List.any_eq_true.mp (show ((groupAt r.1 0).cache.any fun e => placedAs r.1 squares e) = true by decide +kernel)
/-- An image to be placed that the Mapper accepts, and one that it rejects; a free region; the first and the last PE; a token; a block past
its limit. -/
theorem witness_life :
    (∃ s x, ctxAt s 0 = some x ∧ x.frozen = none ∧ x.phase = .placing ∧ readyBit s (378 + x.group / 8) = true ∧ mapperCheck x.image x.block = none) ∧
    (∃ s x r, ctxAt s 0 = some x ∧ x.frozen = none ∧ x.phase = .placing ∧ readyBit s (378 + x.group / 8) = true ∧ mapperCheck x.image x.block = some r) ∧
    (∃ s x r, ctxAt s 0 = some x ∧ x.frozen = none ∧ x.phase = .wantsRegion ∧ regionWith s x.press x.image = none ∧ regionFree s x.press = some r) ∧
    (∀ l, l = [] ∨ l = [0, 1, 2, 3, 4, 5, 6] → ∃ s x, ctxAt s 0 = some x ∧ x.frozen = none ∧ x.phase = .configuring ∧ x.configured = l ∧ 7 ∉ x.configured ∧
      (l = [] → x.configured.length + 1 < blkCount x.image) ∧ (l ≠ [] → x.configured.length + 1 = blkCount x.image)) ∧
    (∃ s x, ctxAt s 0 = some x ∧ x.frozen = none ∧ x.begun = []) ∧
    ∃ s x, ctxAt s 0 = some x ∧ x.frozen = none ∧ x.phase = .running ∧ x.watch ≠ 0 ∧ x.watch ≤ cyclesOf (s.now - x.startedAt) ∧ commitReady s 0 = false := by
  refine ⟨⟨upWith (machine (living .placing)) [], _, rfl, rfl, rfl, by decide +kernel, by decide +kernel⟩,
    ⟨upWith (machine { living .placing with image := squares.set 5 0 }) [], _, _, rfl, rfl, rfl, by decide +kernel,
      (Option.some_get (show (mapperCheck (squares.set 5 0) 0x1000).isSome = true by decide +kernel)).symm⟩,
    ⟨machine (living .wantsRegion), _, 0, rfl, rfl, rfl, by decide +kernel, by decide +kernel⟩, fun l h => ?_,
    ⟨machine idle, _, rfl, rfl, rfl⟩,
    ⟨{ machine { idle with watch := 1024 } with now := 2 ^ 20 }, _, rfl, rfl, rfl, by decide, by decide +kernel, by decide +kernel⟩⟩
  exact ⟨machine { living .configuring with configured := l }, _, rfl, rfl, rfl, rfl, by rcases h with rfl | rfl <;> decide,
    by rcases h with rfl | rfl <;> decide +kernel, by rcases h with rfl | rfl <;> decide +kernel⟩

/-- CommitsTrapsAndReturns: a block with its one exit fired, to the end or to a block, and with each diversion and return address. -/
theorem witness_commit : ∀ (d : Option Divert) (tra : Dbl) (dest : Option Nat),
    (d, tra, dest) ∈ ([(none, 0, none), (none, 0, some 0xFFFFFFFFFFFFF0), (some (.trap 255), 0, some 0x40), (some .tret, 0xFFFFFFFFFFFFFFFF, none),
      (some .tret, 0x00FFFFFFFFFFFFF0, none), (some .tret, 0x0100000000000000, none), (some .tret, 1, none)] : List (Option Divert × Dbl × Option Nat)) →
    ∃ s x e, ctxAt s 0 = some x ∧ commitReady s 0 = true ∧ x.exits = e :: [] ∧ x.rests = [] ∧ x.divert = d ∧ x.tra = tra ∧ e.dest = dest := by
  intro d tra dest h
  simp only [List.mem_cons, List.not_mem_nil, or_false, Prod.mk.injEq] at h
  refine ⟨machine { idle with divert := d, tra := tra, exits := [⟨0, 0, dest⟩] }, _, ⟨0, 0, dest⟩, rfl, ?_, rfl, rfl, rfl, rfl, rfl⟩
  rcases h with ⟨rfl, rfl, rfl⟩ | ⟨rfl, rfl, rfl⟩ | ⟨rfl, rfl, rfl⟩ | ⟨rfl, rfl, rfl⟩ | ⟨rfl, rfl, rfl⟩ | ⟨rfl, rfl, rfl⟩ | ⟨rfl, rfl, rfl⟩ <;> decide +kernel
theorem witness_return_addresses : (0x00FFFFFFFFFFFFF0 : Dbl).extractLsb' 56 8 = 0 ∧ (0x00FFFFFFFFFFFFF0 : Dbl).extractLsb' 0 4 = 0 ∧
    (0x0100000000000000 : Dbl).extractLsb' 56 8 ≠ 0 ∧ (1 : Dbl).extractLsb' 0 4 ≠ 0 := by decide

/-- A stimulus of zeros. -/
def stimZero : Stim := { bytes := zeros 32, clock := none, card := none }
/-- StepsEndAndDispositions: a step that may retire, with a stimulus held for a device and one for a sink; an abort; a record of a frozen
context; a ring with room. -/
theorem witness_step_end :
    (∃ s r x, stepAt s 0 = some r ∧ ctxAt s r.root = some x ∧ endReady s r.root x = true ∧
      (∀ e ∈ s.ctxs, e.2.stp = 0 → e.1 = r.root ∧ e.2.spawned = false) ∧ faultStims r = [] ∧ r.held.map (·.sink) = [none, some 7]) ∧
    (∃ s f x, Acting .always s f ∧ ctxAt s f.ctx = some x) ∧
    (∃ (s : State) (r : FaultRec) (x : Ctx) (z : Frozen), tabFind s.records (2 ^ 24 * 0 + 5) = some r ∧ r.done = false ∧ ctxAt s r.ctx = some x ∧
      x.frozen = some z ∧ z.seq = 5 ∧ x.refreeze = none) ∧
    ∃ s st, egressAt s (8 * 15 + 7) = st :: [] ∧ ringRoom (ringAt s (8 * 15 + 7)) = true := by
  refine ⟨⟨{ machine { idle with phase := .ending } with steps := [(0, { step0 with held := [⟨stimZero, 9, none⟩, ⟨stimZero, 0, some 7⟩] })] }, _, _, rfl, rfl,
      by decide +kernel, ?_, by decide +kernel, rfl⟩, ⟨_, word 0, idle, acts_word idle 0, rfl⟩,
    ⟨{ machine { idle with frozen := some ⟨0x040, 5, none, 0⟩ } with records := [(5, ⟨0, 0, zeros 256, false⟩)] }, _, _, _, rfl, rfl, rfl, rfl, rfl, rfl⟩,
    ⟨{ machine idle with egress := [(127, [stimZero])], rings := [(127, { hostRingReset with ctl := 0x8000000000000000 })] }, stimZero, by decide +kernel,
      by decide +kernel⟩⟩
  intro e he _
  cases List.mem_singleton.mp he
  exact ⟨rfl, rfl⟩

/-- The module with 256 Proof slots. -/
def proving (x : Ctx) : State := { upWith (machine x) [(0x3DA, 0x11), (0x3DB, 0x000700)] with proofs := [] }
/-- PreemptionAndProofs: a context that a supervisor and its own tenancy preempt; a request; a drained context, before and after its stop,
with the last slot; a Proof to restore and to release. -/
theorem witness_proofs :
    (∃ s f x y c, Acting .always s f ∧ oneValue f .w32 0xFFFFFFFF ∧ ctxAt s f.ctx = some x ∧
      preemptNames s f.ctx (0xFFFFFFFF : Dbl).toNat = some c ∧ ctxAt s c = some y ∧ y.ten = x.ten ∧ supervisor s x = false ∧ csrBits s 0x3DA 0 0 = 1 ∧
      y.drain = none ∧ y.phase ≠ .ending ∧ proofRoom s = true) ∧
    (∃ s c, ctxNamed s (csrBits s 0x3DB 23 16) (csrBits s 0x3DB 15 8) = some c ∧ s.ctxs = [(0, { idle with tag := 7 })]) ∧
    (∀ b : Bool, ∃ s x slot, ctxAt s 0 = some x ∧ x.drain = some b ∧ x.tag < 256 ∧ x.phase ≠ .ending ∧ freeProof s = some slot ∧ x.frozen ≠ some drainStop) ∧
    (∃ s x slot, ctxAt s 0 = some x ∧ x.drain = some true ∧ x.tag < 256 ∧ x.phase ≠ .ending ∧ freeProof s = some slot ∧ x.frozen = some drainStop ∧
      cutWaits s 0 = false) ∧
    (∃ s p x tag region, tabFind s.proofs 255 = some p ∧ p.hold = false ∧ ctxAt s p.ctx = some x ∧ freeTag s x.press x.spawned = some tag ∧
      regionFree s x.press = some region ∧ wordsHeld s x.press + p.words ≤ Config.laneWords ∧ p.words = Config.laneWords) ∧
    ∃ (s : State) (p : Proof), tabFind s.proofs (csrBits s 0x3DC 7 0) = some p := by
  refine ⟨⟨{ upWith (acting idle (word 0xFFFFFFFF)) [(0x3DA, 1)] with steps := [] }, word 0xFFFFFFFF, idle, idle, 0, moved (acts_word idle _) rfl, one_word _, rfl,
      by decide +kernel, rfl, rfl, by decide +kernel, by decide +kernel, rfl, by decide, by decide +kernel⟩,
    ⟨proving { idle with tag := 7 }, 0, by decide +kernel, rfl⟩,
    fun b => ⟨proving { idle with drain := some b }, _, 0, rfl, rfl, Nat.zero_lt_succ _, nofun, ?_, nofun⟩,
    ⟨proving { idle with drain := some true, frozen := some drainStop }, _, 0, rfl, rfl, by decide, by decide, by decide +kernel, rfl, by decide +kernel⟩,
    ⟨{ proving { idle with tag := 511, region := none } with proofs := [(255, ⟨0, 0, Config.laneWords, false⟩)] }, ⟨0, 0, Config.laneWords, false⟩,
      { idle with tag := 511, region := none }, 0, 0, by decide +kernel, rfl, rfl, by decide +kernel,
      by decide +kernel, by decide +kernel, rfl⟩,
    ⟨{ machine idle with csrs := [(0x3DC, 255)], proofs := [(255, ⟨0, 0, 64, true⟩)] }, ⟨0, 0, 64, true⟩, by decide +kernel⟩⟩
  cases b <;> decide +kernel

/-- Agent 5 of tenancy 0, with `n` stimuli on chip. -/
def entry5 (n : Nat) : Entry :=
  { ten := 0, agent := 5, record := 0x12000, ch := 1, pin := false, hv := false, hg := 0, plate := 0, routine := 0x1000, sbase := 0x13000, headsz := 0,
    qlog2 := 6, qbase := 0x14000, qhead := 0, qtail := 0, steps := 0, queue := List.replicate n ⟨stimStamp packet, none, none⟩, hq := false, blocked := false, stuck := false,
    inFlight := false, imp := none, waiting := n != 0, age := 0, overdue := false, agedTo := 0, seq := 7, lacksSince := none, moveTo := none }
/-- The module with that entry in Group 3, its tables leading VA 0x10000 to frame 1, its record there and a stimulus in its queue. -/
def meeting (e : Entry) : State :=
  { upWith (machine idle) [(0x401, 4), (0x407, 0x20001)] with
    steps := []
    groups := [(3, { Group.empty with entries := [e], nextSeq := 9 })]
    hbm := memWrite (memWrite (memWrite (memWrite (memWrite (memWrite [] 0x20000 (leBytes 8 (2 ^ 63 + 0x11))) 0x22000 (leBytes 8 (2 ^ 63 + 0x12))) 0x24000
      (leBytes 8 (2 ^ 63 + 0x13))) 0x26008 (leBytes 8 0xF400003000000001)) 0x12000 (leBytes 8 (2 ^ 63 + 5 * 2 ^ 16))) 0x14000 (stimStamp packet) }
/-- An arrival for the agent. -/
def arrival (st : Option Stim) (op : Option (AgentOp × Reply)) : Arrival :=
  { cls := 0, rank := 0, order := 0, ten := 0, agent := 5, stim := st, op := op, ack := none, peer := none }
/-- What the claim about an arriving stimulus asks for. -/
def arriveMet (s : State) (w : Nat) (st : Stim) (e : Entry) : Bool :=
  walkerReady s w && !stimBad st.bytes && !(readyGroups s).isEmpty && (portfolioLog s (stimTen st.bytes)).isSome && stimKind st.bytes != 0xF0 && entryOf s (stimTen st.bytes) (stimAgent st.bytes) == some (3,
    e) &&
    !e.hq && decide (e.queue.length < 8) && decide (stimUsed s 3 < Config.stimulusSlots) && stimOk st.bytes
/-- Walkers: a stimulus for an awake agent with room for the last; a query. -/
theorem witness_arrivals :
    (∃ s a st e, arrivalsAt s 7 = a :: [] ∧ a.stim = some st ∧ a.ack = none ∧ a.peer = none ∧ e.queue.length = 7 ∧ arriveMet s 7 st e = true) ∧
    ∃ s a r, walkerReady s 7 = true ∧ arrivalsAt s 7 = a :: [] ∧ a.op = some (.query false false, r) :=
  ⟨⟨{ meeting (entry5 7) with arrivals := [(7, [arrival (some ⟨stimStamp packet, none, none⟩) none])] }, _, _, entry5 7, rfl, rfl, rfl, rfl, rfl,
      by decide +kernel⟩,
    ⟨{ meeting (entry5 7) with arrivals := [(7, [arrival none (some (.query false false, (opOf 0 (.marker 0)).reply))])] }, _, _, by decide +kernel, rfl, rfl⟩⟩
/-- The entry with a stimulus behind in memory. -/
def behind : Entry := { entry5 0 with hq := true, qtail := 1 }
/-- The read of that stimulus. -/
def refill : State × Got (List Byte) := unitRead (meeting behind) (agentOwner 0 5) 0 (slotVa behind behind.qhead) 256
/-- The entry that lacks a party. -/
def lacking : Entry := { entry5 0 with lacksSince := some (3, 100) }
/-- The demotion of it. -/
def demoted : State × Option Bool := demote { meeting lacking with now := 104 } 3 lacking
/-- Walkers: a refill; a demotion whose delay has passed; a move that is made, and one that waits. -/
theorem witness_entries :
    (∃ s1 bs, entryOf (meeting behind) 0 5 = some (3, behind) ∧ behind.hq = true ∧ behind.stuck = false ∧ behind.queue.length < 8 ∧
      stimUsed (meeting behind) 3 < Config.stimulusSlots ∧ refill = (s1, .ok bs) ∧ bs.take 32 = stimStamp packet) ∧
    (∃ s1, entryOf { meeting lacking with now := 104 } 0 5 = some (3, lacking) ∧ lacking.lacksSince = some (3, 100) ∧ 100 < 104 - 3 ∧
      demoted = (s1, some true)) ∧
    ∀ b : Bool, ∃ s e h d, entryOf s 0 5 = some (3, e) ∧ entryOf (tryMove s 3 0 5) 0 5 = some (h, d) ∧ d.moveTo.isSome = b := by
  refine ⟨⟨refill.1, stimStamp packet ++ zeros 224, by decide +kernel, rfl, rfl, by decide, by decide +kernel, pair_ok refill (.ok (stimStamp packet ++ zeros 224))
      (by decide +kernel), by decide +kernel⟩,
    ⟨demoted.1, by decide +kernel, rfl, by decide, pair_ok demoted (some true) (by decide +kernel)⟩, fun b => ?_⟩
  have h (e : Entry) (b : Bool) (h1 : entryOf (meeting e) 0 5 = some (3, e))
      (h2 : ((entryOf (tryMove (meeting e) 3 0 5) 0 5).map fun p => p.2.moveTo.isSome) = some b) :
      ∃ s e h d, entryOf s 0 5 = some (3, e) ∧ entryOf (tryMove s 3 0 5) 0 5 = some (h, d) ∧ d.moveTo.isSome = b := by
    cases hd : entryOf (tryMove (meeting e) 3 0 5) 0 5 with
    | none => simp [hd] at h2
    | some p => exact ⟨meeting e, e, p.1, p.2, h1, hd, by simpa [hd] using h2⟩
  cases b
  · exact h { entry5 1 with moveTo := some 4 } false (by decide +kernel) (by decide +kernel)
  · exact h { entry5 1 with moveTo := some 4, inFlight := true } true (by decide +kernel) (by decide +kernel)

/-- ProbesAndAge: a probe of the agent that clears both; one with a stimulus at the head; an entry that waits and goes past the threshold,
one that does not, and one that no boundary has passed. -/
theorem witness_probe : ∃ s e st, entryOf s (csrBits s 0x310 35 32) (csrBits s 0x310 27 0) = some (3, e) ∧ e.hq = false ∧ e.queue = st :: [] ∧
    csrBits s 0x310 62 62 = 1 ∧ csrBits s 0x310 61 61 = 1 :=
  ⟨{ meeting (entry5 1) with csrs := [(0x310, 0x6000000000000005)] }, entry5 1, _, by decide +kernel, rfl, rfl, by decide +kernel, by decide +kernel⟩
theorem witness_age : ∀ now : Nat, now = 999 ∨ now = 127999 ∨ now = 128000 → ∃ s e,
    (s.groups.flatMap fun q => (q.2.entries.filter (·.waiting)).map fun e => (q.1, e)) = [(3, e)] ∧ entryIn s 3 e.ten e.agent = some e ∧
    e.waiting = true ∧ e.overdue = false ∧
    (decide (0 < ageBoundaries s - e.agedTo) = (now != 999)) ∧
    (decide (csrBits s 0x301 7 0 ≤ min 255 (e.age + (ageBoundaries s - e.agedTo))) = (now == 128000)) := by
  intro now h
  refine ⟨{ meeting (entry5 1) with now := now }, entry5 1, rfl, ?_, rfl, rfl, ?_, ?_⟩ <;> rcases h with rfl | rfl | rfl <;> decide +kernel

/-- The module with agent 5 in Group 3, its plate present, and these impressions. -/
def gathering (is : List Imp) : State :=
  let s := meeting (entry5 1)
  { s with
    csrs := [(0x407, 0x20001), (0x323, 1)]
    groups := [(3, { Group.empty with entries := [entry5 1], nextSeq := 9, plates := [plate0], imps := is })] }
/-- An impression of that agent's key. -/
def impOf (members : List Nat) (closed : Bool) : Imp :=
  { id := 4, ten := 0, plate := 0, routine := 0x1000, ch := 1, headsz := 0, members := members, opened := 0, due := 64, closed := closed, words := 64 }
/-- GroupSchedulers: an entry that joins an impression of its key, and one that opens one. -/
theorem witness_gather : ∀ o : Option Imp, o = none ∨ o = some (impOf [] false) → ∃ s e st rest, let s0 := closeDue (askPlates s 3) 3
    bestEntry ((groupAt s0 3).entries.filter (entryReady s0 3)) = some e ∧ e.queue = st :: rest ∧ groupReady s0 3 = true ∧
    (((groupAt s0 3).imps.filter fun i => !i.closed).find? fun i => i.ten == e.ten && i.plate == e.plate &&
      i.routine == routineOf e st && i.ch == entryCh e && i.headsz == e.headsz) = o ∧
    ((groupAt s0 3).imps.filter fun i => !i.closed).length < Config.openImpressions := by
  intro o h
  refine ⟨gathering o.toList, entry5 1, _, _, ?_, rfl, ?_, ?_, ?_⟩ <;> rcases h with rfl | rfl <;> decide +kernel
/-- An impression whose window has ended. -/
theorem witness_window : ∃ s i, impAt s 3 4 = some i ∧ i.closed = false ∧ i.due ≤ s.now :=
  ⟨{ gathering [impOf [5] false] with now := 64 }, impOf [5] false, by decide +kernel, rfl, by decide⟩
/-- The heads of a closed impression read. -/
def staged : State × Option (List (Entry × List Byte)) := stageHeads (gathering [impOf [5] true]) 3 (impOf [5] true) [5]
/-- A closed impression with every party there. -/
theorem witness_admission : ∃ s1 l p tag, csrBits (gathering [impOf [5] true]) 0x323 0 0 = 1 ∧ groupReady (gathering [impOf [5] true]) 3 = true ∧
    closedImps (gathering [impOf [5] true]) 3 = [impOf [5] true] ∧ choosePress (gathering [impOf [5] true]) 3 64 = some p ∧
    freeTag (gathering [impOf [5] true]) p false = some tag ∧ (plateAt (gathering [impOf [5] true]) 3 0 0).isSome = true ∧ staged = (s1, some l) ∧
    l.length = 1 :=
  ⟨staged.1, [(entry5 1, zeros 16)], 24, 0, by decide +kernel, by decide +kernel, by decide +kernel, by decide +kernel, by decide +kernel, by decide +kernel,
    pair_ok staged (some [(entry5 1, zeros 16)]) (by decide +kernel), rfl⟩
/-- A cycle at which Share Tables change, and a card to deal. -/
theorem witness_cards : (∃ s : State, (pressAt s 255).shareAt / 64 < cycleNow s / 64) ∧
    ∃ s c, s.cards.find? (fun c => decide (c.next < c.count)) = some c ∧ groupReady s 3 = true ∧ ((groupAt s 3).entries.filter (·.waiting)).length < 64 := by
  refine ⟨⟨{ machine idle with now := 34 }, by decide +kernel⟩,
    ⟨{ gathering [] with cards := [⟨1, 0, 0, 0x1000, 65, 1, 0x15000, 64, 0, stimZero⟩] }, _, rfl, by decide +kernel, by decide +kernel⟩⟩

/-- BringUpAndIngressPorts: reset, where the boot ROM has not run; a unit that is not tested yet; a Press to start and one to test. -/
theorem witness_bring_up : csrBits State.reset 0x0F1 63 63 = 0 ∧ csrBits State.reset 0x0F1 9 0 = 0 ∧
    (∀ bit, bit = 389 ∨ bit = 255 → ∃ s, csrBits s 0x0F1 9 0 = 0 ∧ csrBits s 0x0F1 63 63 = 1 ∧ s.ready.getLsbD bit = false ∧
      s.failed.getLsbD bit = false ∧ (bit < 256 → bit ∈ s.ramped)) ∧
    (∃ s : State, csrBits s 0x0F1 9 0 = 0 ∧ s.wakeAt + 500 = s.now) ∧
    ∃ s : State, csrBits s 0x0F1 9 0 = 0 ∧ 255 ∉ s.ramped ∧ cyclesOf (s.now - s.wakeAt) = 64 := by
  refine ⟨by decide +kernel, by decide +kernel, fun bit h => ⟨{ State.reset with csrs := [(0x0F1, 2 ^ 63)], ramped := [255] }, by decide +kernel,
      by decide +kernel, ?_, ?_, ?_⟩,
    ⟨{ State.reset with now := 500 }, by decide +kernel, rfl⟩, ⟨{ State.reset with now := 34 }, by decide +kernel, by decide, by decide +kernel⟩⟩ <;>
  rcases h with rfl | rfl <;> decide +kernel

/-- A port of tenancy 15 that is bound, with its counts and published stimuli. -/
def portOf (prod cons : Word) (l : List Published) : InPort := { portReset with b0 := 0x8F00000000000000, prod := prod, cons := cons, published := l }
/-- The last port so, the device started and every unit ready. -/
def ported (prod cons : Word) (l : List Published) : State := { upWith State.reset [(0x0F1, 2 ^ 63)] with ports := [(4095, portOf prod cons l)] }
/-- The same with a peer write of the host on its way. -/
def portedBehind (raw : Published) : State := { ported 1 0 [raw] with xfers := [⟨5, 3, 0, .unitWrite (hostOwner 1 0), 0, 0, false, false, 0, 0⟩] }
/-- BringUpAndIngressPorts: a port without a published stimulus; one whose eight slots are free, at the end of the counts, and full; a
function whose port it is not; a legal stimulus and a malformed one, while a write that came later is not made yet. -/
theorem witness_ports :
    (∃ s, hostUp s 1 = true ∧ (portAt s 4095).published = []) ∧
    (∀ n, n = 1 ∨ n = 8 → ∃ s, hostUp s 1 = true ∧ portMine (portAt s 4095) 16 = true ∧ portMine (portAt s 4095) 0 = true ∧
      n + ((portAt s 4095).prod - (portAt s 4095).cons).toNat ≤ 8 ∧ (0xFFFFFFFF + n) % 2 ^ 32 = ((portAt s 4095).prod.toNat + n) % 2 ^ 32) ∧
    (∃ s, hostUp s 0 = true ∧ portMine (portAt s 4095) 15 = false ∧ (portAt s 4095).prod.toNat = 0xFFFFFFFF) ∧
    ∀ raw, raw = packet ∨ raw = zeros 32 → ∃ s, (portAt s 4095).fetching = [] ∧ (portAt s 4095).published = ⟨raw, 1, [6]⟩ :: [] ∧
      readyGroups s ≠ [] ∧ s.xfers ≠ [] ∧ (∀ t ∈ s.xfers, t.xtag ∉ (⟨raw, 1, [6]⟩ : Published).tags) ∧
      walkerReady s (homeWalker s (stimTen (ingressStamp s (portAt s 4095) raw)) (stimAgent (ingressStamp s (portAt s 4095) raw))) = true ∧
      stimBad (ingressStamp s (portAt s 4095) raw) = (raw == zeros 32) ∧ stimO (ingressStamp s (portAt s 4095) raw) = false := by
  refine ⟨⟨ported 0 0 [], by decide +kernel, by decide +kernel⟩, fun n h => ⟨ported 0xFFFFFFFF 0xFFFFFFFF [], by decide +kernel, by decide +kernel,
      by decide +kernel, ?_, ?_⟩, ⟨ported 0xFFFFFFFF 0xFFFFFFF7 [], by decide +kernel, by decide +kernel, by decide +kernel⟩,
    fun raw h => ⟨portedBehind ⟨raw, 1, [6]⟩, rfl, rfl, ?_, List.cons_ne_nil _ _, ?_, ?_, ?_, ?_⟩⟩
  · rcases h with rfl | rfl <;> decide +kernel
  · rcases h with rfl | rfl <;> decide +kernel
  all_goals rcases h with rfl | rfl <;> decide +kernel

/-- The module with W4 based 8 bytes below the end of HBM. -/
def based : State := { upWith State.reset [(0x0F1, 2 ^ 63)] with w4base := [(0, BitVec.ofNat 64 (Config.hbmBytes - 8))] }
/-- The module started, with tenancy 0's tables. -/
def mappedHost : State := csrSet (meeting (entry5 0)) 0x0F1 (2 ^ 63)
/-- Where 8 bytes at VA 0x12000 lie for VF 1. -/
def hostSpots (w : Way) : Option (List (Spot × Nat × Nat)) :=
  match w4Spots mappedHost 1 (w4Base mappedHost 1 + 0x12000) 8 w with
  | .ok l => some l
  | _ => none
/-- What a read of them gives. -/
def hostBytes (l : List (Spot × Nat × Nat)) : State × Got (List Byte) := spotsRead (w4Mark mappedHost 1 .read l) (hostOwner 1 1) l
/-- HostWindowsKeysAndAttestation: accesses of VF 1 through its tables. -/
theorem witness_host_access : hostUp mappedHost 1 = true ∧
    (∃ l, hostSpots .write = some l ∧ l ≠ [] ∧ (spotsCan mappedHost (tagsFree mappedHost) l = .ok ()) ∧ partialBad mappedHost l = none) ∧
    ∃ l s1, hostSpots .read = some l ∧ readWaits mappedHost 1 1 0x12000 8 = false ∧ (∀ e ∈ l, e.1.mode = 0 → hbmBad mappedHost e.1.pa e.2.2 = none) ∧
      remoteFail mappedHost (hostOwner 1 1) = none ∧ hostBytes l = (s1, .ok (leBytes 8 (2 ^ 63 + 5 * 2 ^ 16))) := by
  refine ⟨by decide +kernel, ⟨(hostSpots .write).getD [], by decide +kernel, by decide +kernel, by decide +kernel, by decide +kernel⟩,
    (hostSpots .read).getD [], (hostBytes ((hostSpots .read).getD [])).1, by decide +kernel, by decide +kernel, by decide +kernel, by decide +kernel,
    pair_ok _ _ (by decide +kernel)⟩
/-- Accesses of the last 8 bytes of HBM and of one more; the last CSR; a VF's; the last double of a port's slots. -/
theorem witness_windows :
    (∃ s, hostUp s 1 = true ∧ w4Base s 0 + 0 + (zeros 8).length = Config.hbmBytes ∧ stackReady s (w4Base s 0 + 0) = true ∧
      (∀ g ∈ granules (w4Base s 0 + 0) (zeros 8).length, g ∉ wholeGranules (w4Base s 0 + 0) (zeros 8).length → 2 * g ∉ s.spoiled) ∧
      hbmBad s (w4Base s 0 + 0) 8 = none ∧ remoteFail s (hostOwner 0 1) = none ∧ readWaits s 0 1 0 8 = false ∧ readWaits s 0 1 0 9 = false ∧
      Config.hbmBytes < w4Base s 0 + 0 + 9) ∧
    ∃ s, hostUp s 1 = true ∧ 0x7F8 < 0x800 ∧ 0x7F8 % 8 = 0 ∧ portMine (portAt s 4095) 16 = true :=
  ⟨⟨based, by decide +kernel, by decide +kernel, by decide +kernel, by decide +kernel, by decide +kernel, by decide +kernel, by decide +kernel,
      by decide +kernel, by decide +kernel⟩,
    ⟨ported 0 0 [], by decide +kernel, by decide, by decide, by decide +kernel⟩⟩
/-- The key table locked and open; a report asked for. -/
theorem witness_keys : (∃ s : State, hostUp s 1 = true ∧ booted s = true ∧ s.keyLock = true) ∧
    (∃ s : State, hostUp s 1 = true ∧ s.keyLock = false) ∧ ∃ s : State, s.attestStatus = 1 :=
  ⟨⟨{ ported 0 0 [] with keyLock := true }, by decide +kernel, by decide +kernel, rfl⟩, ⟨ported 0 0 [], by decide +kernel, rfl⟩,
    ⟨{ State.reset with attestStatus := 1 }, rfl⟩⟩

/-- The module with tenancy 0 checked in domain 3, which has two slots and no proxy, and the areas of the race checker set. -/
def raced (x : Ctx) : State :=
  upWith (machine x) [(0x3A0, 0xB), (0x3A1, 0x1A), (0x3A2, 0x4000001), (0x3C0, 0x4000000000020000)]
/-- RaceCheckerAndMonitors: the areas are valid; a context waits for a slot of domain 3 and one is free. -/
theorem witness_race : (raceAreas (raced idle) = true ∧ memWf (raced idle).hbm = true) ∧
    (∃ s : State, s.now / 1000 ≠ s.raceMicro) ∧ (∃ s : State, s.now / 1000 = s.raceMicro ∧ s.raceBudget ≠ []) ∧
    ∃ s x, s.slotWait = [0] ∧ ctxAt s 0 = some x ∧ domOf s x.ten = some 3 ∧ x.actor = none ∧ freeSlot s 3 = some 0 :=
  ⟨⟨by decide +kernel, by decide +kernel⟩, ⟨{ machine idle with now := 1000 }, by decide⟩, ⟨{ machine idle with now := 999, raceBudget := [(0, 1)] }, by decide, by decide⟩,
    ⟨{ raced idle with slotWait := [0] }, idle, rfl, rfl, by decide +kernel, rfl, by decide +kernel⟩⟩
/-- A slot that fills too long, by the shortest and the longest limit; events of the device and of a context; a reading at its limit and
one above it. -/
theorem witness_monitors :
    (∀ n, n = 1000 ∨ n = 10 ^ 9 → ∃ s h, s.shards.find? (fun h => h.kind == 0 && h.obj == 1023) = some h ∧ (shardStalls s 0 1023).isSome = true ∧
      csrBits s 0x3D9 31 0 = n ∧ h.told = false ∧ csrBits s 0x3D9 31 0 ≤ s.now - h.since) ∧
    (∃ s : State, csrBits s 0x3F0 0 0 = 1 ∧ ctxAt s 0 = some idle) ∧
    (eventListed 0x20A = true ∧ devEvent 0x20A = true ∧ isGauge 0x20A = false ∧ eventListed 0x008 = true ∧ devEvent 0x008 = false) ∧
    ∃ s : State, csrBits s 0x3F6 47 32 = 100 ∧ csrBits s 0x3F6 15 0 = 100 ∧ csrBits s 0x3F5 47 32 ≤ csrBits s 0x3F6 47 32 := by
  refine ⟨fun n h => ⟨{ tiled (machine idle) 1 with csrs := [(0x3D9, BitVec.ofNat 64 n)], shards := [⟨0, 1023, 0, false⟩], now := 10 ^ 9 }, _, rfl, ?_, ?_, rfl, ?_⟩,
    ⟨{ machine idle with csrs := [(0x3F0, 1)] }, by decide +kernel, rfl⟩, by decide,
    ⟨{ machine idle with csrs := [(0x3F6, 0x0000006400000064)] }, by decide +kernel, by decide +kernel, by decide +kernel⟩⟩
  all_goals rcases h with rfl | rfl <;> decide +kernel

/-- HBM with the image of the fabric of one neighbour. -/
def oneImage : Tab Byte :=
  memWrite (memWrite (memWrite [] 0x100000 (leBytes 4 0xC00000FF ++ leBytes 4 0x800000FF)) 0x1047F8 (leBytes 8 (2 ^ 63 + 9 * 2 ^ 42 + 1))) 0x105024
    (leBytes 4 0x800000FF)
/-- The module with it and the state of Fabric Control. -/
def imageAt (st : Nat) : State :=
  { upWith (machine idle) [(0x370, 0x100000), (0x371, BitVec.ofNat 64 (st * 2 ^ 58)), (0x374, 64)] with fabric := some wired, hbm := oneImage }
theorem leNat_zeros (n : Nat) : leNat (zeros n) = 0 := by
  induction n with
  | zero => rfl
  | succ n ih =>
    show (0 : Byte).toNat + 256 * leNat (zeros n) = 0
    rw [ih]
    rfl
theorem memRead_far (m : Tab Byte) (a n : Nat) (h : ∀ e ∈ m, e.1 < a ∨ a + n ≤ e.1) : memRead m a n = zeros n := by
  have hf : (m.filter fun e => decide (a ≤ e.1) && decide (e.1 < a + n)) = [] := by
    refine List.filter_eq_nil_iff.mpr fun e he => ?_
    have := h e he
    simp only [Bool.and_eq_true, decide_eq_true_eq]
    omega
  have hn : memRead m a n = memRead [] a n := by simp only [memRead, hf, List.filter_nil]
  rw [hn, memRead_nil]
theorem image_none (s : State) (base size : Nat) : ∀ n i, (∀ e ∈ s.hbm, e.1 < base + size * i ∨ base + size * (i + n) ≤ e.1) →
    imageTable s base size i n = [] := by
  intro n
  induction n with
  | zero => exact fun i _ => rfl
  | succ n ih =>
    intro i h
    have hi : size * (i + 1) = size * i + size := Nat.mul_succ ..
    have hr : leNat (hbmRead s (base + size * i) size) = 0 := by
      rw [hbmRead, memRead_far _ _ _ fun e he => ?_, leNat_zeros]
      have h1 := h e he
      have h2 : size * (i + 1) ≤ size * (i + (n + 1)) := Nat.mul_le_mul_left _ (by omega)
      omega
    rw [imageTable, if_pos hr]
    refine ih _ fun e he => ?_
    have h1 := h e he
    rw [Nat.add_right_comm i 1 n, Nat.add_assoc i n 1]
    omega
theorem image_split (s : State) (base size m : Nat) : ∀ n i, imageTable s base size i (n + m) = imageTable s base size i n ++ imageTable s base size (i + n) m := by
  intro n
  induction n with
  | zero => exact fun i => by simp [imageTable]
  | succ n ih =>
    intro i
    rw [Nat.add_right_comm n 1 m, imageTable, imageTable, ih, Nat.add_right_comm i 1 n, Nat.add_assoc i n 1]
    split <;> rfl
theorem image_one (s : State) (h : s.hbm = oneImage) : fabricImage s 0x100000 = wired := by
  have hd (base size i n : Nat) (hb : (oneImage.all fun e => decide (e.1 < base + size * i) || decide (base + size * (i + n) ≤ e.1)) = true) :
      imageTable s base size i n = [] := by
    refine image_none s base size n i fun e he => ?_
    rw [h] at he
    simpa using List.all_eq_true.mp hb e he
  have e1 : imageTable s 0x100000 4 0 (2 + 4094) = [(0, 0xC00000FF), (1, 0x800000FF)] := by
    rw [image_split, hd 0x100000 4 (0 + 2) 4094 (by decide +kernel)]
    simp only [imageTable, hbmRead, h]
    decide +kernel
  have e2 : imageTable s (0x100000 + 0x4000) 8 0 (255 + 1) = [(255, 2 ^ 63 + 9 * 2 ^ 42 + 1)] := by
    rw [image_split, hd (0x100000 + 0x4000) 8 0 255 (by decide +kernel)]
    simp only [imageTable, hbmRead, h]
    decide +kernel
  have e3 : imageTable s (0x100000 + 0x5000) 4 0 (9 + (1 + 16374)) = [(9, 0x800000FF)] := by
    rw [image_split, image_split, hd (0x100000 + 0x5000) 4 0 9 (by decide +kernel), hd (0x100000 + 0x5000) 4 (0 + 9 + 1) 16374 (by decide +kernel)]
    simp only [imageTable, hbmRead, h]
    decide +kernel
  simp only [fabricImage]
  rw [e1, e2, e3]
  decide +kernel
/-- FabricImagesAndDistribution: images that are valid and not valid, in the states that take them and those that do not. -/
theorem witness_fabric : ∀ st, st = 0 ∨ st = 1 → ∃ s, csrBits s 0x370 47 12 * 4096 = 0x100000 ∧ 0x100000 + 0x15000 ≤ Config.hbmBytes ∧
    stackReady s 0x100000 = true ∧ hbmBad s 0x100000 0x15000 = none ∧ imageBad s 0x100000 (fabricImage s 0x100000) = false ∧ fabricState s = st := by
  intro st h
  refine ⟨imageAt st, ?_, by decide, ?_, ?_, ?_, ?_⟩
  · rcases h with rfl | rfl <;> decide +kernel
  · rcases h with rfl | rfl <;> decide +kernel
  · simp [hbmBad, show (imageAt st).spoiled = [] from rfl]
  · rw [image_one _ rfl]
    rcases h with rfl | rfl <;> decide +kernel
  · rcases h with rfl | rfl <;> decide +kernel
theorem witness_fabric_bad : ∃ s, csrBits s 0x370 47 12 * 4096 = 0x100000 ∧ stackReady s 0x100000 = true ∧ hbmBad s 0x100000 0x15000 = none ∧
    imageBad s 0x100000 (fabricImage s 0x100000) = true ∧ fabricState s = 0 :=
  ⟨{ imageAt 0 with csrs := [(0x370, 0x100000), (0x374, 0)] }, by decide +kernel, by decide +kernel,
    by simp [hbmBad, show (imageAt 0).spoiled = [] from rfl], by rw [image_one _ rfl]; decide +kernel, by decide +kernel⟩
theorem witness_fabric_states : ∀ st, st < 5 → fabricState (imageAt st) = st := by
  decide +kernel
/-- Pilots that have locked, at the load and after a resume; neighbours that have drained, and one that is down; an image to resume with. -/
theorem witness_fabric_moves :
    (∀ st p, (st = 0 ∧ p = Wave.locking) ∨ (st = 4 ∧ p = Wave.live) → ∃ s, s.fabric ≠ none ∧ fabricState s = st ∧
      ∀ n ∈ nbrNums s, (linkAt s n).held = true ∧ ∀ j, nbrPilot (fabricOf s) n = some j → waveAt s j = p ∧ waveReady s j = true) ∧
    (∀ b : Bool, ∃ s, fabricState s = 2 ∧ nbrNums s = [255] ∧ (linkAt s 255).held = true ∧ (linkAt s 255).down = b ∧ (linkAt s 255).drained = !b ∧
      (linkAt s 255).replay = []) ∧
    ∃ s g, fabricState s = 3 ∧ s.nextFabric = some g ∧ nbrsChanged (fabricOf s) g = [] := by
  refine ⟨fun st p h => ?_, fun b => ⟨{ imageAt 2 with links := [(255, { linkReset with held := true, down := b, drained := !b })] },
      show fabricState (imageAt 2) = 2 by decide +kernel, show nbrNums (imageAt 2) = [255] by decide +kernel, rfl, rfl, rfl, rfl⟩,
        ⟨{ imageAt 3 with nextFabric := some wired }, wired, by decide +kernel, rfl, by decide +kernel⟩⟩
  refine ⟨{ imageAt st with waves := [(0, p)], links := [(255, { linkReset with held := true })] }, by simp [imageAt], ?_, ?_⟩
  · rcases h with ⟨rfl, rfl⟩ | ⟨rfl, rfl⟩ <;> decide +kernel
  · have hn : nbrNums { imageAt st with waves := [(0, p)], links := [(255, { linkReset with held := true })] } = [255] := by
      rcases h with ⟨rfl, rfl⟩ | ⟨rfl, rfl⟩ <;> decide +kernel
    intro n hm
    rw [hn] at hm
    cases List.mem_singleton.mp hm
    refine ⟨rfl, fun j hj => ?_⟩
    have : nbrPilot wired 255 = some 0 := by decide +kernel
    cases this.symm.trans hj
    exact ⟨rfl, show waveReady (upWith (machine idle) []) 0 = true by decide +kernel⟩
/-- A descriptor that distributes a plate of 64 KiB to device 9, and one of zeros. -/
def distDesc : List Byte := leBytes 8 0x400000 ++ leBytes 8 65536 ++ leBytes 8 (2 ^ 32 + 7 * 2 ^ 16) ++ zeros 40 ++ leBytes 8 (9 * 2 ^ 50 + 64) ++ zeros 8
theorem witness_distribution : (∀ d, d = distDesc ∨ d = [] → ∃ s, csrBits s 0x378 47 6 * 64 = 0x10000 ∧ stackReady s 0x10000 = true ∧
      hbmBad s 0x10000 64 = none ∧ distBroken s (hbmRead s 0x10000 1088) = d.isEmpty) ∧
    ∃ (s : State) (r : Dist) (e : Nat), s.dist = some r ∧ r.chain = [(e, none)] := by
  refine ⟨fun d h => ⟨{ upWith (machine idle) [(0x378, 0x10000)] with hbm := memWrite [] 0x10000 d }, ?_, ?_, ?_, ?_⟩,
    ⟨{ machine idle with dist := some ⟨0x10000, 0x400000, 1, 1, false, 0, 7, [(9 * 2 ^ 50 + 64, none)]⟩ }, _, _, rfl, rfl⟩⟩ <;>
  rcases h with rfl | rfl <;> decide +kernel

/-- A flit for a device, with its own check word. -/
def sealedTo (dst : BitVec 14) (idx : BitVec 9) (kind : BitVec 5) (payload : List Byte) : Flit :=
  let f := { flit kind 0 payload with dst := dst, src := 9, idx := idx }
  { f with crc := flitCrc f }
/-- The module with the link to device 9 up. -/
def joined : State := { waved (machine idle) .live .live bothLive with csrs := [(0x371, BitVec.ofNat 64 (2 ^ 58)), (0x37B, 0x100000000)] }
/-- LinksTakeAndKeepFlits: a flit of another device that is good, one with a wrong SEQ and one with a wrong check word; the pilot's flits; a
link whose oldest flit has waited long enough; a beacon that is due. -/
theorem witness_links :
    (∃ (s : State) (f : Flit), f.dst.toNat ≠ deviceNumber s ∧ nbrLive s 255 = true ∧ (linkAt s 255).down = false ∧ flitCrc f = f.crc ∧
      f.seq = (linkAt s 255).expect ∧ buffersTaken s 255 (flitVc f) < 512) ∧
    (∃ (s : State) (f : Flit), f.dst.toNat ≠ deviceNumber s ∧ f.seq ≠ (linkAt s 255).expect) ∧ (∃ (s : State) (f : Flit), f.dst.toNat ≠ deviceNumber s ∧
      flitCrc f ≠ f.crc) ∧
    (∀ k, k = 0 ∨ k = 1 → ∃ s f, nbrLive s 255 = true ∧ (linkAt s 255).down = false ∧ flitCrc f = f.crc ∧ payNat f 0 4 = k) ∧
    (∃ s, linksUp s = [255] ∧ (linkAt s 255).replay ≠ [] ∧ (linkAt s 255).stopped = false ∧ (linkAt s 255).asked = none ∧
      csrBits s 0x376 31 16 = s.now - (linkAt s 255).lastAck) ∧
    ∃ s, linksUp s = [255] ∧ 256 = s.now - (linkAt s 255).beacon ∧ linksUp (sendLinkctl s 255) = [255] := by
  refine ⟨⟨joined, sealedTo 9 0 1 (zeros 16), by decide +kernel, by decide +kernel, by decide +kernel, by decide +kernel, by decide +kernel,
      by decide +kernel⟩,
    ⟨{ joined with links := [(255, { bothLive with expect := 5 })] }, sealedTo 9 0 1 (zeros 16), by decide +kernel, by decide +kernel⟩,
    ⟨joined, { sealedTo 9 0 1 (zeros 16) with crc := 0 }, by decide +kernel, by decide +kernel⟩,
    fun k h => ⟨joined, sealedTo 0 0 0x13 (leBytes 4 k), ?_, ?_, ?_, ?_⟩,
    ⟨{ joined with links := [(255, { bothLive with replay := [sealedTo 9 0 1 (zeros 16)] })], now := 2048 }, by decide +kernel, by decide +kernel, rfl, rfl,
      by decide +kernel⟩,
    ⟨{ joined with now := 256 }, by decide +kernel, by decide +kernel, by decide +kernel⟩⟩ <;>
  rcases h with rfl | rfl <;> decide +kernel

theorem merge_ok (s : State) (pa : Nat) (bs : List Byte) (h : s.spoiled = []) : ∃ t, mergePut s pa bs = .ok t := by
  have hf (l : List Nat) : l.find? (fun g => s.spoiled.contains (2 * g)) = none := List.find?_eq_none.mpr fun g _ => by simp [h]
  exact ⟨_, by simp only [mergePut, hf]; rfl⟩
theorem proxy_off (s : State) (n : Nat) (a : RaceAcc) (r : Bool) (pa len : Nat) (h : ∀ d ∈ List.range 4, domMode s d = 0) :
    proxyAccess s n a r pa len = s := by
  have hl : List.range 4 = [0, 1, 2, 3] := rfl
  simp only [hl, List.mem_cons, List.not_mem_nil, or_false, forall_eq_or_imp, forall_eq] at h
  simp [proxyAccess, hl, h]
/-- The bytes of a request: address, length and flags, then more. -/
def asks (pa len flags : Nat) (more : List Byte) : List Byte := leBytes 8 pa ++ leBytes 4 len ++ leBytes 4 flags ++ more
/-- The state after a flit is taken. -/
def takes (s : State) (f : Flit) : State :=
  let l := linkAt s 255
  sendLinkctl (setLink s 255 { l with
    expect := l.expect + 1
    freedOut := tabSet (fun _ => 0) l.freedOut (flitVc f) (tabGet (fun _ => 0) l.freedOut (flitVc f) + 1) }) 255
/-- A sealed flit for this device with the SEQ that is expected is taken. -/
theorem takes_eq (s : State) (d : BitVec 14) (i : BitVec 9) (k : BitVec 5) (p : List Byte)
    (h : (nbrLive s 255 && !(linkAt s 255).down && (linkAt s 255).expect == 0 && d.toNat == deviceNumber s &&
      decide (buffersTaken s 255 (flitVc (sealedTo d i k [])) < 512)) = true) :
    linkTake s 255 (sealedTo d i k p) = some (takes s (sealedTo d i k p)) := by
  have hc : flitCrc (sealedTo d i k p) = (sealedTo d i k p).crc := rfl
  have hq : (sealedTo d i k p).seq = 0 := rfl
  have hd : (sealedTo d i k p).dst.toNat = d.toNat := rfl
  have hv : flitVc (sealedTo d i k p) = flitVc (sealedTo d i k []) := rfl
  simp only [Bool.and_eq_true, Bool.not_eq_true', beq_iff_eq, decide_eq_true_eq] at h
  have hb : ¬ 512 ≤ buffersTaken s 255 (flitVc (sealedTo d i k [])) := Nat.not_le.mpr h.2
  unfold linkTake takes
  simp only [h.1.1.1.1, h.1.1.1.2, h.1.1.2, h.1.2, hc, hq, hd, hv, hb, bne_self_eq_false, decide_false, Bool.or_false, Bool.not_true, if_true,
    Bool.false_eq_true, if_false]
/-- FlitsAtTheirTarget: a WRITE of 112 bytes to the end of the window, without release and with both, one beyond the window, and one of
113 bytes. -/
theorem witness_write_flits : ∀ pa flags, (pa = 2 ^ 32 - 112 ∧ (flags = 0 ∨ flags = 12)) ∨ (pa = 2 ^ 32 - 111 ∧ flags = 0) → ∃ s1 f,
    linkTake joined 255 f = some s1 ∧ f.dst.toNat = deviceNumber joined ∧ stackReady joined (payNat f 0 8) = true ∧ payNat f 8 4 % 2 ^ 17 = 112 ∧
    payNat f 12 4 = flags ∧ ((padTo 128 f.payload).drop 16).take 112 = zeros 112 ∧ windowOk s1 (payNat f 0 8) 112 = decide (pa = 2 ^ 32 - 112) ∧
    (∃ s2, mergePut s1 (payNat f 0 8) (zeros 112) = .ok s2) ∧
    ∀ a r, ∃ s3, mergePut (proxyAccess s1 255 a r (payNat f 0 8) 112) (payNat f 0 8) (zeros 112) = .ok s3 := by
  intro pa flags h
  refine ⟨takes joined (sealedTo 0 0 1 (asks pa 112 flags (zeros 112))), sealedTo 0 0 1 (asks pa 112 flags (zeros 112)), takes_eq _ _ _ _ _ ?_, ?_, ?_, ?_, ?_,
    ?_, ?_,
    merge_ok _ _ _ ?_, fun a r => ?_⟩
  case refine_9 =>
    rw [proxy_off _ _ _ _ _ _ (by rcases h with ⟨rfl, rfl | rfl⟩ | ⟨rfl, rfl⟩ <;> decide +kernel)]
    exact merge_ok _ _ _ (by rcases h with ⟨rfl, rfl | rfl⟩ | ⟨rfl, rfl⟩ <;> decide +kernel)
  all_goals rcases h with ⟨rfl, rfl | rfl⟩ | ⟨rfl, rfl⟩ <;> decide +kernel
theorem witness_write_long : ∃ s1 f, linkTake joined 255 f = some s1 ∧ f.dst.toNat = deviceNumber joined ∧ stackReady joined (payNat f 0 8) = true ∧
    payNat f 8 4 % 2 ^ 17 = 113 :=
  ⟨takes joined (sealedTo 0 0 1 (asks 0 113 0 [])), sealedTo 0 0 1 (asks 0 113 0 []), takes_eq _ _ _ _ _ (by decide +kernel), by decide +kernel, by decide +kernel,
    by decide +kernel⟩
/-- A LOADREQ of 0 and of 129 bytes, one beyond the window, and one of 128 bytes to its end, without release and with it. -/
theorem witness_load_flits : ∀ pa len flags, (pa, len, flags) ∈ [(0, 0, 0), (0, 129, 0), (2 ^ 32 - 127, 128, 0), (2 ^ 32 - 128, 128, 0), (2 ^ 32 - 128, 128, 4)] →
    ∃ s1 f, linkTake joined 255 f = some s1 ∧ f.dst.toNat = deviceNumber joined ∧ stackReady joined (payNat f 0 8) = true ∧ payNat f 8 4 = len ∧
      (payNat f 12 4).testBit 2 = decide (flags = 4) ∧ windowOk s1 (payNat f 0 8) len = decide (pa + len ≤ 2 ^ 32) ∧
      (∀ a r, proxyAccess s1 255 a r (payNat f 0 8) len = s1) ∧ hbmBad s1 (payNat f 0 8) len = none := by
  intro pa len flags h
  simp only [List.mem_cons, List.not_mem_nil, or_false, Prod.mk.injEq] at h
  refine ⟨takes joined (sealedTo 0 0 3 (asks pa len flags [])), sealedTo 0 0 3 (asks pa len flags []), takes_eq _ _ _ _ _ ?_, ?_, ?_, ?_, ?_, ?_,
    fun a r => proxy_off _ _ _ _ _ _ ?_, ?_⟩ <;>
  rcases h with ⟨rfl, rfl, rfl⟩ | ⟨rfl, rfl, rfl⟩ | ⟨rfl, rfl, rfl⟩ | ⟨rfl, rfl, rfl⟩ | ⟨rfl, rfl, rfl⟩ <;> decide +kernel
/-- An AMOREQ of the first and the last operation in 4 bytes, and a `cas` of 8. -/
theorem witness_atomic_flits : ∀ w n, ((w = 0 ∨ w = 384) ∧ n = 8) ∨ (w = 256 + 128 + 32 ∧ n = 16) → ∃ s1 f k len,
    linkTake joined 255 f = some s1 ∧ f.dst.toNat = deviceNumber joined ∧ stackReady joined (payNat f 0 8) = true ∧ inAt joined f = none ∧
    bitsOf (payNat f 8 4) 31 31 = 0 ∧ amoAsked f = some (k, len) ∧ len = (if n = 8 then 4 else 8) ∧ windowOk s1 (payNat f 0 8) len = true ∧
    hbmBad s1 (payNat f 0 8) len = none := by
  intro w n h
  refine ⟨takes joined (sealedTo 0 0 5 (asks 8 w 0 (zeros n))), sealedTo 0 0 5 (asks 8 w 0 (zeros n)),
    if n = 8 then .amo (BitVec.ofNat 3 (bitsOf w 8 6)) .i32 else .cas true, if n = 8 then 4 else 8, takes_eq _ _ _ _ _ ?_, ?_, ?_, ?_, ?_, ?_, rfl, ?_, ?_⟩ <;>
  rcases h with ⟨rfl | rfl, rfl⟩ | ⟨rfl, rfl⟩ <;> decide +kernel
/-- A WRITE of 240 bytes of which 128 have come: with DATA to come behind and with the last. -/
theorem witness_data_flits : ∀ n, n = 111 ∨ n = 112 → ∃ s s1 f x, linkTake s 255 f = some s1 ∧ f.dst.toNat = deviceNumber s ∧ inAt s f = some x ∧
    stackReady s x.pa = true ∧ f.idx.toNat * 128 = x.got.length ∧ x.flags.toNat < 2 ^ 31 ∧
    (decide (x.got.length + f.payload.length < x.total)) = decide (n = 111) := by
  intro n h
  refine ⟨{ joined with inXfers := [⟨255, 9, 0, 0, 240, 12, zeros 128, 0⟩] }, takes { joined with inXfers := [⟨255, 9, 0, 0, 240, 12, zeros 128, 0⟩] }
    (sealedTo 0 1 2 (zeros n)), sealedTo 0 1 2 (zeros n), ⟨255, 9, 0, 0, 240, 12, zeros 128, 0⟩, takes_eq _ _ _ _ _ ?_, ?_, ?_, ?_, ?_, ?_, ?_⟩ <;>
  rcases h with rfl | rfl <;> decide +kernel
/-- The module with part of a transfer received from device 9. -/
def receiving (total : Nat) (flags : Word) (got : List Byte) : State := { joined with inXfers := [⟨255, 9, 0, 0, total, flags, got, 0⟩] }
/-- The requests of cohorts: one flit with the greatest length, one that goes on, its next flit and its last. -/
theorem witness_cohort_flits :
    (∀ n, n = 14 ∨ n = 15 → ∃ s1 f, linkTake joined 255 f = some s1 ∧ f.dst.toNat = deviceNumber joined ∧ inAt joined f = none ∧ inAt s1 f = none ∧
      bitsOf (payNat f 8 4) 31 31 = 1 ∧ decide (cohortTotal f ≤ 128) = decide (n = 14)) ∧
    ∀ n, n = 7 ∨ n = 8 → ∃ s s1 f x, linkTake s 255 f = some s1 ∧ f.dst.toNat = deviceNumber s ∧ inAt s f = some x ∧ inAt s1 f = some x ∧
      (decide (x.got.length + f.payload.length < x.total)) = decide (n = 7) := by
  refine ⟨fun n h => ?_, fun n h => ?_⟩
  · refine ⟨takes joined (sealedTo 0 0 5 (zeros 10 ++ leBytes 1 n ++ [0x80] ++ zeros 116)),
      sealedTo 0 0 5 (zeros 10 ++ leBytes 1 n ++ [0x80] ++ zeros 116), takes_eq _ _ _ _ _ ?_, ?_, ?_, ?_, ?_, ?_⟩ <;>
    rcases h with rfl | rfl <;> decide +kernel
  · refine ⟨receiving 136 0 (zeros 128), takes (receiving 136 0 (zeros 128)) (sealedTo 0 1 5 (zeros n)), sealedTo 0 1 5 (zeros n),
      ⟨255, 9, 0, 0, 136, 0, zeros 128, 0⟩, takes_eq _ _ _ _ _ ?_, ?_, ?_, ?_, ?_⟩ <;>
    rcases h with rfl | rfl <;> decide +kernel
/-- A STIM of one flit; the first flit of one of 144 bytes, and its second; a flit of a reserved TYPE. -/
theorem witness_stim_flits :
    (∃ s1 f, linkTake joined 255 f = some s1 ∧ f.dst.toNat = deviceNumber joined ∧ inAt s1 f = none ∧ (stimLen f.payload + 1) * 16 = f.payload.length) ∧
    (∃ s1 f, linkTake joined 255 f = some s1 ∧ f.dst.toNat = deviceNumber joined ∧ inAt s1 f = none ∧ f.idx = 0 ∧ f.payload.length = 128 ∧
      f.payload.length < (stimLen f.payload + 1) * 16) ∧
    (∃ s s1 f x, linkTake s 255 f = some s1 ∧ f.dst.toNat = deviceNumber s ∧ inAt s1 f = some x ∧ x.got.length + f.payload.length = x.total) ∧
    ∃ s1 f, linkTake joined 255 f = some s1 ∧ f.dst.toNat = deviceNumber joined ∧ pilotKind f = false ∧ f.kind = 0x1F := by
  refine ⟨⟨takes joined (sealedTo 0 0 9 packet), sealedTo 0 0 9 packet, takes_eq _ _ _ _ _ (by decide +kernel), by decide +kernel, by decide +kernel,
      by decide +kernel⟩,
    ⟨takes joined (sealedTo 0 0 9 (stimHead 8 0 0 0 0 false 5 0 0 ++ zeros 112)), sealedTo 0 0 9 (stimHead 8 0 0 0 0 false 5 0 0 ++ zeros 112),
      takes_eq _ _ _ _ _ (by decide +kernel), by decide +kernel, by decide +kernel, rfl, by decide +kernel, by decide +kernel⟩,
    ⟨receiving 144 0 (zeros 128), takes (receiving 144 0 (zeros 128)) (sealedTo 0 1 9 (zeros 16)), sealedTo 0 1 9 (zeros 16), ⟨255, 9, 0, 0, 144, 0, zeros 128, 0⟩,
      takes_eq _ _ _ _ _ (by decide +kernel), by decide +kernel, by decide +kernel, by decide +kernel⟩,
    ⟨takes joined (sealedTo 0 0 0x1F []), sealedTo 0 0 0x1F [], takes_eq _ _ _ _ _ (by decide +kernel), by decide +kernel, by decide +kernel, rfl⟩⟩
/-- The second PLATE flit of a chunk whose first has come. -/
theorem witness_plate_second : ∃ s s1 f c h, linkTake s 255 f = some s1 ∧ f.dst.toNat = deviceNumber s ∧ f.idx ≠ 0 ∧
    s1.chunks.find? (fun e => e.1 == arrivalKey f.src.toNat f.xtag.toNat) = some (arrivalKey f.src.toNat f.xtag.toNat, c, h) ∧
    0 < bitsOf (headNat (h ++ f.payload) 0 8) 40 34 ∧ (h ++ f.payload).length = 16 + 8 * bitsOf (headNat (h ++ f.payload) 0 8) 40 34 :=
  ⟨{ joined with chunks := [(arrivalKey 9 0, 0, leBytes 8 (15 * 2 ^ 34) ++ zeros 120)] },
    takes { joined with chunks := [(arrivalKey 9 0, 0, leBytes 8 (15 * 2 ^ 34) ++ zeros 120)] } (sealedTo 0 1 10 (zeros 8)), sealedTo 0 1 10 (zeros 8), 0,
    leBytes 8 (15 * 2 ^ 34) ++ zeros 120, takes_eq _ _ _ _ _ (by decide +kernel), by decide +kernel, by decide, by decide +kernel, by decide +kernel,
    by decide +kernel⟩
/-- A report; the PLATE flit of a chunk for one device, and the flits of one for 64. -/
theorem witness_plate_flits :
    ∀ n, n = 0 ∨ n = 1 ∨ n = 64 → ∃ s1 f, linkTake joined 255 f = some s1 ∧ f.dst.toNat = deviceNumber joined ∧ f.idx = 0 ∧
      bitsOf (headNat f.payload 0 8) 40 34 = n ∧ f.payload.length = 16 + 8 * n := by
  intro n h
  refine ⟨takes joined (sealedTo 0 0 10 (leBytes 8 (n * 2 ^ 34) ++ zeros (8 + 8 * n))), sealedTo 0 0 10 (leBytes 8 (n * 2 ^ 34) ++ zeros (8 + 8 * n)),
    takes_eq _ _ _ _ _ ?_, ?_, rfl, ?_, ?_⟩ <;>
  rcases h with rfl | rfl | rfl <;> decide +kernel

/-- The module with one transfer to device 9. -/
def transferring (k : XferKind) (acc : Bool) : State :=
  { joined with xfers := [⟨0, 9, 0, k, 0, 0, acc, false, 0, 1⟩], accesses := [accOf .load], cohortOps := [{ cohOp 0 with xtag := 1 }] }
/-- AnswersReachTheirTransfers: the answers of each kind of transfer, an ACK *acc* and *vis*, and a NAK with a refusal and with a failure of the
route. -/
theorem witness_answers : ∀ (k : XferKind) (acc : Bool) (kind : BitVec 5) (r : Nat), (k, acc, kind, r) ∈ ([(.load 1, false, 4, 0), (.lineFill 1 0x40 true, false, 4, 0), (.cohort 1, false, 6, 0), (.unitRead 7, false, 4, 0),
      (.atomic 1, false, 6, 0), (.store 1, true, 7, 1), (.heldStim 0 stimZero, false, 7, 0), (.store 1, false, 7, 0), (.store 1, false, 8, 0x300),
      (.store 1, false, 8, 0x302)] : List (XferKind × Bool × BitVec 5 × Nat)) →
    ∃ s1 f x, linkTake (transferring k acc) 255 f = some s1 ∧ f.dst.toNat = deviceNumber (transferring k acc) ∧ xferAt s1 f.xtag.toNat = some x ∧ x.kind = k ∧
      x.acc = acc ∧ x.peer = f.src.toNat ∧ payNat f 0 4 = r ∧ payNat f 8 8 ≠ 1 ∧ (accAt s1 1).isSome = true ∧
      s1.cohortOps.find? (fun o => o.id == 1) = some { cohOp 0 with xtag := 1 } ∧ accEnds x.kind = decide (k = .heldStim 0 stimZero) := by
  intro k acc kind r h
  simp only [List.mem_cons, List.not_mem_nil, or_false, Prod.mk.injEq] at h
  refine ⟨takes (transferring k acc) (sealedTo 0 0 kind (leBytes 4 r)), sealedTo 0 0 kind (leBytes 4 r), ⟨0, 9, 0, k, 0, 0, acc, false, 0, 1⟩, takes_eq _ _ _ _ _ ?_,
    ?_, ?_, rfl, rfl, rfl, ?_, ?_, ?_, ?_, ?_⟩ <;>
  rcases h with ⟨rfl, rfl, rfl, rfl⟩ | ⟨rfl, rfl, rfl, rfl⟩ | ⟨rfl, rfl, rfl, rfl⟩ | ⟨rfl, rfl, rfl, rfl⟩ | ⟨rfl, rfl, rfl, rfl⟩ | ⟨rfl, rfl, rfl, rfl⟩ |
    ⟨rfl, rfl, rfl, rfl⟩ | ⟨rfl, rfl, rfl, rfl⟩ | ⟨rfl, rfl, rfl, rfl⟩ | ⟨rfl, rfl, rfl, rfl⟩ <;> decide +kernel
/-- A NAK of a marked answer. -/
theorem witness_nak_marked : ∃ s1 f, linkTake (transferring (.load 1) false) 255 f = some s1 ∧ f.dst.toNat = deviceNumber (transferring (.load 1) false) ∧
    (xferAt s1 f.xtag.toNat).isSome = true ∧ payNat f 8 8 = 1 :=
  ⟨takes (transferring (.load 1) false) (sealedTo 0 0 8 (leBytes 8 0x300 ++ leBytes 8 1)), sealedTo 0 0 8 (leBytes 8 0x300 ++ leBytes 8 1),
    takes_eq _ _ _ _ _ (by decide +kernel), by decide +kernel, by decide +kernel, by decide +kernel⟩
/-- A transfer at the limit of Remote Timeout and past it. -/
theorem witness_timeout : ∀ b : Bool, ∃ s x, s.xfers = [x] ∧ s.unsent = [] ∧ s.dist = none ∧ s.chunks = [] ∧ x.kind = .unitRead 7 ∧ xferLate s x = b := by
  intro b
  refine ⟨{ transferring (.unitRead 7) false with now := if b then 100001 else 100000 }, _, rfl, rfl, rfl, rfl, rfl, ?_⟩
  cases b <;> decide +kernel

/-- TaperedOrder: firings of tapered operands, in either scale state, with NaR among the patterns. -/
theorem witness_tapered : (∀ y, y = FloatTy.t16 ∨ y = .t32 → ∀ sc, ∃ s f, Acting .always s f ∧ inScale f [.a, .b] sc ∧
    hasWidths f (tyWidth (floatTy y)) (tyWidth (floatTy y)) (tyWidth (floatTy y))) ∧ 2 ^ 15 < 2 ^ widthBits (tyWidth (floatTy .t16)) :=
  ⟨fun y _ sc => ⟨acting idle (three (tyWidth (floatTy y)) (tyWidth (floatTy y)) (tyWidth (floatTy y)) sc), _, acts _ _ _ rfl rfl rfl, scale_met _ _ _ 1 rfl,
    widths_met _ _ _ sc⟩, by decide⟩
/-- ReadersAreRecorded: for each clause a record, a reader and its clock, up to slot 255 and the greatest clock: the reader holds field 0,
or field 1; field 0 is empty, or field 1; the vector covers the clock of field 0, or of field 1 alone, or of neither. -/
theorem witness_readers :
    let clause := fun (vc : Tab Nat) (k m : Nat) =>
      let c0 := bitsOf m 79 48
      let c1 := bitsOf m 39 8
      if c0 ≠ 0 ∧ bitsOf m 87 80 = k then 1
      else if c1 ≠ 0 ∧ bitsOf m 47 40 = k then 2
      else if c0 = 0 then 3
      else if c1 = 0 then 4
      else if c0 ≤ vcEntry vc (bitsOf m 87 80) then 5
      else if c1 ≤ vcEntry vc (bitsOf m 47 40) then 6 else 7
    let field0 := fun (k c : Nat) => k * 2 ^ 80 + c * 2 ^ 48
    let field1 := fun (k c : Nat) => k * 2 ^ 40 + c * 2 ^ 8
    [clause [] 255 (field0 255 (2 ^ 32 - 1)), clause [] 255 (field0 3 9 + field1 255 1), clause [] 255 0, clause [] 255 (field0 3 9),
      clause [(3, 9)] 255 (field0 3 9 + field1 4 9), clause [(3, 8), (4, 9)] 255 (field0 3 9 + field1 4 9),
      clause [(3, 8), (4, 8)] 255 (field0 3 9 + field1 4 9)] = [1, 2, 3, 4, 5, 6, 7] ∧
    field0 255 (2 ^ 32 - 1) + field1 255 (2 ^ 32 - 1) < 2 ^ 128 := by
  decide +kernel

/-- A firing of the multiplication of the sum of squares. -/
def multiply : Firing := { word 1 with inst := 3 }
/-- The module with it to move. -/
def moving1 : State := { machine (runs squares) with queue := [.fire multiply] }
/-- Its Press's turn given. -/
def turned : Option State := shareTurn { moving1 with now := moving1.now + 1, queue := [] } (runs squares).press (runs squares).ten
/-- StepRunsDecoded: a firing of a context that runs; of one that is frozen; an event; a pick from outside. -/
theorem witness_steps :
    (∃ s1, moving1.script = [] ∧ moving1.queue = .fire multiply :: [] ∧ ctxAt moving1 multiply.ctx = some (runs squares) ∧ (runs squares).frozen = none ∧
      (runs squares).begun = [] ∧ turned = some s1 ∧
      decodeInstr (wordFor (runs squares).image multiply.inst multiply.iter).1 = .ok (.mulFloat .always 0x010 0x1FF .pass .f32)) ∧
    (∃ (s : State) (f : Firing) (x : Ctx), s.script = [] ∧ s.queue = .fire f :: [] ∧ ctxAt s f.ctx = some x ∧ x.frozen.isSome = true) ∧
    (∃ (s : State) (f : Firing) (x : Ctx), s.script = [] ∧ s.queue = .fire f :: [] ∧ ctxAt s f.ctx = some x ∧ x.begun ≠ []) ∧
    (∃ (s : State), s.script = [] ∧ s.queue = .event (.commit 0) :: []) ∧
    ∀ late : Bool, ∃ (s : State) (p : Pick) (i : Instr), s.script = p :: [] ∧ p.ext = some i ∧ outside i = true ∧ i.wf = true ∧
      hostLink i = some 1 ∧ s.queue.any (postedBy 1) = late := by
  have hw : (wordFor (runs squares).image multiply.inst multiply.iter).1 = 0x22043FE3 := by decide +kernel
  exact ⟨⟨turned.get (by decide +kernel), rfl, rfl, rfl, rfl, rfl, (Option.some_get (by decide +kernel)).symm, by rw [hw]; rfl⟩,
    ⟨{ machine { idle with frozen := some ⟨0x040, 5, none, 0⟩ } with queue := [.fire (word 1)] }, word 1, _, rfl, rfl, rfl, rfl⟩,
    ⟨{ machine { idle with begun := [0] } with queue := [.fire (word 1)] }, word 1, _, rfl, rfl, rfl, List.cons_ne_nil _ _⟩,
    ⟨{ machine idle with queue := [.event (.commit 0)] }, rfl, rfl⟩,
    fun late => ⟨{ machine idle with
        script := [{ idx := 0, ext := some (.prodWrite 0 1 0 1), dt := 1 }]
        queue := [.event (.portBindingWrite (if late then 1 else 0) 0 0)] }, _, .prodWrite 0 1 0 1, rfl, rfl, by decide +kernel, by decide +kernel, rfl,
      by cases late <;> decide +kernel⟩⟩
/-- DecodeOfEncode: a legal instruction with a word. -/
theorem witness_decode : (Instr.st .onFalse 31 63 .n64 true (-64)).hasWord = true ∧ (Instr.st .onFalse 31 63 .n64 true (-64)).wf = true := by decide
/-- ComputeKeepsTheRest: a compute instruction with a firing in hand, and with none. -/
theorem witness_keeps : computes (.addInt .always 1 0x1FF .n32) = true ∧ (acting idle (word 1)).cur = some (word 1) ∧ (machine idle).cur = none :=
  ⟨rfl, rfl, rfl⟩
/-- FaultsFreezeAndResume: a context that runs, and one that is frozen. -/
theorem witness_faults : (∃ x, ctxAt (machine idle) 0 = some x ∧ x.frozen = none) ∧
    ∃ (s : State) (x : Ctx) (z : Frozen), ctxAt s 0 = some x ∧ x.frozen = some z ∧ x.frozen.isSome = true ∧ z.again = some (.fire (word 1)) :=
  ⟨⟨idle, rfl, rfl⟩, ⟨machine { idle with frozen := some ⟨0x118, 5, some (.fire (word 1)), 0⟩ }, _, _, rfl, rfl, rfl, rfl⟩⟩
/-- HostReadsWhatItWrote: the last 8 bytes of HBM. -/
theorem witness_host_reads : ∃ s t, memWf s.hbm = true ∧ hostUp s 1 = true ∧ readWaits s 0 1 0 (List.replicate 8 (0xA5 : Byte)).length = false ∧
    (tabGet (fun _ => 0) s.w4base 0).toNat + 0 + (List.replicate 8 (0xA5 : Byte)).length ≤ Config.hbmBytes ∧
    stackReady s ((tabGet (fun _ => 0) s.w4base 0).toNat + 0) = true ∧ remoteFail s (hostOwner 0 1) = none ∧
    hbmBad s ((tabGet (fun _ => 0) s.w4base 0).toNat + 0) (List.replicate 8 (0xA5 : Byte)).length = none ∧
    exec (.w4Write 0 1 0 (List.replicate 8 0xA5)) s = .next t :=
  ⟨based, _, by decide +kernel, by decide +kernel, by decide +kernel, by decide +kernel, by decide +kernel, by decide +kernel, by decide +kernel, rfl⟩
/-- MemoriesStayCanonical: reset, whose step moves. -/
theorem witness_canonical : memsWf State.reset = true ∧ ∃ t, step State.reset = .next t := ⟨by decide +kernel, _, rfl⟩

end Sys2Proof.Tests
end

section
/-! PROOFS. The statements about the number formats (02_number_formats.md): clamping and division of integers (R40, R41), and the order
of the tapered types (R36). -/

namespace Sys2Proof.Machine

/-! Patterns of n bits as integers. -/

theorem widthBits_tyWidth (ty : Ty) : widthBits (tyWidth ty) = tyBits ty := by cases ty <;> rfl

theorem tyBits_pos (ty : Ty) : 0 < tyBits ty := by cases ty <;> decide

theorem signed_of_low {n x : Nat} (hn : 0 < n) (hx : x < 2 ^ (n - 1)) : signed n x = x := by
  have hlt : x < 2 ^ n := hx.trans (Nat.pow_lt_pow_right one_lt_two (Nat.sub_one_lt_of_lt hn))
  rw [signed, Nat.mod_eq_of_lt hlt, if_pos hx]

theorem signed_of_high {n x : Nat} (hx : x < 2 ^ n) (hs : 2 ^ (n - 1) ≤ x) : signed n x = x - (2 ^ n : Nat) := by
  rw [signed, Nat.mod_eq_of_lt hx, if_neg (by omega)]

theorem signed_neg_iff {n x : Nat} (hn : 0 < n) (hx : x < 2 ^ n) : signed n x < 0 ↔ 2 ^ (n - 1) ≤ x := by
  rcases Nat.lt_or_ge x (2 ^ (n - 1)) with h | h
  · rw [signed_of_low hn h]; omega
  · rw [signed_of_high hx h]; omega

/-- A pattern is the integer that it stands for modulo 2^n. -/
theorem wrap_signed {n x : Nat} (hn : 0 < n) (hx : x < 2 ^ n) : wrap n (signed n x) = x := by
  rcases Nat.lt_or_ge x (2 ^ (n - 1)) with h | h
  · rw [signed_of_low hn h, wrap, Int.emod_eq_of_lt] <;> omega
  · rw [signed_of_high hx h, wrap, Int.sub_emod_right, Int.emod_eq_of_lt] <;> omega

theorem signed_inj {n x z : Nat} (hn : 0 < n) (hx : x < 2 ^ n) (hz : z < 2 ^ n) : signed n x = signed n z ↔ x = z := by
  constructor
  · intro h
    rw [← wrap_signed hn hx, h, wrap_signed hn hz]
  · exact congrArg _

/-- The pattern of NaR stands for the least integer of n bits. -/
theorem signed_half_le {n x : Nat} (hn : 0 < n) (hx : x < 2 ^ n) : signed n (2 ^ (n - 1)) ≤ signed n x := by
  have hp := Nat.two_pow_pred_add_two_pow_pred hn
  have hpos : 0 < 2 ^ (n - 1) := by positivity
  rw [signed_of_high (by omega) le_rfl]
  rcases Nat.lt_or_ge x (2 ^ (n - 1)) with h | h
  · rw [signed_of_low hn h]; omega
  · rw [signed_of_high hx h]; omega

/-- Negation of a pattern is two's-complement negation. -/
theorem wrap_neg_signed {n x : Nat} (hn : 0 < n) (hx : x < 2 ^ n) : wrap n (-signed n x) = (2 ^ n - x) % 2 ^ n := by
  have hsub : ((2 ^ n - x : Nat) : Int) = (2 ^ n : Nat) - (x : Int) := by omega
  have hmod : (-signed n x) % (2 ^ n : Nat) = ((2 ^ n - x : Nat) : Int) % (2 ^ n : Nat) := by
    rcases Nat.lt_or_ge x (2 ^ (n - 1)) with h | h
    · rw [signed_of_low hn h, hsub, sub_eq_neg_add, Int.add_emod_right]
    · rw [signed_of_high hx h, hsub, neg_sub]
  rw [wrap, hmod, ← Int.natCast_mod, Int.toNat_natCast]

theorem wrap_wrap (n : Nat) (v : Int) : wrap n (wrap n v) = wrap n v := by
  have hnn : 0 ≤ v % ((2 ^ n : Nat) : Int) := Int.emod_nonneg _ (by positivity)
  rw [wrap, wrap, Int.toNat_of_nonneg hnn, Int.emod_emod]

theorem wrap_zero (n : Nat) : wrap n 0 = 0 := by simp [wrap]

/-! Clamping and division (R40, R41). -/

/-- The least value of an integer type. -/
def leastInt (y : IntTy) : Int := if y = .i32 ∨ y = .i64 then -(2 ^ (widthBits (tyWidth (intTy y)) - 1)) else 0
/-- The greatest value of an integer type. -/
def mostInt (y : IntTy) : Int :=
  if y = .i32 ∨ y = .i64 then 2 ^ (widthBits (tyWidth (intTy y)) - 1) - 1 else 2 ^ widthBits (tyWidth (intTy y)) - 1
/-- The value of an integer type that is nearest to an integer. -/
def nearestInt (y : IntTy) (v : Int) : Int := max (leastInt y) (min (mostInt y) v)

theorem intRange_intTy (y : IntTy) : intRange (intTy y) = (leastInt y, mostInt y) := by cases y <;> decide

theorem leastInt_le_mostInt (y : IntTy) : leastInt y ≤ mostInt y := by cases y <;> decide

/-- Clamping delivers the nearest value of the type, with SA where it is not the exact one. -/
theorem clampInt_intTy (y : IntTy) (v : Int) : clampInt (intTy y) v =
    (wrap (widthBits (tyWidth (intTy y))) (nearestInt y v), if nearestInt y v = v then 0 else sbSA) := by
  have hle := leastInt_le_mostInt y
  simp only [clampInt, intRange_intTy, ← widthBits_tyWidth]
  rcases lt_or_ge v (leastInt y) with hlow | hlow
  · have hnear : nearestInt y v = leastInt y := by unfold nearestInt; omega
    rw [if_pos hlow, hnear, if_neg (ne_of_gt hlow)]
  rcases lt_or_ge (mostInt y) v with hhigh | hhigh
  · have hnear : nearestInt y v = mostInt y := by unfold nearestInt; omega
    rw [if_neg hlow.not_gt, if_pos hhigh, hnear, if_neg (ne_of_lt hhigh)]
  · have hnear : nearestInt y v = v := by unfold nearestInt; omega
    rw [if_neg hlow.not_gt, if_neg hhigh.not_gt, hnear, if_pos rfl]

theorem intDivRem_zero (ty : Ty) (x : Int) : intDivRem ty x 0 = ((0, x), sbDZ) := rfl

theorem intDivRem_ne_zero (ty : Ty) (x : Int) {z : Int} (hz : z ≠ 0) :
    intDivRem ty x z = (((wrap (tyBits ty) (x.tdiv z) : Int), x.tmod z), 0) := if_neg hz

/-- What an integer operation delivers, given its result and its own bits for each element. -/
theorem intOp_delivers (y : IntTy) (g : Int → Int → Nat × BitVec 5) {m : FireMode} {s : State} {f : Firing} {sc : Bool}
    (ts : List Target) {v : Nat → Nat} {o : Nat → BitVec 5} (ha : Acting m s f)
    (hw : hasWidths f (tyWidth (intTy y)) (tyWidth (intTy y)) (tyWidth (intTy y))) (hs : inScale f [.a, .b] sc) (hn : noTrap m s f o)
    (hg : ∀ j, g (elemInt f .a y j) (elemInt f .b y j) = (v j, o j)) :
    compute (intOp y g) m ts s = .next (delivered s m f ts (tyWidth (intTy y)) sc v o) := by
  have helem : ∀ j, compElem (intOp y g) f j = (v j, o j) := hg
  exact compute_gives (intOp y g) m ts s f _ _ _ _ sc sc v o ha hw (.inl rfl) rfl rfl hs (pass_admits sc) rfl rfl hn
    (fun j => by rw [helem]) (fun j => by rw [helem])

/-- What the clamped form of an integer operation delivers. -/
theorem clamped_delivers (y : IntTy) (g : Int → Int → Int) {m : FireMode} {s : State} {f : Firing} {sc : Bool} (ts : List Target)
    (ha : Acting m s f) (hw : hasWidths f (tyWidth (intTy y)) (tyWidth (intTy y)) (tyWidth (intTy y))) (hs : inScale f [.a, .b] sc) :
    let v := fun j => g (elemInt f .a y j) (elemInt f .b y j)
    let sa := fun j => if nearestInt y (v j) = v j then 0 else sbSA
    noTrap m s f sa → compute (intOp y fun x z => clampInt (intTy y) (g x z)) m ts s = .next
      (delivered s m f ts (tyWidth (intTy y)) sc (fun j => wrap (widthBits (tyWidth (intTy y))) (nearestInt y (v j))) sa) := by
  intro _ _ hn
  exact intOp_delivers y _ ts ha hw hs hn fun _ => clampInt_intTy y _

theorem exec_addClamp (m : FireMode) (t u : Target) (y : IntTy) (s : State) : exec (.addClamp m t u y) s =
    compute (intOp y fun x z => clampInt (intTy y) (x + z)) m [t, u] s := rfl
theorem exec_subClamp (m : FireMode) (t u : Target) (y : IntTy) (s : State) : exec (.subClamp m t u y) s =
    compute (intOp y fun x z => clampInt (intTy y) (x - z)) m [t, u] s := rfl
theorem exec_mulClamp (m : FireMode) (t u : Target) (y : IntTy) (s : State) : exec (.mulClamp m t u y) s =
    compute (intOp y fun x z => clampInt (intTy y) (x * z)) m [t, u] s := rfl
theorem exec_div (m : FireMode) (t u : Target) (y : IntTy) (s : State) : exec (.div m t u y) s = compute (intOp y fun x z =>
    (wrap (tyBits (intTy y)) (intDivRem (intTy y) x z).1.1, (intDivRem (intTy y) x z).2)) m [t, u] s := rfl
theorem exec_rem (m : FireMode) (t u : Target) (y : IntTy) (s : State) : exec (.rem m t u y) s = compute (intOp y fun x z =>
    (wrap (tyBits (intTy y)) (intDivRem (intTy y) x z).1.2, (intDivRem (intTy y) x z).2)) m [t, u] s := rfl

/-- The quotient modulo 2^w, and 0 with DZ on a zero divisor. -/
theorem quotient_wrapped (ty : Ty) (x z : Int) : (wrap (tyBits ty) (intDivRem ty x z).1.1, (intDivRem ty x z).2) =
    (if z = 0 then 0 else wrap (widthBits (tyWidth ty)) (x.tdiv z), if z = 0 then sbDZ else 0) := by
  rw [widthBits_tyWidth]
  by_cases hz : z = 0
  · rw [hz, intDivRem_zero, if_pos rfl, if_pos rfl, wrap_zero]
  · rw [intDivRem_ne_zero ty x hz, if_neg hz, if_neg hz, wrap_wrap]

/-- The remainder, and the dividend with DZ on a zero divisor. -/
theorem remainder_wrapped (ty : Ty) (x z : Int) : (wrap (tyBits ty) (intDivRem ty x z).1.2, (intDivRem ty x z).2) =
    (wrap (widthBits (tyWidth ty)) (if z = 0 then x else x.tmod z), if z = 0 then sbDZ else 0) := by
  rw [widthBits_tyWidth]
  by_cases hz : z = 0
  · rw [hz, intDivRem_zero, if_pos rfl, if_pos rfl]
  · rw [intDivRem_ne_zero ty x hz, if_neg hz, if_neg hz]

/-- Settles O2: each operation is an integer operation on exact values, whose clamped result is the nearest value of the type and whose
quotient and remainder are those of truncating division. -/
theorem clampAndDivide : Obligations.ClampAndDivide := by
  intro m t u y s f sc ha hw hs
  refine ⟨fun hn => ?_, fun hn => ?_, fun hn => ?_, fun hn => ?_, fun hn => ?_⟩
  · rw [exec_addClamp]
    exact clamped_delivers y (· + ·) [t, u] ha hw hs hn
  · rw [exec_subClamp]
    exact clamped_delivers y (· - ·) [t, u] ha hw hs hn
  · rw [exec_mulClamp]
    exact clamped_delivers y (· * ·) [t, u] ha hw hs hn
  · rw [exec_div]
    exact intOp_delivers y _ [t, u] ha hw hs hn fun _ => quotient_wrapped _ _ _
  · rw [exec_rem]
    exact intOp_delivers y _ [t, u] ha hw hs hn fun _ => remainder_wrapped _ _ _

/-! The order of the tapered types (R36). -/

theorem nanOf_tapered : ∀ {ty : Ty}, tyTapered ty = true → nanOf ty = 2 ^ (tyBits ty - 1)
  | .t8, _ | .t16, _ | .t32, _ => rfl

theorem valOf_tapered : ∀ {ty : Ty}, tyTapered ty = true → ∀ x, valOf ty x = decodeT (tyBits ty) x
  | .t8, _, _ | .t16, _, _ | .t32, _, _ => rfl

/-- NaR is the one pattern without a value (R33). -/
theorem decodeT_eq_nan_iff {n x : Nat} (hx : x < 2 ^ n) : decodeT n x = .nan ↔ x = 2 ^ (n - 1) := by
  have hpos : 2 ^ (n - 1) ≠ 0 := by positivity
  unfold decodeT
  rw [Nat.mod_eq_of_lt hx]
  by_cases h0 : x = 0
  · simp [h0, hpos.symm]
  · by_cases hnar : x = 2 ^ (n - 1) <;> simp [h0, hnar]

theorem fOrder_tapered {ty : Ty} (h : tyTapered ty = true) (x z : Nat) :
    fOrder ty x z = some (compare (signed (tyBits ty) x) (signed (tyBits ty) z)) := if_pos h

/-- The bits of an operation that is exact but for NaR: NR where its result is NaR. -/
def nrOf (ty : Ty) (r : Nat) : BitVec 5 := if r = 2 ^ (tyBits ty - 1) then sbNR else 0

/-- `min` and `max` return the operand that the order selects, with NR where that is NaR. -/
theorem fMinMax_tapered {ty : Ty} (h : tyTapered ty = true) (wantMax : Bool) {x z : Nat} (hx : x < 2 ^ tyBits ty) (hz : z < 2 ^ tyBits ty) :
    let r := if signed (tyBits ty) x ≤ signed (tyBits ty) z then cond wantMax z x else cond wantMax x z
    fMinMax ty wantMax x z = (r, nrOf ty r) := by
  intro r
  have hr : (if decide (signed (tyBits ty) x < signed (tyBits ty) z) = wantMax then z else x) = r := by
    rcases lt_trichotomy (signed (tyBits ty) x) (signed (tyBits ty) z) with hlt | heq | hgt
    · cases wantMax <;> simp [r, hlt, hlt.le]
    · simp [r, (signed_inj (tyBits_pos ty) hx hz).mp heq]
    · cases wantMax <;> simp [r, hgt.not_gt, hgt.not_ge]
  have hmod : r % 2 ^ tyBits ty = r := Nat.mod_eq_of_lt (by rw [← hr]; split <;> assumption)
  rw [fMinMax, if_pos h]
  simp only [hr, hmod, nanOf_tapered h, sbIf, decide_eq_true_eq, nrOf]

/-- `abs` and `neg` of NaR return NaR, with NR. -/
theorem fSign_nar {ty : Ty} (h : tyTapered ty = true) (isAbs : Bool) :
    fSign ty isAbs (2 ^ (tyBits ty - 1)) = (2 ^ (tyBits ty - 1), sbNR) := by
  have hlt : 2 ^ (tyBits ty - 1) < 2 ^ tyBits ty := Nat.pow_lt_pow_right one_lt_two (Nat.sub_one_lt_of_lt (tyBits_pos ty))
  simp only [fSign, valOf_tapered h, (decodeT_eq_nan_iff hlt).mpr rfl, nanRes, nanOf_tapered h]

/-- `abs` and `neg` of any other value, with no bits. -/
theorem fSign_of_ne_nar {ty : Ty} (h : tyTapered ty = true) (isAbs : Bool) {x : Nat} (hx : x < 2 ^ tyBits ty) (hnar : x ≠ 2 ^ (tyBits ty - 1)) :
    fSign ty isAbs x =
      (wrap (tyBits ty) (if isAbs then ((signed (tyBits ty) x).natAbs : Int) else -signed (tyBits ty) x), 0) := by
  have hval : decodeT (tyBits ty) x ≠ .nan := mt (decodeT_eq_nan_iff hx).mp hnar
  unfold fSign
  rw [valOf_tapered h]
  cases hd : decodeT (tyBits ty) x with
  | nan => exact absurd hd hval
  | inf | fin => exact if_pos h

theorem fNeg_tapered {ty : Ty} (h : tyTapered ty = true) {x : Nat} (hx : x < 2 ^ tyBits ty) :
    fSign ty false x = ((2 ^ tyBits ty - x) % 2 ^ tyBits ty, nrOf ty x) := by
  by_cases hnar : x = 2 ^ (tyBits ty - 1)
  · have hhalf := Nat.two_pow_pred_add_two_pow_pred (tyBits_pos ty)
    have hpos : 0 < 2 ^ (tyBits ty - 1) := by positivity
    have hneg : (2 ^ tyBits ty - 2 ^ (tyBits ty - 1)) % 2 ^ tyBits ty = 2 ^ (tyBits ty - 1) := by
      rw [Nat.mod_eq_of_lt] <;> omega
    rw [hnar, fSign_nar h, nrOf, if_pos rfl, hneg]
  · rw [fSign_of_ne_nar h false hx hnar, nrOf, if_neg hnar, if_neg Bool.false_ne_true, wrap_neg_signed (tyBits_pos ty) hx]

theorem fAbs_tapered {ty : Ty} (h : tyTapered ty = true) {x : Nat} (hx : x < 2 ^ tyBits ty) : fSign ty true x =
    (if signed (tyBits ty) x < 0 ∧ x ≠ 2 ^ (tyBits ty - 1) then 2 ^ tyBits ty - x else x, nrOf ty x) := by
  by_cases hnar : x = 2 ^ (tyBits ty - 1)
  · rw [hnar, fSign_nar h, nrOf, if_pos rfl, if_neg fun hc => hc.2 rfl]
  rw [fSign_of_ne_nar h true hx hnar, nrOf, if_neg hnar, if_pos rfl]
  by_cases hneg : signed (tyBits ty) x < 0
  · have hhigh := (signed_neg_iff (tyBits_pos ty) hx).mp hneg
    have hpos : 0 < 2 ^ (tyBits ty - 1) := by positivity
    rw [if_pos ⟨hneg, hnar⟩, Int.ofNat_natAbs_of_nonpos hneg.le, wrap_neg_signed (tyBits_pos ty) hx, Nat.mod_eq_of_lt (by omega)]
  · rw [if_neg fun hc => hneg hc.1, Int.natAbs_of_nonneg (not_lt.mp hneg), wrap_signed (tyBits_pos ty) hx]

/-- The pattern above NaR is -maxpos. -/
theorem signed_half_add_one {n : Nat} (hn : 1 < n) : signed n (2 ^ (n - 1) + 1) = -signed n (2 ^ (n - 1) - 1) := by
  have hhalf := Nat.two_pow_pred_add_two_pow_pred (Nat.zero_lt_of_lt hn)
  have hone : 1 < 2 ^ (n - 1) := Nat.one_lt_two_pow (by omega)
  rw [signed_of_high (by omega) (by omega), signed_of_low (by omega) (by omega)]
  omega

theorem fNeg_maxpos {ty : Ty} (h : tyTapered ty = true) :
    fSign ty false (2 ^ (tyBits ty - 1) - 1) = (2 ^ (tyBits ty - 1) + 1, 0) := by
  have hhalf := Nat.two_pow_pred_add_two_pow_pred (tyBits_pos ty)
  have hone : 1 < 2 ^ (tyBits ty - 1) := Nat.one_lt_two_pow (by cases ty <;> decide)
  have hneg : (2 ^ tyBits ty - (2 ^ (tyBits ty - 1) - 1)) % 2 ^ tyBits ty = 2 ^ (tyBits ty - 1) + 1 := by
    rw [Nat.mod_eq_of_lt] <;> omega
  rw [fNeg_tapered h (by omega), nrOf, if_neg (by omega), hneg]

/-- A float compare delivers words without bits of its own, whatever its operands. -/
theorem floatCmp_delivers (y : FloatTy) (unordered : Bool) (g : Ordering → Bool) {m : FireMode} {s : State} {f : Firing} {sc : Bool}
    (ts : List Target) (ha : Acting m s f) (hs : inScale f [.a, .b] sc)
    (hw : hasWidths f (tyWidth (floatTy y)) (tyWidth (floatTy y)) (tyWidth (floatTy y))) :
    ∃ v, compute (floatCmp y unordered g) m ts s = .next (delivered s m f ts .w32 sc v fun _ => 0) :=
  ⟨_, plain_gives (floatCmp y unordered g) m ts s f _ _ _ _ sc _ ha hw (.inl rfl) rfl rfl hs rfl rfl rfl (fun _ => rfl) fun _ => rfl⟩

/-- The compares of R178 are float compares. -/
theorem exec_compareFloat (m : FireMode) (t u : Target) (y : FloatTy) (s : State) {i : Instr}
    (hi : i ∈ [Instr.cmpEqFloat m t u y, .cmpNeFloat m t u y, .cmpLtFloat m t u y, .cmpLeFloat m t u y, .cmpGtFloat m t u y,
      .cmpGeFloat m t u y]) : ∃ unordered g, exec i s = compute (floatCmp y unordered g) m [t, u] s := by
  simp only [List.mem_cons, List.not_mem_nil, or_false] at hi
  rcases hi with rfl | rfl | rfl | rfl | rfl | rfl <;> exact ⟨_, _, rfl⟩

/-- Settles O51: the order is that of the integers that the patterns stand for, which `signed` maps one to one, and NaR is the least. -/
theorem taperedOrder : Obligations.TaperedOrder := by
  intro y hy
  have h : tyTapered (floatTy y) = true := by rcases hy with rfl | rfl <;> rfl
  have hn := tyBits_pos (floatTy y)
  simp only [widthBits_tyWidth]
  refine ⟨fun x z hx hz => ⟨fOrder_tapered h x z, signed_inj hn hx hz, signed_half_le hn hx, fMinMax_tapered h false hx hz,
    fMinMax_tapered h true hx hz, fAbs_tapered h hx, fNeg_tapered h hx⟩, fNeg_maxpos h,
    signed_half_add_one (by rcases hy with rfl | rfl <;> decide), ?_⟩
  intro m t u s f sc ha hs hw i hi
  obtain ⟨unordered, g, hexec⟩ := exec_compareFloat m t u y s hi
  rw [hexec]
  exact floatCmp_delivers y unordered g [t, u] ha hs hw

end Sys2Proof.Machine
end

section
/-! PROOFS. The statement about the race checker's records (15_race_detection.md): how a reader is recorded (R341). -/

namespace Sys2Proof.Machine

/-! Fields of numbers, bit by bit. -/

theorem testBit_bitsOf (v hi lo i : Nat) : (bitsOf v hi lo).testBit i = (decide (i < hi + 1 - lo) && v.testBit (lo + i)) := by
  rw [bitsOf, Nat.testBit_mod_two_pow, Nat.testBit_div_two_pow, Nat.add_comm lo]

/-- The low part, the field and the high part of a number in which a field has been put. -/
theorem putBits_eq (v hi lo x : Nat) : putBits v hi lo x =
    2 ^ lo * (2 ^ (hi + 1 - lo) * (v / 2 ^ lo / 2 ^ (hi + 1 - lo)) + x % 2 ^ (hi + 1 - lo)) + v % 2 ^ lo := by
  have hlow := Nat.div_add_mod v (2 ^ lo)
  have hfield := Nat.div_add_mod (v / 2 ^ lo) (2 ^ (hi + 1 - lo))
  have hv : v = 2 ^ lo * (2 ^ (hi + 1 - lo) * (v / 2 ^ lo / 2 ^ (hi + 1 - lo))) + v % 2 ^ lo + bitsOf v hi lo * 2 ^ lo := by
    rw [bitsOf]
    linear_combination -hlow - 2 ^ lo * hfield
  rw [putBits, Nat.sub_eq_of_eq_add hv]
  ring

/-- Putting a field changes its own bits and no other. -/
theorem testBit_putBits (v hi lo x i : Nat) :
    (putBits v hi lo x).testBit i = if lo ≤ i ∧ i ≤ hi then x.testBit (i - lo) else v.testBit i := by
  rw [putBits_eq, Nat.testBit_two_pow_mul_add _ (Nat.mod_lt _ (by positivity)),
    Nat.testBit_two_pow_mul_add _ (Nat.mod_lt _ (by positivity)), Nat.testBit_mod_two_pow, Nat.testBit_mod_two_pow,
    Nat.testBit_div_two_pow, Nat.testBit_div_two_pow]
  by_cases hlo : i < lo
  · rw [if_pos hlo, if_neg (by omega), decide_eq_true hlo, Bool.true_and]
  by_cases hhi : i ≤ hi
  · have hin : i - lo < hi + 1 - lo := by omega
    rw [if_neg hlo, if_pos hin, if_pos ⟨not_lt.mp hlo, hhi⟩, decide_eq_true hin, Bool.true_and]
  · rw [if_neg hlo, if_neg (by omega), if_neg (by omega), show i - lo - (hi + 1 - lo) + (hi + 1 - lo) + lo = i by omega]

/-- A field reads as before where another, disjoint one was put. -/
theorem bitsOf_putBits_disjoint (v x : Nat) {hi lo h l : Nat} (hd : hi < l ∨ h < lo) :
    bitsOf (putBits v hi lo x) h l = bitsOf v h l := by
  apply Nat.eq_of_testBit_eq
  intro i
  rw [testBit_bitsOf, testBit_bitsOf]
  by_cases hi' : i < h + 1 - l
  · rw [testBit_putBits, if_neg (by omega)]
  · rw [decide_eq_false hi', Bool.false_and, Bool.false_and]

/-- A field reads the number put there, if it has the room. -/
theorem bitsOf_putBits_of_lt (v : Nat) {hi lo x : Nat} (hx : x < 2 ^ (hi + 1 - lo)) : bitsOf (putBits v hi lo x) hi lo = x := by
  rw [bitsOf_putBits, Nat.mod_eq_of_lt hx]

/-! The reader fields of a record (R334, R341). -/

/-- A record whose reader field with its top bit at `top` and its synchronising bit at `bit` holds slot `k` and clock `c`. -/
def putReader (top bit k c : Nat) (sy : Bool) (m : Nat) : Nat :=
  putBits (putBits (putBits m top (top - 7) k) (top - 8) (top - 39) c) bit bit (if sy then 1 else 0)

/-- What a new reader does to a record: it enters field 0 or field 1, or sets OVF. -/
theorem addReader_eq (vc : Tab Nat) (k c : Nat) (sy : Bool) (m : Nat) : addReader vc k c sy m =
    if bitsOf m 79 48 ≠ 0 ∧ bitsOf m 87 80 = k then putReader 87 1 k c sy m
    else if bitsOf m 39 8 ≠ 0 ∧ bitsOf m 47 40 = k then putReader 47 0 k c sy m
    else if bitsOf m 79 48 = 0 then putReader 87 1 k c sy m
    else if bitsOf m 39 8 = 0 then putReader 47 0 k c sy m
    else if bitsOf m 79 48 ≤ vcEntry vc (bitsOf m 87 80) then putReader 87 1 k c sy m
    else if bitsOf m 39 8 ≤ vcEntry vc (bitsOf m 47 40) then putReader 47 0 k c sy m
    else putBits m 7 7 1 := rfl

section
variable {top bit k c : Nat} (sy : Bool) (m : Nat)

theorem putReader_slot (hbit : bit < top - 39) (hk : k < 256) : bitsOf (putReader top bit k c sy m) top (top - 7) = k := by
  rw [putReader, bitsOf_putBits_disjoint _ _ (by omega), bitsOf_putBits_disjoint _ _ (by omega), bitsOf_putBits_of_lt]
  rwa [show top + 1 - (top - 7) = 8 by omega]

theorem putReader_clock (hbit : bit < top - 39) (hc : c < 2 ^ 32) : bitsOf (putReader top bit k c sy m) (top - 8) (top - 39) = c := by
  rw [putReader, bitsOf_putBits_disjoint _ _ (by omega), bitsOf_putBits_of_lt]
  rwa [show top - 8 + 1 - (top - 39) = 32 by omega]

theorem putReader_sync : bitsOf (putReader top bit k c sy m) bit bit = if sy then 1 else 0 := by
  rw [putReader, bitsOf_putBits_of_lt]
  rw [Nat.add_sub_cancel_left]
  split <;> decide

/-- Entering a reader leaves the rest of the record as it was: what lies above its field, between the field and its synchronising bit,
or below that bit. -/
theorem putReader_rest (hbit : bit < top - 39) {h l : Nat} (hd : top < l ∨ (bit < l ∧ h < top - 39) ∨ h < bit) :
    bitsOf (putReader top bit k c sy m) h l = bitsOf m h l := by
  rw [putReader, bitsOf_putBits_disjoint _ _ (by omega), bitsOf_putBits_disjoint _ _ (by omega), bitsOf_putBits_disjoint _ _ (by omega)]

end

/-- A reader entered in field 0: its slot, its clock, its synchronising bit, and the rest of the record as it was. -/
theorem reader0_taken {k c m r : Nat} {sy : Bool} (hk : k < 256) (hc : c < 2 ^ 32) (hr : r = putReader 87 1 k c sy m) :
    bitsOf r 87 80 = k ∧ bitsOf r 79 48 = c ∧ bitsOf r 1 1 = (if sy then 1 else 0) ∧ bitsOf r 127 88 = bitsOf m 127 88 ∧
      bitsOf r 47 2 = bitsOf m 47 2 ∧ bitsOf r 0 0 = bitsOf m 0 0 := by
  subst hr
  have hbit : 1 < 87 - 39 := by decide
  exact ⟨putReader_slot sy m hbit hk, putReader_clock sy m hbit hc, putReader_sync sy m, putReader_rest sy m hbit (by decide),
    putReader_rest sy m hbit (by decide), putReader_rest sy m hbit (by decide)⟩

/-- A reader entered in field 1. -/
theorem reader1_taken {k c m r : Nat} {sy : Bool} (hk : k < 256) (hc : c < 2 ^ 32) (hr : r = putReader 47 0 k c sy m) :
    bitsOf r 47 40 = k ∧ bitsOf r 39 8 = c ∧ bitsOf r 0 0 = (if sy then 1 else 0) ∧ bitsOf r 127 48 = bitsOf m 127 48 ∧
      bitsOf r 7 1 = bitsOf m 7 1 := by
  subst hr
  have hbit : 0 < 47 - 39 := by decide
  exact ⟨putReader_slot sy m hbit hk, putReader_clock sy m hbit hc, putReader_sync sy m, putReader_rest sy m hbit (by decide),
    putReader_rest sy m hbit (by decide)⟩

/-- OVF set alone. -/
theorem overflow_set {m r : Nat} (hr : r = putBits m 7 7 1) :
    bitsOf r 7 7 = 1 ∧ bitsOf r 127 8 = bitsOf m 127 8 ∧ bitsOf r 6 0 = bitsOf m 6 0 := by
  subst hr
  exact ⟨bitsOf_putBits_of_lt m (by decide), bitsOf_putBits_disjoint _ _ (by decide), bitsOf_putBits_disjoint _ _ (by decide)⟩

/-- Settles O52: each condition of R341 selects its branch of `addReader_eq`, which enters the reader in one field or sets OVF. -/
theorem readersAreRecorded : Obligations.ReadersAreRecorded := by
  intro vc k c sy m _ hk hc
  have hr := addReader_eq vc k c sy m
  refine ⟨fun holds0 => ?_, fun not0 holds1 => ?_, fun not0 not1 => ?_⟩
  · rw [if_pos holds0] at hr
    exact reader0_taken hk hc hr
  · rw [if_neg not0, if_pos holds1] at hr
    exact reader1_taken hk hc hr
  rw [if_neg not0, if_neg not1] at hr
  refine ⟨fun empty0 => ?_, fun full0 empty1 => ?_, fun full0 full1 => ?_⟩
  · rw [if_pos empty0] at hr
    exact reader0_taken hk hc hr
  · rw [if_neg full0, if_pos empty1] at hr
    exact reader1_taken hk hc hr
  rw [if_neg full0, if_neg full1] at hr
  refine ⟨fun seen0 => ?_, fun unseen0 seen1 => ?_, fun unseen0 unseen1 => ?_⟩
  · rw [if_pos seen0] at hr
    exact reader0_taken hk hc hr
  · rw [if_neg unseen0, if_pos seen1] at hr
    exact reader1_taken hk hc hr
  · rw [if_neg unseen0, if_neg unseen1] at hr
    exact overflow_set hr

end Sys2Proof.Machine
end

section
/-! PROOFS. The statements about the encoding (07_encoding_opcode_map.md): a word decodes to the instruction that it encodes (R145 to
R156). -/

namespace Sys2Proof.Laws

/-- Settles O56: instruction by instruction, from the round trip of its format and its fields; an event has no word. -/
theorem decodeOfEncode : Obligations.DecodeOfEncode := by
  intro i
  cases i with
  | addInt f t u y => exact RoundTrip.addInt f t u y
  | subInt f t u y => exact RoundTrip.subInt f t u y
  | addClamp f t u y => exact RoundTrip.addClamp f t u y
  | subClamp f t u y => exact RoundTrip.subClamp f t u y
  | minInt f t u y => exact RoundTrip.minInt f t u y
  | maxInt f t u y => exact RoundTrip.maxInt f t u y
  | absInt f t u wide => exact RoundTrip.absInt f t u wide
  | mulInt f t u y => exact RoundTrip.mulInt f t u y
  | mulh f t u y => exact RoundTrip.mulh f t u y
  | div f t u y => exact RoundTrip.div f t u y
  | rem f t u y => exact RoundTrip.rem f t u y
  | mulClamp f t u y => exact RoundTrip.mulClamp f t u y
  | and f t u y => exact RoundTrip.and f t u y
  | or f t u y => exact RoundTrip.or f t u y
  | xor f t u y => exact RoundTrip.xor f t u y
  | andn f t u y => exact RoundTrip.andn f t u y
  | orn f t u y => exact RoundTrip.orn f t u y
  | xnor f t u y => exact RoundTrip.xnor f t u y
  | shl f t u y => exact RoundTrip.shl f t u y
  | shr f t u y => exact RoundTrip.shr f t u y
  | sar f t u y => exact RoundTrip.sar f t u y
  | rotl f t u y => exact RoundTrip.rotl f t u y
  | popc f t u y => exact RoundTrip.popc f t u y
  | clz f t u y => exact RoundTrip.clz f t u y
  | ctz f t u y => exact RoundTrip.ctz f t u y
  | brev f t u y => exact RoundTrip.brev f t u y
  | cmpEq f t u y => exact RoundTrip.cmpEq f t u y
  | cmpNe f t u y => exact RoundTrip.cmpNe f t u y
  | cmpLt f t u y => exact RoundTrip.cmpLt f t u y
  | cmpLe f t u y => exact RoundTrip.cmpLe f t u y
  | cmpGt f t u y => exact RoundTrip.cmpGt f t u y
  | cmpGe f t u y => exact RoundTrip.cmpGe f t u y
  | cmpEqFloat f t u y => exact RoundTrip.cmpEqFloat f t u y
  | cmpNeFloat f t u y => exact RoundTrip.cmpNeFloat f t u y
  | cmpLtFloat f t u y => exact RoundTrip.cmpLtFloat f t u y
  | cmpLeFloat f t u y => exact RoundTrip.cmpLeFloat f t u y
  | cmpGtFloat f t u y => exact RoundTrip.cmpGtFloat f t u y
  | cmpGeFloat f t u y => exact RoundTrip.cmpGeFloat f t u y
  | sel f t u y => exact RoundTrip.sel f t u y
  | addi f t k => exact RoundTrip.addi f t k
  | andi f t k => exact RoundTrip.andi f t k
  | ori f t k => exact RoundTrip.ori f t k
  | xori f t k => exact RoundTrip.xori f t k
  | shli f t k => exact RoundTrip.shli f t k
  | shri f t k => exact RoundTrip.shri f t k
  | sari f t k => exact RoundTrip.sari f t k
  | movi f t k => exact RoundTrip.movi f t k
  | movhi f t k => exact RoundTrip.movhi f t k
  | cmpiEq f t k => exact RoundTrip.cmpiEq f t k
  | cmpiLt f t k => exact RoundTrip.cmpiLt f t k
  | addFloat f t u x y => exact RoundTrip.addFloat f t u x y
  | subFloat f t u x y => exact RoundTrip.subFloat f t u x y
  | mulFloat f t u x y => exact RoundTrip.mulFloat f t u x y
  | fma f t u x y => exact RoundTrip.fma f t u x y
  | fms f t u x y => exact RoundTrip.fms f t u x y
  | minFloat f t u y => exact RoundTrip.minFloat f t u y
  | maxFloat f t u y => exact RoundTrip.maxFloat f t u y
  | absFloat f t u y => exact RoundTrip.absFloat f t u y
  | negFloat f t u y => exact RoundTrip.negFloat f t u y
  | cvt f d s t x => exact RoundTrip.cvt f d s t x
  | exp2 f t u y => exact RoundTrip.exp2 f t u y
  | log2 f t u y => exact RoundTrip.log2 f t u y
  | rcp f t u y => exact RoundTrip.rcp f t u y
  | rsqrt f t u y => exact RoundTrip.rsqrt f t u y
  | sigm f t u y => exact RoundTrip.sigm f t u y
  | tanh f t u y => exact RoundTrip.tanh f t u y
  | scaleApply f t u y => exact RoundTrip.scaleApply f t u y
  | scaleStrip f t u y => exact RoundTrip.scaleStrip f t u y
  | perm f t u y => exact RoundTrip.perm f t u y
  | bcast f t u y => exact RoundTrip.bcast f t u y
  | redAdd f t u y => exact RoundTrip.redAdd f t u y
  | redMax f t u y => exact RoundTrip.redMax f t u y
  | redMin f t u y => exact RoundTrip.redMin f t u y
  | scanAdd f t u y => exact RoundTrip.scanAdd f t u y
  | rpack f t u y => exact RoundTrip.rpack f t u y
  | turn f t u y => exact RoundTrip.turn f t u y
  | movFull f t u => exact RoundTrip.movFull f t u
  | nullFull f t u => exact RoundTrip.nullFull f t u
  | movCompact f t => exact RoundTrip.movCompact f t
  | nullCompact f t => exact RoundTrip.nullCompact f t
  | not f t => exact RoundTrip.not f t
  | neg f t => exact RoundTrip.neg f t
  | inc f t => exact RoundTrip.inc f t
  | dec f t => exact RoundTrip.dec f t
  | isz f t => exact RoundTrip.isz f t
  | nz f t => exact RoundTrip.nz f t
  | rdg f g t => exact RoundTrip.rdg f g t
  | wrg f g => exact RoundTrip.wrg f g
  | iter f t => exact RoundTrip.iter f t
  | lfld f t u r => exact RoundTrip.lfld f t u r
  | lfst f r => exact RoundTrip.lfst f r
  | lfldV f t u r => exact RoundTrip.lfldV f t u r
  | lfstV f r => exact RoundTrip.lfstV f r
  | lfswp f t u r => exact RoundTrip.lfswp f t u r
  | ld f l t b y acq => exact RoundTrip.ld f l t b y acq
  | ldV f l t b y acq => exact RoundTrip.ldV f l t b y acq
  | st f l b y rel k => exact RoundTrip.st f l b y rel k
  | stV f l b y rel k => exact RoundTrip.stV f l b y rel k
  | amoAdd f l t y o sys => exact RoundTrip.amoAdd f l t y o sys
  | amoAnd f l t y o sys => exact RoundTrip.amoAnd f l t y o sys
  | amoOr f l t y o sys => exact RoundTrip.amoOr f l t y o sys
  | amoXor f l t y o sys => exact RoundTrip.amoXor f l t y o sys
  | amoMin f l t y o sys => exact RoundTrip.amoMin f l t y o sys
  | amoMax f l t y o sys => exact RoundTrip.amoMax f l t y o sys
  | amoXchg f l t y o sys => exact RoundTrip.amoXchg f l t y o sys
  | cas f l t wide o sys => exact RoundTrip.cas f l t wide o sys
  | fence f l t s v => exact RoundTrip.fence f l t s v
  | qfence f t m => exact RoundTrip.qfence f t m
  | bset f n => exact RoundTrip.bset f n
  | badd f n => exact RoundTrip.badd f n
  | bget f n t => exact RoundTrip.bget f n t
  | cvta f t p => exact RoundTrip.cvta f t p
  | isap f t p => exact RoundTrip.isap f t p
  | tileFill f i t => exact RoundTrip.tileFill f i t
  | tileReady f i t => exact RoundTrip.tileReady f i t
  | tileDrain f i t => exact RoundTrip.tileDrain f i t
  | tileFree f i t => exact RoundTrip.tileFree f i t
  | tileStat f t => exact RoundTrip.tileStat f t
  | ringDef f i t => exact RoundTrip.ringDef f i t
  | mxDef f i t m => exact RoundTrip.mxDef f i t m
  | mxUnbind f t m => exact RoundTrip.mxUnbind f t m
  | gvAff f i t g => exact RoundTrip.gvAff f i t g
  | gvInd f i t g => exact RoundTrip.gvInd f i t g
  | gvGo f t g => exact RoundTrip.gvGo f t g
  | cpGo f n t => exact RoundTrip.cpGo f n t
  | cpRem f n t => exact RoundTrip.cpRem f n t
  | engCmd f t q => exact RoundTrip.engCmd f t q
  | plateLd f t u => exact RoundTrip.plateLd f t u
  | plateEv f t u => exact RoundTrip.plateEv f t u
  | plateQ f t u => exact RoundTrip.plateQ f t u
  | emit f t u => exact RoundTrip.emit f t u
  | emitT f t u => exact RoundTrip.emitT f t u
  | emitX f t u => exact RoundTrip.emitX f t u
  | spawn f t k => exact RoundTrip.spawn f t k
  | rest f => exact RoundTrip.rest f
  | bind f t u => exact RoundTrip.bind f t u
  | hint f t u => exact RoundTrip.hint f t u
  | aq f t u => exact RoundTrip.aq f t u
  | join f t u => exact RoundTrip.join f t u
  | leave f t u => exact RoundTrip.leave f t u
  | cbar f t u => exact RoundTrip.cbar f t u
  | cq f t u => exact RoundTrip.cq f t u
  | credAddI32 f t u => exact RoundTrip.credAddI32 f t u
  | credAddF32 f t u => exact RoundTrip.credAddF32 f t u
  | credMaxI32 f t u => exact RoundTrip.credMaxI32 f t u
  | credMaxF32 f t u => exact RoundTrip.credMaxF32 f t u
  | credMinI32 f t u => exact RoundTrip.credMinI32 f t u
  | credMinF32 f t u => exact RoundTrip.credMinF32 f t u
  | leaseReq f t u => exact RoundTrip.leaseReq f t u
  | leaseGive f t u => exact RoundTrip.leaseGive f t u
  | leaseRev f t u => exact RoundTrip.leaseRev f t u
  | leaseQ f t u => exact RoundTrip.leaseQ f t u
  | exit f e o => exact RoundTrip.exit f e o
  | exitI f e => exact RoundTrip.exitI f e
  | trap f n => exact RoundTrip.trap f n
  | tret f => exact RoundTrip.tret f
  | mfs f t c => exact RoundTrip.mfs f t c
  | mts f c => exact RoundTrip.mts f c
  | nop f => exact RoundTrip.nop f
  | brk f k => exact RoundTrip.brk f k
  | trmk f t k => exact RoundTrip.trmk f t k
  | stylus f k => exact RoundTrip.stylus f k
  | ctrRd f t k => exact RoundTrip.ctrRd f t k
  | ctrClr f k => exact RoundTrip.ctrClr f k
  | preempt f => exact RoundTrip.preempt f
  | abort f q => exact RoundTrip.abort f q
  | _ => exact fun hword => nomatch hword

/-- Settles O55: each word is decoded by its fields. -/
theorem wordsDecode : Obligations.WordsDecode := by
  refine ⟨?_, ?_, ?_, ?_, ?_, ?_, ?_, ?_, ?_⟩ <;> rfl

end Sys2Proof.Laws
end

section
/-! PROOFS. The statements about integer instructions (08_isa_compute.md): arithmetic (R165), logic, shifts and compares (R167 to R169),
immediates (R170) and the compact forms (R193). -/

namespace Sys2Proof.Machine

/-! Arithmetic modulo 2^w. -/

/-- What an integer operation whose result is taken modulo 2^w delivers. -/
theorem wrapped_delivers (y : IntTy) (g : Int → Int → Int) {m : FireMode} {s : State} {f : Firing} {sc : Bool} (ts : List Target)
    (ha : Acting m s f) (hw : hasWidths f (tyWidth (intTy y)) (tyWidth (intTy y)) (tyWidth (intTy y))) (hs : inScale f [.a, .b] sc) :
    compute (intOp y fun x z => wrapped y (g x z)) m ts s = .next (delivered s m f ts (tyWidth (intTy y)) sc
      (fun j => wrap (widthBits (tyWidth (intTy y))) (g (elemInt f .a y j) (elemInt f .b y j))) fun _ => 0) :=
  intOp_delivers y _ ts ha hw hs (noTrap_zero m s f) fun _ => by rw [widthBits_tyWidth]; rfl

/-- Settles O1: each operation is an integer operation on exact values whose result is taken modulo 2^w. -/
theorem integerArithmetic : Obligations.IntegerArithmetic := by
  intro m t u y s f sc ha hw hs
  refine ⟨wrapped_delivers y (· + ·) [t, u] ha hw hs, wrapped_delivers y (· - ·) [t, u] ha hw hs,
    wrapped_delivers y (· * ·) [t, u] ha hw hs, ?_, wrapped_delivers y min [t, u] ha hw hs, wrapped_delivers y max [t, u] ha hw hs, ?_⟩
  · rw [widthBits_tyWidth]
    have h := wrapped_delivers y (fun x z => x * z / 2 ^ tyBits (intTy y)) [t, u] ha hw hs
    rw [widthBits_tyWidth] at h
    exact_mod_cast h
  · rintro wide rfl
    exact wrapped_delivers _ (fun x _ => x.natAbs) [t, u] ha hw hs

/-! Logic, shifts and bit counts (R167). -/

/-- What a logic operation on raw values delivers. -/
theorem logic_delivers (r : RawTy) (g : Nat → Nat → Nat → Nat) {m : FireMode} {s : State} {f : Firing} {sc : Bool} (ts : List Target)
    {v : Nat → Nat} (ha : Acting m s f) (hw : hasWidths f (rawWidth r) (rawWidth r) (rawWidth r)) (hs : inScale f [.a, .b] sc)
    (hv : ∀ j, g (widthBits (rawWidth r)) (elemNat f .a (rawWidth r) j) (elemNat f .b (rawWidth r) j) = v j) :
    compute (logicOp r g) m ts s = .next (delivered s m f ts (rawWidth r) sc v fun _ => 0) :=
  plain_gives (logicOp r g) m ts s f _ _ _ _ sc v ha hw (.inl rfl) rfl rfl hs rfl rfl rfl
    (fun j => congrArg (· % 2 ^ widthBits (rawWidth r)) (hv j)) fun _ => rfl

/-- What a shift delivers; its amount is taken modulo the width. -/
theorem shift_delivers (r : RawTy) (g : Nat → Nat → Nat → Nat) {m : FireMode} {s : State} {f : Firing} {sc : Bool} (ts : List Target)
    {v : Nat → Nat} (ha : Acting m s f) (hw : hasWidths f (rawWidth r) .w32 (rawWidth r)) (hs : inScale f [.a] sc)
    (hv : ∀ j, g (widthBits (rawWidth r)) (elemNat f .a (rawWidth r) j) (elemNat f .b .w32 j % widthBits (rawWidth r)) %
      2 ^ widthBits (rawWidth r) = v j % 2 ^ widthBits (rawWidth r)) :
    compute (shiftOp r g) m ts s = .next (delivered s m f ts (rawWidth r) sc v fun _ => 0) :=
  plain_gives (shiftOp r g) m ts s f _ _ _ _ sc v ha hw (.inl rfl) rfl rfl hs rfl rfl rfl hv fun _ => rfl

theorem zerosFrom_eq_takeWhile (x i n : Nat) :
    zerosFrom x i n = ((List.range' i n).takeWhile fun k => !x.testBit k).length := by
  induction n generalizing i with
  | zero => rfl
  | succ n ih =>
    rw [zerosFrom, List.range'_succ, List.takeWhile_cons, ih]
    cases x.testBit i <;> rfl

theorem bitsOf_one_bit (x i : Nat) : bitsOf x i i = if x.testBit i then 1 else 0 := by
  rw [bitsOf, Nat.add_sub_cancel_left, pow_one, Nat.testBit_eq_decide_div_mod_eq]
  rcases Nat.mod_two_eq_zero_or_one (x / 2 ^ i) with h | h <;> simp [h]

/-- The bits taken so far weigh twice as much with each further bit. -/
theorem reverseBits_eq_sum (n x : Nat) :
    reverseBits n x = ((List.range n).map fun i => if x.testBit i then 2 ^ (n - 1 - i) else 0).sum := by
  induction n with
  | zero => rfl
  | succ n ih =>
    have hstep : reverseBits (n + 1) x = 2 * reverseBits n x + bitsOf x n n := by
      simp [reverseBits, List.range_succ, List.foldl_append]
    have hdouble : ∀ i ∈ List.range n, (if x.testBit i then 2 ^ (n + 1 - 1 - i) else 0) =
        2 * if x.testBit i then 2 ^ (n - 1 - i) else 0 := by
      intro i hi
      have hlt := List.mem_range.mp hi
      have hpow : 2 ^ (n + 1 - 1 - i) = 2 * 2 ^ (n - 1 - i) := by
        rw [← pow_succ', show n - 1 - i + 1 = n + 1 - 1 - i by omega]
      rw [hpow, mul_ite, mul_zero]
    rw [hstep, ih, bitsOf_one_bit, List.range_succ, List.map_append, List.sum_append, List.map_congr_left hdouble,
      List.sum_map_mul_left]
    simp

/-! Compares and select (R168, R169). -/

/-- What an integer compare delivers. -/
theorem cmp_delivers (y : IntTy) (g : Int → Int → Bool) {m : FireMode} {s : State} {f : Firing} {sc : Bool} (ts : List Target)
    (ha : Acting m s f) (hw : hasWidths f (tyWidth (intTy y)) (tyWidth (intTy y)) (tyWidth (intTy y))) (hs : inScale f [.a, .b] sc) :
    compute (cmpOp y g) m ts s = .next (delivered s m f ts .w32 sc
      (fun j => if g (elemInt f .a y j) (elemInt f .b y j) then 1 else 0) fun _ => 0) :=
  plain_gives (cmpOp y g) m ts s f _ _ _ _ sc _ ha hw (.inl rfl) rfl rfl hs rfl rfl rfl (fun _ => rfl) fun _ => rfl

/-- Settles O3: each operation delivers what it makes of its elements, and the loops that count zeros and reverse the bits compute what
the statement writes out. -/
theorem logicShiftsAndCompares : Obligations.LogicShiftsAndCompares := by
  refine ⟨fun m t u r s f sc ha => ⟨fun hw hs => ?_, fun hw hs => ?_⟩, fun m t u s f sc ha hs => ⟨fun y hw => ?_, fun r hw => ?_⟩⟩
  · have rfl_delivers := fun g => logic_delivers r g [t, u] ha hw hs fun _ => rfl
    refine ⟨rfl_delivers _, rfl_delivers _, rfl_delivers _, rfl_delivers _, rfl_delivers _, rfl_delivers _, rfl_delivers _,
      rfl_delivers _, logic_delivers r _ [t, u] ha hw hs fun j => ?_, logic_delivers r _ [t, u] ha hw hs fun j => ?_⟩
    · rw [zerosFrom_eq_takeWhile, List.range_eq_range']
    · exact reverseBits_eq_sum _ _
  · refine ⟨shift_delivers r _ [t, u] ha hw hs fun j => Nat.mod_mod _ _, shift_delivers r _ [t, u] ha hw hs fun j => rfl,
      shift_delivers r _ [t, u] ha hw hs fun j => ?_, shift_delivers r _ [t, u] ha hw hs fun j => rfl⟩
    norm_cast
  · have gives := fun g => cmp_delivers y g [t, u] ha hw hs
    exact ⟨gives _, gives _, gives _, gives _, gives _, gives _⟩
  · refine plain_gives _ m [t, u] s f _ _ .w32 (rawWidth r) sc _ ha hw (.inl rfl) rfl rfl hs rfl rfl rfl (fun j => ?_) fun _ => rfl
    rw [ite_not]
    rfl

/-! Immediates and compact forms (R170, R193). -/

/-- What an operation on 32-bit words delivers. -/
theorem word_delivers (g : Nat → Nat) (v : BitVec 32 → BitVec 32) {m : FireMode} {s : State} {f : Firing} {sc : Bool} (ts : List Target)
    (ha : Acting m s f) (hw : hasWidths f .w32 .w32 .w32) (hs : inScale f [.a, .b] sc) (hv : ∀ x : BitVec 32, g x.toNat = (v x).toNat) :
    compute (wordOp g) m ts s = .next (delivered s m f ts .w32 sc
      (fun j => (v (BitVec.ofNat 32 (elemNat f .a .w32 j))).toNat) fun _ => 0) := by
  refine plain_gives (wordOp g) m ts s f _ _ _ _ sc _ ha hw (.inl rfl) rfl rfl hs rfl rfl rfl (fun j => ?_) fun _ => rfl
  have hx : (BitVec.ofNat 32 (elemNat f .a .w32 j)).toNat = elemNat f .a .w32 j := Nat.mod_mod _ _
  rw [← hv, hx]
  rfl

theorem wrap_eq_ofInt (n : Nat) (v : Int) : wrap n v = (BitVec.ofInt n v).toNat := (BitVec.toNat_ofInt v).symm

theorem signed_toNat {n : Nat} (hn : 0 < n) (x : BitVec n) : signed n x.toNat = x.toInt := by
  have hhalf := Nat.two_pow_pred_add_two_pow_pred hn
  rw [signed, Nat.mod_eq_of_lt x.isLt, BitVec.toInt_eq_toNat_cond]
  split <;> split <;> omega

/-- The word of a condition. -/
theorem truth_toNat {p q : Prop} [Decidable p] [Decidable q] (h : p ↔ q) :
    (truth (decide p)).1 = (if q then 1 else 0 : BitVec 32).toNat := by
  by_cases hq : q <;> simp [truth, h, hq]

/-- Settles O4: each operation is one on the words that the elements stand for. -/
theorem immediateAndCompactForms : Obligations.ImmediateAndCompactForms := by
  intro m t k h z s f sc ha hw hs
  have gives := fun g v hv => word_delivers g v [t] ha hw hs hv
  refine ⟨gives _ (· + k.signExtend 32) fun x => ?_, gives _ (· &&& k.zeroExtend 32) fun x => ?_,
    gives _ (· ||| k.zeroExtend 32) fun x => ?_, gives _ (· ^^^ k.zeroExtend 32) fun x => ?_,
    gives _ (· <<< z.toNat) fun x => ?_, gives _ (· >>> z.toNat) fun x => ?_, gives _ (·.sshiftRight z.toNat) fun x => ?_,
    gives _ (· <<< 12 ||| h.zeroExtend 32) fun x => ?_, gives _ (fun x => if x = h.signExtend 32 then 1 else 0) fun x => ?_,
    gives _ (fun x => if x.slt (h.signExtend 32) then 1 else 0) fun x => ?_, gives _ (~~~ ·) fun x => ?_, gives _ (- ·) fun x => ?_,
    gives _ (· + 1) fun x => ?_, gives _ (· - 1) fun x => ?_, gives _ (fun x => if x = 0 then 1 else 0) fun x => ?_,
    gives _ (fun x => if x = 0 then 0 else 1) fun x => ?_⟩
  · rw [wrap_eq_ofInt, BitVec.ofInt_add, BitVec.ofInt_natCast, BitVec.ofNat_toNat, BitVec.setWidth_eq, BitVec.signExtend]
  · rw [BitVec.toNat_and, BitVec.toNat_setWidth_of_le (by decide)]
  · rw [BitVec.toNat_or, BitVec.toNat_setWidth_of_le (by decide)]
  · rw [BitVec.toNat_xor, BitVec.toNat_setWidth_of_le (by decide)]
  · rw [BitVec.toNat_shiftLeft, Nat.shiftLeft_eq]
  · rw [BitVec.toNat_ushiftRight, Nat.shiftRight_eq_div_pow]
  · rw [signed_toNat (by decide), wrap_eq_ofInt, BitVec.sshiftRight, Int.shiftRight_eq_div_pow]
  · have hshift : x.toNat * 2 ^ 12 % 2 ^ 32 = 2 ^ 12 * (x.toNat % 2 ^ 20) := by omega
    rw [BitVec.toNat_or, BitVec.toNat_setWidth_of_le (by decide), BitVec.toNat_shiftLeft, Nat.shiftLeft_eq, hshift,
      Nat.two_pow_add_eq_or_of_lt h.isLt]
  · exact truth_toNat (by rw [wrap_eq_ofInt, ← BitVec.signExtend, BitVec.toNat_inj])
  · exact truth_toNat (by
      rw [signed_toNat (by decide), BitVec.slt_iff_toInt_lt, BitVec.toInt_signExtend_of_le (by decide)])
  · exact BitVec.toNat_not.symm
  · exact (BitVec.toNat_neg x).symm
  · rfl
  · rw [BitVec.toNat_sub, Nat.add_sub_assoc (by decide), Nat.add_comm]
    rfl
  · exact truth_toNat (@BitVec.toNat_eq _ x 0).symm
  · rw [← ite_not]
    exact truth_toNat (not_congr (@BitVec.toNat_eq _ x 0).symm)

end Sys2Proof.Machine
end

section
/-! PROOFS. The statements about float instructions (08_isa_compute.md): arithmetic (R176, R177), compares (R178), conversions (R179), the
special functions (R182) and the scale operations (R181). -/

namespace Sys2Proof.Machine

/-! Arithmetic. -/

/-- What a float operation delivers, given the result of each element. -/
theorem floatOp_delivers (x : Ex) (y : FloatTy) (g : Ty → Nat → Nat → Nat → Res) {m : FireMode} {s : State} {f : Firing} {sc : Bool}
    (ts : List Target) {r : Nat → Res} (ha : Acting m s f)
    (hw : hasWidths f (tyWidth (floatTy y)) (tyWidth (floatTy y)) (tyWidth (floatTy y))) (hs : inScale f [.a, .b, .c] sc)
    (hx : exAdmits x sc) (hr : ∀ j, compElem (floatOp x y g) f j = r j) (hn : noTrap m s f fun j => (r j).2) :
    compute (floatOp x y g) m ts s = .next (delivered s m f ts (tyWidth (floatTy y)) sc (fun j => (r j).1) fun j => (r j).2) :=
  compute_gives (floatOp x y g) m ts s f _ _ _ _ sc sc _ _ ha hw (.inl rfl) rfl rfl hs hx rfl rfl hn (fun j => by rw [hr])
    fun j => by rw [hr]

/-- Settles O5: each operation is a float operation whose elements are those that the statement writes out. -/
theorem floatArithmetic : Obligations.FloatArithmetic := by
  intro m t u x y s f sc ha hw hs hx
  have declared := fun g => floatOp_delivers x y g [t, u] ha hw hs hx fun _ => rfl
  have undeclared := fun g => floatOp_delivers .pass y g [t, u] ha hw hs (pass_admits sc) fun _ => rfl
  exact ⟨declared fun ty a b _ => fAdd ty a b, declared fun ty a b _ => fSub ty a b, declared fun ty a b _ => fMul ty a b,
    declared fFma, declared fFms, undeclared fun ty a b _ => fMinMax ty false a b, undeclared fun ty a b _ => fMinMax ty true a b,
    undeclared fun ty a _ _ => fSign ty true a, undeclared fun ty a _ _ => fSign ty false a⟩

/-! Compares. -/

/-- The answer of a compare to the order of two values. -/
def orderAnswer (unordered : Bool) (g : Ordering → Bool) : Option Ordering → Bool
  | none => unordered
  | some o => g o

/-- The answer to the order of two values is known from the one to unordered values and to each order. -/
theorem orderAnswer_eq {unordered : Bool} {g : Ordering → Bool} (v : Option Ordering → Bool) (hnone : unordered = v none)
    (hsome : ∀ o, g o = v (some o)) : ∀ o, orderAnswer unordered g o = v o
  | none => hnone
  | some o => hsome o

/-- Tapered values are always ordered, as the integers of their patterns. -/
theorem orderAnswer_tapered {ty : Ty} (h : tyTapered ty = true) (unordered : Bool) (g : Ordering → Bool) (x z : Nat) :
    orderAnswer unordered g (fOrder ty x z) = g (compare (signed (widthBits (tyWidth ty)) x) (signed (widthBits (tyWidth ty)) z)) := by
  rw [fOrder_tapered h, widthBits_tyWidth]
  rfl

/-- What a float compare delivers. -/
theorem floatCmp_gives (y : FloatTy) (unordered : Bool) (g : Ordering → Bool) {m : FireMode} {s : State} {f : Firing} {sc : Bool}
    (ts : List Target) (v : Nat → Bool) (ha : Acting m s f)
    (hw : hasWidths f (tyWidth (floatTy y)) (tyWidth (floatTy y)) (tyWidth (floatTy y))) (hs : inScale f [.a, .b] sc)
    (hv : ∀ j, orderAnswer unordered g (fOrder (floatTy y) (elemNat f .a (tyWidth (floatTy y)) j) (elemNat f .b (tyWidth (floatTy y)) j)) =
      v j) :
    compute (floatCmp y unordered g) m ts s = .next (delivered s m f ts .w32 sc (fun j => if v j then 1 else 0) fun _ => 0) :=
  plain_gives (floatCmp y unordered g) m ts s f _ _ _ _ sc _ ha hw (.inl rfl) rfl rfl hs rfl rfl rfl
    (fun j => congrArg (fun b => (truth b).1 % 2 ^ 32) (hv j)) fun _ => rfl

/-- Settles O6: each compare answers to the order of its values, and of the answers to unordered ones only that of `ne` is true. -/
theorem floatCompares : Obligations.FloatCompares := by
  intro m t u y s f sc ha hw hs
  have gives := fun unordered g v => floatCmp_gives y unordered g [t, u] v ha hw hs
  refine ⟨fun hy => ?_, fun _ => ?_⟩
  · have h : tyTapered (floatTy y) = true := by rcases hy with rfl | rfl <;> rfl
    refine ⟨gives _ _ _ fun j => ?_, gives _ _ _ fun j => ?_, gives _ _ _ fun j => ?_, gives _ _ _ fun j => ?_,
      gives _ _ _ fun j => ?_, gives _ _ _ fun j => ?_⟩ <;> rw [orderAnswer_tapered h, Bool.eq_iff_iff, decide_eq_true_iff]
    · rw [beq_iff_eq, compare_eq_iff_eq]
    · rw [bne_iff_ne, ne_eq, compare_eq_iff_eq]
    · rw [beq_iff_eq, compare_lt_iff_lt]
    · rw [bne_iff_ne, compare_le_iff_le]
    · rw [beq_iff_eq, compare_gt_iff_gt]
    · rw [bne_iff_ne, compare_ge_iff_ge]
  · refine ⟨gives _ _ _ fun j => orderAnswer_eq (fun o => decide (o = some .eq)) rfl ?_ _,
      gives _ _ _ fun j => orderAnswer_eq (fun o => decide (o ≠ some .eq)) rfl ?_ _,
      gives _ _ _ fun j => orderAnswer_eq (fun o => decide (o = some .lt)) rfl ?_ _,
      gives _ _ _ fun j => orderAnswer_eq (fun o => decide (o = some .lt ∨ o = some .eq)) rfl ?_ _,
      gives _ _ _ fun j => orderAnswer_eq (fun o => decide (o = some .gt)) rfl ?_ _,
      gives _ _ _ fun j => orderAnswer_eq (fun o => decide (o = some .gt ∨ o = some .eq)) rfl ?_ _⟩ <;> decide

/-! Conversions, special functions and scale operations. -/

/-- What an operation on port a whose result has a scale state of its own delivers, given the result of each element. -/
theorem unary_delivers (op : CompOp) {m : FireMode} {s : State} {f : Firing} {wa wb wc ew : Width} {b sc : Bool} (ts : List Target)
    (r : Nat → Res) (ha : Acting m s f) (hw : hasWidths f wa wb wc) (hwa : op.wa = some wa) (hwb : op.wb = wb) (hwc : op.wc = wc)
    (hagree : op.agree = [.a]) (hs : inScale f [.a] b) (hx : exAdmits op.ex b) (hew : op.outW = some ew) (hsc : op.outSc.getD b = sc)
    (hr : ∀ j, compElem op f j = r j) (hn : noTrap m s f fun j => (r j).2) :
    compute op m ts s = .next (delivered s m f ts ew sc (fun j => (r j).1) fun j => (r j).2) :=
  compute_gives op m ts s f wa wb wc ew b sc _ _ ha hw (.inl hwa) hwb hwc (hagree ▸ hs) hx hew hsc hn (fun j => by rw [hr])
    fun j => by rw [hr]

theorem admits_unscaled : exAdmits .unscaled false := ⟨(nomatch ·), fun _ => rfl⟩
theorem admits_scaled : exAdmits .scaled true := ⟨fun _ => rfl, (nomatch ·)⟩

/-- Settles O7: each operation acts on port a alone, in the scale state that its declaration admits. -/
theorem conversionsFunctionsAndScales : Obligations.ConversionsFunctionsAndScales := by
  intro m t u s f sc ha hs
  refine ⟨fun dst src x hw hx hn => ?_, fun y hw hunscaled => ?_, fun y hw => ⟨fun hscaled hn => ?_, fun hunscaled hn => ?_⟩⟩
  · refine unary_delivers _ [t] _ ha hw rfl rfl rfl rfl hs hx rfl ?_ (fun _ => rfl) hn
    by_cases hd : src = .d8 <;> simp [hd]
  · subst hunscaled
    have hwy : hasWidths f (tyWidth (spTy y)) (tyWidth (spTy y)) (tyWidth (spTy y)) := by cases y <;> exact hw
    have hout : tyWidth (spTy y) = .w16 := by cases y <;> rfl
    have gives := fun fn hn => unary_delivers (spOp fn y) [t, u] (fun j => spElem fn (spTy y) (elemNat f .a .w16 j)) ha hwy rfl rfl
      rfl rfl hs admits_unscaled (congrArg some hout) rfl (fun j => by rw [← hout]; rfl) hn
    exact ⟨gives .exp2, gives .log2, gives .rcp, gives .rsqrt, gives .sigm, gives .tanh⟩
  · subst hscaled
    exact unary_delivers (scaleOp y true) [t, u] _ ha hw rfl rfl rfl rfl hs admits_scaled rfl rfl (fun _ => rfl) hn
  · subst hunscaled
    exact unary_delivers (scaleOp y false) [t, u] _ ha hw rfl rfl rfl rfl hs admits_unscaled rfl rfl (fun _ => rfl) hn

end Sys2Proof.Machine
end

section
/-! PROOFS. What every firing of a compute instruction leaves unchanged (R118, R160 to R163). -/

namespace Sys2Proof.Machine

/-- The answers of a firing of the compute families: only tokens for its own context, or a fault of it. -/
def ComputeAnswer (s : State) (f : Firing) (t : State) : Prop :=
  (∃ l, onlySends s t l ∧ ∀ w ∈ l, bringsTokens f.ctx w) ∨
    ∃ cause info, t = fireFault s f cause info ∧ (cause = 0x092 ∨ cause = 0x090 ∨ (0x080 ≤ cause ∧ cause ≤ 0x084))

theorem computeAnswer_of_sends {s t : State} {f : Firing} (h : ∃ l, (∀ w ∈ l, bringsTokens f.ctx w) ∧ onlySends s t l) :
    ComputeAnswer s f t := by
  obtain ⟨l, htokens, hsends⟩ := h
  exact .inl ⟨l, hsends, htokens⟩

theorem operandFault_cause {f : Firing} {want : Port → Option Width} {ps : List Port} {x : Ex} {c : Nat}
    (h : operandFault f want ps x = some c) : c = 0x092 ∨ c = 0x090 := by
  unfold operandFault at h
  split at h
  · exact .inl (Option.some.inj h).symm
  · split at h
    · exact .inr (Option.some.inj h).symm
    · exact nomatch h

theorem enableCause_range {hit : BitVec 5} {c : BitVec 10} (h : enableCause hit = some c) : 0x080 ≤ c.toNat ∧ c.toNat ≤ 0x084 := by
  have hall : ∀ hit : BitVec 5, ∀ c ∈ enableCause hit, 0x080 ≤ c.toNat ∧ c.toNat ≤ 0x084 := by decide
  exact hall hit c h

theorem compSend_sends (op : CompOp) (ts : List Target) (f : Firing) (s : State) (r : Nat × Nat) :
    ∃ l, (∀ w ∈ l, bringsTokens f.ctx w) ∧ onlySends s (compSend op ts f s r) l := sendRun_sends s f ts r.1 _

theorem nullsUnless_answers {check : Firing → Option Nat} (hcheck : ∀ f c, check f = some c → c = 0x092 ∨ c = 0x090) (s : State)
    (m : FireMode) (ts : List Target) (f : Firing) : ComputeAnswer s f (nullsUnless check s m ts f) := by
  unfold nullsUnless
  split
  case h_1 c h => exact .inr ⟨c, _, rfl, (hcheck f c h).imp_right .inl⟩
  case h_2 => exact computeAnswer_of_sends (sendNulls_sends s m ts f)

theorem compGo_answers (op : CompOp) (m : FireMode) (ts : List Target) (s : State) (f : Firing) :
    ComputeAnswer s f (compGo op m ts s f) := by
  unfold compGo
  split
  case h_1 c h => exact .inr ⟨c, _, rfl, (operandFault_cause h).imp_right .inl⟩
  case h_2 =>
    dsimp only
    split
    case h_1 c h =>
      refine .inr ⟨c.toNat, _, rfl, .inr (.inr ?_)⟩
      split at h
      · exact nomatch h
      · exact enableCause_range h
    case h_2 => exact computeAnswer_of_sends (foldl_sends _ _ (compSend_sends op ts f) _ s)

/-- A firing of the compute families completes with one of its answers. -/
theorem compute_answers (op : CompOp) (m : FireMode) (ts : List Target) (s : State) (f : Firing) (hcur : s.cur = some f) :
    ∃ t, compute op m ts s = .next t ∧ ComputeAnswer s f t := by
  rcases onFire_cases m s (passEos s ts) (nullsUnless (fun f => operandFault f (compWidths op) [] .pass) s m ts) (compGo op m ts s) with
    ⟨hnone, -⟩ | ⟨g, hg, hcase⟩
  · exact nomatch hnone ▸ hcur
  obtain rfl : g = f := Option.some.inj (hg.symm.trans hcur)
  rcases hcase with ⟨b, -, h⟩ | ⟨-, -, h⟩ | ⟨-, -, -, h⟩ | ⟨-, h⟩
  · exact ⟨_, h, computeAnswer_of_sends (passEos_sends s ts g b)⟩
  · exact ⟨_, h, .inl ⟨[], by simp [onlySends], by simp⟩⟩
  · exact ⟨_, h, nullsUnless_answers (fun _ _ => operandFault_cause) s m ts g⟩
  · exact ⟨_, h, compGo_answers op m ts s g⟩

/-- Every instruction of the compute families is one shared operation. -/
theorem exec_of_computes {i : Instr} (h : computes i = true) : ∃ op m ts, ∀ s, exec i s = compute op m ts s := by
  cases i with
  | addInt | subInt | addClamp | subClamp | minInt | maxInt | absInt | mulInt | mulh | div | rem | mulClamp | and | or | xor | andn | orn
  | xnor | shl | shr | sar | rotl | popc | clz | ctz | brev | cmpEq | cmpNe | cmpLt | cmpLe | cmpGt | cmpGe | cmpEqFloat | cmpNeFloat
  | cmpLtFloat | cmpLeFloat | cmpGtFloat | cmpGeFloat | sel | addi | andi | ori | xori | shli | shri | sari | movhi | cmpiEq | cmpiLt
  | addFloat | subFloat | mulFloat | fma | fms | minFloat | maxFloat | absFloat | negFloat | cvt | exp2 | log2 | rcp | rsqrt | sigm | tanh
  | scaleApply | scaleStrip | movFull | movCompact | not | neg | inc | dec | isz | nz => exact ⟨_, _, _, fun _ => rfl⟩
  | _ => exact nomatch h

/-- Settles O57: every compute instruction is one shared operation, whose firing sends tokens or takes a fault of its checks. -/
theorem computeKeepsTheRest : Obligations.ComputeKeepsTheRest := by
  intro i s h
  obtain ⟨op, m, ts, hexec⟩ := exec_of_computes h
  rw [hexec]
  exact ⟨fun f hcur => compute_answers op m ts s f hcur, onFire_idle m s _ _ _⟩

end Sys2Proof.Machine
end

section
/-! PROOFS. The canonical form of the memories through pairs, folds and answers that may carry a state. -/

namespace Sys2Proof.Machine

/-- An update that leaves the memories alone keeps them canonical. -/
theorem memsWf_same {s t : State} (h : memsWf s) (hhbm : t.hbm = s.hbm) (hsram : t.sram = s.sram) (hhost : t.hostMem = s.hostMem) :
    memsWf t := memsWf_of_same s t h hhbm hsram hhost
theorem memsWf_fst {α : Type} {p : State × α} {t : State} {a : α} (h : memsWf p.1) (he : p = (t, a)) : memsWf t := by
  subst he
  exact h
theorem memsWf_fst_eq {α : Type} {p q : State × α} (h : memsWf p.1) (he : p = q) : memsWf q.1 := he ▸ h
theorem memsWf_foldl {α : Type} {g : State → α → State} (hg : ∀ s, memsWf s → ∀ a, memsWf (g s a)) {l : List α} {s : State}
    (h : memsWf s) : memsWf (l.foldl g s) := by
  induction l generalizing s with
  | nil => exact h
  | cons a l ih => exact ih (hg s h a)

@[simp] theorem csrPoke_hbm (s : State) (num hi lo x : Nat) : (csrPoke s num hi lo x).hbm = s.hbm := rfl
@[simp] theorem csrPoke_sram (s : State) (num hi lo x : Nat) : (csrPoke s num hi lo x).sram = s.sram := rfl
@[simp] theorem csrPoke_hostMem (s : State) (num hi lo x : Nat) : (csrPoke s num hi lo x).hostMem = s.hostMem := rfl

theorem memsWf_ite {P : Prop} [Decidable P] {a b : State} (ha : memsWf a) (hb : memsWf b) : memsWf (if P then a else b) := by
  split
  · exact ha
  · exact hb

/-- The state of an answer is canonical, where it has one. -/
def OptMems : Option State → Prop
  | none => True
  | some s => memsWf s
/-- The same of an answer with a value beside its state. -/
def OptPairMems {α : Type} : Option (State × α) → Prop
  | none => True
  | some p => memsWf p.1
def GotMems : Got State → Prop
  | .ok s => memsWf s
  | _ => True
def ExceptMems : Except Nat State → Prop
  | .ok s => memsWf s
  | _ => True
def RacedMems : Raced → Prop
  | .ok s => memsWf s
  | .wait => True
  | .trap s _ _ _ => memsWf s
def NextMems : Next → Prop
  | .next s => memsWf s
  | _ => True

theorem OptMems.of_some {o : Option State} {s : State} (h : OptMems o) (he : o = some s) : memsWf s := by
  subst he
  exact h
theorem OptPairMems.of_some {α : Type} {o : Option (State × α)} {s : State} {a : α} (h : OptPairMems o) (he : o = some (s, a)) :
    memsWf s := by
  subst he
  exact h
theorem GotMems.of_ok {o : Got State} {s : State} (h : GotMems o) (he : o = .ok s) : memsWf s := by
  subst he
  exact h
theorem ExceptMems.of_ok {o : Except Nat State} {s : State} (h : ExceptMems o) (he : o = .ok s) : memsWf s := by
  subst he
  exact h
theorem RacedMems.of_ok {o : Raced} {s : State} (h : RacedMems o) (he : o = .ok s) : memsWf s := by
  subst he
  exact h
theorem RacedMems.of_trap {o : Raced} {s : State} {c a : Nat} {l : List Nat} (h : RacedMems o) (he : o = .trap s c a l) : memsWf s := by
  subst he
  exact h
theorem RacedMems.of_fst {α : Type} {p : Raced × α} {r : Raced} {a : α} (h : RacedMems p.1) (he : p = (r, a)) : RacedMems r := by
  subst he
  exact h
theorem memsWf_next {o : Next} {s : State} (he : o = .next s) (h : NextMems o) : memsWf s := by
  subst he
  exact h
/-- A check of the race checker that is passed over where it was waived. -/
theorem RacedMems.ite {P : Prop} [Decidable P] {s : State} {r : Raced} (h : memsWf s) (hr : RacedMems r) :
    RacedMems (if P then .ok s else r) := by
  split
  · exact h
  · exact hr
theorem RacedMems.ite_fst {α : Type} {P : Prop} [Decidable P] {s : State} {a : α} {p : Raced × α} (h : memsWf s)
    (hp : RacedMems p.1) : RacedMems (if P then (Raced.ok s, a) else p).1 := by
  split
  · exact h
  · exact hp
theorem memsWf_foldl_fst {α β : Type} {g : State × β → α → State × β} (hg : ∀ p, memsWf p.1 → ∀ a, memsWf (g p a).1) {l : List α}
    {p : State × β} (h : memsWf p.1) : memsWf (l.foldl g p).1 := by
  induction l generalizing p with
  | nil => exact h
  | cons a l ih => exact ih (hg p h a)

end Sys2Proof.Machine
end

section
/-! PROOFS. The canonical form of the memories is kept: the state's own operations, records, links and translation, and the compute families -/

namespace Sys2Proof.Machine

theorem memsWf_setCtx {s c v} (h : memsWf s) : memsWf (setCtx s c v) :=
  memsWf_same h rfl rfl rfl

theorem memsWf_modCtx {s c f} (h : memsWf s) : memsWf (modCtx s c f) :=
  memsWf_same h rfl rfl rfl

theorem memsWf_dropCtx {s c} (h : memsWf s) : memsWf (dropCtx s c) :=
  memsWf_same h rfl rfl rfl

theorem memsWf_setGroup {s g v} (h : memsWf s) : memsWf (setGroup s g v) :=
  memsWf_same h rfl rfl rfl

theorem memsWf_modGroup {s g f} (h : memsWf s) : memsWf (modGroup s g f) :=
  memsWf_setGroup h

theorem memsWf_setPress {s p v} (h : memsWf s) : memsWf (setPress s p v) :=
  memsWf_same h rfl rfl rfl

theorem memsWf_modPress {s p f} (h : memsWf s) : memsWf (modPress s p f) :=
  memsWf_setPress h

theorem memsWf_modStep {s i f} (h : memsWf s) : memsWf (modStep s i f) :=
  memsWf_same h rfl rfl rfl

theorem memsWf_pushWork {s w} (h : memsWf s) : memsWf (pushWork s w) :=
  memsWf_same h rfl rfl rfl

theorem memsWf_pushEv {s i} (h : memsWf s) : memsWf (pushEv s i) :=
  memsWf_pushWork h

theorem memsWf_pushEvs {s is} (h : memsWf s) : memsWf (pushEvs s is) :=
  memsWf_same h rfl rfl rfl

theorem memsWf_bumpId {s} (h : memsWf s) : memsWf (bumpId s) :=
  memsWf_same h rfl rfl rfl

theorem memsWf_pushEvOnce {s i} (h : memsWf s) : memsWf (pushEvOnce s i) := by
  unfold pushEvOnce
  split
  · exact h
  · exact memsWf_pushEv h

theorem memsWf_csrSet {s num v} (h : memsWf s) : memsWf (csrSet s num v) :=
  memsWf_same h rfl rfl rfl

theorem memsWf_csrPoke {s num hi lo x} (h : memsWf s) : memsWf (csrPoke s num hi lo x) :=
  memsWf_csrSet h

theorem memsWf_ageSettle {s} (h : memsWf s) : memsWf (ageSettle s) :=
  memsWf_same h rfl rfl rfl

theorem memsWf_touchShard {s kind obj} (h : memsWf s) : memsWf (touchShard s kind obj) :=
  memsWf_same h rfl rfl rfl

theorem memsWf_watchShard {s kind obj} (h : memsWf s) : memsWf (watchShard s kind obj) :=
  memsWf_pushEvOnce (memsWf_same h rfl rfl rfl)

theorem memsWf_hbmFresh {s pa n} (h : memsWf s) : memsWf (hbmFresh s pa n) := by
  unfold hbmFresh
  split
  · exact h
  · exact memsWf_same h rfl rfl rfl

theorem memsWf_sramFresh {s a n} (h : memsWf s) : memsWf (sramFresh s a n) := by
  unfold sramFresh
  split
  · exact h
  · exact memsWf_same h rfl rfl rfl

theorem memsWf_setRing {s k r} (h : memsWf s) : memsWf (setRing s k r) :=
  memsWf_same h rfl rfl rfl

theorem memsWf_hostSees {s o} (h : memsWf s) : memsWf (hostSees s o) :=
  memsWf_same h rfl rfl rfl

theorem memsWf_ringDeliver {s k size bs force} (h : memsWf s) : memsWf (ringDeliver s k size bs force) := by
  grind -ring -linarith [ringDeliver, memsWf_hostSees, memsWf_setRing, memsWf_hostPut]

theorem memsWf_setEventQueue {s f q} (h : memsWf s) : memsWf (setEventQueue s f q) :=
  memsWf_same h rfl rfl rfl

theorem memsWf_eventPut {s f bs force} (h : memsWf s) : memsWf (eventPut s f bs force) := by
  grind -ring -linarith [eventPut, memsWf_ringDeliver, memsWf_hostSees, memsWf_setEventQueue, memsWf_csrPoke]

theorem memsWf_eventSend {s f r} (h : memsWf s) : memsWf (eventSend s f r) :=
  memsWf_eventPut h

theorem memsWf_w4Refused {s func link at'} (h : memsWf s) : memsWf (w4Refused s func link at') :=
  memsWf_eventSend h

theorem memsWf_pfEvent {s r} (h : memsWf s) : memsWf (pfEvent s r) :=
  memsWf_eventSend h

theorem memsWf_eventFlush {n s f} (h : memsWf s) : memsWf (eventFlush n s f) := by
  unfold eventFlush
  split
  · exact h
  · split
    · exact h
    · split
      · exact memsWf_eventFlush (memsWf_ringDeliver (memsWf_setEventQueue h))
      · exact h

theorem memsWf_devCount {s e k} (h : memsWf s) : memsWf (devCount s e k) := by
  unfold devCount
  dsimp only
  split
  · exact memsWf_pushEvOnce (memsWf_same h rfl rfl rfl)
  · exact memsWf_same h rfl rfl rfl

theorem memsWf_setLink {s n l} (h : memsWf s) : memsWf (setLink s n l) :=
  memsWf_same h rfl rfl rfl

theorem memsWf_modLink {s n f} (h : memsWf s) : memsWf (modLink s n f) :=
  memsWf_setLink h

theorem memsWf_setWave {s j w} (h : memsWf s) : memsWf (setWave s j w) :=
  memsWf_same h rfl rfl rfl

theorem memsWf_setWaves {s js w} (h : memsWf s) : memsWf (setWaves s js w) :=
  memsWf_foldl (fun _ hs _ => (memsWf_setWave hs)) h

theorem memsWf_flitsLeave {s n fs} (h : memsWf s) : memsWf (flitsLeave s n fs) :=
by
  unfold flitsLeave
  refine memsWf_foldl (fun _ hs _ => ?_) h
  exact memsWf_modLink (memsWf_same hs rfl rfl rfl)

theorem memsWf_sendPilot {s n kind payload} (h : memsWf s) : memsWf (sendPilot s n kind payload) := by
  unfold sendPilot
  dsimp only
  split
  · exact h
  · exact memsWf_same h rfl rfl rfl

theorem memsWf_sendLinkctl {s n} (h : memsWf s) : memsWf (sendLinkctl s n) := by
  unfold sendLinkctl
  dsimp only
  exact memsWf_modLink (memsWf_sendPilot h)

theorem memsWf_bufferFreed {s came} (h : memsWf s) : memsWf (bufferFreed s came) := by
  unfold bufferFreed
  split
  · exact h
  · split
    · exact h
    · exact memsWf_sendLinkctl (memsWf_modLink h)

theorem memsWf_buffersForgotten {s n} (h : memsWf s) : memsWf (buffersForgotten s n) := by
  unfold buffersForgotten
  dsimp only
  exact memsWf_same h rfl rfl rfl

theorem memsWf_markSent {s f} (h : memsWf s) : memsWf (markSent s f) := by
  unfold markSent
  split
  · exact h
  · exact memsWf_same h rfl rfl rfl

theorem memsWf_dealFlit {s n f} (h : memsWf s) : memsWf (dealFlit s n f) := by
  unfold dealFlit
  dsimp only
  exact memsWf_pushEvOnce (memsWf_markSent (memsWf_flitsLeave (memsWf_setLink h)))

theorem memsWf_pumpOver {s n kept todo} (h : memsWf s) : memsWf (pumpOver s n kept todo).1 := by
  unfold pumpOver
  split
  · exact h
  · dsimp only
    split
    · exact memsWf_pumpOver h
    · exact memsWf_pumpOver (memsWf_bufferFreed (memsWf_dealFlit h))

theorem memsWf_linkPump {s n} (h : memsWf s) : memsWf (linkPump s n) := by
  unfold linkPump
  dsimp only
  split
  · exact h
  · exact memsWf_modLink (memsWf_pumpOver h)

theorem memsWf_sendFrom {s n f came} (h : memsWf s) : memsWf (sendFrom s n f came) :=
  memsWf_linkPump (memsWf_modLink h)

theorem memsWf_sendFlit {s n f} (h : memsWf s) : memsWf (sendFlit s n f) :=
  memsWf_sendFrom h

theorem memsWf_sendFlits {s n fs} (h : memsWf s) : memsWf (sendFlits s n fs) :=
  memsWf_linkPump (memsWf_modLink h)

theorem memsWf_sendAnswer {s req kind payload} (h : memsWf s) : memsWf (sendAnswer s req kind payload) := by
  grind -ring -linarith [sendAnswer, memsWf_sendFlit]

theorem memsWf_sendAck {s req vis} (h : memsWf s) : memsWf (sendAck s req vis) :=
  memsWf_sendAnswer h

theorem memsWf_sendNak {s req cause} (h : memsWf s) : memsWf (sendNak s req cause) :=
  memsWf_sendAnswer h

theorem memsWf_discardFlit {s f came} (h : memsWf s) : memsWf (discardFlit s f came) :=
  memsWf_bufferFreed (memsWf_sendNak (memsWf_pfEvent h))

theorem memsWf_linkDown {s n lost els} (h : memsWf s) : memsWf (linkDown s n lost els) := by
  unfold linkDown
  dsimp only
  split
  · exact h
  · exact memsWf_pfEvent (memsWf_foldl (fun _ hs _ => (memsWf_discardFlit hs)) (memsWf_buffersForgotten (memsWf_setLink (memsWf_foldl
        (fun _ hs _ => (memsWf_markSent hs)) h))))

theorem memsWf_linkReplay {s n} (h : memsWf s) : memsWf (linkReplay s n) := by
  grind -ring -linarith [linkReplay, memsWf_linkDown, memsWf_pushEvOnce, memsWf_devCount, memsWf_foldl, memsWf_markSent,
      memsWf_flitsLeave, memsWf_setLink]

theorem memsWf_linkTake {s n f} (h : memsWf s) : OptMems (linkTake s n f) := by
  unfold linkTake
  dsimp only
  split
  · exact trivial
  · exact memsWf_sendLinkctl (memsWf_setLink h)

theorem memsWf_forwardFlit {s f came} (h : memsWf s) : memsWf (forwardFlit s f came) := by
  unfold forwardFlit
  split
  · split
    · exact memsWf_discardFlit h
    · exact memsWf_sendFrom h
  · exact memsWf_discardFlit h

theorem memsWf_receiveFlit {s n f k} (h : memsWf s) (hk : ∀ t, memsWf t → memsWf (k t)) : memsWf (receiveFlit s n f k) := by
  unfold receiveFlit
  split
  · exact h
  · split
    · exact hk _ (OptMems.of_some (memsWf_linkTake h) ‹_›)
    · exact memsWf_forwardFlit (OptMems.of_some (memsWf_linkTake h) ‹_›)

theorem memsWf_markPte {s at' pte w} (h : memsWf s) : memsWf (markPte s at' pte w) := by
  unfold markPte
  split
  · exact h
  · exact memsWf_hbmPutDbl _ _ _ h

theorem memsWf_tlbFill {s press group ten va pte at' size} (h : memsWf s) : memsWf (tlbFill s press group ten va pte at' size) := by
  grind -ring -linarith [tlbFill, memsWf_modPress, memsWf_modGroup]

theorem memsWf_spotsMark {s via ten w l} (h : memsWf s) : memsWf (spotsMark s via ten w l) := by
  grind -ring -linarith [spotsMark, memsWf_foldl, memsWf_markPte, memsWf_modGroup, memsWf_modPress, memsWf_tlbFill]

theorem memsWf_addXfer {s xtag peer ctx k entry lsid need} (h : memsWf s) : memsWf (addXfer s xtag peer ctx k entry lsid need) :=
  memsWf_pushEvOnce (memsWf_same h rfl rfl rfl)

theorem memsWf_remoteRead {k s owner peer pa n} (h : memsWf s) : memsWf (remoteRead k s owner peer pa n).1 := by
  unfold remoteRead
  split
  · exact h
  · split
    · exact h
    · dsimp only
      split
      · split
        · exact memsWf_fst (memsWf_remoteRead h) ‹_›
        · exact memsWf_remoteRead h
      · split
        · exact h
        · split
          · exact h
          · split
            · exact h
            · exact memsWf_sendFlit (memsWf_addXfer h)

theorem memsWf_dropRemote {s owner} (h : memsWf s) : memsWf (dropRemote s owner) := by
  unfold dropRemote
  split
  · exact h
  · exact memsWf_same h rfl rfl rfl

theorem memsWf_spotRead {s owner p va n} (h : memsWf s) : memsWf (spotRead s owner p va n).1 := by
  grind -ring -linarith [spotRead, memsWf_remoteRead]

theorem memsWf_spotsRead {s owner l} (h : memsWf s) : memsWf (spotsRead s owner l).1 := by
  unfold spotsRead
  split
  · exact h
  · split
    · split
      · exact memsWf_fst (memsWf_spotsRead (memsWf_fst (memsWf_spotRead h) ‹_›)) ‹_›
      · exact memsWf_spotsRead (memsWf_fst (memsWf_spotRead h) ‹_›)
    · exact memsWf_spotRead h

theorem memsWf_dropFail {s owner} (h : memsWf s) : memsWf (dropFail s owner) := by
  unfold dropFail
  split
  · exact h
  · exact memsWf_same h rfl rfl rfl

theorem memsWf_vaKeep {s via owner ten w va n} (h : memsWf s) : memsWf (vaKeep s via owner ten w va n).1 := by
  grind -ring -linarith [vaKeep, memsWf_dropRemote, memsWf_dropFail, memsWf_spotsRead, memsWf_spotsMark]

theorem memsWf_vaRead {s via owner ten w va n} (h : memsWf s) : memsWf (vaRead s via owner ten w va n).1 := by
  unfold vaRead
  split
  · exact memsWf_fst (memsWf_vaKeep h) ‹_›
  · exact memsWf_dropRemote (memsWf_fst (memsWf_vaKeep h) ‹_›)

theorem memsWf_staleFills {s g hit} (h : memsWf s) : memsWf (staleFills s g hit) := by
  unfold staleFills
  split
  · exact h
  · exact memsWf_same h rfl rfl rfl

theorem memsWf_dropLines {s g} (h : memsWf s) : memsWf (dropLines s g) := by
  unfold dropLines
  dsimp only
  split
  · exact memsWf_staleFills h
  · exact memsWf_modGroup (memsWf_staleFills h)

theorem memsWf_dropLinesOf {s g peer pa n} (h : memsWf s) : memsWf (dropLinesOf s g peer pa n) := by
  unfold dropLinesOf
  dsimp only
  split
  · exact memsWf_staleFills h
  · exact memsWf_modGroup (memsWf_staleFills h)

theorem memsWf_remoteWrite {s via c owner ten peer pa kind bs} (h : memsWf s) : memsWf (remoteWrite s via c owner ten peer pa kind bs).1
    := by
  unfold remoteWrite
  split
  · exact h
  · split
    · exact h
    · dsimp only
      refine memsWf_sendFlits (memsWf_addXfer ?_)
      split
      · exact h
      · exact memsWf_dropLinesOf h

theorem memsWf_spotsWrite {s via c owner ten bs l} (h : memsWf s) : memsWf (spotsWrite s via c owner ten bs l).1 := by
  unfold spotsWrite
  split
  · exact h
  · split
    · split
      · exact h
      · exact memsWf_spotsWrite (memsWf_hbmFresh (memsWf_hbmWrite _ _ _ h))
    · split
      · exact memsWf_spotsWrite (memsWf_fst (memsWf_remoteWrite h) ‹_›)
      · exact memsWf_fst (memsWf_remoteWrite h) ‹_›
      · exact memsWf_fst (memsWf_remoteWrite h) ‹_›

theorem memsWf_vaWrite {s via c owner ten va bs} (h : memsWf s) : memsWf (vaWrite s via c owner ten va bs).1 := by
  grind -ring -linarith [vaWrite, memsWf_spotsWrite, memsWf_spotsMark]

theorem memsWf_unitRead {s owner ten va n} (h : memsWf s) : memsWf (unitRead s owner ten va n).1 :=
  memsWf_vaRead h

theorem memsWf_unitWrite {s owner ten va bs} (h : memsWf s) : memsWf (unitWrite s owner ten va bs).1 :=
  memsWf_vaWrite h

theorem memsWf_walkerTakes {s a} (h : memsWf s) : memsWf (walkerTakes s a) := by
  unfold walkerTakes
  dsimp only
  exact memsWf_pushEv (memsWf_same h rfl rfl rfl)

theorem memsWf_walkerPut {s cls ten agent stim op ack} (h : memsWf s) : memsWf (walkerPut s cls ten agent stim op ack) :=
  memsWf_walkerTakes h

theorem memsWf_deviceStim {s bs card} (h : memsWf s) : memsWf (deviceStim s bs card) :=
  memsWf_walkerPut h

theorem memsWf_memRingPut {s ten k bs} (h : memsWf s) : memsWf (memRingPut s ten k bs).1 := by
  unfold memRingPut
  dsimp only
  split
  · exact h
  · split
    · exact memsWf_fst (memsWf_unitRead h) ‹_›
    · exact memsWf_fst (memsWf_unitRead h) ‹_›
    · split
      · exact memsWf_fst (memsWf_unitRead h) ‹_›
      · split
        · exact memsWf_fst (memsWf_unitWrite (memsWf_fst (memsWf_unitRead h) ‹_›)) ‹_›
        · exact memsWf_fst (memsWf_unitWrite (memsWf_fst (memsWf_unitRead h) ‹_›)) ‹_›
        · split
          · exact memsWf_fst (memsWf_unitWrite (memsWf_fst (memsWf_unitWrite (memsWf_fst (memsWf_unitRead h) ‹_›)) ‹_›)) ‹_›
          · exact memsWf_fst (memsWf_unitWrite (memsWf_fst (memsWf_unitWrite (memsWf_fst (memsWf_unitRead h) ‹_›)) ‹_›)) ‹_›
          · exact memsWf_fst (memsWf_unitWrite (memsWf_fst (memsWf_unitWrite (memsWf_fst (memsWf_unitRead h) ‹_›)) ‹_›)) ‹_›

theorem memsWf_escalate {s ten bs} (h : memsWf s) : memsWf (escalate s ten bs) := by
  unfold escalate
  dsimp only
  exact memsWf_csrPoke (memsWf_eventPut h)

theorem memsWf_stewardStim {s ten bs va} (h : memsWf s) : memsWf (stewardStim s ten bs va) :=
  memsWf_deviceStim h

theorem memsWf_recordWritten {s ten bs va} (h : memsWf s) : memsWf (recordWritten s ten bs va) := by
  grind -ring -linarith [recordWritten, memsWf_stewardStim, memsWf_iff]

theorem memsWf_setFaultQueue {s ten q} (h : memsWf s) : memsWf (setFaultQueue s ten q) :=
  memsWf_same h rfl rfl rfl

theorem memsWf_recordFailed {s ten bs} (h : memsWf s) : memsWf (recordFailed s ten bs) :=
  memsWf_eventPut h

theorem memsWf_faultPut {s ten bs} (h : memsWf s) : memsWf (faultPut s ten bs) := by
  grind -ring -linarith [faultPut, memsWf_pushEvOnce, memsWf_setFaultQueue, memsWf_eventPut, memsWf_csrPoke, memsWf_memRingPut,
      memsWf_recordFailed, memsWf_recordWritten]

theorem memsWf_faultFlush {n s ten} (h : memsWf s) : memsWf (faultFlush n s ten) := by
  unfold faultFlush
  split
  · exact h
  · split
    · exact h
    · split
      · exact memsWf_fst (memsWf_memRingPut h) ‹_›
      · exact memsWf_fst (memsWf_memRingPut h) ‹_›
      · exact memsWf_faultFlush (memsWf_recordFailed (memsWf_setFaultQueue (memsWf_fst (memsWf_memRingPut h) ‹_›)))
      · exact memsWf_faultFlush (memsWf_recordWritten (memsWf_setFaultQueue (memsWf_fst (memsWf_memRingPut h) ‹_›)))

theorem memsWf_bumpSeq {s ten} (h : memsWf s) : memsWf (bumpSeq s ten) :=
  memsWf_same h rfl rfl rfl

theorem memsWf_tenRecord {s r} (h : memsWf s) : memsWf (tenRecord s r) :=
  memsWf_faultPut (memsWf_bumpSeq h)

theorem memsWf_setQuarQueue {s ten q} (h : memsWf s) : memsWf (setQuarQueue s ten q) :=
  memsWf_same h rfl rfl rfl

theorem memsWf_quarRecord {s ten bs prod va} (h : memsWf s) : memsWf (quarRecord s ten bs prod va) :=
  memsWf_faultPut (memsWf_bumpSeq h)

theorem memsWf_quarFailed {s ten bs} (h : memsWf s) : memsWf (quarFailed s ten bs) :=
  memsWf_eventPut h

theorem memsWf_quarantine {s st r} (h : memsWf s) : memsWf (quarantine s st r) := by
  grind -ring -linarith [quarantine, memsWf_pushEvOnce, memsWf_setQuarQueue, memsWf_escalate, memsWf_eventSend, memsWf_memRingPut,
      memsWf_quarFailed, memsWf_quarRecord]

theorem memsWf_quarFlush {n s ten} (h : memsWf s) : memsWf (quarFlush n s ten) := by
  unfold quarFlush
  split
  · exact h
  · split
    · exact h
    · split
      · exact memsWf_fst (memsWf_memRingPut h) ‹_›
      · exact memsWf_fst (memsWf_memRingPut h) ‹_›
      · split
        · exact memsWf_fst (memsWf_memRingPut h) ‹_›
        · exact memsWf_setQuarQueue (memsWf_quarFailed (memsWf_fst (memsWf_memRingPut h) ‹_›))
      · dsimp only
        refine memsWf_quarFlush ?_
        split
        · exact memsWf_setQuarQueue (memsWf_fst (memsWf_memRingPut h) ‹_›)
        · exact memsWf_quarRecord (memsWf_setQuarQueue (memsWf_fst (memsWf_memRingPut h) ‹_›))

theorem memsWf_parkWork {s c w} (h : memsWf s) : memsWf (parkWork s c w) :=
  memsWf_modCtx h

theorem memsWf_takeFault {s c cause i again} (h : memsWf s) : memsWf (takeFault s c cause i again) := by
  unfold takeFault
  split
  · exact h
  · split
    · split
      · exact h
      · exact memsWf_parkWork h
    · dsimp only
      split
      · exact memsWf_escalate (memsWf_same h rfl rfl rfl)
      · exact memsWf_faultPut (memsWf_same h rfl rfl rfl)

theorem memsWf_ctxCount {s c e k} (h : memsWf s) : memsWf (ctxCount s c e k) := by
  grind -ring -linarith [ctxCount, memsWf_pushEvOnce, memsWf_setCtx]

theorem memsWf_freeHeld {s c x cause} (h : memsWf s) : memsWf (freeHeld s c x cause) := by
  unfold freeHeld
  dsimp only
  split
  · exact memsWf_setPress (memsWf_same h rfl rfl rfl)
  · exact memsWf_same h rfl rfl rfl

theorem memsWf_thaw {s c} (h : memsWf s) : memsWf (thaw s c) := by
  grind -ring -linarith [thaw, memsWf_ctxCount, memsWf_freeHeld, memsWf_setCtx, memsWf_iff]

theorem memsWf_thawSaved {s c} (h : memsWf s) : memsWf (thawSaved s c) := by
  unfold thawSaved
  split
  · exact h
  · split
    · exact h
    · exact memsWf_freeHeld (memsWf_setCtx h)

theorem memsWf_sinkBits {s c b} (h : memsWf s) : memsWf (sinkBits s c b) :=
  memsWf_modCtx h

theorem memsWf_traceDouble {s v} (h : memsWf s) : memsWf (traceDouble s v) := by
  unfold traceDouble
  dsimp only
  split
  · exact memsWf_csrPoke (memsWf_hbmFresh (memsWf_hbmPutDbl _ _ _ h))
  · exact memsWf_devCount h

theorem memsWf_traceRecord {s v hasDt} (h : memsWf s) : memsWf (traceRecord s v hasDt) := by
  grind -ring -linarith [traceRecord, memsWf_traceDouble, memsWf_iff]

theorem memsWf_noteFiring {s f} (h : memsWf s) : memsWf (noteFiring s f) := by
  grind -ring -linarith [noteFiring, memsWf_modCtx, memsWf_traceRecord, memsWf_ctxCount, memsWf_setCtx]

theorem memsWf_onFire {m s eos null go} (h : memsWf s) (heos : ∀ t, ∀ v, memsWf (eos t v)) (hnull : ∀ t, memsWf (null t)) (hgo : ∀ t,
    memsWf (go t)) : NextMems (onFire m s eos null go) := by
  grind -ring -linarith [onFire, NextMems]

theorem memsWf_sendTokens {s c src born ts t} (h : memsWf s) : memsWf (sendTokens s c src born ts t) :=
  memsWf_pushEvs h

theorem memsWf_sendRun {s f ts j t} (h : memsWf s) : memsWf (sendRun s f ts j t) := by
  unfold sendRun
  split
  · exact memsWf_sendTokens h
  · exact memsWf_sendTokens h

theorem memsWf_passEos {s ts f bound} (h : memsWf s) : memsWf (passEos s ts f bound) :=
  memsWf_sendTokens h

theorem memsWf_sendNulls {s m ts f} (h : memsWf s) : memsWf (sendNulls s m ts f) :=
  memsWf_foldl (fun _ hs _ => (memsWf_sendRun hs)) h

theorem memsWf_fireFault {s f cause i} (h : memsWf s) : memsWf (fireFault s f cause i) := by
  unfold fireFault
  dsimp only
  exact memsWf_takeFault h

theorem memsWf_nullsUnless {check s m ts f} (h : memsWf s) : memsWf (nullsUnless check s m ts f) := by
  unfold nullsUnless
  split
  · exact memsWf_fireFault h
  · exact memsWf_sendNulls h

theorem memsWf_compSend {op ts f s r} (h : memsWf s) : memsWf (compSend op ts f s r) := by
  unfold compSend
  dsimp only
  exact memsWf_sendRun h

theorem memsWf_compGo {op m ts s f} (h : memsWf s) : memsWf (compGo op m ts s f) := by
  grind -ring -linarith [compGo, memsWf_fireFault, memsWf_foldl, memsWf_compSend]

theorem memsWf_compute {op m ts s} (h : memsWf s) : NextMems (compute op m ts s) :=
  memsWf_onFire h (fun _ _ => (memsWf_passEos h)) (fun _ => (memsWf_nullsUnless h)) (fun _ => (memsWf_compGo h))

theorem memsWf_waitWith {s c t put} (h : memsWf s) : memsWf (waitWith s c t put) := by
  grind -ring -linarith [waitWith, memsWf_takeFault, memsWf_setCtx, memsWf_ctxCount]

theorem memsWf_waitToken {s c t} (h : memsWf s) : memsWf (waitToken s c t) :=
  memsWf_waitWith h

theorem memsWf_openReply {s m f ts} (h : memsWf s) : memsWf (openReply s m f ts).1 := by
  unfold openReply
  dsimp only
  split
  · exact h
  · exact memsWf_modCtx h

theorem memsWf_sendReply {s r t} (h : memsWf s) : memsWf (sendReply s r t) :=
  memsWf_sendTokens h

theorem memsWf_closeReply {s r} (h : memsWf s) : memsWf (closeReply s r) := by
  grind -ring -linarith [closeReply, memsWf_foldl, memsWf_sendTokens, memsWf_setCtx]

theorem memsWf_answer {s r v ew} (h : memsWf s) : memsWf (answer s r v ew) :=
  memsWf_closeReply (memsWf_foldl (fun _ hs _ => (memsWf_sendReply hs)) h)

theorem memsWf_answerNull {s r} (h : memsWf s) : memsWf (answerNull s r) :=
  memsWf_closeReply (memsWf_foldl (fun _ hs _ => (memsWf_sendReply hs)) h)

theorem memsWf_passEosAfter {s ts f bound} (h : memsWf s) : memsWf (passEosAfter s ts f bound) := by
  unfold passEosAfter
  split
  · exact h
  · split
    · exact memsWf_passEos h
    · exact memsWf_setCtx h

theorem memsWf_settle {s c} (h : memsWf s) : memsWf (settle s c) := by
  unfold settle
  split
  · exact memsWf_pushEvOnce h
  · exact h

theorem memsWf_actedOn {s f} (h : memsWf s) : memsWf (actedOn s f) := by
  grind -ring -linarith [actedOn, memsWf_setCtx, memsWf_pushEvOnce]

theorem memsWf_afterFire {s i f} (h : memsWf s) : memsWf (afterFire s i f) := by
  unfold afterFire
  dsimp only
  split
  · exact memsWf_same h rfl rfl rfl
  · split
    · exact memsWf_settle (memsWf_same h rfl rfl rfl)
    · refine memsWf_settle (memsWf_actedOn ?_)
      split
      · split
        · exact memsWf_noteFiring (memsWf_same h rfl rfl rfl)
        · exact memsWf_same h rfl rfl rfl
      · split
        · exact memsWf_noteFiring (memsWf_same h rfl rfl rfl)
        · exact memsWf_same h rfl rfl rfl
      · split
        · exact memsWf_noteFiring (memsWf_same h rfl rfl rfl)
        · exact memsWf_same h rfl rfl rfl
      · split
        · exact memsWf_noteFiring (memsWf_same h rfl rfl rfl)
        · exact memsWf_same h rfl rfl rfl
      · split
        · exact memsWf_noteFiring (memsWf_same h rfl rfl rfl)
        · exact memsWf_same h rfl rfl rfl
      · split
        · exact memsWf_noteFiring (memsWf_same h rfl rfl rfl)
        · exact memsWf_same h rfl rfl rfl
      · split
        · exact memsWf_noteFiring (memsWf_same h rfl rfl rfl)
        · exact memsWf_same h rfl rfl rfl

theorem memsWf_execAddInt {f t u ty s} (h : memsWf s) : NextMems (execAddInt f t u ty s) :=
  memsWf_compute h

theorem memsWf_execSubInt {f t u ty s} (h : memsWf s) : NextMems (execSubInt f t u ty s) :=
  memsWf_compute h

theorem memsWf_execAddClamp {f t u ty s} (h : memsWf s) : NextMems (execAddClamp f t u ty s) :=
  memsWf_compute h

theorem memsWf_execSubClamp {f t u ty s} (h : memsWf s) : NextMems (execSubClamp f t u ty s) :=
  memsWf_compute h

theorem memsWf_execMinInt {f t u ty s} (h : memsWf s) : NextMems (execMinInt f t u ty s) :=
  memsWf_compute h

theorem memsWf_execMaxInt {f t u ty s} (h : memsWf s) : NextMems (execMaxInt f t u ty s) :=
  memsWf_compute h

theorem memsWf_execAbsInt {f t u wide s} (h : memsWf s) : NextMems (execAbsInt f t u wide s) :=
  memsWf_compute h

theorem memsWf_execMulInt {f t u ty s} (h : memsWf s) : NextMems (execMulInt f t u ty s) :=
  memsWf_compute h

theorem memsWf_execMulh {f t u ty s} (h : memsWf s) : NextMems (execMulh f t u ty s) :=
  memsWf_compute h

theorem memsWf_execDiv {f t u ty s} (h : memsWf s) : NextMems (execDiv f t u ty s) :=
  memsWf_compute h

theorem memsWf_execRem {f t u ty s} (h : memsWf s) : NextMems (execRem f t u ty s) :=
  memsWf_compute h

theorem memsWf_execMulClamp {f t u ty s} (h : memsWf s) : NextMems (execMulClamp f t u ty s) :=
  memsWf_compute h

theorem memsWf_execCmpEq {f t u ty s} (h : memsWf s) : NextMems (execCmpEq f t u ty s) :=
  memsWf_compute h

theorem memsWf_execCmpNe {f t u ty s} (h : memsWf s) : NextMems (execCmpNe f t u ty s) :=
  memsWf_compute h

theorem memsWf_execCmpLt {f t u ty s} (h : memsWf s) : NextMems (execCmpLt f t u ty s) :=
  memsWf_compute h

theorem memsWf_execCmpLe {f t u ty s} (h : memsWf s) : NextMems (execCmpLe f t u ty s) :=
  memsWf_compute h

theorem memsWf_execCmpGt {f t u ty s} (h : memsWf s) : NextMems (execCmpGt f t u ty s) :=
  memsWf_compute h

theorem memsWf_execCmpGe {f t u ty s} (h : memsWf s) : NextMems (execCmpGe f t u ty s) :=
  memsWf_compute h

theorem memsWf_execSel {f t u r s} (h : memsWf s) : NextMems (execSel f t u r s) :=
  memsWf_compute h

theorem memsWf_execAddi {f t k s} (h : memsWf s) : NextMems (execAddi f t k s) :=
  memsWf_compute h

theorem memsWf_execAndi {f t k s} (h : memsWf s) : NextMems (execAndi f t k s) :=
  memsWf_compute h

theorem memsWf_execOri {f t k s} (h : memsWf s) : NextMems (execOri f t k s) :=
  memsWf_compute h

theorem memsWf_execXori {f t k s} (h : memsWf s) : NextMems (execXori f t k s) :=
  memsWf_compute h

theorem memsWf_execShli {f t k s} (h : memsWf s) : NextMems (execShli f t k s) :=
  memsWf_compute h

theorem memsWf_execShri {f t k s} (h : memsWf s) : NextMems (execShri f t k s) :=
  memsWf_compute h

theorem memsWf_execSari {f t k s} (h : memsWf s) : NextMems (execSari f t k s) :=
  memsWf_compute h

theorem memsWf_execMovhi {f t k s} (h : memsWf s) : NextMems (execMovhi f t k s) :=
  memsWf_compute h

theorem memsWf_execCmpiEq {f t k s} (h : memsWf s) : NextMems (execCmpiEq f t k s) :=
  memsWf_compute h

theorem memsWf_execCmpiLt {f t k s} (h : memsWf s) : NextMems (execCmpiLt f t k s) :=
  memsWf_compute h

theorem memsWf_execNot {f t s} (h : memsWf s) : NextMems (execNot f t s) :=
  memsWf_compute h

theorem memsWf_execNeg {f t s} (h : memsWf s) : NextMems (execNeg f t s) :=
  memsWf_compute h

theorem memsWf_execInc {f t s} (h : memsWf s) : NextMems (execInc f t s) :=
  memsWf_compute h

theorem memsWf_execDec {f t s} (h : memsWf s) : NextMems (execDec f t s) :=
  memsWf_compute h

theorem memsWf_execIsz {f t s} (h : memsWf s) : NextMems (execIsz f t s) :=
  memsWf_compute h

theorem memsWf_execNz {f t s} (h : memsWf s) : NextMems (execNz f t s) :=
  memsWf_compute h

theorem memsWf_sendPlain {s m ts f mk} (h : memsWf s) : memsWf (sendPlain s m ts f mk) := by
  unfold sendPlain
  split
  · exact memsWf_sendTokens h
  · exact memsWf_foldl (fun _ hs _ => (memsWf_sendRun hs)) h

theorem memsWf_nullGo {m ts s} (h : memsWf s) : NextMems (nullGo m ts s) :=
  memsWf_onFire h (fun _ _ => (memsWf_passEos h)) (fun _ => h) (fun _ => (memsWf_sendPlain h))

end Sys2Proof.Machine
end

section
/-! PROOFS. The canonical form of the memories is kept: accesses, the race checker, atomics and fences -/

namespace Sys2Proof.Machine

theorem memsWf_execMovFull {f t u s} (h : memsWf s) : NextMems (execMovFull f t u s) :=
  memsWf_compute h

theorem memsWf_execNullFull {f t u s} (h : memsWf s) : NextMems (execNullFull f t u s) :=
  memsWf_nullGo h

theorem memsWf_execMovCompact {f t s} (h : memsWf s) : NextMems (execMovCompact f t s) :=
  memsWf_compute h

theorem memsWf_execNullCompact {f t s} (h : memsWf s) : NextMems (execNullCompact f t s) :=
  memsWf_nullGo h

theorem memsWf_execMovi {f t k s} (h : memsWf s) : NextMems (execMovi f t k s) :=
  memsWf_onFire h (fun _ _ => (memsWf_passEos h)) (fun _ => h) (fun _ => (memsWf_sendPlain h))

theorem memsWf_execRdg {f g t s} (h : memsWf s) : NextMems (execRdg f g t s) :=
  memsWf_onFire h (fun _ _ => (memsWf_passEos h)) (fun _ => h) (fun _ => (memsWf_sendPlain h))

theorem memsWf_countGw {s f g v} (h : memsWf s) : memsWf (countGw s f g v) := by
  grind -ring -linarith [countGw, memsWf_fireFault, memsWf_sinkBits, memsWf_setCtx]

theorem memsWf_execWrg {f g s} (h : memsWf s) : NextMems (execWrg f g s) := by
  unfold execWrg
  refine memsWf_onFire h (fun _ _ => h) (fun _ => ?_) (fun _ => ?_)
  · split
    · exact memsWf_fireFault h
    · exact memsWf_countGw h
  · split
    · exact memsWf_fireFault h
    · split
      · exact memsWf_fireFault h
      · exact memsWf_countGw h

theorem memsWf_execIter {f t s} (h : memsWf s) : NextMems (execIter f t s) := by
  unfold execIter
  refine memsWf_onFire h (fun _ _ => (memsWf_passEos h)) (fun _ => h) (fun _ => ?_)
  split
  · exact h
  · split
    · exact h
    · exact memsWf_pushEvOnce (memsWf_setCtx h)

theorem memsWf_execIterEmit {c inst s} (h : memsWf s) : NextMems (execIterEmit c inst s) := by
  grind -ring -linarith [execIterEmit, NextMems, memsWf_parkWork, memsWf_settle, memsWf_sendTokens, memsWf_setCtx, memsWf_pushEvOnce]

theorem memsWf_exitFires {s f num dest} (h : memsWf s) : memsWf (exitFires s f num dest) := by
  grind -ring -linarith [exitFires, memsWf_setCtx, memsWf_takeFault]

theorem memsWf_execExit {f e off s} (h : memsWf s) : NextMems (execExit f e off s) := by
  unfold execExit
  refine memsWf_onFire h (fun _ _ => h) (fun _ => h) (fun _ => ?_)
  split
  · exact h
  · exact memsWf_exitFires h

theorem memsWf_execExitI {f e s} (h : memsWf s) : NextMems (execExitI f e s) := by
  unfold execExitI
  refine memsWf_onFire h (fun _ _ => h) (fun _ => ?_) (fun _ => ?_)
  · split
    · exact memsWf_fireFault h
    · exact h
  · split
    · exact memsWf_fireFault h
    · dsimp only
      split
      · exact memsWf_fireFault h
      · split
        · exact memsWf_exitFires h
        · split
          · exact memsWf_fireFault h
          · exact memsWf_exitFires h

theorem memsWf_modStepOf {s c f} (h : memsWf s) : memsWf (modStepOf s c f) := by
  unfold modStepOf
  split
  · exact h
  · exact memsWf_modStep h

theorem memsWf_laneGo {vec r m q s f go} (h : memsWf s) (hgo : ∀ t, ∀ v, ∀ w, memsWf w → memsWf (go t v w)) : memsWf (laneGo vec r m q s
    f go) := by
  grind -ring -linarith [laneGo, memsWf_fireFault, memsWf_ctxCount]

theorem memsWf_laneLoad {vec f ts r s} (h : memsWf s) : NextMems (laneLoad vec f ts r s) :=
  memsWf_onFire h (fun _ _ => (memsWf_passEos h)) (fun _ => (memsWf_nullsUnless h)) (fun _ => (memsWf_laneGo h (fun _ _ _ hs =>
      (memsWf_foldl (fun _ ht _ => (memsWf_sendRun ht)) hs))))

theorem memsWf_laneSave {vec f r s} (h : memsWf s) : NextMems (laneSave vec f r s) :=
  memsWf_onFire h (fun _ _ => h) (fun _ => (memsWf_nullsUnless h)) (fun _ => (memsWf_laneGo h (fun _ _ _ hs => (memsWf_sinkBits
      (memsWf_modStepOf hs)))))

theorem memsWf_execLfld {f t u r s} (h : memsWf s) : NextMems (execLfld f t u r s) :=
  memsWf_laneLoad h

theorem memsWf_execLfst {f r s} (h : memsWf s) : NextMems (execLfst f r s) :=
  memsWf_laneSave h

theorem memsWf_execLfldV {f t u r s} (h : memsWf s) : NextMems (execLfldV f t u r s) :=
  memsWf_laneLoad h

theorem memsWf_execLfstV {f r s} (h : memsWf s) : NextMems (execLfstV f r s) :=
  memsWf_laneSave h

theorem memsWf_execLfswp {f t u r s} (h : memsWf s) : NextMems (execLfswp f t u r s) :=
  memsWf_onFire h (fun _ _ => (memsWf_passEos h)) (fun _ => (memsWf_nullsUnless h)) (fun _ => (memsWf_laneGo h (fun _ _ _ hs =>
      (memsWf_foldl (fun _ ht _ => (memsWf_sendRun ht)) (memsWf_sinkBits (memsWf_modStepOf hs))))))

theorem memsWf_modSlot {s d k f} (h : memsWf s) : memsWf (modSlot s d k f) :=
  memsWf_same h rfl rfl rfl

theorem memsWf_recordPut {s d k c v} (h : memsWf s) : memsWf (recordPut s d k c v) := by
  unfold recordPut
  dsimp only
  exact memsWf_hbmFresh (memsWf_hbmWrite _ _ _ h)

theorem memsWf_joinRecord {s d k t c} (h : memsWf s) : memsWf (joinRecord s d k t c) := by
  unfold joinRecord
  dsimp only
  split
  · exact memsWf_modSlot h
  · exact memsWf_modSlot h

theorem memsWf_startActor {s c d k recs} (h : memsWf s) : memsWf (startActor s c d k recs) := by
  unfold startActor
  split
  · exact h
  · dsimp only
    exact memsWf_foldl (fun _ hs _ => (memsWf_joinRecord hs)) (memsWf_setCtx (memsWf_modSlot h))

theorem memsWf_actorOf {s c} (h : memsWf s) : OptPairMems (actorOf s c) := by
  unfold actorOf
  split
  · exact h
  · split
    · exact h
    · split
      · exact h
      · split
        · exact trivial
        · exact memsWf_startActor h

theorem memsWf_seeProxies {s d k} (h : memsWf s) : memsWf (seeProxies s d k) :=
  memsWf_modSlot h

theorem memsWf_proxiesSee {s d ps} (h : memsWf s) : memsWf (proxiesSee s d ps) := by
  unfold proxiesSee
  dsimp only
  exact memsWf_foldl (fun _ hs _ => (memsWf_modSlot hs)) h

theorem memsWf_releaseSlot {s d k scope} (h : memsWf s) : OptMems (releaseSlot s d k scope) := by
  grind -ring -linarith [releaseSlot, OptMems, memsWf_proxiesSee, memsWf_modSlot, memsWf_recordPut]

theorem memsWf_ctxRelease {s c scope} (h : memsWf s) : RacedMems (ctxRelease s c scope).1 := by
  grind -ring -linarith [ctxRelease, OptMems, OptPairMems, RacedMems, memsWf_actorOf, memsWf_releaseSlot]

theorem memsWf_joinPending {s d k scope l} (h : memsWf s) : memsWf (joinPending s d k scope l) := by
  unfold joinPending
  refine memsWf_foldl (fun _ hs _ => ?_) h
  split
  · exact memsWf_joinRecord hs
  · exact hs

theorem memsWf_ctxFence {s c scope} (h : memsWf s) : RacedMems (ctxFence s c scope) := by
  grind -ring -linarith [ctxFence, RacedMems, memsWf_seeProxies, memsWf_joinPending, memsWf_modSlot, memsWf_ctxRelease]

theorem memsWf_wakeSlots {s} (h : memsWf s) : memsWf (wakeSlots s) := by
  unfold wakeSlots
  split
  · exact h
  · exact memsWf_pushEvOnce h

theorem memsWf_endActor {s c} (h : memsWf s) : memsWf (endActor s c) := by
  unfold endActor
  split
  · exact h
  · split
    · exact memsWf_same h rfl rfl rfl
    · dsimp only
      refine memsWf_wakeSlots ?_
      split
      · exact memsWf_pushEv (memsWf_same h rfl rfl rfl)
      · exact memsWf_same h rfl rfl rfl

theorem memsWf_touchWay {s set w} (h : memsWf s) : memsWf (touchWay s set w) :=
  memsWf_same h rfl rfl rfl

theorem memsWf_budgetNow {s} (h : memsWf s) : memsWf (budgetNow s) := by
  unfold budgetNow
  split
  · exact h
  · exact memsWf_same h rfl rfl rfl

theorem memsWf_ringRecord {s0 d bs} (h : memsWf s0) : memsWf (ringRecord s0 d bs).1 := by
  unfold ringRecord
  dsimp only
  split
  · exact memsWf_csrPoke (memsWf_budgetNow h)
  · exact memsWf_pushEvOnce (memsWf_same (memsWf_hbmFresh (memsWf_hbmWrite _ _ _ (memsWf_budgetNow h))) rfl rfl rfl)

theorem memsWf_settleLine {s tag} (h : memsWf s) : memsWf (settleLine s tag) := by
  unfold settleLine
  dsimp only
  split
  · exact memsWf_csrPoke h
  · exact memsWf_ringRecord (memsWf_csrPoke h)

theorem memsWf_putLineRec {s d line v} (h : memsWf s) : memsWf (putLineRec s d line v) := by
  grind -ring -linarith [putLineRec, memsWf_touchWay, memsWf_hbmWrite, memsWf_hbmPutDbl, memsWf_settleLine]

theorem memsWf_checkLines {s who d k a lines} (h : memsWf s) : RacedMems (checkLines s who d k a lines) := by
  unfold checkLines
  split
  · exact h
  · split
    · exact memsWf_checkLines h
    · dsimp only
      split
      · exact memsWf_ringRecord h
      · exact memsWf_checkLines (memsWf_ringRecord h)

theorem memsWf_loadJoin {s d k a m} (h : memsWf s) : memsWf (loadJoin s d k a m) := by
  grind -ring -linarith [loadJoin, memsWf_joinRecord, memsWf_modSlot]

theorem memsWf_updateLine {s d k a proxy line} (h : memsWf s) : memsWf (updateLine s d k a proxy line) := by
  unfold updateLine
  dsimp only
  refine memsWf_putLineRec ?_
  split
  · exact h
  · exact memsWf_loadJoin h

theorem memsWf_raceAccess {s c a check lines} (h : memsWf s) : RacedMems (raceAccess s c a check lines) := by
  unfold raceAccess
  split
  · exact h
  · split
    · exact h
    · split
      · exact trivial
      · exact OptPairMems.of_some (memsWf_actorOf h) ‹_›
      · split
        · split
          · refine RacedMems.of_ok ?_ ‹_›
            split
            · exact memsWf_checkLines (OptPairMems.of_some (memsWf_actorOf h) ‹_›)
            · exact OptPairMems.of_some (memsWf_actorOf h) ‹_›
          · dsimp only
            refine memsWf_foldl (fun _ hs _ => (memsWf_updateLine hs)) ?_
            split
            · refine memsWf_seeProxies (OptMems.of_some ?_ ‹_›)
              split
              · refine RacedMems.of_ok ?_ ‹_›
                split
                · exact memsWf_checkLines (OptPairMems.of_some (memsWf_actorOf h) ‹_›)
                · exact OptPairMems.of_some (memsWf_actorOf h) ‹_›
              · refine memsWf_releaseSlot (RacedMems.of_ok ?_ ‹_›)
                split
                · exact memsWf_checkLines (OptPairMems.of_some (memsWf_actorOf h) ‹_›)
                · exact OptPairMems.of_some (memsWf_actorOf h) ‹_›
            · refine OptMems.of_some ?_ ‹_›
              split
              · refine RacedMems.of_ok ?_ ‹_›
                split
                · exact memsWf_checkLines (OptPairMems.of_some (memsWf_actorOf h) ‹_›)
                · exact OptPairMems.of_some (memsWf_actorOf h) ‹_›
              · refine memsWf_releaseSlot (RacedMems.of_ok ?_ ‹_›)
                split
                · exact memsWf_checkLines (OptPairMems.of_some (memsWf_actorOf h) ‹_›)
                · exact OptPairMems.of_some (memsWf_actorOf h) ‹_›
        · split
          · exact memsWf_checkLines (OptPairMems.of_some (memsWf_actorOf h) ‹_›)
          · exact OptPairMems.of_some (memsWf_actorOf h) ‹_›

theorem memsWf_proxyAccess {s n a release pa len} (h : memsWf s) : memsWf (proxyAccess s n a release pa len) := by
  grind -ring -linarith [proxyAccess, RacedMems, memsWf_foldl, memsWf_updateLine, memsWf_checkLines, memsWf_proxiesSee, memsWf_modSlot]

theorem memsWf_slotWaits {s c} (h : memsWf s) : memsWf (slotWaits s c) := by
  unfold slotWaits
  refine memsWf_pushEvOnce ?_
  split
  · exact h
  · exact memsWf_same h rfl rfl rfl

theorem memsWf_execActorSlotAcquire {s} (h : memsWf s) : NextMems (execActorSlotAcquire s) := by
  grind -ring -linarith [execActorSlotAcquire, NextMems, OptPairMems, memsWf_wakeSlots, memsWf_actorOf, memsWf_iff]

theorem memsWf_execDomainModeEnable {d s} (h : memsWf s) : NextMems (execDomainModeEnable d s) :=
  memsWf_pushEvOnce (memsWf_csrPoke h)

theorem memsWf_execMetadataClearDone {d s} (h : memsWf s) : NextMems (execMetadataClearDone d s) := by
  unfold execMetadataClearDone
  refine memsWf_csrPoke ?_
  split
  · exact memsWf_foldl (fun _ hs _ => (memsWf_hbmPutDbl _ _ _ hs)) h
  · exact h

theorem memsWf_hbm {s a bs} (h : memsWf s) : memsWf { s with hbm := memWrite s.hbm a bs } := by
  obtain ⟨hhbm, hsram, hhost⟩ := (memsWf_iff s).1 h
  exact (memsWf_iff _).2 ⟨memWf_memWrite _ _ _ hhbm, hsram, hhost⟩

theorem memsWf_execSlotSweep {d k s} (h : memsWf s) : NextMems (execSlotSweep d k s) := by
  unfold execSlotSweep
  refine memsWf_wakeSlots (memsWf_modSlot ?_)
  have htags : memsWf (((liveTags s).filter fun e => bitsOf e.2 62 61 == d).foldl (fun t e =>
      let set := (e.1 - metaSet s 0) / 256
      let w := (e.1 - metaSet s 0) % 256 / 8
      let m := metaRec t set w
      let m1 := dropSlot k m
      if m1 = m then t
      else if bitsOf m1 119 88 = 0 ∧ bitsOf m1 79 48 = 0 ∧ bitsOf m1 39 8 = 0 then
        let n := domCsr t d 4 31 0
        csrPoke (hbmPutDbl t e.1 0) (0x3A8 + 8 * d + 4) 31 0 (if n + 1 < 2 ^ 32 then n + 1 else n)
      else hbmWrite t (metaSet s 0 + 256 * set + 0x40 + 16 * w) (leBytes 16 m1)) s) :=
    memsWf_foldl (fun t ht e => memsWf_ite ht (memsWf_ite (memsWf_csrPoke (memsWf_hbmPutDbl t e.1 0 ht))
      (memsWf_hbmWrite t _ _ ht))) h
  have hclocks : ∀ t, memsWf t → memsWf ((List.range 256).foldl (fun s j => modSlot s d j fun r => { r with vc := vcPut r.vc k 0 }) t) :=
    fun _ ht => memsWf_foldl (fun _ hu _ => memsWf_modSlot hu) ht
  exact memsWf_ite (memsWf_hbm (hclocks _ (memsWf_ite htags h))) (hclocks _ (memsWf_ite htags h))

theorem memsWf_execRaceBudgetInterval {s} (h : memsWf s) : NextMems (execRaceBudgetInterval s) := by
  grind -ring -linarith [execRaceBudgetInterval, NextMems, memsWf_pushEvOnce, memsWf_budgetNow]

theorem memsWf_setTile {s g k t} (h : memsWf s) : memsWf (setTile s g k t) :=
  memsWf_modGroup h

theorem memsWf_modTile {s g k f} (h : memsWf s) : memsWf (modTile s g k f) :=
  memsWf_setTile h

theorem memsWf_offend {s g k inst iter sb tag} (h : memsWf s) : memsWf (offend s g k inst iter sb tag) := by
  unfold offend
  split
  · exact h
  · exact memsWf_modTile h

theorem memsWf_modAcc {s id f} (h : memsWf s) : memsWf (modAcc s id f) :=
  memsWf_same h rfl rfl rfl

theorem memsWf_dropAcc {s id} (h : memsWf s) : memsWf (dropAcc s id) :=
  memsWf_same h rfl rfl rfl

theorem memsWf_modMemFire {s id f} (h : memsWf s) : memsWf (modMemFire s id f) :=
  memsWf_same h rfl rfl rfl

theorem memsWf_accFault {s a cause aux sb items again} (h : memsWf s) : memsWf (accFault s a cause aux sb items again) := by
  unfold accFault
  dsimp only
  split
  · exact memsWf_modAcc (memsWf_takeFault h)
  · exact memsWf_takeFault h

theorem memsWf_putByte {s a p i v} (h : memsWf s) : memsWf (putByte s a p i v) := by
  grind -ring -linarith [putByte, memsWf_setCtx, memsWf_hbmWrite, memsWf_slotWrite]

theorem memsWf_writeAt {s a p bs} (h : memsWf s) : memsWf (writeAt s a p bs) := by
  unfold writeAt
  split
  · exact memsWf_modStepOf h
  · exact h
  · exact h
  · exact memsWf_foldl (fun _ hs _ => (memsWf_putByte hs)) h

theorem memsWf_deliverMem {s m} (h : memsWf s) : memsWf (deliverMem s m) := by
  unfold deliverMem
  dsimp only
  exact memsWf_closeReply (memsWf_same (memsWf_foldl (fun _ hs _ => (memsWf_sendReply hs)) h) rfl rfl rfl)

theorem memsWf_accDone {s a vals own} (h : memsWf s) : memsWf (accDone s a vals own) := by
  grind -ring -linarith [accDone, memsWf_foldl, memsWf_modMemFire, memsWf_dropAcc, memsWf_deliverMem]

theorem memsWf_sendRequests {s a link peer i rs} (h : memsWf s) : OptMems (sendRequests s a link peer i rs) := by
  induction rs generalizing s with
  | nil => exact h
  | cons e r ih =>
    rw [sendRequests]
    split
    · trivial
    · exact ih (memsWf_sendFlits (memsWf_addXfer h))

theorem memsWf_sendParts {s a g ps} (h : memsWf s) : GotMems (sendParts s a g ps) := by
  unfold sendParts
  split
  · exact h
  · split
    · split
      · exact trivial
      · dsimp only
        split
        · exact trivial
        · refine memsWf_sendParts (OptMems.of_some (memsWf_sendRequests ?_) ‹_›)
          split
          · exact h
          · exact memsWf_dropLinesOf h
    · exact memsWf_sendParts h

theorem memsWf_withRace {s a stores go} (h : memsWf s) (hgo : ∀ t, memsWf t → memsWf (go t)) : memsWf (withRace s a stores go) := by
  unfold withRace
  split
  · exact memsWf_pushEv (memsWf_slotWaits h)
  · exact memsWf_accFault (RacedMems.of_trap (memsWf_raceAccess h) ‹_›)
  · exact hgo _ (RacedMems.of_ok (memsWf_raceAccess h) ‹_›)

theorem memsWf_storeParts {s a bs sb} (h : memsWf s) : memsWf (storeParts s a bs sb) := by
  unfold storeParts
  refine memsWf_foldl (fun _ hs _ => ?_) h
  dsimp only
  split
  · exact memsWf_offend (memsWf_writeAt hs)
  · exact memsWf_writeAt hs

theorem memsWf_performStore {s x a sb} (h : memsWf s) : memsWf (performStore s x a sb) := by
  grind -ring -linarith [performStore, GotMems, memsWf_withRace, memsWf_accFault, memsWf_pushEv, memsWf_modAcc, memsWf_storeParts,
      memsWf_sendParts, memsWf_accDone]

theorem memsWf_askRemote {s x a} (h : memsWf s) : memsWf (askRemote s x a) := by
  unfold askRemote
  split
  · exact memsWf_accFault h
  · exact memsWf_pushEv h
  · exact memsWf_modAcc (GotMems.of_ok (memsWf_sendParts h) ‹_›)

theorem memsWf_acquired {s x a} (h : memsWf s) : memsWf (acquired s x a) := by
  unfold acquired
  split
  · exact memsWf_dropLines h
  · exact h

theorem memsWf_performLoad {s x a m} (h : memsWf s) : memsWf (performLoad s x a m) := by
  unfold performLoad
  split
  · exact memsWf_askRemote h
  · exact memsWf_withRace h (fun _ hs => (memsWf_accDone (memsWf_acquired hs)))

theorem memsWf_performAtomic {s x a m} (h : memsWf s) : memsWf (performAtomic s x a m) := by
  grind -ring -linarith [performAtomic, memsWf_askRemote, memsWf_accFault, memsWf_modAcc, memsWf_withRace, memsWf_accDone,
      memsWf_sinkBits, memsWf_acquired, memsWf_storeParts]

theorem memsWf_performAccess {s x a} (h : memsWf s) : memsWf (performAccess s x a) := by
  grind -ring -linarith [performAccess, memsWf_pushEv, memsWf_accFault, memsWf_performStore, memsWf_dropAcc, memsWf_performLoad,
      memsWf_performAtomic]

theorem memsWf_deliverLsid {s c l} (h : memsWf s) : memsWf (deliverLsid s c l) :=
  memsWf_modCtx h

theorem memsWf_fireAccepted {s c inst vec lsid} (h : memsWf s) : memsWf (fireAccepted s c inst vec lsid) := by
  unfold fireAccepted
  split
  · split
    · exact h
    · exact memsWf_deliverLsid h
  · exact h

theorem memsWf_walkEnds {s c} (h : memsWf s) : memsWf (walkEnds s c) := by
  grind -ring -linarith [walkEnds, memsWf_ctxCount, memsWf_setCtx]

theorem memsWf_migrating {s l e} (h : memsWf s) : memsWf (pushEvOnce { s with migrations := l } e) :=
  memsWf_pushEvOnce (memsWf_same h rfl rfl rfl)

theorem memsWf_countUse {s g ten va p} (h : memsWf s) : memsWf (countUse s g ten va p) := by
  unfold countUse
  split
  · exact h
  · split
    · exact h
    · next e _ =>
      generalize (if e.count + 1 < 65536 then e.count + 1 else e.count) = n
      dsimp only
      split
      · exact memsWf_modGroup h
      · split
        · exact memsWf_pfEvent (memsWf_modGroup h)
        · exact memsWf_migrating (memsWf_csrPoke (memsWf_modGroup h))

theorem memsWf_joinHalves {s a} (h : memsWf s) : memsWf (joinHalves s a) := by
  grind -ring -linarith [joinHalves, memsWf_modAcc, memsWf_dropAcc]

theorem memsWf_accept {s a parts} (h : memsWf s) : memsWf (accept s a parts) := by
  grind -ring -linarith [accept, memsWf_performAccess, memsWf_modMemFire, memsWf_walkEnds, memsWf_modAcc, memsWf_fireAccepted,
      memsWf_joinHalves, memsWf_pushEv]

theorem memsWf_translate {s walks a} (h : memsWf s) : memsWf (translate s walks a) := by
  unfold translate
  dsimp only
  split
  · exact h
  · split
    · exact memsWf_parkWork h
    · split
      · exact memsWf_accFault h
      · split
        · split
          · exact memsWf_accFault h
          · exact memsWf_accept h
        · split
          · split
            · exact memsWf_accFault h
            · exact memsWf_accept h
          · split
            · exact memsWf_accFault h
            · split
              · exact memsWf_pushEv (memsWf_modCtx h)
              · split
                · exact memsWf_pushEv h
                · exact memsWf_accFault h
                · exact memsWf_accept (memsWf_foldl (fun _ hs _ => (memsWf_countUse hs)) (memsWf_spotsMark h))

theorem memsWf_execPageWalkComplete {acc s} (h : memsWf s) : NextMems (execPageWalkComplete acc s) := by
  grind -ring -linarith [execPageWalkComplete, NextMems, memsWf_settle, memsWf_translate]

theorem memsWf_execAccessPerformed {acc s} (h : memsWf s) : NextMems (execAccessPerformed acc s) := by
  grind -ring -linarith [execAccessPerformed, NextMems, memsWf_dropAcc, memsWf_settle, memsWf_translate, memsWf_performAccess,
      memsWf_parkWork, memsWf_pushEv]

theorem memsWf_memIssue {s m f ts q es} (h : memsWf s) : memsWf (memIssue s m f ts q es) := by
  grind -ring -linarith [memIssue, memsWf_foldl, memsWf_translate, memsWf_ctxCount, memsWf_openReply, memsWf_sinkBits, memsWf_iff]

theorem memsWf_nullStore {s f want l} (h : memsWf s) : memsWf (nullStore s f want l) := by
  unfold nullStore
  split
  · exact memsWf_fireFault h
  · exact memsWf_deliverLsid (memsWf_sinkBits h)

theorem memsWf_execLd {f l t b y acq s} (h : memsWf s) : NextMems (execLd f l t b y acq s) := by
  unfold execLd
  refine memsWf_onFire h (fun _ _ => (memsWf_passEosAfter h)) (fun _ => (memsWf_nullsUnless h)) (fun _ => ?_)
  split
  · exact memsWf_fireFault h
  · exact memsWf_memIssue h

theorem memsWf_execLdV {f l t b y acq s} (h : memsWf s) : NextMems (execLdV f l t b y acq s) := by
  unfold execLdV
  refine memsWf_onFire h (fun _ _ => (memsWf_passEosAfter h)) (fun _ => (memsWf_nullsUnless h)) (fun _ => ?_)
  split
  · exact memsWf_fireFault h
  · exact memsWf_memIssue h

theorem memsWf_execSt {f l b y rel k s} (h : memsWf s) : NextMems (execSt f l b y rel k s) := by
  unfold execSt
  dsimp only
  refine memsWf_onFire h (fun _ _ => h) (fun _ => (memsWf_nullStore h)) (fun _ => ?_)
  split
  · exact memsWf_fireFault h
  · exact memsWf_memIssue h

theorem memsWf_gather {s f} (h : memsWf s) : memsWf (gather s f) :=
  memsWf_modCtx h

theorem memsWf_gatherOnly {s f l} (h : memsWf s) : memsWf (gatherOnly s f l) :=
  memsWf_fireAccepted (memsWf_gather h)

theorem memsWf_execStV {f l b y rel k s} (h : memsWf s) : NextMems (execStV f l b y rel k s) := by
  grind -ring -linarith [execStV, NextMems, memsWf_fireFault, memsWf_gatherOnly, memsWf_sinkBits, memsWf_memIssue, memsWf_gather]

theorem memsWf_nullAtomic {s m t f want l} (h : memsWf s) : memsWf (nullAtomic s m t f want l) := by
  unfold nullAtomic
  split
  · exact memsWf_fireFault h
  · exact memsWf_sendNulls (memsWf_nullStore h)

theorem memsWf_amoFiring {op f l t y o sys s} (h : memsWf s) : NextMems (amoFiring op f l t y o sys s) := by
  unfold amoFiring
  dsimp only
  refine memsWf_onFire h (fun _ _ => (memsWf_passEosAfter h)) (fun _ => (memsWf_nullAtomic h)) (fun _ => ?_)
  split
  · exact memsWf_fireFault h
  · exact memsWf_memIssue h

theorem memsWf_execAmoAdd {f l t y o sys s} (h : memsWf s) : NextMems (execAmoAdd f l t y o sys s) :=
  memsWf_amoFiring h

theorem memsWf_execAmoAnd {f l t y o sys s} (h : memsWf s) : NextMems (execAmoAnd f l t y o sys s) :=
  memsWf_amoFiring h

theorem memsWf_execAmoOr {f l t y o sys s} (h : memsWf s) : NextMems (execAmoOr f l t y o sys s) :=
  memsWf_amoFiring h

theorem memsWf_execAmoXor {f l t y o sys s} (h : memsWf s) : NextMems (execAmoXor f l t y o sys s) :=
  memsWf_amoFiring h

theorem memsWf_execAmoMin {f l t y o sys s} (h : memsWf s) : NextMems (execAmoMin f l t y o sys s) :=
  memsWf_amoFiring h

theorem memsWf_execAmoMax {f l t y o sys s} (h : memsWf s) : NextMems (execAmoMax f l t y o sys s) :=
  memsWf_amoFiring h

theorem memsWf_execAmoXchg {f l t y o sys s} (h : memsWf s) : NextMems (execAmoXchg f l t y o sys s) :=
  memsWf_amoFiring h

theorem memsWf_execCas {f l t wide o sys s} (h : memsWf s) : NextMems (execCas f l t wide o sys s) := by
  unfold execCas
  dsimp only
  refine memsWf_onFire h (fun _ _ => (memsWf_passEosAfter h)) (fun _ => (memsWf_nullAtomic h)) (fun _ => ?_)
  split
  · exact memsWf_fireFault h
  · exact memsWf_memIssue h

theorem memsWf_execFence {f l t scope level s} (h : memsWf s) : NextMems (execFence f l t scope level s) := by
  unfold execFence
  refine memsWf_onFire h (fun _ _ => (memsWf_passEosAfter h)) (fun _ => h) (fun _ => ?_)
  dsimp only
  split
  · exact h
  · exact memsWf_pushEvOnce (memsWf_bumpId (memsWf_same (memsWf_openReply h) rfl rfl rfl))

theorem memsWf_execFenceComplete {s} (h : memsWf s) : NextMems (execFenceComplete s) := by
  have hpoll : ∀ t, memsWf t → memsWf (if t.fences.isEmpty then t else pushEvOnce t .fenceComplete) := fun t ht => by
    split
    · exact ht
    · exact memsWf_pushEvOnce ht
  unfold execFenceComplete
  dsimp only
  split
  · exact hpoll _ h
  · next f _ =>
    have hr : RacedMems (if f.waive then .ok s else ctxFence s f.reply.ctx (scopeCode f.scope)) := RacedMems.ite h (memsWf_ctxFence h)
    split
    · exact hpoll _ (memsWf_slotWaits h)
    · next he => exact hpoll _ (memsWf_takeFault (memsWf_same (hr.of_trap he) rfl rfl rfl))
    · next he =>
      have hs := memsWf_same (hr.of_ok he) rfl rfl rfl
      refine hpoll _ (memsWf_settle (memsWf_answer ?_))
      split
      · exact hs
      · split
        · exact memsWf_dropLines hs
        · exact hs

theorem memsWf_execQfence {f t mask s} (h : memsWf s) : NextMems (execQfence f t mask s) := by
  unfold execQfence
  refine memsWf_onFire h (fun _ _ => (memsWf_passEosAfter h)) (fun _ => h) (fun _ => ?_)
  dsimp only
  split
  · exact memsWf_answer (memsWf_openReply h)
  · exact memsWf_pushEvOnce (memsWf_bumpId (memsWf_same (memsWf_openReply h) rfl rfl rfl))

theorem memsWf_execQfenceComplete {s} (h : memsWf s) : NextMems (execQfenceComplete s) := by
  have hpoll : ∀ t, memsWf t → memsWf (if t.qfences.isEmpty then t else pushEvOnce t .qfenceComplete) := fun t ht => by
    split
    · exact ht
    · exact memsWf_pushEvOnce ht
  unfold execQfenceComplete
  dsimp only
  split
  · exact hpoll _ h
  · exact hpoll _ (memsWf_settle (memsWf_answer (memsWf_same h rfl rfl rfl)))

end Sys2Proof.Machine
end

section
/-! PROOFS. The canonical form of the memories is kept: engine queues, streams, blocks and their commits, plates -/

namespace Sys2Proof.Machine

theorem memsWf_execBset {f n s} (h : memsWf s) : NextMems (execBset f n s) := by
  unfold execBset
  refine memsWf_onFire h (fun _ _ => h) (fun _ => (memsWf_nullsUnless h)) (fun _ => ?_)
  split
  · exact memsWf_fireFault h
  · exact memsWf_modCtx h

theorem memsWf_execBadd {f n s} (h : memsWf s) : NextMems (execBadd f n s) := by
  unfold execBadd
  refine memsWf_onFire h (fun _ _ => h) (fun _ => (memsWf_nullsUnless h)) (fun _ => ?_)
  split
  · exact memsWf_fireFault h
  · exact memsWf_modCtx h

theorem memsWf_execBget {f n t s} (h : memsWf s) : NextMems (execBget f n t s) :=
  memsWf_onFire h (fun _ _ => (memsWf_passEos h)) (fun _ => h) (fun _ => (memsWf_sendPlain h))

theorem memsWf_execCvta {f t ap s} (h : memsWf s) : NextMems (execCvta f t ap s) := by
  unfold execCvta
  dsimp only
  exact memsWf_compute h

theorem memsWf_execIsap {f t ap s} (h : memsWf s) : NextMems (execIsap f t ap s) :=
  memsWf_compute h

theorem memsWf_waitFor {s f} (h : memsWf s) : memsWf (waitFor s f) :=
  memsWf_pushEvOnce (memsWf_bumpId (memsWf_same h rfl rfl rfl))

theorem memsWf_setQueue {s p q l} (h : memsWf s) : memsWf (setQueue s p q l) :=
  memsWf_modPress h

theorem memsWf_enqueue {s p o} (h : memsWf s) : memsWf (enqueue s p o) := by
  unfold enqueue
  dsimp only
  exact memsWf_pushEvOnce (memsWf_ctxCount (memsWf_setQueue h))

theorem memsWf_queueOp {s m f ts q tid k} (h : memsWf s) : memsWf (queueOp s m f ts q tid k) := by
  grind -ring -linarith [queueOp, memsWf_waitFor, memsWf_enqueue, memsWf_bumpId, memsWf_openReply]

theorem memsWf_startOp {s p o} (h : memsWf s) : memsWf (startOp s p o) := by
  unfold startOp
  dsimp only
  exact memsWf_pushEv (memsWf_modPress (memsWf_setQueue h))

theorem memsWf_execEngineOpStart {p q s} (h : memsWf s) : NextMems (execEngineOpStart p q s) := by
  grind -ring -linarith [execEngineOpStart, NextMems, memsWf_pushEvOnce, memsWf_startOp, memsWf_modPress]

theorem memsWf_modOp {s p id f} (h : memsWf s) : memsWf (modOp s p id f) :=
  memsWf_modPress h

theorem memsWf_opGone {s p o} (h : memsWf s) : memsWf (opGone s p o) :=
  memsWf_pushEvOnce (memsWf_modPress h)

theorem memsWf_opFault {s p o cause i} (h : memsWf s) : memsWf (opFault s p o cause i) := by
  grind -ring -linarith [opFault, memsWf_pushEvOnce, memsWf_watchShard, memsWf_modOp, memsWf_takeFault]

theorem memsWf_withOp {s id go} (h : memsWf s) (hgo : ∀ t, memsWf t → ∀ v, ∀ w, ∀ z, memsWf (go t v w z)) : NextMems (withOp s id go) :=
    by
  grind -ring -linarith [withOp, NextMems, memsWf_opGone, memsWf_pushEvOnce, memsWf_parkWork, memsWf_modOp]

theorem memsWf_execEngCmdDeliver {id s} (h : memsWf s) : NextMems (execEngCmdDeliver id s) := by
  unfold execEngCmdDeliver
  refine memsWf_withOp h (fun _ hs _ _ _ => ?_)
  split
  · exact memsWf_settle (memsWf_answer (memsWf_opGone hs))
  · exact hs

theorem memsWf_execEngCmd {f t q s} (h : memsWf s) : NextMems (execEngCmd f t q s) := by
  unfold execEngCmd
  refine memsWf_onFire h (fun _ _ => (memsWf_passEosAfter h)) (fun _ => (memsWf_nullsUnless h)) (fun _ => ?_)
  split
  · exact memsWf_fireFault h
  · exact memsWf_queueOp h

theorem memsWf_countUses {s x w va n} (h : memsWf s) : memsWf (countUses s x w va n) := by
  unfold countUses
  split
  · split
    · exact memsWf_foldl (fun _ hs _ => (memsWf_countUse hs)) h
    · exact h
  · exact h

theorem memsWf_engFetch {s x owner v n waive} (h : memsWf s) : memsWf (engFetch s x owner v n waive).1 := by
  grind -ring -linarith [engFetch, memsWf_countUses, memsWf_vaRead]

theorem memsWf_engStore {s x c owner v bs waive} (h : memsWf s) : memsWf (engStore s x c owner v bs waive).1 := by
  grind -ring -linarith [engStore, memsWf_modStep, memsWf_sramFresh, memsWf_slotWrite, memsWf_countUses, memsWf_vaWrite]

theorem memsWf_engChecked {α : Type} {s x o iter v n writes} {go : State → State × EngGot α} (h : memsWf s) (hgo : ∀ t, memsWf t → memsWf
    (go t).1) : memsWf (engChecked s x o iter v n writes go).1 := by
  unfold engChecked
  split
  · exact memsWf_slotWaits h
  · exact RacedMems.of_trap (memsWf_raceAccess h) ‹_›
  · exact hgo _ (RacedMems.of_ok (memsWf_raceAccess h) ‹_›)

theorem memsWf_engGot {α : Type} {iter} {r : State × Got α} (hr : memsWf r.1) : memsWf (engGot iter r).1 := by
  unfold engGot
  split
  · exact hr
  · exact hr
  · exact hr

theorem memsWf_engRead {s x o iter v n} (h : memsWf s) : memsWf (engRead s x o iter v n).1 := by
  unfold engRead
  split
  · exact memsWf_engChecked (memsWf_fst (memsWf_engGot (memsWf_engFetch h)) ‹_›) (fun _ hs => hs)
  · exact memsWf_engGot (memsWf_engFetch h)

theorem memsWf_engWrite {s x o iter v bs} (h : memsWf s) : memsWf (engWrite s x o iter v bs).1 := by
  unfold engWrite
  split
  · exact memsWf_engChecked h (fun _ hs => (memsWf_engGot (memsWf_engStore hs)))
  · exact memsWf_engGot (memsWf_engStore h)

theorem memsWf_opAgain {s p o} (h : memsWf s) : memsWf (opAgain s p o) :=
  memsWf_pushEv h

theorem memsWf_opStall {s p o} (h : memsWf s) : memsWf (opStall s p o) :=
  memsWf_pushEvOnce (memsWf_opAgain (memsWf_modOp h))

theorem memsWf_opThen {α : Type} {p o} {r : State × EngGot α} {go : State → α → State} (hr : memsWf r.1) (hgo : ∀ t, memsWf t → ∀ v,
    memsWf (go t v)) : memsWf (opThen p o r go) := by
  unfold opThen
  split
  · exact hgo _ hr _
  · exact memsWf_opStall hr
  · exact memsWf_opFault hr

theorem memsWf_execAddFloat {f t u x y s} (h : memsWf s) : NextMems (execAddFloat f t u x y s) :=
  memsWf_compute h

theorem memsWf_execSubFloat {f t u x y s} (h : memsWf s) : NextMems (execSubFloat f t u x y s) :=
  memsWf_compute h

theorem memsWf_execMulFloat {f t u x y s} (h : memsWf s) : NextMems (execMulFloat f t u x y s) :=
  memsWf_compute h

theorem memsWf_execFma {f t u x y s} (h : memsWf s) : NextMems (execFma f t u x y s) :=
  memsWf_compute h

theorem memsWf_execFms {f t u x y s} (h : memsWf s) : NextMems (execFms f t u x y s) :=
  memsWf_compute h

theorem memsWf_execMinFloat {f t u y s} (h : memsWf s) : NextMems (execMinFloat f t u y s) :=
  memsWf_compute h

theorem memsWf_execMaxFloat {f t u y s} (h : memsWf s) : NextMems (execMaxFloat f t u y s) :=
  memsWf_compute h

theorem memsWf_execAbsFloat {f t u y s} (h : memsWf s) : NextMems (execAbsFloat f t u y s) :=
  memsWf_compute h

theorem memsWf_execNegFloat {f t u y s} (h : memsWf s) : NextMems (execNegFloat f t u y s) :=
  memsWf_compute h

theorem memsWf_execCmpEqFloat {f t u y s} (h : memsWf s) : NextMems (execCmpEqFloat f t u y s) :=
  memsWf_compute h

theorem memsWf_execCmpNeFloat {f t u y s} (h : memsWf s) : NextMems (execCmpNeFloat f t u y s) :=
  memsWf_compute h

theorem memsWf_execCmpLtFloat {f t u y s} (h : memsWf s) : NextMems (execCmpLtFloat f t u y s) :=
  memsWf_compute h

theorem memsWf_execCmpLeFloat {f t u y s} (h : memsWf s) : NextMems (execCmpLeFloat f t u y s) :=
  memsWf_compute h

theorem memsWf_execCmpGtFloat {f t u y s} (h : memsWf s) : NextMems (execCmpGtFloat f t u y s) :=
  memsWf_compute h

theorem memsWf_execCmpGeFloat {f t u y s} (h : memsWf s) : NextMems (execCmpGeFloat f t u y s) :=
  memsWf_compute h

theorem memsWf_execCvt {f dst src t x s} (h : memsWf s) : NextMems (execCvt f dst src t x s) :=
  memsWf_compute h

theorem memsWf_execExp2 {f t u y s} (h : memsWf s) : NextMems (execExp2 f t u y s) :=
  memsWf_compute h

theorem memsWf_execLog2 {f t u y s} (h : memsWf s) : NextMems (execLog2 f t u y s) :=
  memsWf_compute h

theorem memsWf_execRcp {f t u y s} (h : memsWf s) : NextMems (execRcp f t u y s) :=
  memsWf_compute h

theorem memsWf_execRsqrt {f t u y s} (h : memsWf s) : NextMems (execRsqrt f t u y s) :=
  memsWf_compute h

theorem memsWf_execSigm {f t u y s} (h : memsWf s) : NextMems (execSigm f t u y s) :=
  memsWf_compute h

theorem memsWf_execTanh {f t u y s} (h : memsWf s) : NextMems (execTanh f t u y s) :=
  memsWf_compute h

theorem memsWf_execScaleApply {f t u y s} (h : memsWf s) : NextMems (execScaleApply f t u y s) :=
  memsWf_compute h

theorem memsWf_execScaleStrip {f t u y s} (h : memsWf s) : NextMems (execScaleStrip f t u y s) :=
  memsWf_compute h

theorem memsWf_pushFiring {s f} (h : memsWf s) : memsWf (pushFiring s f) := by
  unfold pushFiring
  split
  · exact h
  · exact memsWf_foldl (fun _ hs _ => (memsWf_pushWork (memsWf_bumpId hs))) h

theorem memsWf_eosCheck {s c t req} (h : memsWf s) : memsWf (eosCheck s c t req) := by
  grind -ring -linarith [eosCheck, memsWf_takeFault, memsWf_bumpId, memsWf_setCtx, memsWf_pushWork]

theorem memsWf_rematch {n s c lead qs todo} (h : memsWf s) : memsWf (rematch n s c lead qs todo) := by
  unfold rematch
  split
  · split
    · exact h
    · dsimp only
      split
      · exact memsWf_rematch h
      · exact memsWf_rematch (memsWf_foldl (fun _ hs _ => (memsWf_pushFiring hs)) (memsWf_setCtx h))
  · exact h

theorem memsWf_standToken {s c x t req} (h : memsWf s) : memsWf (standToken s c x t req) := by
  unfold standToken
  dsimp only
  split
  · exact memsWf_pushFiring (memsWf_setCtx h)
  · exact memsWf_rematch (memsWf_setCtx h)

theorem memsWf_valueToken {s c x i t} (h : memsWf s) : memsWf (valueToken s c x i t) := by
  grind -ring -linarith [valueToken, memsWf_standToken, memsWf_pushFiring, memsWf_takeFault, memsWf_waitToken, memsWf_foldl,
      memsWf_setCtx]

theorem memsWf_arriveToken {s c x t} (h : memsWf s) : memsWf (arriveToken s c x t) := by
  grind -ring -linarith [arriveToken, memsWf_waitToken, memsWf_takeFault, memsWf_bumpId, memsWf_pushWork, memsWf_setCtx, memsWf_eosCheck,
      memsWf_valueToken]

theorem memsWf_drainStart {s c hold} (h : memsWf s) : memsWf (drainStart s c hold) := by
  unfold drainStart
  split
  · exact h
  · split
    · exact h
    · exact memsWf_pushEvOnce (memsWf_setCtx h)

theorem memsWf_parkToken {s c x t} (h : memsWf s) : memsWf (parkToken s c x t) := by
  unfold parkToken
  dsimp only
  split
  · exact memsWf_drainStart (memsWf_tenRecord (memsWf_parkWork h))
  · exact memsWf_parkWork h

theorem memsWf_execTokenArrival {c t s} (h : memsWf s) : NextMems (execTokenArrival c t s) := by
  grind -ring -linarith [execTokenArrival, NextMems, memsWf_parkToken, memsWf_settle, memsWf_arriveToken]

theorem memsWf_runGo {r m ts s f val} (h : memsWf s) : memsWf (runGo r m ts s f val) := by
  unfold runGo
  split
  · exact memsWf_fireFault h
  · exact memsWf_foldl (fun _ hs _ => (memsWf_sendRun hs)) h

theorem memsWf_execPerm {f t u r s} (h : memsWf s) : NextMems (execPerm f t u r s) :=
  memsWf_onFire h (fun _ _ => (memsWf_passEos h)) (fun _ => (memsWf_nullsUnless h)) (fun _ => (memsWf_runGo h))

theorem memsWf_execBcast {f t u r s} (h : memsWf s) : NextMems (execBcast f t u r s) :=
  memsWf_onFire h (fun _ _ => (memsWf_passEos h)) (fun _ => (memsWf_nullsUnless h)) (fun _ => (memsWf_runGo h))

theorem memsWf_setStream {s c inst t} (h : memsWf s) : memsWf (setStream s c inst t) :=
  memsWf_modCtx h

theorem memsWf_streamDue {s c inst} (h : memsWf s) : memsWf (streamDue s c inst) := by
  unfold streamDue
  split
  · exact h
  · dsimp only
    exact memsWf_same h rfl rfl rfl

theorem memsWf_streamWait {s f} (h : memsWf s) : memsWf (streamWait s f) := by
  unfold streamWait
  split
  · exact h
  · exact memsWf_waitWith h

theorem memsWf_redTake {op m ts s f x t} (h : memsWf s) : memsWf (redTake op m ts s f x t) := by
  grind -ring -linarith [redTake, memsWf_fireFault, memsWf_streamDue, memsWf_setStream, memsWf_sendNulls, memsWf_foldl, memsWf_sendRun]

theorem memsWf_redGo {op m ts s f} (h : memsWf s) : memsWf (redGo op m ts s f) := by
  grind -ring -linarith [redGo, memsWf_fireFault, memsWf_sendRun, memsWf_streamWait, memsWf_redTake]

theorem memsWf_redEos {op ts empty s f bound} (h : memsWf s) : memsWf (redEos op ts empty s f bound) := by
  grind -ring -linarith [redEos, memsWf_fireFault, memsWf_passEos, memsWf_sendTokens]

theorem memsWf_onStream {s eos go} (h : memsWf s) (heos : ∀ t, ∀ v, memsWf (eos t v)) (hgo : ∀ t, memsWf (go t)) : NextMems (onStream s
    eos go) := by
  grind -ring -linarith [onStream, NextMems]

theorem memsWf_execRedAdd {f t u a s} (h : memsWf s) : NextMems (execRedAdd f t u a s) :=
  memsWf_onStream h (fun _ _ => (memsWf_redEos h)) (fun _ => (memsWf_redGo h))

theorem memsWf_execRedMax {f t u a s} (h : memsWf s) : NextMems (execRedMax f t u a s) :=
  memsWf_onStream h (fun _ _ => (memsWf_redEos h)) (fun _ => (memsWf_redGo h))

theorem memsWf_execRedMin {f t u a s} (h : memsWf s) : NextMems (execRedMin f t u a s) :=
  memsWf_onStream h (fun _ _ => (memsWf_redEos h)) (fun _ => (memsWf_redGo h))

theorem memsWf_execScanAdd {f t u a s} (h : memsWf s) : NextMems (execScanAdd f t u a s) :=
  memsWf_onStream h (fun _ _ => (memsWf_redEos h)) (fun _ => (memsWf_redGo h))

theorem memsWf_sendCells {size s f ts ew s0 l} (h : memsWf s) : memsWf (sendCells size s f ts ew s0 l) :=
  memsWf_foldl (fun _ hs _ => (memsWf_sendTokens hs)) h

theorem memsWf_packGo {size place r m ts s f} (h : memsWf s) : memsWf (packGo size place r m ts s f) := by
  grind -ring -linarith [packGo, memsWf_fireFault, memsWf_sendRun, memsWf_sendCells, memsWf_setStream]

theorem memsWf_packEos {size r ts s f bound} (h : memsWf s) : memsWf (packEos size r ts s f bound) := by
  unfold packEos
  split
  · exact h
  · dsimp only
    exact memsWf_sendTokens (memsWf_sendCells (memsWf_setStream h))

theorem memsWf_execRpack {f t u r s} (h : memsWf s) : NextMems (execRpack f t u r s) :=
  memsWf_onStream h (fun _ _ => (memsWf_packEos h)) (fun _ => (memsWf_packGo h))

theorem memsWf_turnTake {s f x} (h : memsWf s) : memsWf (turnTake s f x) :=
  memsWf_modPress h

theorem memsWf_turnWake {s press region} (h : memsWf s) : memsWf (turnWake s press region) := by
  unfold turnWake
  refine memsWf_foldl (fun _ hs _ => ?_) h
  dsimp only
  split
  · refine memsWf_foldl (fun _ ht _ => ?_) hs
    split
    · split
      · exact ht
      · exact memsWf_same ht rfl rfl rfl
    · exact ht
  · exact hs

theorem memsWf_execTurn {f t u r s} (h : memsWf s) : NextMems (execTurn f t u r s) := by
  grind -ring -linarith [execTurn, NextMems, memsWf_onStream, memsWf_turnWake, memsWf_packEos, memsWf_streamWait, memsWf_packGo,
      memsWf_turnTake]

theorem memsWf_enterBlock {s c x addr} (h : memsWf s) : memsWf (enterBlock s c x addr) :=
  memsWf_pushEv (memsWf_setCtx h)

theorem memsWf_fetchImage {s via c ten addr} (h : memsWf s) : memsWf (fetchImage s via c ten addr).1 := by
  grind -ring -linarith [fetchImage, memsWf_dropRemote, memsWf_vaKeep]

theorem memsWf_useRegion {s p r img} (h : memsWf s) : memsWf (useRegion s p r img) :=
  memsWf_bumpId (memsWf_modPress h)

theorem memsWf_cachePut {s g img} (h : memsWf s) : memsWf (cachePut s g img) :=
  memsWf_modGroup h

theorem memsWf_fireFree {s c inst} (h : memsWf s) : memsWf (fireFree s c inst) := by
  grind -ring -linarith [fireFree, memsWf_pushFiring]

theorem memsWf_peStarts {s c inst} (h : memsWf s) : memsWf (peStarts s c inst) := by
  grind -ring -linarith [peStarts, memsWf_setCtx, memsWf_fireFree, memsWf_foldl, memsWf_parkWork, memsWf_arriveToken]

theorem memsWf_blockRestored {s c x} (h : memsWf s) : memsWf (blockRestored s c x) := by
  grind -ring -linarith [blockRestored, memsWf_settle, memsWf_turnWake, memsWf_setCtx, memsWf_pushEvOnce, memsWf_iff]

theorem memsWf_blockStarted {s c} (h : memsWf s) : memsWf (blockStarted s c) := by
  grind -ring -linarith [blockStarted, memsWf_blockRestored, memsWf_settle, memsWf_modCtx, memsWf_pushEvOnce]

theorem memsWf_joinRegion {s c x r} (h : memsWf s) : memsWf (joinRegion s c x r) := by
  unfold joinRegion
  dsimp only
  split
  · exact memsWf_pushEvs (memsWf_setCtx (memsWf_useRegion h))
  · exact memsWf_blockStarted (memsWf_foldl (fun _ hs _ => (memsWf_peStarts hs)) (memsWf_setCtx (memsWf_useRegion h)))

theorem memsWf_execBlockFetch {c s} (h : memsWf s) : NextMems (execBlockFetch c s) := by
  grind -ring -linarith [execBlockFetch, NextMems, memsWf_parkWork, memsWf_pushEv, memsWf_fetchImage, memsWf_takeFault,
      memsWf_joinRegion, memsWf_cachePut, memsWf_setCtx, memsWf_ctxCount]

theorem memsWf_execMapperPlace {c s} (h : memsWf s) : NextMems (execMapperPlace c s) := by
  grind -ring -linarith [execMapperPlace, NextMems, memsWf_parkWork, memsWf_pushEv, memsWf_takeFault, memsWf_setCtx, memsWf_cachePut]

theorem memsWf_execRegionAcquire {c s} (h : memsWf s) : NextMems (execRegionAcquire c s) := by
  grind -ring -linarith [execRegionAcquire, NextMems, memsWf_parkWork, memsWf_joinRegion, memsWf_pushEv, memsWf_pushEvs, memsWf_setCtx,
      memsWf_useRegion]

theorem memsWf_execConfigPacketComplete {c inst s} (h : memsWf s) : NextMems (execConfigPacketComplete c inst s) := by
  grind -ring -linarith [execConfigPacketComplete, NextMems, memsWf_parkWork, memsWf_peStarts, memsWf_blockStarted]

theorem memsWf_execPlacementCacheFlush {s} (h : memsWf s) : NextMems (execPlacementCacheFlush s) :=
  memsWf_same h rfl rfl rfl

theorem memsWf_commitRests {s c x} (h : memsWf s) : memsWf (commitRests s c x) := by
  grind -ring -linarith [commitRests, memsWf_foldl, memsWf_enqueue, memsWf_bumpId]

theorem memsWf_commitBlock {s c x dest} (h : memsWf s) : memsWf (commitBlock s c x dest) := by
  grind -ring -linarith [commitBlock, memsWf_commitRests, memsWf_ctxCount, memsWf_turnWake, memsWf_pushEvOnce, memsWf_setCtx,
      memsWf_enterBlock]

theorem memsWf_execCommit {c s} (h : memsWf s) : NextMems (execCommit c s) := by
  grind -ring -linarith [execCommit, NextMems, memsWf_takeFault, memsWf_setCtx, memsWf_commitBlock]

theorem memsWf_execBlockWatchExpiry {c s} (h : memsWf s) : NextMems (execBlockWatchExpiry c s) := by
  grind -ring -linarith [execBlockWatchExpiry, NextMems, memsWf_pushEvOnce, memsWf_takeFault, memsWf_setCtx]

theorem memsWf_kickGroup {s g} (h : memsWf s) : memsWf (kickGroup s g) :=
  memsWf_pushEvOnce h

theorem memsWf_modPlate {s g ten num f} (h : memsWf s) : memsWf (modPlate s g ten num f) :=
  memsWf_modGroup h

theorem memsWf_plateMatch {s g ten num n} (h : memsWf s) : memsWf (plateMatch s g ten num n) :=
  memsWf_modPlate h

theorem memsWf_plateRelease {s g ten num n} (h : memsWf s) : memsWf (plateRelease s g ten num n) :=
  memsWf_modPlate h

theorem memsWf_answerDone {s r v} (h : memsWf s) : memsWf (answerDone s r v) :=
  memsWf_settle (memsWf_answer h)

theorem memsWf_answerAll {s rs v} (h : memsWf s) : memsWf (answerAll s rs v) :=
  memsWf_foldl (fun _ hs _ => (memsWf_answerDone hs)) h

theorem memsWf_plateMark {s g ten num rs} (h : memsWf s) : memsWf (plateMark s g ten num rs) :=
  memsWf_kickGroup (memsWf_pushEvOnce (memsWf_modPlate h))

theorem memsWf_slotEmptied {s g k} (h : memsWf s) : memsWf (slotEmptied s g k) :=
  memsWf_modTile h

theorem memsWf_execPlateEvictionComplete {g ten num s} (h : memsWf s) : NextMems (execPlateEvictionComplete g ten num s) := by
  grind -ring -linarith [execPlateEvictionComplete, NextMems, memsWf_pushEv, memsWf_kickGroup, memsWf_answerAll, memsWf_foldl,
      memsWf_slotEmptied, memsWf_modGroup]

theorem memsWf_modLoad {s g id f} (h : memsWf s) : memsWf (modLoad s g id f) :=
  memsWf_modGroup h

theorem memsWf_dropLoad {s g id} (h : memsWf s) : memsWf (dropLoad s g id) :=
  memsWf_modGroup h

theorem memsWf_askLoad {s g ten num image agents overdue rs} (h : memsWf s) : memsWf (askLoad s g ten num image agents overdue rs) := by
  unfold askLoad
  split
  · exact memsWf_modLoad h
  · dsimp only
    exact memsWf_pushEv (memsWf_bumpId (memsWf_modGroup h))

theorem memsWf_unwant {s g ten num agent} (h : memsWf s) : memsWf (unwant s g ten num agent) := by
  grind -ring -linarith [unwant, memsWf_answerAll, memsWf_dropLoad, memsWf_modLoad]

theorem memsWf_plateReport {s ten num pub dev res} (h : memsWf s) : memsWf (plateReport s ten num pub dev res) := by
  unfold plateReport
  split
  · exact h
  · exact memsWf_sendFlit h

theorem memsWf_tellReports {s l res} (h : memsWf s) : memsWf (tellReports s l res) :=
  memsWf_foldl (fun _ hs _ => (memsWf_plateReport hs)) h

theorem memsWf_imageRead {s l off n} (h : memsWf s) : memsWf (imageRead s l off n).1 := by
  unfold imageRead
  dsimp only
  split
  · split
    · exact h
    · split
      · exact h
      · split
        · exact h
        · exact h
  · split
    · split
      · exact memsWf_fst (memsWf_vaKeep h) ‹_›
      · exact memsWf_fst (memsWf_vaKeep h) ‹_›
    · exact memsWf_vaKeep h

theorem memsWf_imageHead {s l off n} (h : memsWf s) : memsWf (imageHead s l off n).1 := by
  unfold imageHead
  split
  · split
    · exact memsWf_fst (memsWf_imageRead h) ‹_›
    · exact memsWf_fst (memsWf_imageRead h) ‹_›
  · exact memsWf_imageRead h

theorem memsWf_loadRecord {s l cause aux addr} (h : memsWf s) : memsWf (loadRecord s l cause aux addr) := by
  unfold loadRecord
  dsimp only
  exact memsWf_tenRecord h

theorem memsWf_loadFails {s g l cause aux addr} (h : memsWf s) : memsWf (loadFails s g l cause aux addr) := by
  unfold loadFails
  dsimp only
  split
  · exact memsWf_pushEv (memsWf_modLoad (memsWf_dropRemote (memsWf_foldl (fun _ hs _ => (memsWf_slotEmptied hs)) h)))
  · exact memsWf_tellReports (memsWf_answerAll (memsWf_answerAll (memsWf_loadRecord (memsWf_dropLoad (memsWf_dropRemote (memsWf_foldl
        (fun _ hs _ => (memsWf_slotEmptied hs)) h))))))

theorem memsWf_loadSlots {s g l} (h : memsWf s) : memsWf (loadSlots s g l) := by
  grind -ring -linarith [loadSlots, memsWf_pushEv, memsWf_modLoad, memsWf_foldl, memsWf_watchShard, memsWf_setTile, memsWf_plateMark]

theorem memsWf_loadHead {s g l} (h : memsWf s) : memsWf (loadHead s g l) := by
  grind -ring -linarith [loadHead, memsWf_pushEv, memsWf_imageHead, memsWf_loadFails, memsWf_loadSlots, memsWf_modLoad, memsWf_dropRemote]

theorem memsWf_execPlateLoadStart {g id s} (h : memsWf s) : NextMems (execPlateLoadStart g id s) := by
  grind -ring -linarith [execPlateLoadStart, NextMems, memsWf_pushEv, memsWf_loadHead, memsWf_modLoad, memsWf_loadSlots]

theorem memsWf_loadDone {s g l tiles} (h : memsWf s) : memsWf (loadDone s g l tiles) := by
  unfold loadDone
  dsimp only
  refine memsWf_kickGroup (memsWf_tellReports (memsWf_answerAll ?_))
  split
  · exact memsWf_devCount (memsWf_devCount (memsWf_modGroup (memsWf_dropLoad (memsWf_foldl (fun _ hs _ => (memsWf_modTile
        (memsWf_sramFresh (memsWf_slotWrite _ _ _ _ _ hs)))) h))))
  · exact memsWf_pushEvOnce (memsWf_devCount (memsWf_devCount (memsWf_modGroup (memsWf_dropLoad (memsWf_foldl (fun _ hs _ =>
        (memsWf_modTile (memsWf_sramFresh (memsWf_slotWrite _ _ _ _ _ hs)))) h)))))

theorem memsWf_execPlateLoadComplete {g id s} (h : memsWf s) : NextMems (execPlateLoadComplete g id s) := by
  grind -ring -linarith [execPlateLoadComplete, NextMems, memsWf_pushEv, memsWf_imageRead, memsWf_loadFails, memsWf_dropRemote,
      memsWf_loadDone]

theorem memsWf_execPlateLd {f t u s} (h : memsWf s) : NextMems (execPlateLd f t u s) := by
  grind -ring -linarith [execPlateLd, NextMems, memsWf_onFire, memsWf_passEosAfter, memsWf_nullsUnless, memsWf_fireFault, memsWf_answer,
      memsWf_tenRecord, memsWf_openReply, memsWf_askLoad]

theorem memsWf_plateReq {s f w go} (h : memsWf s) (hgo : ∀ t, ∀ v, ∀ w, memsWf (go t v w)) : memsWf (plateReq s f w go) := by
  grind -ring -linarith [plateReq, memsWf_fireFault]

theorem memsWf_execPlateEv {f t u s} (h : memsWf s) : NextMems (execPlateEv f t u s) := by
  grind -ring -linarith [execPlateEv, NextMems, memsWf_onFire, memsWf_passEosAfter, memsWf_nullsUnless, memsWf_plateReq,
      memsWf_plateMark, memsWf_openReply, memsWf_modLoad, memsWf_answer]

theorem memsWf_execPlateQ {f t u s} (h : memsWf s) : NextMems (execPlateQ f t u s) :=
  memsWf_onFire h (fun _ _ => (memsWf_passEos h)) (fun _ => (memsWf_nullsUnless h)) (fun _ => (memsWf_plateReq h (fun _ _ _ =>
      (memsWf_sendPlain h))))

theorem memsWf_stimOut {s ten dev link st} (h : memsWf s) : memsWf (stimOut s ten dev link st) := by
  unfold stimOut
  split
  · exact memsWf_same h rfl rfl rfl
  · exact memsWf_sendFlits (memsWf_addXfer h)

theorem memsWf_stimLost {s ten cause aux st} (h : memsWf s) : memsWf (stimLost s ten cause aux st) :=
  memsWf_quarantine h

theorem memsWf_releaseStim {s cls ten dev st} (h : memsWf s) : memsWf (releaseStim s cls ten dev st) := by
  unfold releaseStim
  split
  · exact memsWf_walkerPut h
  · split
    · exact memsWf_stimLost h
    · exact memsWf_stimOut h

theorem memsWf_stimsOut {n s} (h : memsWf s) : memsWf (stimsOut n s) := by
  unfold stimsOut
  split
  · exact h
  · split
    · exact h
    · split
      · exact h
      · refine memsWf_stimsOut ?_
        split
        · exact memsWf_stimLost (memsWf_same h rfl rfl rfl)
        · exact memsWf_stimOut (memsWf_same h rfl rfl rfl)

theorem memsWf_sendCompletions {s bs} (h : memsWf s) : memsWf (sendCompletions s bs) :=
  memsWf_foldl (fun _ hs _ => (memsWf_releaseStim hs)) h

theorem memsWf_cardEnds {s id} (h : memsWf s) : memsWf (cardEnds s id) := by
  unfold cardEnds
  split
  · exact h
  · split
    · exact memsWf_sendCompletions (memsWf_same h rfl rfl rfl)
    · exact h

theorem memsWf_cardRetired {s card} (h : memsWf s) : memsWf (cardRetired s card) := by
  unfold cardRetired
  split
  · exact h
  · exact memsWf_cardEnds (memsWf_same h rfl rfl rfl)

theorem memsWf_refuseStim {s st cause ten agent addr aux} (h : memsWf s) : memsWf (refuseStim s st cause ten agent addr aux) :=
  memsWf_cardRetired (memsWf_quarantine h)

theorem memsWf_refuseIn {s g st cause ten agent addr aux} (h : memsWf s) : memsWf (refuseIn s g st cause ten agent addr aux) :=
  memsWf_cardRetired (memsWf_quarantine h)

theorem memsWf_modEntry {s g ten agent f} (h : memsWf s) : memsWf (modEntry s g ten agent f) :=
  memsWf_modGroup h

theorem memsWf_dropEntry {s g ten agent} (h : memsWf s) : memsWf (dropEntry s g ten agent) :=
  memsWf_modGroup h

theorem memsWf_takeSeq {s g ten agent} (h : memsWf s) : memsWf (takeSeq s g ten agent) :=
  memsWf_modGroup h

end Sys2Proof.Machine
end

section
/-! PROOFS. The canonical form of the memories is kept: Walkers, Schedulers, probes and counters -/

namespace Sys2Proof.Machine

theorem memsWf_entryTouch {s g ten agent} (h : memsWf s) : memsWf (entryTouch s g ten agent) := by
  grind -ring -linarith [entryTouch, memsWf_kickGroup, memsWf_modEntry, memsWf_pushEvOnce, memsWf_takeSeq]

theorem memsWf_recordScan {s ten agent vas} (h : memsWf s) : memsWf (recordScan s ten agent vas).1 := by
  unfold recordScan
  split
  · exact h
  · split
    · exact memsWf_fst (memsWf_vaKeep h) ‹_›
    · exact memsWf_fst (memsWf_vaKeep h) ‹_›
    · dsimp only
      split
      · exact memsWf_fst (memsWf_vaKeep h) ‹_›
      · exact memsWf_recordScan (memsWf_fst (memsWf_vaKeep h) ‹_›)

theorem memsWf_recordRead {s ten agent} (h : memsWf s) : memsWf (recordRead s ten agent).1 := by
  grind -ring -linarith [recordRead, memsWf_recordScan, memsWf_dropRemote, memsWf_vaRead]

theorem memsWf_walkerFault {s ten agent cause aux addr} (h : memsWf s) : memsWf (walkerFault s ten agent cause aux addr) :=
  memsWf_tenRecord h

theorem memsWf_noteSlot {s e count st} (h : memsWf s) : memsWf (noteSlot s e count st) := by
  unfold noteSlot
  split
  · exact h
  · exact memsWf_same h rfl rfl rfl

theorem memsWf_fromSlot {s e count bs} (h : memsWf s) : memsWf (fromSlot s e count bs).1 := by
  unfold fromSlot
  dsimp only
  exact memsWf_same h rfl rfl rfl

theorem memsWf_appendStim {s e st} (h : memsWf s) : memsWf (appendStim s e st).1 := by
  grind -ring -linarith [appendStim, memsWf_refuseStim, memsWf_unitWrite, memsWf_noteSlot]

theorem memsWf_writeBack {s e head awake} (h : memsWf s) : memsWf (writeBack s e head awake).1 :=
  memsWf_unitWrite h

theorem memsWf_putBack {s e head l} (h : memsWf s) : memsWf (putBack s e head l).1 := by
  unfold putBack
  split
  · exact h
  · split
    · exact memsWf_putBack (memsWf_noteSlot (memsWf_fst (memsWf_unitWrite h) ‹_›))
    · exact memsWf_unitWrite h

theorem memsWf_takeSlots {n s e head} (h : memsWf s) : memsWf (takeSlots n s e head).1 := by
  unfold takeSlots
  split
  · exact h
  · split
    · exact memsWf_fst (memsWf_vaKeep h) ‹_›
    · exact memsWf_fst (memsWf_vaKeep h) ‹_›
    · split
      · dsimp only
        exact memsWf_fromSlot (memsWf_fst (memsWf_takeSlots (memsWf_fst (memsWf_vaKeep h) ‹_›)) ‹_›)
      · exact memsWf_takeSlots (memsWf_fst (memsWf_vaKeep h) ‹_›)

theorem memsWf_entryGone {s g e} (h : memsWf s) : memsWf (entryGone s g e) := by
  unfold entryGone
  dsimp only
  split
  · exact memsWf_kickGroup (memsWf_dropEntry (memsWf_dropRemote h))
  · exact memsWf_pushEvOnce (memsWf_kickGroup (memsWf_dropEntry (memsWf_dropRemote h)))

theorem memsWf_demote {s g e} (h : memsWf s) : memsWf (demote s g e).1 := by
  unfold demote
  dsimp only
  split
  · exact h
  · split
    · exact memsWf_fst (memsWf_vaKeep h) ‹_›
    · exact memsWf_dropRemote (memsWf_walkerFault (memsWf_fst (memsWf_vaKeep h) ‹_›))
    · split
      · split
        · exact memsWf_fst (memsWf_putBack (memsWf_fst (memsWf_vaKeep h) ‹_›)) ‹_›
        · exact memsWf_dropRemote (memsWf_walkerFault (memsWf_fst (memsWf_putBack (memsWf_fst (memsWf_vaKeep h) ‹_›)) ‹_›))
        · split
          · exact memsWf_fst (memsWf_writeBack (memsWf_fst (memsWf_putBack (memsWf_fst (memsWf_vaKeep h) ‹_›)) ‹_›)) ‹_›
          · exact memsWf_dropRemote (memsWf_walkerFault (memsWf_fst (memsWf_writeBack (memsWf_fst (memsWf_putBack (memsWf_fst
                (memsWf_vaKeep h) ‹_›)) ‹_›)) ‹_›))
          · exact memsWf_entryGone (memsWf_fst (memsWf_writeBack (memsWf_fst (memsWf_putBack (memsWf_fst (memsWf_vaKeep h) ‹_›)) ‹_›))
                ‹_›)
      · split
        · exact memsWf_fst (memsWf_takeSlots (memsWf_fst (memsWf_vaKeep h) ‹_›)) ‹_›
        · exact memsWf_dropRemote (memsWf_walkerFault (memsWf_fst (memsWf_takeSlots (memsWf_fst (memsWf_vaKeep h) ‹_›)) ‹_›))
        · split
          · exact memsWf_fst (memsWf_writeBack (memsWf_fst (memsWf_takeSlots (memsWf_fst (memsWf_vaKeep h) ‹_›)) ‹_›)) ‹_›
          · exact memsWf_dropRemote (memsWf_walkerFault (memsWf_fst (memsWf_writeBack (memsWf_fst (memsWf_takeSlots (memsWf_fst
                (memsWf_vaKeep h) ‹_›)) ‹_›)) ‹_›))
          · exact memsWf_entryGone (memsWf_foldl (fun _ hs _ => (memsWf_refuseStim hs)) (memsWf_fst (memsWf_writeBack (memsWf_fst
                (memsWf_takeSlots (memsWf_fst (memsWf_vaKeep h) ‹_›)) ‹_›)) ‹_›))

theorem memsWf_demoteOne {s g l} (h : memsWf s) : memsWf (demoteOne s g l).1 := by
  unfold demoteOne
  split
  · exact h
  · split
    · exact memsWf_fst (memsWf_demote h) ‹_›
    · exact memsWf_demoteOne (memsWf_fst (memsWf_demote h) ‹_›)

theorem memsWf_makeWay {s g ten agent} (h : memsWf s) : memsWf (makeWay s g ten agent).1 := by
  unfold makeWay
  dsimp only
  split
  · exact h
  · exact memsWf_demoteOne h

theorem memsWf_dropHead {s g e} (h : memsWf s) : memsWf (dropHead s g e) := by
  unfold dropHead
  dsimp only
  split
  · exact memsWf_pushEvOnce (memsWf_entryTouch (memsWf_modEntry h))
  · exact memsWf_entryTouch (memsWf_modEntry h)

theorem memsWf_askPlate {n s g ten agent overdue} (h : memsWf s) : memsWf (askPlate n s g ten agent overdue) := by
  unfold askPlate
  split
  · exact h
  · exact h
  · split
    · exact h
    · split
      · exact h
      · split
        · exact memsWf_askLoad h
        · dsimp only
          split
          · exact memsWf_askPlate (memsWf_refuseIn (memsWf_dropHead h))
          · split
            · exact memsWf_kickGroup (memsWf_fst (memsWf_unitRead h) ‹_›)
            · exact memsWf_askPlate (memsWf_refuseIn (memsWf_dropHead (memsWf_fst (memsWf_unitRead h) ‹_›)))
            · split
              · exact memsWf_askLoad (memsWf_fst (memsWf_unitRead h) ‹_›)
              · exact memsWf_askPlate (memsWf_refuseIn (memsWf_dropHead (memsWf_fst (memsWf_unitRead h) ‹_›)))

theorem memsWf_tryMove {s g ten agent} (h : memsWf s) : memsWf (tryMove s g ten agent) := by
  grind -ring -linarith [tryMove, memsWf_modEntry, memsWf_makeWay, memsWf_kickGroup, memsWf_askPlate, memsWf_entryTouch, memsWf_takeSeq,
      memsWf_modGroup, memsWf_unwant, memsWf_dropEntry, memsWf_pushEvOnce]

theorem memsWf_replace {s g ten agent} (h : memsWf s) : memsWf (replace s g ten agent) := by
  grind -ring -linarith [replace, memsWf_modEntry, memsWf_pushEvOnce, memsWf_tryMove]

theorem memsWf_execEntryMove {ten agent s} (h : memsWf s) : NextMems (execEntryMove ten agent s) := by
  grind -ring -linarith [execEntryMove, NextMems, memsWf_tryMove, memsWf_pushEvOnce]

theorem memsWf_dropPromotion {s ten agent} (h : memsWf s) : memsWf (dropPromotion s ten agent) :=
  memsWf_same h rfl rfl rfl

theorem memsWf_keepPromotion {s e held} (h : memsWf s) : memsWf (keepPromotion s e held) := by
  unfold keepPromotion
  dsimp only
  split
  · exact memsWf_pushEvOnce (memsWf_same h rfl rfl rfl)
  · exact memsWf_same h rfl rfl rfl

theorem memsWf_holdPromotion {s e stale} (h : memsWf s) : memsWf (holdPromotion s e stale) := by
  unfold holdPromotion
  split
  · exact memsWf_keepPromotion h
  · split
    · exact memsWf_keepPromotion (memsWf_walkerFault (memsWf_fst (memsWf_unitWrite h) ‹_›))
    · exact memsWf_keepPromotion (memsWf_fst (memsWf_unitWrite h) ‹_›)

theorem memsWf_promote {s e stale} (h : memsWf s) : memsWf (promote s e stale) := by
  grind -ring -linarith [promote, memsWf_holdPromotion, memsWf_makeWay, memsWf_keepPromotion, memsWf_writeBack, memsWf_walkerFault,
      memsWf_pushEvOnce, memsWf_entryTouch, memsWf_dropPromotion, memsWf_modGroup]

theorem memsWf_stopPromotion {s p} (h : memsWf s) : memsWf (stopPromotion s p) :=
  memsWf_same h rfl rfl rfl

theorem memsWf_voidPromotion {s p} (h : memsWf s) : memsWf (voidPromotion s p) := by
  unfold voidPromotion
  dsimp only
  split
  · exact memsWf_fst (memsWf_vaKeep h) ‹_›
  · exact memsWf_stopPromotion (memsWf_dropRemote (memsWf_walkerFault (memsWf_fst (memsWf_vaKeep h) ‹_›)))
  · split
    · exact memsWf_dropPromotion (memsWf_fst (memsWf_vaKeep h) ‹_›)
    · split
      · exact memsWf_fst (memsWf_takeSlots (memsWf_fst (memsWf_vaKeep h) ‹_›)) ‹_›
      · exact memsWf_stopPromotion (memsWf_dropRemote (memsWf_walkerFault (memsWf_fst (memsWf_takeSlots (memsWf_fst (memsWf_vaKeep h)
            ‹_›)) ‹_›)))
      · split
        · exact memsWf_fst (memsWf_writeBack (memsWf_fst (memsWf_takeSlots (memsWf_fst (memsWf_vaKeep h) ‹_›)) ‹_›)) ‹_›
        · exact memsWf_stopPromotion (memsWf_dropRemote (memsWf_walkerFault (memsWf_fst (memsWf_writeBack (memsWf_fst (memsWf_takeSlots
              (memsWf_fst (memsWf_vaKeep h) ‹_›)) ‹_›)) ‹_›)))
        · exact memsWf_foldl (fun _ hs _ => (memsWf_refuseStim hs)) (memsWf_dropPromotion (memsWf_dropRemote (memsWf_fst
              (memsWf_writeBack (memsWf_fst (memsWf_takeSlots (memsWf_fst (memsWf_vaKeep h) ‹_›)) ‹_›)) ‹_›)))

theorem memsWf_retryPromotions {s l} (h : memsWf s) : memsWf (retryPromotions s l) := by
  induction l generalizing s with
  | nil => exact h
  | cons p r ih =>
    rw [retryPromotions]
    split
    · exact ih h
    have hread : memsWf (recordRead s p.ten p.agent).1 := memsWf_recordRead h
    split
    · next he => exact ih (memsWf_fst hread he)
    · next he => exact ih (memsWf_stopPromotion (memsWf_walkerFault (memsWf_fst hread he)))
    · next he => exact ih (memsWf_voidPromotion (memsWf_fst hread he))
    · next he =>
      split
      · exact ih (memsWf_stopPromotion (memsWf_tenRecord (memsWf_fst hread he)))
      · exact ih (memsWf_promote (memsWf_fst hread he))

theorem memsWf_execPromotionRetry {s} (h : memsWf s) : NextMems (execPromotionRetry s) := by
  unfold execPromotionRetry
  dsimp only
  split
  · exact memsWf_pushEvOnce (memsWf_retryPromotions h)
  · exact memsWf_retryPromotions h

theorem memsWf_joinQueue {s g e st} (h : memsWf s) : memsWf (joinQueue s g e st) := by
  unfold joinQueue
  split
  · exact memsWf_entryTouch (memsWf_modEntry h)
  · exact memsWf_refuseStim h

theorem memsWf_forwardStim {s g e st} (h : memsWf s) : memsWf (forwardStim s g e st).1 := by
  grind -ring -linarith [forwardStim, memsWf_joinQueue, memsWf_appendStim, memsWf_pushEvOnce, memsWf_entryTouch, memsWf_modEntry]

theorem memsWf_wakeStim {s ten agent st} (h : memsWf s) : memsWf (wakeStim s ten agent st).1 := by
  unfold wakeStim
  split
  · exact memsWf_fst (memsWf_recordRead h) ‹_›
  · exact memsWf_refuseStim (memsWf_fst (memsWf_recordRead h) ‹_›)
  · dsimp only
    split
    · split
      · exact memsWf_fst (memsWf_recordRead h) ‹_›
      · exact memsWf_refuseStim (memsWf_fst (memsWf_recordRead h) ‹_›)
    · split
      · exact memsWf_voidPromotion (memsWf_fst (memsWf_recordRead h) ‹_›)
      · exact memsWf_refuseStim (memsWf_voidPromotion (memsWf_fst (memsWf_recordRead h) ‹_›))
  · split
    · exact memsWf_refuseStim (memsWf_fst (memsWf_recordRead h) ‹_›)
    · dsimp only
      split
      · split
        · exact memsWf_refuseIn (memsWf_fst (memsWf_recordRead h) ‹_›)
        · split
          · exact memsWf_fst (memsWf_recordRead h) ‹_›
          · split
            · exact memsWf_fst (memsWf_appendStim (memsWf_fst (memsWf_recordRead h) ‹_›)) ‹_›
            · exact memsWf_fst (memsWf_appendStim (memsWf_fst (memsWf_recordRead h) ‹_›)) ‹_›
            · split
              · split
                · exact memsWf_fst (memsWf_appendStim (memsWf_fst (memsWf_recordRead h) ‹_›)) ‹_›
                · split
                  · split
                    · exact memsWf_holdPromotion (memsWf_fst (memsWf_appendStim (memsWf_fst (memsWf_recordRead h) ‹_›)) ‹_›)
                    · exact memsWf_promote (memsWf_fst (memsWf_appendStim (memsWf_fst (memsWf_recordRead h) ‹_›)) ‹_›)
                  · exact memsWf_promote (memsWf_fst (memsWf_appendStim (memsWf_fst (memsWf_recordRead h) ‹_›)) ‹_›)
              · split
                · exact memsWf_fst (memsWf_appendStim (memsWf_fst (memsWf_recordRead h) ‹_›)) ‹_›
                · split
                  · split
                    · exact memsWf_holdPromotion (memsWf_fst (memsWf_appendStim (memsWf_fst (memsWf_recordRead h) ‹_›)) ‹_›)
                    · exact memsWf_promote (memsWf_fst (memsWf_appendStim (memsWf_fst (memsWf_recordRead h) ‹_›)) ‹_›)
                  · exact memsWf_promote (memsWf_fst (memsWf_appendStim (memsWf_fst (memsWf_recordRead h) ‹_›)) ‹_›)
      · split
        · exact memsWf_refuseIn (memsWf_fst (memsWf_recordRead h) ‹_›)
        · split
          · exact memsWf_fst (memsWf_recordRead h) ‹_›
          · split
            · exact memsWf_fst (memsWf_appendStim (memsWf_fst (memsWf_recordRead h) ‹_›)) ‹_›
            · exact memsWf_fst (memsWf_appendStim (memsWf_fst (memsWf_recordRead h) ‹_›)) ‹_›
            · split
              · split
                · exact memsWf_fst (memsWf_appendStim (memsWf_fst (memsWf_recordRead h) ‹_›)) ‹_›
                · split
                  · split
                    · exact memsWf_holdPromotion (memsWf_fst (memsWf_appendStim (memsWf_fst (memsWf_recordRead h) ‹_›)) ‹_›)
                    · exact memsWf_promote (memsWf_fst (memsWf_appendStim (memsWf_fst (memsWf_recordRead h) ‹_›)) ‹_›)
                  · exact memsWf_promote (memsWf_fst (memsWf_appendStim (memsWf_fst (memsWf_recordRead h) ‹_›)) ‹_›)
              · split
                · exact memsWf_fst (memsWf_appendStim (memsWf_fst (memsWf_recordRead h) ‹_›)) ‹_›
                · split
                  · split
                    · exact memsWf_holdPromotion (memsWf_fst (memsWf_appendStim (memsWf_fst (memsWf_recordRead h) ‹_›)) ‹_›)
                    · exact memsWf_promote (memsWf_fst (memsWf_appendStim (memsWf_fst (memsWf_recordRead h) ‹_›)) ‹_›)
                  · exact memsWf_promote (memsWf_fst (memsWf_appendStim (memsWf_fst (memsWf_recordRead h) ‹_›)) ‹_›)

theorem memsWf_takeCard {s st} (h : memsWf s) : memsWf (takeCard s st) := by
  unfold takeCard
  dsimp only
  split
  · exact memsWf_refuseStim h
  · exact memsWf_foldl (fun _ hs _ => (memsWf_pushEvOnce hs)) (memsWf_bumpId (memsWf_same h rfl rfl rfl))

theorem memsWf_takeStim {s st foreign} (h : memsWf s) : memsWf (takeStim s st foreign).1 := by
  grind -ring -linarith [takeStim, memsWf_refuseStim, memsWf_takeCard, memsWf_devCount, memsWf_forwardStim, memsWf_wakeStim, memsWf_iff]

theorem memsWf_dropArrival {s w a} (h : memsWf s) : memsWf (dropArrival s w a) :=
  memsWf_same h rfl rfl rfl

theorem memsWf_takeFirst {s w mine go seen l} (h : memsWf s) (hgo : ∀ t, memsWf t → ∀ v, memsWf (go t v).1) : memsWf (takeFirst s w mine
    go seen l).1 := by
  unfold takeFirst
  split
  · exact h
  · split
    · exact memsWf_takeFirst h (fun _ hs _ => (hgo _ hs _))
    · split
      · exact memsWf_dropArrival (memsWf_fst (hgo _ h _) ‹_›)
      · exact memsWf_takeFirst (memsWf_fst (hgo _ h _) ‹_›) (fun _ hs _ => (hgo _ hs _))

theorem memsWf_execStimulusArrival {w s} (h : memsWf s) : NextMems (execStimulusArrival w s) := by
  unfold execStimulusArrival
  split
  · split
    · exact h
    · exact memsWf_pushEv h
  · dsimp only
    split
    · refine memsWf_takeFirst h (fun _ hs _ => ?_)
      split
      · exact hs
      · split
        · exact memsWf_takeStim hs
        · refine ?_
          split
          · split
            · exact memsWf_takeStim hs
            · exact memsWf_answerDone (memsWf_takeStim hs)
          · refine memsWf_sendAck (memsWf_sendAck ?_)
            split
            · exact memsWf_takeStim hs
            · exact memsWf_answerDone (memsWf_takeStim hs)
    · refine memsWf_pushEv (memsWf_takeFirst h (fun _ hs _ => ?_))
      split
      · exact hs
      · split
        · exact memsWf_takeStim hs
        · refine ?_
          split
          · split
            · exact memsWf_takeStim hs
            · exact memsWf_answerDone (memsWf_takeStim hs)
          · refine memsWf_sendAck (memsWf_sendAck ?_)
            split
            · exact memsWf_takeStim hs
            · exact memsWf_answerDone (memsWf_takeStim hs)

theorem memsWf_execQueueRefill {ten agent s} (h : memsWf s) : NextMems (execQueueRefill ten agent s) := by
  grind -ring -linarith [execQueueRefill, NextMems, memsWf_pushEvOnce, memsWf_unitRead, memsWf_entryTouch, memsWf_modEntry,
      memsWf_walkerFault, memsWf_joinQueue, memsWf_fromSlot]

theorem memsWf_execDemotion {ten agent s} (h : memsWf s) : NextMems (execDemotion ten agent s) := by
  grind -ring -linarith [execDemotion, NextMems, memsWf_pushEv, memsWf_demote, memsWf_modEntry]

theorem memsWf_clearAge {s ten agent} (h : memsWf s) : memsWf (clearAge s ten agent) := by
  unfold clearAge
  split
  · exact h
  · exact memsWf_modEntry h

theorem memsWf_unblock {s ten agent} (h : memsWf s) : memsWf (unblock s ten agent) := by
  grind -ring -linarith [unblock, memsWf_pushEvOnce, memsWf_entryTouch, memsWf_modEntry]

theorem memsWf_rebind {s ten agent plate} (h : memsWf s) : memsWf (rebind s ten agent plate) := by
  grind -ring -linarith [rebind, memsWf_kickGroup, memsWf_replace, memsWf_modEntry]

theorem memsWf_rewriteRecord {s ten agent f entry} (h : memsWf s) (hentry : ∀ t, memsWf t → memsWf (entry t)) : memsWf (rewriteRecord s
    ten agent f entry).1 := by
  grind -ring -linarith [rewriteRecord, memsWf_recordRead, memsWf_walkerFault, memsWf_unitWrite]

theorem memsWf_agentOpTake {s ten agent op r} (h : memsWf s) : memsWf (agentOpTake s ten agent op r).1 := by
  unfold agentOpTake
  split
  · dsimp only
    refine memsWf_settle (memsWf_answer ?_)
    split
    · refine memsWf_unblock ?_
      split
      · exact memsWf_clearAge h
      · exact h
    · split
      · exact memsWf_clearAge h
      · exact h
  · split
    · exact memsWf_fst (memsWf_rewriteRecord h (fun _ hs => memsWf_rebind hs)) ‹_›
    · exact memsWf_answerDone (memsWf_fst (memsWf_rewriteRecord h (fun _ hs => memsWf_rebind hs)) ‹_›)
  · dsimp only
    split
    · refine memsWf_fst (memsWf_rewriteRecord h (fun _ hs => ?_)) ‹_›
      split
      · exact hs
      · exact memsWf_modEntry hs
    · refine memsWf_answerDone (memsWf_fst (memsWf_rewriteRecord h (fun _ hs => ?_)) ‹_›)
      split
      · exact hs
      · exact memsWf_modEntry hs

theorem memsWf_execAgentOpAtWalker {w s} (h : memsWf s) : NextMems (execAgentOpAtWalker w s) := by
  grind -ring -linarith [execAgentOpAtWalker, NextMems, memsWf_pushEv, memsWf_takeFirst, memsWf_agentOpTake]

theorem memsWf_modImp {s g id f} (h : memsWf s) : memsWf (modImp s g id f) :=
  memsWf_modGroup h

theorem memsWf_dropImp {s g id} (h : memsWf s) : memsWf (dropImp s g id) :=
  memsWf_modGroup h

theorem memsWf_closeImp {s g id} (h : memsWf s) : memsWf (closeImp s g id) := by
  grind -ring -linarith [closeImp, memsWf_pushEvOnce, memsWf_modImp]

theorem memsWf_joinImp {s g i e} (h : memsWf s) : memsWf (joinImp s g i e) := by
  unfold joinImp
  dsimp only
  split
  · exact memsWf_closeImp (memsWf_entryTouch (memsWf_modEntry (memsWf_modImp h)))
  · exact memsWf_entryTouch (memsWf_modEntry (memsWf_modImp h))

theorem memsWf_openImp {s g e routine} (h : memsWf s) : memsWf (openImp s g e routine) := by
  unfold openImp
  dsimp only
  split
  · exact memsWf_joinImp (memsWf_bumpId (memsWf_modGroup h))
  · exact memsWf_pushEv (memsWf_joinImp (memsWf_bumpId (memsWf_modGroup h)))

theorem memsWf_askPlates {s g} (h : memsWf s) : memsWf (askPlates s g) :=
  memsWf_foldl (fun _ hs _ => (memsWf_askPlate hs)) h

theorem memsWf_closeDue {s g} (h : memsWf s) : memsWf (closeDue s g) :=
  memsWf_foldl (fun _ hs _ => (memsWf_closeImp hs)) h

theorem memsWf_execImpressionGather {g s} (h : memsWf s) : NextMems (execImpressionGather g s) := by
  grind -ring -linarith [execImpressionGather, NextMems, memsWf_closeDue, memsWf_askPlates, memsWf_kickGroup, memsWf_joinImp,
      memsWf_openImp]

theorem memsWf_execBatchWindowExpiry {g imp s} (h : memsWf s) : NextMems (execBatchWindowExpiry g imp s) := by
  grind -ring -linarith [execBatchWindowExpiry, NextMems, memsWf_closeImp, memsWf_pushEv]

theorem memsWf_overdueActions {s g ten agent} (h : memsWf s) : memsWf (overdueActions s g ten agent) := by
  grind -ring -linarith [overdueActions, memsWf_replace, memsWf_devCount, memsWf_kickGroup, memsWf_askPlate, memsWf_closeImp]

theorem memsWf_ageEntry {s g e} (h : memsWf s) : memsWf (ageEntry s g e) := by
  unfold ageEntry
  dsimp only
  split
  · exact memsWf_overdueActions (memsWf_modEntry h)
  · exact memsWf_modEntry h

theorem memsWf_execAgeTick {s} (h : memsWf s) : NextMems (execAgeTick s) := by
  grind -ring -linarith [execAgeTick, NextMems, memsWf_foldl, memsWf_ageEntry, memsWf_pushEvOnce]

theorem memsWf_stageHeads {s g i todo} (h : memsWf s) : memsWf (stageHeads s g i todo).1 := by
  induction todo generalizing s with
  | nil => exact h
  | cons agent r ih =>
    rw [stageHeads]
    split
    · exact ih h
    · split
      · next he => exact memsWf_fst (memsWf_vaKeep h) he
      · next he => exact ih (memsWf_tenRecord (memsWf_entryTouch (memsWf_modEntry (memsWf_modImp (memsWf_dropRemote
          (memsWf_fst (memsWf_vaKeep h) he))))))
      · next s1 _ he =>
        have hr : memsWf (stageHeads s1 g i r).1 := ih (memsWf_fst (memsWf_vaKeep h) he)
        split
        · next hs => exact memsWf_fst hr hs
        · exact hr

theorem memsWf_admitTo {s g i p tag l} (h : memsWf s) : memsWf (admitTo s g i p tag l) := by
  unfold admitTo
  split
  · exact memsWf_kickGroup (memsWf_dropImp h)
  · dsimp only
    refine memsWf_enterBlock (memsWf_devCount (memsWf_foldl (fun _ hs _ => ?_) (memsWf_plateMatch (memsWf_same h rfl rfl rfl))))
    split
    · exact memsWf_pushEvOnce (memsWf_entryTouch (memsWf_modEntry (memsWf_dropRemote hs)))
    · exact memsWf_entryTouch (memsWf_modEntry (memsWf_dropRemote hs))

theorem memsWf_admitOne {s g i} (h : memsWf s) : memsWf (admitOne s g i).1 := by
  grind -ring -linarith [admitOne, memsWf_stageHeads, memsWf_admitTo]

theorem memsWf_admitAll {g s l} (h : memsWf s) : memsWf (admitAll g s l) := by
  unfold admitAll
  split
  · exact h
  · split
    · exact memsWf_admitAll (memsWf_fst (memsWf_admitOne h) ‹_›)
    · exact memsWf_fst (memsWf_admitOne h) ‹_›

theorem memsWf_execAdmission {g s} (h : memsWf s) : NextMems (execAdmission g s) := by
  grind -ring -linarith [execAdmission, NextMems, memsWf_pushEvOnce, memsWf_admitAll]

theorem memsWf_dealRecords {n s id} (h : memsWf s) : memsWf (dealRecords n s id) := by
  induction n generalizing s with
  | zero => exact h
  | succ n ih =>
    rw [dealRecords]
    split
    · exact h
    · dsimp only
      split
      · next he => exact memsWf_fst (memsWf_unitRead h) he
      · next he => exact ih (memsWf_walkerFault (memsWf_same (memsWf_fst (memsWf_unitRead h) he) rfl rfl rfl))
      · next he =>
        split
        · exact ih (memsWf_quarantine (memsWf_same (memsWf_fst (memsWf_unitRead h) he) rfl rfl rfl))
        · exact ih (memsWf_deviceStim (memsWf_same (memsWf_fst (memsWf_unitRead h) he) rfl rfl rfl))

theorem memsWf_execCardDeal {g s} (h : memsWf s) : NextMems (execCardDeal g s) := by
  grind -ring -linarith [execCardDeal, NextMems, memsWf_pushEvOnce, memsWf_cardEnds, memsWf_dealRecords]

theorem memsWf_execProbe {s} (h : memsWf s) : NextMems (execProbe s) :=
  memsWf_pushEv (memsWf_csrPoke h)

theorem memsWf_execProbeClear {s} (h : memsWf s) : NextMems (execProbeClear s) :=
  memsWf_pushEv (memsWf_clearAge h)

theorem memsWf_execProbeUnblock {s} (h : memsWf s) : NextMems (execProbeUnblock s) :=
  memsWf_pushEv (memsWf_unblock h)

theorem memsWf_execProbeResult {s} (h : memsWf s) : NextMems (execProbeResult s) := by
  unfold execProbeResult
  dsimp only
  split
  · exact memsWf_csrSet (memsWf_csrSet (memsWf_csrSet h))
  · exact memsWf_csrSet (memsWf_csrSet (memsWf_csrSet h))

theorem memsWf_execTrap {f n s} (h : memsWf s) : NextMems (execTrap f n s) := by
  unfold execTrap
  refine memsWf_onFire h (fun _ _ => h) (fun _ => h) (fun _ => ?_)
  split
  · exact h
  · split
    · exact memsWf_fireFault h
    · split
      · exact memsWf_fireFault h
      · exact memsWf_setCtx h

theorem memsWf_execTret {f s} (h : memsWf s) : NextMems (execTret f s) := by
  unfold execTret
  refine memsWf_onFire h (fun _ _ => h) (fun _ => h) (fun _ => ?_)
  split
  · exact h
  · split
    · exact memsWf_fireFault h
    · exact memsWf_setCtx h

theorem memsWf_execNop {f s} (h : memsWf s) : NextMems (execNop f s) :=
  memsWf_onFire h (fun _ _ => h) (fun _ => h) (fun _ => h)

theorem memsWf_stopDump {s c} (h : memsWf s) : memsWf (stopDump s c) := by
  grind -ring -linarith [stopDump, memsWf_hbmFresh, memsWf_hbmWrite]

theorem memsWf_execBrk {f k s} (h : memsWf s) : NextMems (execBrk f k s) := by
  unfold execBrk
  refine memsWf_onFire h (fun _ _ => h) (fun _ => h) (fun _ => ?_)
  dsimp only
  split
  · exact h
  · split
    · exact h
    · exact memsWf_stopDump (memsWf_fireFault h)

theorem memsWf_markRecord {s c id v} (h : memsWf s) : memsWf (markRecord s c id v) := by
  unfold markRecord
  split
  · exact h
  · split
    · exact h
    · exact memsWf_traceRecord h

theorem memsWf_execTrmk {f t k s} (h : memsWf s) : NextMems (execTrmk f t k s) := by
  unfold execTrmk
  refine memsWf_onFire h (fun _ _ => h) (fun _ => (memsWf_nullsUnless h)) (fun _ => ?_)
  split
  · exact memsWf_fireFault h
  · exact memsWf_markRecord (memsWf_compGo h)

theorem memsWf_execStylus {f k s} (h : memsWf s) : NextMems (execStylus f k s) := by
  unfold execStylus
  refine memsWf_onFire h (fun _ _ => h) (fun _ => h) (fun _ => ?_)
  dsimp only
  split
  · exact h
  · split
    · exact memsWf_devCount h
    · exact memsWf_foldl (fun _ hs _ => (memsWf_traceRecord hs)) (memsWf_modPress h)

theorem memsWf_execCtrRd {f t e s} (h : memsWf s) : NextMems (execCtrRd f t e s) := by
  unfold execCtrRd
  refine memsWf_onFire h (fun _ _ => h) (fun _ => h) (fun _ => ?_)
  split
  · exact h
  · split
    · exact memsWf_fireFault h
    · exact memsWf_sendPlain h

theorem memsWf_execCtrClr {f e s} (h : memsWf s) : NextMems (execCtrClr f e s) := by
  unfold execCtrClr
  refine memsWf_onFire h (fun _ _ => h) (fun _ => h) (fun _ => ?_)
  dsimp only
  split
  · exact h
  · split
    · exact memsWf_fireFault h
    · split
      · exact h
      · split
        · split
          · exact memsWf_hbmPutDbl _ _ _ (memsWf_same h rfl rfl rfl)
          · exact memsWf_same h rfl rfl rfl
        · exact memsWf_setCtx h

theorem memsWf_execCounterSweep {c e s} (h : memsWf s) : NextMems (execCounterSweep c e s) := by
  grind -ring -linarith [execCounterSweep, NextMems, memsWf_hbmPutDbl, memsWf_setCtx, memsWf_iff]

theorem memsWf_addCounts {s x} (h : memsWf s) : memsWf (addCounts s x) := by
  grind -ring -linarith [addCounts, memsWf_foldl, memsWf_hbmPutDbl]

theorem memsWf_execMonitorLimitCross {power temp s} (h : memsWf s) : NextMems (execMonitorLimitCross power temp s) :=
  memsWf_foldl (fun _ hs _ => (memsWf_pfEvent (memsWf_devCount hs))) (memsWf_csrPoke (memsWf_csrPoke h))

theorem memsWf_execTraceRestart {s} (h : memsWf s) : NextMems (execTraceRestart s) :=
  memsWf_same h rfl rfl rfl

theorem memsWf_shareSettle {s p} (h : memsWf s) : memsWf (shareSettle s p) := by
  unfold shareSettle
  split
  · exact memsWf_modPress h
  · exact h

end Sys2Proof.Machine
end

section
/-! PROOFS. The canonical form of the memories is kept: special registers, the host's windows and ports, tiles -/

namespace Sys2Proof.Machine

theorem memsWf_lendSettle {s} (h : memsWf s) : memsWf (lendSettle s) :=
  memsWf_same h rfl rfl rfl

theorem memsWf_sharePut {s p d v} (h : memsWf s) : memsWf (sharePut s p d v) := by
  unfold sharePut
  dsimp only
  exact memsWf_pushEvOnce (memsWf_modPress (memsWf_shareSettle h))

theorem memsWf_execShareTableSwap {p s} (h : memsWf s) : NextMems (execShareTableSwap p s) := by
  unfold execShareTableSwap
  split
  · exact memsWf_shareSettle h
  · exact memsWf_pushEvOnce h

theorem memsWf_dispRefused {s ten seq act register} (h : memsWf s) : memsWf (dispRefused s ten seq act register) := by
  unfold dispRefused
  dsimp only
  exact memsWf_tenRecord h

theorem memsWf_sweepAll {s} (h : memsWf s) : memsWf (sweepAll s) := by
  unfold sweepAll
  dsimp only
  exact memsWf_foldl (fun _ hs _ => (memsWf_pushEvOnce hs)) h

theorem memsWf_csrEffect {s num old v} (h : memsWf s) : memsWf (csrEffect s num old v) := by
  unfold csrEffect
  dsimp only
  refine memsWf_ite (memsWf_ite h (memsWf_pushEvs (memsWf_csrPoke h))) ?_
  refine memsWf_ite (memsWf_ite (memsWf_pushEv h) h) ?_
  refine memsWf_ite (memsWf_ite h (memsWf_pushEv h)) ?_
  refine memsWf_ite (memsWf_ite (memsWf_pushEv ?_) ?_) ?_
  · exact memsWf_ite (memsWf_pushEv h) h
  · exact memsWf_ite (memsWf_pushEv h) h
  refine memsWf_ite (memsWf_ite (memsWf_pushEv h) h) ?_
  refine memsWf_ite (memsWf_ite (memsWf_pushEv h) h) ?_
  refine memsWf_ite (memsWf_ite (memsWf_pushEv h) h) ?_
  refine memsWf_ite (memsWf_ite (memsWf_sweepAll h) h) ?_
  refine memsWf_ite (memsWf_ite (memsWf_pushEv h) h) ?_
  refine memsWf_ite (memsWf_ite (memsWf_pushEv (memsWf_csrSet h)) (memsWf_csrSet h)) ?_
  refine memsWf_ite (memsWf_ite h ?_) h
  split
  · exact memsWf_pushEv h
  · exact memsWf_pushEv h
  · exact memsWf_dispRefused h

theorem memsWf_csrWrite {s num v} (h : memsWf s) : memsWf (csrWrite s num v) := by
  grind -ring -linarith [csrWrite, memsWf_foldl, memsWf_sharePut, memsWf_csrEffect, memsWf_csrSet, memsWf_ageSettle, memsWf_lendSettle]

theorem memsWf_execMfs {f t csr s} (h : memsWf s) : NextMems (execMfs f t csr s) := by
  unfold execMfs
  refine memsWf_onFire h (fun _ _ => h) (fun _ => h) (fun _ => ?_)
  split
  · exact h
  · split
    · exact memsWf_fireFault h
    · exact memsWf_sendPlain h

theorem memsWf_execMts {f csr s} (h : memsWf s) : NextMems (execMts f csr s) := by
  unfold execMts
  refine memsWf_onFire h (fun _ _ => h) (fun _ => (memsWf_nullsUnless h)) (fun _ => ?_)
  dsimp only
  split
  · exact h
  · split
    · exact memsWf_fireFault h
    · split
      · exact memsWf_fireFault h
      · split
        · exact memsWf_modCtx h
        · split
          · exact h
          · exact memsWf_csrWrite h

theorem memsWf_setEgress {s k l} (h : memsWf s) : memsWf (setEgress s k l) :=
  memsWf_same h rfl rfl rfl

theorem memsWf_sinkWrite {s ten j st} (h : memsWf s) : memsWf (sinkWrite s ten j st) := by
  unfold sinkWrite
  dsimp only
  split
  · exact memsWf_ringDeliver h
  · exact memsWf_eventSend h

theorem memsWf_sinkPut {s ten j st} (h : memsWf s) : memsWf (sinkPut s ten j st) := by
  grind -ring -linarith [sinkPut, memsWf_sinkWrite, memsWf_setEgress, memsWf_quarantine]

theorem memsWf_sinkFlush {n s ten j} (h : memsWf s) : memsWf (sinkFlush n s ten j) := by
  unfold sinkFlush
  split
  · exact h
  · split
    · exact h
    · split
      · exact memsWf_sinkFlush (memsWf_sinkWrite (memsWf_setEgress h))
      · exact h

theorem memsWf_execEgressDrain {ten ring s} (h : memsWf s) : NextMems (execEgressDrain ten ring s) :=
  memsWf_sinkFlush h

theorem memsWf_execEventRingFlush {s} (h : memsWf s) : NextMems (execEventRingFlush s) :=
  memsWf_foldl (fun _ hs _ => (memsWf_eventFlush hs)) h

theorem memsWf_execFaultRingFlush {s} (h : memsWf s) : NextMems (execFaultRingFlush s) := by
  unfold execFaultRingFlush
  dsimp only
  split
  · exact memsWf_foldl (fun _ hs _ => (memsWf_faultFlush hs)) h
  · exact memsWf_pushEvOnce (memsWf_foldl (fun _ hs _ => (memsWf_faultFlush hs)) h)

theorem memsWf_execQuarantineFlush {s} (h : memsWf s) : NextMems (execQuarantineFlush s) := by
  unfold execQuarantineFlush
  dsimp only
  split
  · exact memsWf_foldl (fun _ hs _ => (memsWf_quarFlush hs)) h
  · exact memsWf_pushEvOnce (memsWf_foldl (fun _ hs _ => (memsWf_quarFlush hs)) h)

theorem memsWf_execResetBoot {s} (h : memsWf s) : NextMems (execResetBoot s) := by
  grind -ring -linarith [execResetBoot, NextMems, memsWf_pushEv, memsWf_pushEvs, memsWf_csrPoke]

theorem memsWf_nowReady {s bit} (h : memsWf s) : memsWf (nowReady s bit) := by
  grind -ring -linarith [nowReady, memsWf_pushEvOnce, memsWf_kickGroup]

theorem memsWf_execSelfTestDone {bit passed s} (h : memsWf s) : NextMems (execSelfTestDone bit passed s) := by
  grind -ring -linarith [execSelfTestDone, NextMems, memsWf_pushEv, memsWf_nowReady, memsWf_pfEvent, memsWf_iff]

theorem memsWf_execPressPowerUp {press s} (h : memsWf s) : NextMems (execPressPowerUp press s) := by
  grind -ring -linarith [execPressPowerUp, NextMems, memsWf_pushEv, memsWf_iff]

theorem memsWf_execMatrixRampDone {press s} (h : memsWf s) : NextMems (execMatrixRampDone press s) := by
  grind -ring -linarith [execMatrixRampDone, NextMems, memsWf_pushEv, memsWf_iff]

theorem memsWf_w4Bad {s func link cause boundary g at'} (h : memsWf s) : memsWf (w4Bad s func link cause boundary g at') :=
  memsWf_eventSend h

theorem memsWf_w4Mark {s func w l} (h : memsWf s) : memsWf (w4Mark s func w l) := by
  unfold w4Mark
  split
  · exact h
  · exact memsWf_spotsMark h

theorem memsWf_hostAgain {s link i} (h : memsWf s) : memsWf (hostAgain s link i) :=
  memsWf_same h rfl rfl rfl

theorem memsWf_execW4Write {func link addr bytes s} (h : memsWf s) : NextMems (execW4Write func link addr bytes s) := by
  grind -ring -linarith [execW4Write, NextMems, memsWf_hostAgain, memsWf_w4Refused, memsWf_w4Bad, memsWf_spotsWrite, memsWf_w4Mark]

theorem memsWf_readEnds {s func link o} (h : memsWf s) : memsWf (readEnds s func link o) := by
  unfold readEnds
  dsimp only
  exact memsWf_hostSees (memsWf_same (memsWf_dropFail (memsWf_dropRemote h)) rfl rfl rfl)

theorem memsWf_execW4Read {func link addr n s} (h : memsWf s) : NextMems (execW4Read func link addr n s) := by
  grind -ring -linarith [execW4Read, NextMems, memsWf_hostSees, memsWf_pushEv, memsWf_readEnds, memsWf_w4Refused, memsWf_w4Bad,
      memsWf_spotsRead, memsWf_w4Mark, memsWf_iff]

theorem memsWf_setPort {s k p} (h : memsWf s) : memsWf (setPort s k p) :=
  memsWf_same h rfl rfl rfl

theorem memsWf_portRefused {s cause func link at' p} (h : memsWf s) : memsWf (portRefused s cause func link at' p) :=
  memsWf_eventSend h

theorem memsWf_bindPort {s link port v} (h : memsWf s) : memsWf (bindPort s link port v) := by
  unfold bindPort
  dsimp only
  exact memsWf_setPort (memsWf_foldl (fun _ hs _ => (memsWf_quarantine hs)) h)

theorem memsWf_execPortBindingWrite {link port v s} (h : memsWf s) : NextMems (execPortBindingWrite link port v s) := by
  unfold execPortBindingWrite
  split
  · exact h
  · exact memsWf_bindPort h

theorem memsWf_publish {s func link port v} (h : memsWf s) : memsWf (publish s func link port v) := by
  unfold publish
  dsimp only
  split
  · exact memsWf_portRefused h
  · split
    · exact memsWf_portRefused h
    · exact memsWf_pushEvs (memsWf_setPort h)

theorem memsWf_execProdWrite {func link port v s} (h : memsWf s) : NextMems (execProdWrite func link port v s) := by
  unfold execProdWrite
  split
  · exact h
  · exact memsWf_publish h

theorem memsWf_prefetchBlock {s port ten va} (h : memsWf s) : memsWf (prefetchBlock s port ten va).1 := by
  grind -ring -linarith [prefetchBlock, memsWf_fetchImage, memsWf_tenRecord, memsWf_foldl, memsWf_cachePut]

theorem memsWf_prefetchNext {s port} (h : memsWf s) : memsWf (prefetchNext s port) := by
  grind -ring -linarith [prefetchNext, memsWf_setPort, memsWf_prefetchBlock, memsWf_pushEvOnce]

theorem memsWf_prefetchPlate {s ten num image} (h : memsWf s) : memsWf (prefetchPlate s ten num image) := by
  grind -ring -linarith [prefetchPlate, memsWf_askLoad]

theorem memsWf_prefetch {s port p bs} (h : memsWf s) : memsWf (prefetch s port p bs) := by
  grind -ring -linarith [prefetch, memsWf_prefetchPlate, memsWf_prefetchNext, memsWf_setPort]

theorem memsWf_execIngressAccept {port s0} (h : memsWf s0) : NextMems (execIngressAccept port s0) := by
  unfold execIngressAccept
  dsimp only
  split
  · exact memsWf_prefetchNext h
  · split
    · exact memsWf_pushEvOnce (memsWf_prefetchNext h)
    · split
      · exact memsWf_refuseStim (memsWf_setPort (memsWf_prefetchNext h))
      · exact memsWf_walkerTakes (memsWf_prefetch (memsWf_setPort (memsWf_prefetchNext h)))

theorem memsWf_ringWrite {s k d link v} (h : memsWf s) : memsWf (ringWrite s k d link v) := by
  unfold ringWrite
  dsimp only
  split
  · exact memsWf_pushEvOnce (memsWf_setRing h)
  · exact memsWf_pushEvOnce (memsWf_setRing h)

theorem memsWf_keyWrite {s link slot off v} (h : memsWf s) : memsWf (keyWrite s link slot off v) := by
  grind -ring -linarith [keyWrite, memsWf_eventSend, memsWf_iff]

theorem memsWf_execKeySlotWrite {slot off v s} (h : memsWf s) : NextMems (execKeySlotWrite slot off v s) := by
  unfold execKeySlotWrite
  split
  · exact h
  · exact memsWf_keyWrite h

theorem memsWf_execKeyTableLock {s} (h : memsWf s) : NextMems (execKeyTableLock s) := by
  unfold execKeyTableLock
  split
  · exact memsWf_same h rfl rfl rfl
  · exact h

theorem memsWf_attestAsk {s} (h : memsWf s) : memsWf (attestAsk s) :=
  memsWf_pushEvOnce (memsWf_same h rfl rfl rfl)

theorem memsWf_execAttestationRequest {s} (h : memsWf s) : NextMems (execAttestationRequest s) := by
  unfold execAttestationRequest
  split
  · exact memsWf_attestAsk h
  · exact h

theorem memsWf_execAttestationComplete {s} (h : memsWf s) : NextMems (execAttestationComplete s) := by
  unfold execAttestationComplete
  split
  · exact h
  · dsimp only
    exact memsWf_same h rfl rfl rfl

theorem memsWf_w0Write {s func link off v} (h : memsWf s) : memsWf (w0Write s func link off v) := by
  grind -ring -linarith [w0Write, memsWf_publish, memsWf_portRefused, memsWf_setPort]

theorem memsWf_w2Write {s func link off v} (h : memsWf s) : memsWf (w2Write s func link off v) := by
  unfold w2Write
  dsimp only
  refine memsWf_ite (memsWf_ite (memsWf_csrWrite h) h) ?_
  refine memsWf_ite (memsWf_ite (memsWf_ringWrite h) h) ?_
  refine memsWf_ite (memsWf_ite (memsWf_ringWrite h) h) ?_
  refine memsWf_ite (memsWf_ite (memsWf_same h rfl rfl rfl) h) ?_
  refine memsWf_ite (memsWf_ite (memsWf_attestAsk h) h) ?_
  refine memsWf_ite (memsWf_ite (memsWf_keyWrite h) h) ?_
  refine memsWf_ite (memsWf_ite (memsWf_same h rfl rfl rfl) h) ?_
  refine memsWf_ite (memsWf_ite h (memsWf_ite (memsWf_bindPort h) (memsWf_setPort h))) ?_
  exact memsWf_ite (memsWf_same h rfl rfl rfl) h

theorem memsWf_execRegisterWrite {win func link off v s} (h : memsWf s) : NextMems (execRegisterWrite win func link off v s) := by
  unfold execRegisterWrite
  split
  · exact h
  · split
    · exact memsWf_w0Write h
    · exact memsWf_w2Write h

theorem memsWf_takeCycle {s l} (h : memsWf s) : memsWf (takeCycle s l) := by
  unfold takeCycle
  dsimp only
  split
  · exact memsWf_same h rfl rfl rfl
  · exact memsWf_same h rfl rfl rfl

theorem memsWf_tensorRead {s x owner tid} (h : memsWf s) : memsWf (tensorRead s x owner tid).1 := by
  grind -ring -linarith [tensorRead, memsWf_vaRead]

theorem memsWf_withTensor {s x w tid go} (h : memsWf s) (hgo : ∀ t, memsWf t → ∀ v, memsWf (go t v)) : memsWf (withTensor s x w tid go)
    := by
  unfold withTensor
  split
  · exact memsWf_waitFor (memsWf_fst (memsWf_tensorRead h) ‹_›)
  · exact memsWf_fireFault (memsWf_fst (memsWf_tensorRead h) ‹_›)
  · exact hgo _ (memsWf_fst (memsWf_tensorRead h) ‹_›) _

theorem memsWf_slotFill {s x k tid} (h : memsWf s) : memsWf (slotFill s x k tid) :=
  memsWf_watchShard (memsWf_setTile h)

theorem memsWf_slotState {s g k v} (h : memsWf s) : memsWf (slotState s g k v) :=
  memsWf_modTile h

theorem memsWf_modRing {s c r f} (h : memsWf s) : memsWf (modRing s c r f) :=
  memsWf_modCtx h

theorem memsWf_deliverWide {s m w t v} (h : memsWf s) : memsWf (deliverWide s m w t v) := by
  unfold deliverWide
  dsimp only
  exact memsWf_answer (memsWf_openReply h)

theorem memsWf_tileFiring {s m w t tid rings fills go} (h : memsWf s)
    (hgo : ∀ u, memsWf u → ∀ x k r d bad, (∀ c v, memsWf v → memsWf (bad c v)) → memsWf (go u x k r d bad)) :
    memsWf (tileFiring s m w t tid rings fills go) := by
  unfold tileFiring
  split
  · exact memsWf_fireFault h
  · exact h
  · dsimp only
    split
    · exact memsWf_ite (memsWf_deliverWide h) (memsWf_fireFault h)
    · refine memsWf_withTensor h (fun _ hs _ => ?_)
      split
      · exact memsWf_fireFault hs
      · exact hgo _ hs _ _ _ _ _ (fun _ _ hv => memsWf_fireFault hv)

theorem memsWf_execTileFill {f tid t s} (h : memsWf s) : NextMems (execTileFill f tid t s) := by
  grind -ring -linarith [execTileFill, NextMems, memsWf_onFire, memsWf_passEosAfter, memsWf_nullsUnless, memsWf_tileFiring,
      memsWf_waitFor, memsWf_deliverWide, memsWf_slotFill, memsWf_modRing]

theorem memsWf_execTileReady {f tid t s} (h : memsWf s) : NextMems (execTileReady f tid t s) := by
  unfold execTileReady
  refine memsWf_onFire h (fun _ _ => (memsWf_passEosAfter h)) (fun _ => (memsWf_nullsUnless h)) (fun _ => ?_)
  dsimp only
  refine memsWf_tileFiring h (fun _ hs _ _ _ _ _ hbad => ?_)
  split
  · exact hbad _ _ hs
  · split
    · exact hbad _ _ hs
    · split
      · split
        · exact memsWf_deliverWide (memsWf_slotState hs)
        · exact memsWf_waitFor hs
      · split
        · exact memsWf_deliverWide (memsWf_slotState hs)
        · exact memsWf_waitFor hs

theorem memsWf_execTileDrain {f tid t s} (h : memsWf s) : NextMems (execTileDrain f tid t s) := by
  unfold execTileDrain
  refine memsWf_onFire h (fun _ _ => (memsWf_passEosAfter h)) (fun _ => (memsWf_nullsUnless h)) (fun _ => ?_)
  dsimp only
  refine memsWf_tileFiring h (fun _ hs _ _ _ _ _ hbad => ?_)
  split
  · exact memsWf_waitFor hs
  · split
    · exact hbad _ _ hs
    · split
      · exact hbad _ _ hs
      · split
        · exact memsWf_waitFor hs
        · refine memsWf_enqueue (memsWf_bumpId (memsWf_openReply ?_))
          split
          · exact memsWf_slotState hs
          · exact memsWf_modRing (memsWf_slotState hs)

theorem memsWf_execTileFree {f tid t s} (h : memsWf s) : NextMems (execTileFree f tid t s) := by
  unfold execTileFree
  refine memsWf_onFire h (fun _ _ => (memsWf_passEosAfter h)) (fun _ => (memsWf_nullsUnless h)) (fun _ => ?_)
  dsimp only
  refine memsWf_tileFiring h (fun _ hs _ _ _ _ _ hbad => ?_)
  split
  · exact memsWf_waitFor hs
  · split
    · exact hbad _ _ hs
    · split
      · exact hbad _ _ hs
      · split
        · exact memsWf_waitFor hs
        · refine memsWf_deliverWide ?_
          split
          · exact memsWf_slotState hs
          · exact memsWf_modRing (memsWf_slotState hs)

theorem memsWf_execTileStat {f t s} (h : memsWf s) : NextMems (execTileStat f t s) := by
  unfold execTileStat
  refine memsWf_onFire h (fun _ _ => (memsWf_passEosAfter h)) (fun _ => (memsWf_nullsUnless h)) (fun _ => ?_)
  dsimp only
  split
  · exact memsWf_fireFault h
  · exact h
  · split
    · split
      · exact memsWf_deliverWide h
      · exact memsWf_fireFault h
    · split
      · exact memsWf_fireFault h
      · exact memsWf_deliverWide h

theorem memsWf_opSettled {s p o done} (h : memsWf s) (hdone : ∀ t, memsWf t → memsWf (done t)) : memsWf (opSettled s p o done) := by
  unfold opSettled
  split
  · exact memsWf_opFault (memsWf_modOp (memsWf_dropFail h))
  · split
    · exact memsWf_opAgain h
    · exact hdone _ h

theorem memsWf_drainFrom {n s p o x k base done} (h : memsWf s) (hdone : ∀ t, memsWf t → memsWf (done t)) : memsWf (drainFrom n s p o x k
    base done) := by
  unfold drainFrom
  split
  · split
    · exact hdone _ h
    · exact memsWf_opAgain h
  · split
    · exact hdone _ h
    · split
      · exact memsWf_opFault (memsWf_fst (memsWf_engFetch h) ‹_›)
      · exact memsWf_opStall (memsWf_fst (memsWf_engFetch h) ‹_›)
      · split
        · exact memsWf_opFault (memsWf_fst (memsWf_engStore (memsWf_fst (memsWf_engFetch h) ‹_›)) ‹_›)
        · exact memsWf_opStall (memsWf_fst (memsWf_engStore (memsWf_fst (memsWf_engFetch h) ‹_›)) ‹_›)
        · dsimp only
          exact memsWf_drainFrom (memsWf_modOp (memsWf_fst (memsWf_engStore (memsWf_fst (memsWf_engFetch h) ‹_›)) ‹_›)) (fun _ hs =>
              (hdone _ hs))

end Sys2Proof.Machine
end

section
/-! PROOFS. The canonical form of the memories is kept: copies, emissions, spawns, cohorts, and flits at their target -/

namespace Sys2Proof.Machine

theorem memsWf_execTileDrainComplete {id s} (h : memsWf s) : NextMems (execTileDrainComplete id s) := by
  grind -ring -linarith [execTileDrainComplete, NextMems, memsWf_withOp, memsWf_opFault, memsWf_drainFrom, memsWf_opSettled,
      memsWf_opAgain, memsWf_settle, memsWf_answer, memsWf_opGone, memsWf_slotState]

theorem memsWf_execRingDef {f tid t s} (h : memsWf s) : NextMems (execRingDef f tid t s) := by
  grind -ring -linarith [execRingDef, NextMems, memsWf_onFire, memsWf_passEosAfter, memsWf_nullsUnless, memsWf_fireFault, memsWf_answer,
      memsWf_openReply, memsWf_withTensor, memsWf_waitFor, memsWf_modCtx]

theorem memsWf_copySource {x o r} (hr : memsWf r.1) : memsWf (copySource x o r).1 := by
  unfold copySource
  split
  · split
    · exact hr
    · exact hr
  · exact hr

theorem memsWf_copyRead {n s p o x src len done} (h : memsWf s) (hdone : ∀ t, memsWf t → ∀ v, memsWf (done t v)) :
    memsWf (copyRead n s p o x src len done) := by
  induction n generalizing s o with
  | zero => exact hdone _ h _
  | succ n ih =>
    rw [copyRead]
    split
    · exact hdone _ h _
    · exact memsWf_opThen (memsWf_copySource (memsWf_engRead h)) (fun _ hs _ => ih (memsWf_modOp hs))

theorem memsWf_copyWrite {n s p o x dst m done} (h : memsWf s) (hdone : ∀ t, memsWf t → ∀ v, memsWf (done t v)) : memsWf (copyWrite n s p
    o x dst m done) := by
  unfold copyWrite
  split
  · split
    · exact hdone _ h _
    · exact memsWf_opAgain h
  · split
    · exact hdone _ h _
    · dsimp only
      split
      · exact memsWf_opFault (memsWf_fst (memsWf_engWrite h) ‹_›)
      · exact memsWf_opStall (memsWf_fst (memsWf_engWrite h) ‹_›)
      · exact memsWf_copyWrite (memsWf_modOp (memsWf_fst (memsWf_engWrite h) ‹_›)) (fun _ hs _ => (hdone _ hs _))

theorem memsWf_copySend {s p o x l done} (h : memsWf s) (hdone : ∀ t, memsWf t → ∀ v, memsWf (done t v)) :
    memsWf (copySend s p o x l done) := by
  induction l generalizing s o with
  | nil => exact hdone _ h _
  | cons e r ih =>
    rw [copySend]
    dsimp only
    split
    · exact memsWf_opThen (memsWf_engGot (memsWf_engStore h)) (fun _ hs _ => ih (memsWf_modOp hs))
    · split
      · exact memsWf_opFault h
      · split
        · exact memsWf_opAgain h
        · exact ih (memsWf_modOp (memsWf_sendFlits (memsWf_addXfer (memsWf_countUse (memsWf_dropLinesOf h)))))

theorem memsWf_copyDone {s p o len} (h : memsWf s) : memsWf (copyDone s p o len) :=
  memsWf_settle (memsWf_answer (memsWf_opGone h))

theorem memsWf_remoteRest {s p o x dst len} (h : memsWf s) : memsWf (remoteRest s p o x dst len) := by
  grind -ring -linarith [remoteRest, memsWf_opFault, memsWf_modOp, memsWf_dropFail, memsWf_opAgain, memsWf_copyDone, memsWf_copyWrite,
      memsWf_opStall, memsWf_copySend, memsWf_spotsMark]

theorem memsWf_execCopyComplete {id s} (h : memsWf s) : NextMems (execCopyComplete id s) := by
  unfold execCopyComplete
  refine memsWf_withOp h (fun _ hs _ _ _ => ?_)
  dsimp only
  split
  · split
    · exact memsWf_opFault hs
    · exact memsWf_copyRead hs (fun _ ht _ => (memsWf_copyWrite ht (fun _ hu _ => (memsWf_opSettled hu (fun _ hv => (memsWf_copyDone
          hv))))))
  · split
    · exact memsWf_opFault hs
    · exact memsWf_copyRead hs (fun _ ht _ => (memsWf_remoteRest ht))
  · exact memsWf_copyWrite hs (fun _ ht _ => (memsWf_opSettled ht (fun _ hu => (memsWf_settle (memsWf_opGone hu)))))
  · exact hs

theorem memsWf_copyAsk {f n t rem s w} (h : memsWf s) : memsWf (copyAsk f n t rem s w) := by
  grind -ring -linarith [copyAsk, memsWf_fireFault, memsWf_queueOp]

theorem memsWf_execCpGo {f n t s} (h : memsWf s) : NextMems (execCpGo f n t s) :=
  memsWf_onFire h (fun _ _ => (memsWf_passEosAfter h)) (fun _ => (memsWf_nullsUnless h)) (fun _ => (memsWf_copyAsk h))

theorem memsWf_execCpRem {f n t s} (h : memsWf s) : NextMems (execCpRem f n t s) :=
  memsWf_onFire h (fun _ _ => (memsWf_passEosAfter h)) (fun _ => (memsWf_nullsUnless h)) (fun _ => (memsWf_copyAsk h))

theorem memsWf_onRequest {m ts s wa go} (h : memsWf s) (hgo : ∀ t, memsWf (go t)) : NextMems (onRequest m ts s wa go) := by
  unfold onRequest
  refine memsWf_onFire h (fun _ _ => h) (fun _ => (memsWf_nullsUnless h)) (fun _ => ?_)
  split
  · exact memsWf_fireFault h
  · exact hgo _

theorem memsWf_packetRead {s x owner v n} (h : memsWf s) : memsWf (packetRead s x owner v n).1 := by
  unfold packetRead
  split
  · exact memsWf_vaRead h
  · refine memsWf_foldl_fst (fun r hr k => ?_) h
    split
    · next t bs =>
      have hf : memsWf (engFetch t x owner (v + 16 * k) 16 none).1 := memsWf_engFetch hr
      split
      · next he => exact memsWf_fst hf he
      · exact hf
    · exact hr

theorem memsWf_emitPlace {form m ts s w x bs dest} (h : memsWf s) : memsWf (emitPlace form m ts s w x bs dest) := by
  unfold emitPlace
  dsimp only
  refine memsWf_ite (memsWf_fireFault h) (memsWf_ite (memsWf_fireFault h) (memsWf_ite (memsWf_waitFor h)
    (memsWf_ite (memsWf_waitFor h) ?_)))
  generalize hrel : (if emitPassed w 0x287 then (Raced.ok s, none) else ctxRelease s w.ctx _) = released
  have hr : RacedMems released.1 := hrel ▸ RacedMems.ite_fst h (memsWf_ctxRelease h)
  split
  · exact memsWf_waitFor (memsWf_slotWaits h)
  · exact memsWf_fireFault hr
  · have ho : memsWf (openReply _ m w ts).1 := memsWf_openReply hr
    split
    · exact memsWf_answer (memsWf_modStep ho)
    · exact memsWf_answer (memsWf_modStep ho)
    · refine memsWf_ite (memsWf_walkerPut ho) ?_
      split
      · exact memsWf_sendFlits (memsWf_addXfer ho)
      · exact ho

theorem memsWf_emitCheck {form m ts s w x} (h : memsWf s) : memsWf (emitCheck form m ts s w x) := by
  grind -ring -linarith [emitCheck, memsWf_fireFault, memsWf_emitPlace]

theorem memsWf_emitGo {form m ts s w} (h : memsWf s) : memsWf (emitGo form m ts s w) := by
  grind -ring -linarith [emitGo, RacedMems, memsWf_emitCheck, memsWf_fireFault, memsWf_waitFor, memsWf_packetRead, memsWf_slotWaits,
      memsWf_raceAccess]

theorem memsWf_execEmit {f t u s} (h : memsWf s) : NextMems (execEmit f t u s) :=
  memsWf_onRequest h (fun _ => (memsWf_emitGo h))

theorem memsWf_execEmitT {f t u s} (h : memsWf s) : NextMems (execEmitT f t u s) :=
  memsWf_onRequest h (fun _ => (memsWf_emitGo h))

theorem memsWf_execEmitX {f t u s} (h : memsWf s) : NextMems (execEmitX f t u s) :=
  memsWf_onRequest h (fun _ => (memsWf_emitGo h))

theorem memsWf_restName {s w x ms} (h : memsWf s) : memsWf (restName s w x ms) := by
  unfold restName
  dsimp only
  split
  · exact memsWf_sinkBits h
  · split
    · exact memsWf_fireFault h
    · exact memsWf_sinkBits (memsWf_modCtx h)

theorem memsWf_execRest {f s} (h : memsWf s) : NextMems (execRest f s) := by
  unfold execRest
  refine memsWf_onFire h (fun _ _ => h) (fun _ => h) (fun _ => ?_)
  split
  · exact h
  · exact memsWf_restName h

theorem memsWf_agentAsk {m ts s w bad agent op} (h : memsWf s) : memsWf (agentAsk m ts s w bad agent op) := by
  grind -ring -linarith [agentAsk, memsWf_fireFault, memsWf_walkerPut, memsWf_openReply]

theorem memsWf_execBind {f t u s} (h : memsWf s) : NextMems (execBind f t u s) :=
  memsWf_onRequest h (fun _ => (memsWf_agentAsk h))

theorem memsWf_execHint {f t u s} (h : memsWf s) : NextMems (execHint f t u s) :=
  memsWf_onRequest h (fun _ => (memsWf_agentAsk h))

theorem memsWf_execAq {f t u s} (h : memsWf s) : NextMems (execAq f t u s) :=
  memsWf_onRequest h (fun _ => (memsWf_agentAsk h))

theorem memsWf_spawnKick {s p} (h : memsWf s) : memsWf (spawnKick s p) := by
  unfold spawnKick
  split
  · exact h
  · exact memsWf_pushEvOnce (memsWf_pushEvOnce h)

theorem memsWf_setSpawns {s p f} (h : memsWf s) : memsWf (setSpawns s p f) :=
  memsWf_modPress h

theorem memsWf_starveRestart {s p} (h : memsWf s) : memsWf (starveRestart s p) :=
  memsWf_modPress h

theorem memsWf_execSpawn {f t _k s} (h : memsWf s) : NextMems (execSpawn f t _k s) := by
  unfold execSpawn
  refine memsWf_onFire h (fun _ _ => h) (fun _ => (memsWf_nullsUnless h)) (fun _ => ?_)
  dsimp only
  split
  · exact memsWf_fireFault h
  · exact h
  · exact memsWf_spawnKick (memsWf_setSpawns h)

theorem memsWf_childStart {s x f tag at' ts joins} (h : memsWf s) : memsWf (childStart s x f tag at' ts joins) := by
  unfold childStart
  dsimp only
  split
  · split
    · exact memsWf_setCtx (memsWf_bumpId (memsWf_openReply h))
    · split
      · exact memsWf_setCtx (memsWf_bumpId (memsWf_openReply h))
      · exact memsWf_startActor (memsWf_setCtx (memsWf_bumpId (memsWf_openReply h)))
  · refine memsWf_enterBlock ?_
    split
    · exact memsWf_setCtx (memsWf_bumpId (memsWf_openReply h))
    · split
      · exact memsWf_setCtx (memsWf_bumpId (memsWf_openReply h))
      · exact memsWf_startActor (memsWf_setCtx (memsWf_bumpId (memsWf_openReply h)))

theorem memsWf_spawnWaits {s p} (h : memsWf s) : memsWf (spawnWaits s p) :=
  memsWf_pushEvOnce h

theorem memsWf_spawnTry {s p f x tag} (h : memsWf s) : memsWf (spawnTry s p f x tag) := by
  unfold spawnTry
  dsimp only
  split
  · next he => exact memsWf_spawnWaits (memsWf_fst (memsWf_vaRead h) he)
  · next he => exact memsWf_spawnKick (memsWf_fireFault (memsWf_setSpawns (memsWf_fst (memsWf_vaRead h) he)))
  · next s1 _ he =>
    have h1 : memsWf s1 := memsWf_fst (memsWf_vaRead h) he
    refine memsWf_ite (memsWf_spawnKick (memsWf_fireFault (memsWf_setSpawns h1))) (memsWf_ite (memsWf_spawnWaits h1) ?_)
    generalize hrel : (if f.waive = some 0x287 then (Raced.ok s1, none) else ctxRelease s1 f.ctx 1) = released
    have hr : RacedMems released.1 := hrel ▸ RacedMems.ite_fst h1 (memsWf_ctxRelease h1)
    split
    · exact memsWf_spawnWaits (memsWf_slotWaits h1)
    · exact memsWf_spawnKick (memsWf_fireFault (memsWf_setSpawns hr))
    · split
      · exact memsWf_spawnKick (memsWf_setSpawns hr)
      · exact memsWf_spawnKick (memsWf_childStart (memsWf_setSpawns hr))

theorem memsWf_execSpawnStart {p s} (h : memsWf s) : NextMems (execSpawnStart p s) := by
  grind -ring -linarith [execSpawnStart, NextMems, memsWf_spawnTry, memsWf_spawnWaits]

theorem memsWf_execSpawnStarve {p s} (h : memsWf s) : NextMems (execSpawnStarve p s) := by
  grind -ring -linarith [execSpawnStarve, NextMems, memsWf_pushEvOnce, memsWf_takeFault, memsWf_starveRestart]

theorem memsWf_spawnTagFreed {s p} (h : memsWf s) : memsWf (spawnTagFreed s p) :=
  memsWf_spawnKick (memsWf_starveRestart h)

theorem memsWf_joinFinal {s parent child} (h : memsWf s) : memsWf (joinFinal s parent child) := by
  unfold joinFinal
  split
  · exact h
  · exact memsWf_modSlot h

theorem memsWf_cohSend {s op home entry} (h : memsWf s) : memsWf (cohSend s op home entry) := by
  grind -ring -linarith [cohSend, memsWf_pushEv, memsWf_sendFlits, memsWf_addXfer, memsWf_iff]

theorem memsWf_cohPiece {m ts xop s w} (h : memsWf s) : memsWf (cohPiece m ts xop s w) := by
  grind -ring -linarith [cohPiece, RacedMems, memsWf_parkWork, memsWf_fireFault, memsWf_waitFor, memsWf_slotWaits, memsWf_ctxRelease,
      memsWf_cohSend, memsWf_bumpId, memsWf_openReply]

theorem memsWf_cohort {xop m ts s} (h : memsWf s) : NextMems (cohort xop m ts s) := by
  unfold cohort
  refine memsWf_onFire h (fun _ _ => h) (fun _ => (memsWf_nullsUnless h)) (fun _ => ?_)
  dsimp only
  split
  · exact h
  · split
    · exact memsWf_fireFault h
    · exact memsWf_foldl (fun _ hs _ => (memsWf_cohPiece hs)) h

theorem memsWf_execJoin {f t u s} (h : memsWf s) : NextMems (execJoin f t u s) :=
  memsWf_cohort h

theorem memsWf_execLeave {f t u s} (h : memsWf s) : NextMems (execLeave f t u s) :=
  memsWf_cohort h

theorem memsWf_execCbar {f t u s} (h : memsWf s) : NextMems (execCbar f t u s) :=
  memsWf_cohort h

theorem memsWf_execCq {f t u s} (h : memsWf s) : NextMems (execCq f t u s) :=
  memsWf_cohort h

theorem memsWf_execCredAddI32 {f t u s} (h : memsWf s) : NextMems (execCredAddI32 f t u s) :=
  memsWf_cohort h

theorem memsWf_execCredAddF32 {f t u s} (h : memsWf s) : NextMems (execCredAddF32 f t u s) :=
  memsWf_cohort h

theorem memsWf_execCredMaxI32 {f t u s} (h : memsWf s) : NextMems (execCredMaxI32 f t u s) :=
  memsWf_cohort h

theorem memsWf_execCredMaxF32 {f t u s} (h : memsWf s) : NextMems (execCredMaxF32 f t u s) :=
  memsWf_cohort h

theorem memsWf_execCredMinI32 {f t u s} (h : memsWf s) : NextMems (execCredMinI32 f t u s) :=
  memsWf_cohort h

theorem memsWf_execCredMinF32 {f t u s} (h : memsWf s) : NextMems (execCredMinF32 f t u s) :=
  memsWf_cohort h

theorem memsWf_setCohort {s n c} (h : memsWf s) : memsWf (setCohort s n c) :=
  memsWf_same h rfl rfl rfl

theorem memsWf_roundDone {s n c} (h : memsWf s) : memsWf (roundDone s n c) := by
  grind -ring -linarith [roundDone, memsWf_foldl, memsWf_releaseStim, memsWf_setCohort]

theorem memsWf_cohArrive {s op c} (h : memsWf s) : memsWf (cohArrive s op c) := by
  grind -ring -linarith [cohArrive, memsWf_roundDone, memsWf_setCohort]

theorem memsWf_cohApply {s op} (h : memsWf s) : memsWf (cohApply s op).1 := by
  grind -ring -linarith [cohApply, memsWf_setCohort, memsWf_roundDone, memsWf_cohArrive]

theorem memsWf_cohRefused {s op cause aux} (h : memsWf s) : memsWf (cohRefused s op cause aux) := by
  unfold cohRefused
  split
  · dsimp only
    exact memsWf_fireFault (memsWf_closeReply h)
  · exact h

theorem memsWf_cohAnswered {s op v} (h : memsWf s) : memsWf (cohAnswered s op v) := by
  unfold cohAnswered
  split
  · exact h
  · exact memsWf_settle (memsWf_answer h)

theorem memsWf_execCohortOpAtHome {s} (h : memsWf s) : NextMems (execCohortOpAtHome s) := by
  grind -ring -linarith [execCohortOpAtHome, NextMems, memsWf_cohRefused, memsWf_sendNak, memsWf_cohAnswered, memsWf_cohApply,
      memsWf_sendAnswer, memsWf_iff]

theorem memsWf_egressBad {s peer g} (h : memsWf s) : memsWf (egressBad s peer g) :=
  memsWf_pfEvent h

theorem memsWf_distResult {s dev res} (h : memsWf s) : memsWf (distResult s dev res) := by
  grind -ring -linarith [distResult, memsWf_csrPoke, memsWf_hbmPutDbl, memsWf_iff]

theorem memsWf_distStops {s} (h : memsWf s) : memsWf (distStops s) := by
  unfold distStops
  split
  · exact h
  · exact memsWf_foldl (fun _ hs _ => (memsWf_distResult hs)) h

theorem memsWf_distPump {s} (h : memsWf s) : memsWf (distPump s) := by
  unfold distPump
  split
  · exact h
  · next d _ =>
    refine memsWf_ite h ?_
    split
    · exact h
    · next e _ _ =>
      generalize linkTo s (chainDev e.1) = l
      generalize freeXtag s = x
      generalize chunkRead s (d.src + 65536 * d.next) = read
      cases l with
      | none => exact memsWf_distStops h
      | some l =>
        cases x with
        | none => exact h
        | some x =>
          cases read with
          | error g => exact memsWf_distStops (memsWf_egressBad h)
          | ok data => exact memsWf_sendFlits (memsWf_addXfer (memsWf_same h rfl rfl rfl))

theorem memsWf_distAccepted {s} (h : memsWf s) : memsWf (distAccepted s) :=
  memsWf_distPump (memsWf_same h rfl rfl rfl)

theorem memsWf_execDistributionStart {s} (h : memsWf s) : NextMems (execDistributionStart s) := by
  grind -ring -linarith [execDistributionStart, NextMems, memsWf_pushEv, memsWf_csrPoke, memsWf_pfEvent, memsWf_distPump, memsWf_iff]

theorem memsWf_execDistributionReport {dev res s} (h : memsWf s) : NextMems (execDistributionReport dev res s) :=
  memsWf_distResult h

theorem memsWf_dropChunk {s key} (h : memsWf s) : memsWf (dropChunk s key) :=
  memsWf_same h rfl rfl rfl

theorem memsWf_chunkStops {s head} (h : memsWf s) : memsWf (chunkStops s head) := by
  unfold chunkStops
  dsimp only
  split
  · exact h
  · exact memsWf_foldl (fun _ hs _ => (memsWf_plateReport hs)) (memsWf_same h rfl rfl rfl)

theorem memsWf_chunkPump {n s} (h : memsWf s) : memsWf (chunkPump n s) := by
  induction n generalizing s with
  | zero => exact h
  | succ n ih =>
    rw [chunkPump]
    generalize chunkPump n = pump at ih ⊢
    generalize linkTo s = link
    generalize freeXtag s = tag
    generalize chunkRead s = read
    split
    · exact h
    · next c head _ =>
      have hdrop : memsWf { s with chunks := dropFirst (fun c => c.1 == waitingKey) s.chunks } := memsWf_same h rfl rfl rfl
      generalize { s with chunks := dropFirst (fun c => c.1 == waitingKey) s.chunks } = s1 at hdrop ⊢
      generalize (if s.chainStopped.contains (chunkOf head) then [] else chunkChain head) = chain
      split
      · split
        · exact ih (memsWf_chunkStops hdrop)
        · exact h
        · split
          · exact ih (memsWf_chunkStops (memsWf_egressBad hdrop))
          · exact ih (memsWf_sendFlits (memsWf_addXfer (memsWf_same hdrop rfl rfl rfl)))
      · exact ih hdrop

theorem memsWf_chunkLast {s head me} (h : memsWf s) : memsWf (chunkLast s head me) := by
  grind -ring -linarith [chunkLast, memsWf_plateReport, memsWf_askLoad, memsWf_modLoad]

theorem memsWf_mergePut {s pa bs} (h : memsWf s) : ExceptMems (mergePut s pa bs) := by
  unfold mergePut
  dsimp only
  split
  · exact trivial
  · exact memsWf_hbmFresh (memsWf_hbmWrite _ _ _ h)

theorem memsWf_peerWrite {s n f pa flags bs} (h : memsWf s) : memsWf (peerWrite s n f pa flags bs) := by
  grind -ring -linarith [peerWrite, ExceptMems, memsWf_sendNak, memsWf_pfEvent, memsWf_proxyAccess, memsWf_sendAck, memsWf_mergePut]

theorem memsWf_dropIn {s f} (h : memsWf s) : memsWf (dropIn s f) :=
  memsWf_same h rfl rfl rfl

theorem memsWf_inBegin {s n f pa total flags got} (h : memsWf s) : memsWf (inBegin s n f pa total flags got) := by
  unfold inBegin
  dsimp only
  exact memsWf_watchShard (memsWf_same h rfl rfl rfl)

theorem memsWf_inMore {s f bs} (h : memsWf s) : memsWf (inMore s f bs) :=
  memsWf_touchShard (memsWf_same h rfl rfl rfl)

theorem memsWf_atTarget {s n f pa ev k} (h : memsWf s) (hk : ∀ t, memsWf t → memsWf (k t)) : NextMems (atTarget s n f pa ev k) := by
  unfold atTarget
  split
  · exact memsWf_pushEv h
  · exact memsWf_receiveFlit h (fun _ hs => (hk _ hs))

theorem memsWf_execWrite {nbr flit s} (h : memsWf s) : NextMems (execWrite nbr flit s) := by
  unfold execWrite
  dsimp only
  refine memsWf_atTarget h (fun _ hs => ?_)
  split
  · exact memsWf_peerWrite hs
  · exact memsWf_inBegin hs

theorem memsWf_chunkDone {s n f x bs} (h : memsWf s) : memsWf (chunkDone s n f x bs) := by
  grind -ring -linarith [chunkDone, memsWf_chunkStops, memsWf_plateReport, memsWf_sendNak, memsWf_dropChunk, memsWf_chunkLast,
      memsWf_chunkPump, memsWf_sendAck, memsWf_proxyAccess, memsWf_hbmFresh, memsWf_hbmWrite, memsWf_iff]

theorem memsWf_execData {nbr flit s} (h : memsWf s) : NextMems (execData nbr flit s) := by
  unfold execData
  split
  · exact memsWf_receiveFlit h (fun _ hs => hs)
  · refine memsWf_atTarget h (fun _ hs => ?_)
    dsimp only
    split
    · exact hs
    · split
      · exact memsWf_inMore hs
      · split
        · exact memsWf_chunkDone (memsWf_dropIn hs)
        · exact memsWf_peerWrite (memsWf_dropIn hs)

theorem memsWf_execLoadreq {nbr flit s} (h : memsWf s) : NextMems (execLoadreq nbr flit s) := by
  grind -ring -linarith [execLoadreq, NextMems, memsWf_atTarget, memsWf_sendNak, memsWf_egressBad, memsWf_proxyAccess, memsWf_sendAnswer]

theorem memsWf_peerAtomic {s nbr f} (h : memsWf s) : memsWf (peerAtomic s nbr f) := by
  grind -ring -linarith [peerAtomic, memsWf_sendNak, memsWf_egressBad, memsWf_sendAnswer, memsWf_proxyAccess, memsWf_hbmWrite]

theorem memsWf_peerCohort {s f bs} (h : memsWf s) : memsWf (peerCohort s f bs) := by
  unfold peerCohort
  dsimp only
  exact memsWf_pushEv (memsWf_bumpId (memsWf_same h rfl rfl rfl))

theorem memsWf_execAmoreq {nbr flit s} (h : memsWf s) : NextMems (execAmoreq nbr flit s) := by
  grind -ring -linarith [execAmoreq, NextMems, memsWf_receiveFlit, memsWf_peerCohort, memsWf_inBegin, memsWf_inMore, memsWf_dropIn,
      memsWf_atTarget, memsWf_peerAtomic]

theorem memsWf_peerStim {s f bs} (h : memsWf s) : memsWf (peerStim s f bs) :=
  memsWf_walkerTakes h

theorem memsWf_execStim {nbr flit s} (h : memsWf s) : NextMems (execStim nbr flit s) := by
  grind -ring -linarith [execStim, NextMems, memsWf_receiveFlit, memsWf_peerStim, memsWf_inBegin, memsWf_inMore, memsWf_dropIn]

theorem memsWf_execPlate {nbr flit s} (h : memsWf s) : NextMems (execPlate nbr flit s) := by
  unfold execPlate
  refine memsWf_receiveFlit h (fun _ hs => ?_)
  dsimp only
  split
  · split
    · split
      · exact memsWf_pushEv hs
      · split
        · refine memsWf_same ?_ rfl rfl rfl
          split
          · exact memsWf_same hs rfl rfl rfl
          · exact hs
        · refine memsWf_inBegin (memsWf_same ?_ rfl rfl rfl)
          split
          · exact memsWf_same hs rfl rfl rfl
          · exact hs
    · split
      · exact memsWf_pushEv hs
      · split
        · refine memsWf_same ?_ rfl rfl rfl
          split
          · exact memsWf_same hs rfl rfl rfl
          · exact hs
        · refine memsWf_inBegin (memsWf_same ?_ rfl rfl rfl)
          split
          · exact memsWf_same hs rfl rfl rfl
          · exact hs
  · split
    · exact memsWf_pushEv hs
    · split
      · refine memsWf_same ?_ rfl rfl rfl
        split
        · exact memsWf_same hs rfl rfl rfl
        · exact hs
      · refine memsWf_inBegin (memsWf_same ?_ rfl rfl rfl)
        split
        · exact memsWf_same hs rfl rfl rfl
        · exact hs

theorem memsWf_dropXfer {s xtag} (h : memsWf s) : memsWf (dropXfer s xtag) := by
  unfold dropXfer
  dsimp only
  exact memsWf_chunkPump (memsWf_distPump (memsWf_stimsOut (memsWf_same h rfl rfl rfl)))

theorem memsWf_dropAccXfers {s acc} (h : memsWf s) : memsWf (dropAccXfers s acc) :=
  memsWf_same h rfl rfl rfl

end Sys2Proof.Machine
end

section
/-! PROOFS. The canonical form of the memories is kept: transfers, links, leases and fabrics, Gravers -/

namespace Sys2Proof.Machine

theorem memsWf_partGot {s x acc bs} (h : memsWf s) : memsWf (partGot s x acc bs) := by
  unfold partGot
  dsimp only
  split
  · exact memsWf_modAcc (memsWf_dropXfer h)
  · exact memsWf_pushEv (memsWf_modAcc (memsWf_dropXfer h))

theorem memsWf_lineGiven {s x acc line stale bs} (h : memsWf s) : memsWf (lineGiven s x acc line stale bs) := by
  unfold lineGiven
  dsimp only
  split
  · exact memsWf_partGot h
  · exact memsWf_modGroup (memsWf_partGot h)

theorem memsWf_execLoadrsp {nbr flit s} (h : memsWf s) : NextMems (execLoadrsp nbr flit s) := by
  grind -ring -linarith [execLoadrsp, NextMems, memsWf_receiveFlit, memsWf_partGot, memsWf_lineGiven, memsWf_dropXfer, memsWf_iff]

theorem memsWf_execAmorsp {nbr flit s} (h : memsWf s) : NextMems (execAmorsp nbr flit s) := by
  unfold execAmorsp
  refine memsWf_receiveFlit h (fun _ hs => ?_)
  dsimp only
  split
  · exact hs
  · split
    · exact memsWf_partGot hs
    · split
      · exact memsWf_dropXfer hs
      · exact memsWf_cohAnswered (memsWf_same (memsWf_dropXfer hs) rfl rfl rfl)
    · exact hs

theorem memsWf_xferAcked {s x} (h : memsWf s) : memsWf (xferAcked s x) := by
  grind -ring -linarith [xferAcked, memsWf_settle, memsWf_accDone, memsWf_answerDone, memsWf_distAccepted, memsWf_dropChunk, memsWf_iff]

theorem memsWf_xferSeen {s x} (h : memsWf s) : memsWf (xferSeen s x) := by
  unfold xferSeen
  split
  · split
    · exact h
    · exact memsWf_same h rfl rfl rfl
  · exact h

theorem memsWf_execAck {nbr flit s} (h : memsWf s) : NextMems (execAck nbr flit s) := by
  grind -ring -linarith [execAck, NextMems, memsWf_receiveFlit, memsWf_xferSeen, memsWf_dropXfer, memsWf_xferAcked, memsWf_iff]

theorem memsWf_accFails {s x acc cause aux} (h : memsWf s) : memsWf (accFails s x acc cause aux) := by
  grind -ring -linarith [accFails, memsWf_dropAccXfers, memsWf_accFault, memsWf_modAcc, memsWf_iff]

theorem memsWf_unitFails {s owner cause aux pa} (h : memsWf s) : memsWf (unitFails s owner cause aux pa) :=
  memsWf_same h rfl rfl rfl

theorem memsWf_xferFails {s x cause frev} (h : memsWf s) : memsWf (xferFails s x cause frev) := by
  grind -ring -linarith [xferFails, memsWf_accFails, memsWf_dropXfer, memsWf_unitFails, memsWf_fireFault, memsWf_closeReply,
      memsWf_stimLost, memsWf_cohRefused, memsWf_distStops, memsWf_chunkStops, memsWf_dropChunk, memsWf_w4Refused, memsWf_iff]

theorem memsWf_execNak {nbr flit s} (h : memsWf s) : NextMems (execNak nbr flit s) := by
  grind -ring -linarith [execNak, NextMems, memsWf_receiveFlit, memsWf_xferFails]

theorem memsWf_execRemoteTimeout {s} (h : memsWf s) : NextMems (execRemoteTimeout s) := by
  grind -ring -linarith [execRemoteTimeout, NextMems, memsWf_chunkPump, memsWf_distPump, memsWf_stimsOut, memsWf_foldl, memsWf_xferFails,
      memsWf_pushEvOnce]

theorem memsWf_execFlitTransit {nbr flit s} (h : memsWf s) : NextMems (execFlitTransit nbr flit s) :=
  memsWf_receiveFlit h (fun _ hs => hs)

theorem memsWf_execReservedTypeFlit {nbr pilot flit s} (h : memsWf s) : NextMems (execReservedTypeFlit nbr pilot flit s) := by
  grind -ring -linarith [execReservedTypeFlit, NextMems, OptMems, memsWf_modLink, memsWf_linkTake, memsWf_bufferFreed]

theorem memsWf_execLinkctl {nbr flit s} (h : memsWf s) : NextMems (execLinkctl nbr flit s) := by
  unfold execLinkctl
  split
  · exact h
  · dsimp only
    exact memsWf_linkPump (memsWf_setLink h)

theorem memsWf_execReplayTimeout {s} (h : memsWf s) : NextMems (execReplayTimeout s) := by
  grind -ring -linarith [execReplayTimeout, NextMems, memsWf_pushEvOnce, memsWf_foldl, memsWf_linkReplay]

theorem memsWf_execLinkctlBeacon {s} (h : memsWf s) : NextMems (execLinkctlBeacon s) := by
  grind -ring -linarith [execLinkctlBeacon, NextMems, memsWf_foldl, memsWf_sendLinkctl, memsWf_pushEvOnce]

theorem memsWf_execShardWatchExpiry {kind obj s} (h : memsWf s) : NextMems (execShardWatchExpiry kind obj s) := by
  unfold execShardWatchExpiry
  split
  · exact h
  · dsimp only
    split
    · exact memsWf_same h rfl rfl rfl
    · split
      · split
        · exact memsWf_pushEvOnce h
        · refine memsWf_pushEvOnce ?_
          split
          · exact memsWf_tenRecord (memsWf_same h rfl rfl rfl)
          · exact memsWf_pfEvent (memsWf_same h rfl rfl rfl)
      · split
        · split
          · exact memsWf_pushEvOnce h
          · refine memsWf_pushEvOnce ?_
            split
            · exact memsWf_tenRecord (memsWf_same h rfl rfl rfl)
            · exact memsWf_pfEvent (memsWf_same h rfl rfl rfl)
        · split
          · exact memsWf_pushEvOnce h
          · refine memsWf_pushEvOnce ?_
            split
            · exact memsWf_tenRecord (memsWf_same h rfl rfl rfl)
            · exact memsWf_pfEvent (memsWf_same h rfl rfl rfl)

theorem memsWf_litFell {s} (h : memsWf s) : memsWf (litFell s) := by
  grind -ring -linarith [litFell, memsWf_foldl, memsWf_sendPilot, memsWf_pushEvOnce, memsWf_iff]

theorem memsWf_retiresDone {s} (h : memsWf s) : memsWf (retiresDone s) := by
  unfold retiresDone
  dsimp only
  refine memsWf_foldl (fun _ hs _ => ?_) (memsWf_same h rfl rfl rfl)
  split
  · exact hs
  · exact memsWf_settle (memsWf_answer hs)

theorem memsWf_stripeAsk {s n live lost els} (h : memsWf s) : memsWf (stripeAsk s n live lost els) := by
  unfold stripeAsk
  dsimp only
  exact memsWf_sendPilot (memsWf_setLink h)

theorem memsWf_stripeReplay {s n} (h : memsWf s) : memsWf (stripeReplay s n) := by
  unfold stripeReplay
  dsimp only
  split
  · exact h
  · exact memsWf_linkReplay h

theorem memsWf_stripeNext {s n} (h : memsWf s) : memsWf (stripeNext s n) := by
  grind -ring -linarith [stripeNext, memsWf_stripeAsk]

theorem memsWf_stripeSwitch {s n epoch live lost e} (h : memsWf s) : memsWf (stripeSwitch s n epoch live lost e) := by
  unfold stripeSwitch
  dsimp only
  refine memsWf_stripeNext ?_
  split
  · exact memsWf_stripeReplay (memsWf_pushEvs (memsWf_retiresDone (memsWf_devCount (memsWf_modLink (memsWf_setWaves (memsWf_setWaves
        (memsWf_setWaves h)))))))
  · exact memsWf_pushEvOnce (memsWf_litFell (memsWf_pfEvent (memsWf_pushEvs (memsWf_retiresDone (memsWf_devCount (memsWf_modLink
        (memsWf_setWaves (memsWf_setWaves (memsWf_setWaves h)))))))))

theorem memsWf_execRestripe {nbr flit s} (h : memsWf s) : NextMems (execRestripe nbr flit s) := by
  grind -ring -linarith [execRestripe, NextMems, memsWf_pushEvOnce, memsWf_setLink, memsWf_stripeSwitch, memsWf_sendPilot]

theorem memsWf_grantDrops {s n js} (h : memsWf s) : memsWf (grantDrops s n js) := by
  unfold grantDrops
  dsimp only
  exact memsWf_modLink (memsWf_setWaves h)

theorem memsWf_execLossOfLight {nbr lost els s} (h : memsWf s) : NextMems (execLossOfLight nbr lost els s) := by
  grind -ring -linarith [execLossOfLight, NextMems, memsWf_litFell, memsWf_retiresDone, memsWf_linkDown, memsWf_grantDrops,
      memsWf_sendPilot, memsWf_stripeNext, memsWf_modLink]

theorem memsWf_execRealignComplete {nbr s} (h : memsWf s) : NextMems (execRealignComplete nbr s) := by
  grind -ring -linarith [execRealignComplete, NextMems, memsWf_pushEvOnce, memsWf_linkPump, memsWf_linkReplay, memsWf_setLink]

theorem memsWf_execWavelengthLocked {j s} (h : memsWf s) : NextMems (execWavelengthLocked j s) := by
  grind -ring -linarith [execWavelengthLocked, NextMems, memsWf_pushEv, memsWf_stripeNext, memsWf_modLink]

theorem memsWf_execWavelengthDark {j s} (h : memsWf s) : NextMems (execWavelengthDark j s) := by
  unfold execWavelengthDark
  split
  · exact h
  · exact memsWf_litFell (memsWf_setWave h)

theorem memsWf_execLightRestored {j s} (h : memsWf s) : NextMems (execLightRestored j s) := by
  grind -ring -linarith [execLightRestored, NextMems, memsWf_pfEvent, memsWf_setWave, memsWf_pushEvOnce]

theorem memsWf_leaseAsk {m ts s illegal allowed denied go} (h : memsWf s) (hgo : ∀ t, memsWf t → ∀ v, ∀ w, ∀ z, memsWf (go t v w z)) :
    NextMems (leaseAsk m ts s illegal allowed denied go) := by
  grind -ring -linarith [leaseAsk, NextMems, memsWf_onRequest, memsWf_fireFault, memsWf_answer, memsWf_openReply]

theorem memsWf_execLeaseReq {f t u s} (h : memsWf s) : NextMems (execLeaseReq f t u s) :=
  memsWf_leaseAsk h (fun _ hs _ _ _ => (memsWf_pushEvOnce (memsWf_pushEvOnce (memsWf_bumpId (memsWf_same hs rfl rfl rfl)))))

theorem memsWf_leaseDrop {s n k r} (h : memsWf s) : memsWf (leaseDrop s n k r) := by
  unfold leaseDrop
  dsimp only
  exact memsWf_stripeNext (memsWf_retiresDone (memsWf_same h rfl rfl rfl))

theorem memsWf_execLeaseGive {f t u s} (h : memsWf s) : NextMems (execLeaseGive f t u s) :=
  memsWf_leaseAsk h (fun _ hs _ _ _ => (memsWf_leaseDrop hs))

theorem memsWf_execLeaseRev {f t u s} (h : memsWf s) : NextMems (execLeaseRev f t u s) :=
  memsWf_leaseAsk h (fun _ hs _ _ _ => (memsWf_leaseDrop hs))

theorem memsWf_execLeaseQ {f t u s} (h : memsWf s) : NextMems (execLeaseQ f t u s) := by
  unfold execLeaseQ
  refine memsWf_onRequest h (fun _ => ?_)
  dsimp only
  split
  · exact memsWf_fireFault h
  · exact memsWf_answer (memsWf_openReply h)

theorem memsWf_modLease {s id f} (h : memsWf s) : memsWf (modLease s id f) :=
  memsWf_same h rfl rfl rfl

theorem memsWf_leaseServe {s q} (h : memsWf s) : memsWf (leaseServe s q) := by
  unfold leaseServe
  dsimp only
  split
  · exact h
  · exact memsWf_sendPilot (memsWf_modLease h)

theorem memsWf_execLeaseArbitrate {s} (h : memsWf s) : NextMems (execLeaseArbitrate s) := by
  unfold execLeaseArbitrate
  split
  · exact h
  · exact memsWf_foldl (fun _ hs _ => (memsWf_leaseServe hs)) h

theorem memsWf_leaseGrant {s n m} (h : memsWf s) : memsWf (leaseGrant s n m) := by
  unfold leaseGrant
  dsimp only
  exact memsWf_sendPilot (memsWf_pushEvs (memsWf_modLink (memsWf_setWaves h)))

theorem memsWf_leaseGranted {s n m} (h : memsWf s) : memsWf (leaseGranted s n m) := by
  grind -ring -linarith [leaseGranted, memsWf_setWaves, memsWf_pushEvOnce, memsWf_settle, memsWf_answer, memsWf_pushEvs, memsWf_modLink,
      memsWf_modLease, memsWf_iff]

theorem memsWf_execLease {nbr flit s} (h : memsWf s) : NextMems (execLease nbr flit s) := by
  grind -ring -linarith [execLease, NextMems, memsWf_leaseGrant, memsWf_leaseGranted, memsWf_pushEvOnce, memsWf_stripeNext,
      memsWf_litFell, memsWf_grantDrops, memsWf_iff]

theorem memsWf_execLeaseAgeExpiry {s} (h : memsWf s) : NextMems (execLeaseAgeExpiry s) := by
  grind -ring -linarith [execLeaseAgeExpiry, NextMems, memsWf_pushEvOnce, memsWf_leaseDrop]

theorem memsWf_setFabricState {s v} (h : memsWf s) : memsWf (setFabricState s v) :=
  memsWf_csrPoke h

theorem memsWf_setFabricErr {s v} (h : memsWf s) : memsWf (setFabricErr s v) :=
  memsWf_csrPoke h

theorem memsWf_fabricRefused {s} (h : memsWf s) : memsWf (fabricRefused s) :=
  memsWf_pfEvent (memsWf_setFabricErr h)

theorem memsWf_withImage {s again go} (h : memsWf s) (hgo : ∀ t, memsWf t → ∀ v, memsWf (go t v)) : memsWf (withImage s again go) := by
  unfold withImage
  refine memsWf_ite (memsWf_setFabricErr h) (memsWf_ite (memsWf_pushEv h) ?_)
  split
  · exact memsWf_setFabricErr (memsWf_pfEvent h)
  · exact memsWf_ite (memsWf_setFabricErr h) (hgo _ (memsWf_setFabricErr h) _)

theorem memsWf_lightPilot {f s n keep} (h : memsWf s) : memsWf (lightPilot f s n keep) := by
  unfold lightPilot
  dsimp only
  exact memsWf_modLink (memsWf_setWaves h)

theorem memsWf_execFabricLoad {s} (h : memsWf s) : NextMems (execFabricLoad s) := by
  unfold execFabricLoad
  split
  · exact memsWf_fabricRefused h
  · exact memsWf_withImage h (fun _ hs _ => (memsWf_pushEvOnce (memsWf_foldl (fun _ ht _ => (memsWf_lightPilot ht)) (memsWf_same hs rfl
        rfl rfl))))

theorem memsWf_execPilotsLocked {s} (h : memsWf s) : NextMems (execPilotsLocked s) := by
  grind -ring -linarith [execPilotsLocked, NextMems, memsWf_pushEv, memsWf_pushEvOnce, memsWf_foldl, memsWf_linkPump,
      memsWf_setFabricState, memsWf_modLink, memsWf_setWaves]

theorem memsWf_execFabricReconfigure {s} (h : memsWf s) : NextMems (execFabricReconfigure s) := by
  unfold execFabricReconfigure
  split
  · exact memsWf_fabricRefused h
  · exact memsWf_withImage h (fun _ hs _ => (memsWf_pushEvOnce (memsWf_foldl (fun _ ht _ => (memsWf_sendPilot (memsWf_modLink ht)))
        (memsWf_setFabricState (memsWf_same hs rfl rfl rfl)))))

theorem memsWf_execDrain {nbr flit s} (h : memsWf s) : NextMems (execDrain nbr flit s) := by
  grind -ring -linarith [execDrain, NextMems, memsWf_modLink, memsWf_sendPilot]

theorem memsWf_retiresEnd {s n} (h : memsWf s) : memsWf (retiresEnd s n) := by
  unfold retiresEnd
  refine memsWf_foldl (fun _ hs _ => ?_) (memsWf_same h rfl rfl rfl)
  split
  · exact hs
  · exact memsWf_settle (memsWf_answer hs)

theorem memsWf_execReconfDrainDone {s} (h : memsWf s) : NextMems (execReconfDrainDone s) := by
  grind -ring -linarith [execReconfDrainDone, NextMems, memsWf_pushEv, memsWf_setFabricState, memsWf_litFell, memsWf_foldl,
      memsWf_retiresEnd, memsWf_modLink, memsWf_setWaves, memsWf_iff]

theorem memsWf_reroute {s o} (h : memsWf s) : memsWf (reroute s o) := by
  grind -ring -linarith [reroute, memsWf_sendFrom, memsWf_xferFails, memsWf_discardFlit]

theorem memsWf_leaseGone {s} (h : memsWf s) : memsWf (leaseGone s) := by
  unfold leaseGone
  dsimp only
  refine memsWf_foldl (fun _ hs _ => ?_) (memsWf_same h rfl rfl rfl)
  split
  · exact memsWf_takeFault hs
  · exact memsWf_fireFault (memsWf_closeReply hs)

theorem memsWf_execFabricResume {s} (h : memsWf s) : NextMems (execFabricResume s) := by
  grind -ring -linarith [execFabricResume, NextMems, memsWf_fabricRefused, memsWf_pushEvOnce, memsWf_leaseGone, memsWf_foldl,
      memsWf_reroute, memsWf_setFabricState, memsWf_lightPilot, memsWf_setLink, memsWf_buffersForgotten, memsWf_iff]

theorem memsWf_modOpAny {s p id f} (h : memsWf s) : memsWf (modOpAny s p id f) :=
  memsWf_modPress h

theorem memsWf_gvMade {s o c} (h : memsWf s) : memsWf (gvMade s o c) :=
  memsWf_modCtx h

theorem memsWf_gvIndexed {s p o x bound} (h : memsWf s) : memsWf (gvIndexed s p o x bound) := by
  grind -ring -linarith [gvIndexed, memsWf_opFault, memsWf_settle, memsWf_opGone, memsWf_gvMade, memsWf_modCtx]

theorem memsWf_gvConfigure {s p o x desc ind} (h : memsWf s) : memsWf (gvConfigure s p o x desc ind) := by
  unfold gvConfigure
  refine memsWf_opThen (memsWf_engGot (memsWf_engFetch h)) (fun _ hs _ => ?_)
  dsimp only
  split
  · exact memsWf_opFault hs
  · refine memsWf_opThen (memsWf_engGot (memsWf_tensorRead hs)) (fun _ ht _ => ?_)
    split
    · exact memsWf_opFault ht
    · split
      · exact memsWf_settle (memsWf_opAgain (memsWf_modOp (memsWf_answer (memsWf_modCtx ht))))
      · exact memsWf_settle (memsWf_answer (memsWf_opGone (memsWf_gvMade ht)))

theorem memsWf_gvRead {s x o c iter e} (h : memsWf s) : memsWf (gvRead s x o c iter e).1 := by
  grind -ring -linarith [gvRead, memsWf_engRead]

theorem memsWf_gvWrite {s x o c iter e v sb} (h : memsWf s) : memsWf (gvWrite s x o c iter e v sb).1 := by
  grind -ring -linarith [gvWrite, memsWf_offend, memsWf_sinkBits, memsWf_engWrite]

theorem memsWf_gvDone {s p o c} (h : memsWf s) : memsWf (gvDone s p o c) :=
  memsWf_settle (memsWf_answer (memsWf_opGone h))

theorem memsWf_gvReads {n s x o c start e} (h : memsWf s) : memsWf (gvReads n s x o c start e).1 := by
  unfold gvReads
  split
  · exact h
  · split
    · dsimp only
      exact memsWf_gvReads (memsWf_fst (memsWf_gvRead h) ‹_›)
    · exact memsWf_fst (memsWf_gvRead h) ‹_›
    · exact memsWf_fst (memsWf_gvRead h) ‹_›

theorem memsWf_gvLoad {s p o x c start} (h : memsWf s) : memsWf (gvLoad s p o x c start) := by
  unfold gvLoad
  refine memsWf_opThen (memsWf_modOp (memsWf_ite (memsWf_sendTokens (memsWf_gvReads h)) (memsWf_gvReads h))) (fun _ hs _ => ?_)
  exact memsWf_ite (memsWf_opAgain hs) (memsWf_settle (memsWf_closeReply (memsWf_sendTokens (memsWf_opGone hs))))

theorem memsWf_fillWrites {s p o x k again go} (h : memsWf s) (hagain : ∀ t, memsWf t → memsWf (again t)) (hgo : ∀ t, memsWf t → memsWf
    (go t)) : memsWf (fillWrites s p o x k again go) := by
  grind -ring -linarith [fillWrites, memsWf_opFault]

theorem memsWf_gvFill {s p o x c start} (h : memsWf s) : memsWf (gvFill s p o x c start) := by
  unfold gvFill
  split
  · exact memsWf_gvDone h
  · split
    · exact memsWf_gvDone h
    · split
      · dsimp only
        split
        · exact memsWf_opAgain h
        · exact memsWf_opAgain (memsWf_modOp (memsWf_modRing (memsWf_slotFill h)))
      · dsimp only
        exact memsWf_opThen (memsWf_modOp (memsWf_gvReads h)) (fun _ hs _ => (memsWf_fillWrites hs (fun _ ht => memsWf_opAgain ht) (fun _
            ht => (memsWf_opAgain (memsWf_modOp (memsWf_slotState (memsWf_sinkBits (memsWf_offend (memsWf_sramFresh (memsWf_slotWrite _ _
                _ _ _ ht))))))))))

theorem memsWf_gvStores {n s p o x c s0 j t done} (h : memsWf s) (hdone : ∀ t, memsWf t → memsWf (done t)) : memsWf (gvStores n s p o x c
    s0 j t done) := by
  unfold gvStores
  split
  · exact hdone _ h
  · dsimp only
    split
    · exact memsWf_gvStores (memsWf_modOp h) (fun _ hs => (hdone _ hs))
    · exact memsWf_opThen (memsWf_gvWrite h) (fun _ hs _ => (memsWf_gvStores (memsWf_modOp hs) (fun _ ht => (hdone _ ht))))

theorem memsWf_gvStore {s p o x c} (h : memsWf s) : memsWf (gvStore s p o x c) := by
  unfold gvStore
  dsimp only
  split
  · split
    · exact memsWf_opAgain (memsWf_modOp h)
    · exact memsWf_opFault h
  · split
    · refine memsWf_gvStores h (fun _ hs => ?_)
      split
      · exact hs
      · exact memsWf_opAgain (memsWf_modOp hs)
    · split
      · exact memsWf_opAgain h
      · split
        · exact memsWf_opFault h
        · split
          · exact memsWf_opFault h
          · split
            · exact memsWf_opFault h
            · exact memsWf_opSettled h (fun _ hs => memsWf_gvDone hs)

theorem memsWf_gvSpill {n s p o x c start done} (h : memsWf s) (hdone : ∀ t, memsWf t → memsWf (done t)) : memsWf (gvSpill n s p o x c
    start done) := by
  unfold gvSpill
  split
  · exact hdone _ h
  · dsimp only
    exact memsWf_opThen (memsWf_gvWrite h) (fun _ hs _ => (memsWf_gvSpill (memsWf_modOp hs) (fun _ ht => (hdone _ ht))))

theorem memsWf_gvDrain {s p o x c start} (h : memsWf s) : memsWf (gvDrain s p o x c start) := by
  unfold gvDrain
  split
  · exact memsWf_opSettled h (fun _ hs => memsWf_gvDone hs)
  · split
    · exact memsWf_gvDone h
    · split
      · dsimp only
        split
        · exact memsWf_opAgain h
        · exact memsWf_opThen (memsWf_engGot (memsWf_engFetch h)) (fun _ hs _ => (memsWf_opAgain (memsWf_modOp hs)))
      · dsimp only
        split
        · exact memsWf_opAgain h
        · exact memsWf_gvSpill h (fun _ hs => (memsWf_opAgain (memsWf_modOp (memsWf_modRing (memsWf_slotState hs)))))

theorem memsWf_gvRun {s p o x st cfg start} (h : memsWf s) : memsWf (gvRun s p o x st cfg start) := by
  unfold gvRun
  split
  · split
    · split
      · exact memsWf_settle (memsWf_answer (memsWf_opGone h))
      · exact memsWf_opFault h
    · dsimp only
      exact memsWf_opAgain (memsWf_modOp (memsWf_modCtx h))
  · split
    · split
      · exact memsWf_gvDrain h
      · exact memsWf_gvStore h
    · split
      · exact memsWf_gvFill h
      · exact memsWf_gvLoad h

theorem memsWf_execGraverStream {id s} (h : memsWf s) : NextMems (execGraverStream id s) := by
  grind -ring -linarith [execGraverStream, NextMems, memsWf_withOp, memsWf_gvConfigure, memsWf_opAgain, memsWf_gvIndexed, memsWf_gvRun]

theorem memsWf_gvAsk {f tid t g ind s w} (h : memsWf s) : memsWf (gvAsk f tid t g ind s w) := by
  grind -ring -linarith [gvAsk, memsWf_fireFault, memsWf_queueOp]

theorem memsWf_execGvAff {f tid t g s} (h : memsWf s) : NextMems (execGvAff f tid t g s) :=
  memsWf_onFire h (fun _ _ => (memsWf_passEosAfter h)) (fun _ => (memsWf_nullsUnless h)) (fun _ => (memsWf_gvAsk h))

theorem memsWf_indexWait {s w x} (h : memsWf s) : memsWf (indexWait s w x) := by
  unfold indexWait
  dsimp only
  exact memsWf_setStream h

theorem memsWf_indexGive {s c inst} (h : memsWf s) : memsWf (indexGive s c inst) := by
  unfold indexGive
  split
  · dsimp only
    exact memsWf_modOpAny (memsWf_setStream h)
  · exact h

theorem memsWf_indexToken {s w} (h : memsWf s) : memsWf (indexToken s w) := by
  grind -ring -linarith [indexToken, memsWf_fireFault, memsWf_modOpAny, memsWf_indexWait]

theorem memsWf_execGvInd {f tid t g s} (h : memsWf s) : NextMems (execGvInd f tid t g s) := by
  grind -ring -linarith [execGvInd, NextMems, memsWf_indexGive, memsWf_indexToken, memsWf_onFire, memsWf_passEosAfter,
      memsWf_nullsUnless, memsWf_gvAsk]

theorem memsWf_goStream {s f t q w} (h : memsWf s) : memsWf (goStream s f t q w) := by
  grind -ring -linarith [goStream, memsWf_waitFor, memsWf_fireFault, memsWf_modOpAny, memsWf_enqueue, memsWf_bumpId, memsWf_openReply]

theorem memsWf_execGvGo {f t g s} (h : memsWf s) : NextMems (execGvGo f t g s) := by
  grind -ring -linarith [execGvGo, NextMems, memsWf_goStream, memsWf_onFire, memsWf_passEosAfter, memsWf_nullsUnless, memsWf_fireFault,
      memsWf_queueOp]

theorem memsWf_execAnd {f t u r s} (h : memsWf s) : NextMems (execAnd f t u r s) :=
  memsWf_compute h

theorem memsWf_execOr {f t u r s} (h : memsWf s) : NextMems (execOr f t u r s) :=
  memsWf_compute h

theorem memsWf_execXor {f t u r s} (h : memsWf s) : NextMems (execXor f t u r s) :=
  memsWf_compute h

theorem memsWf_execAndn {f t u r s} (h : memsWf s) : NextMems (execAndn f t u r s) :=
  memsWf_compute h

theorem memsWf_execOrn {f t u r s} (h : memsWf s) : NextMems (execOrn f t u r s) :=
  memsWf_compute h

theorem memsWf_execXnor {f t u r s} (h : memsWf s) : NextMems (execXnor f t u r s) :=
  memsWf_compute h

theorem memsWf_execShl {f t u r s} (h : memsWf s) : NextMems (execShl f t u r s) :=
  memsWf_compute h

theorem memsWf_execShr {f t u r s} (h : memsWf s) : NextMems (execShr f t u r s) :=
  memsWf_compute h

theorem memsWf_execSar {f t u r s} (h : memsWf s) : NextMems (execSar f t u r s) :=
  memsWf_compute h

theorem memsWf_execRotl {f t u r s} (h : memsWf s) : NextMems (execRotl f t u r s) :=
  memsWf_compute h

theorem memsWf_execPopc {f t u r s} (h : memsWf s) : NextMems (execPopc f t u r s) :=
  memsWf_compute h

theorem memsWf_execClz {f t u r s} (h : memsWf s) : NextMems (execClz f t u r s) :=
  memsWf_compute h

theorem memsWf_execCtz {f t u r s} (h : memsWf s) : NextMems (execCtz f t u r s) :=
  memsWf_compute h

theorem memsWf_execBrev {f t u r s} (h : memsWf s) : NextMems (execBrev f t u r s) :=
  memsWf_compute h

theorem memsWf_shareTurn {s p ten} (h : memsWf s) : OptMems (shareTurn s p ten) := by
  unfold shareTurn
  cases (List.range 68).find? fun k => shareNs s p ten (s.now + k) with
  | none => trivial
  | some k => exact memsWf_same h rfl rfl rfl

theorem memsWf_opPart {s p o off n rd go} (h : memsWf s) (hrd : ∀ t, memsWf t → memsWf (rd t).1) (hgo : ∀ t, memsWf t → ∀ v, ∀ w, memsWf
    (go t v w)) : memsWf (opPart s p o off n rd go) := by
  unfold opPart
  split
  · exact hgo _ h _ _
  · exact memsWf_opThen (hrd _ h) (fun _ hs _ => (hgo _ (memsWf_modOp hs) _ _))

theorem memsWf_tensorBytes {s x owner tid} (h : memsWf s) : memsWf (tensorBytes s x owner tid).1 := by
  unfold tensorBytes
  split
  · exact memsWf_fst (memsWf_engGot (memsWf_tensorRead h)) ‹_›
  · exact memsWf_fst (memsWf_engGot (memsWf_tensorRead h)) ‹_›
  · exact memsWf_fst (memsWf_engGot (memsWf_tensorRead h)) ‹_›

theorem memsWf_mxNothing {s p o} (h : memsWf s) : memsWf (mxNothing s p o) :=
  memsWf_settle (memsWf_answer (memsWf_opGone h))

theorem memsWf_mxRefuse {s p o cause desc} (h : memsWf s) : memsWf (mxRefuse s p o cause desc) := by
  unfold mxRefuse
  split
  · exact memsWf_mxNothing h
  · exact memsWf_opFault h

theorem memsWf_mxBind {s p u o c} (h : memsWf s) : memsWf (mxBind s p u o c) := by
  unfold mxBind
  dsimp only
  exact memsWf_pushEvOnce (memsWf_modPress h)

theorem memsWf_mxSetup {s p u o x desc} (h : memsWf s) : memsWf (mxSetup s p u o x desc) := by
  unfold mxSetup
  refine memsWf_opPart h (fun _ hs => (memsWf_engGot (memsWf_engFetch hs))) (fun _ hs _ _ => ?_)
  dsimp only
  split
  · exact memsWf_mxRefuse hs
  · split
    · split
      · split
        · exact memsWf_mxRefuse hs
        · refine memsWf_opPart hs (fun _ ht => memsWf_tensorBytes ht) (fun _ ht _ _ => ?_)
          split
          · exact memsWf_mxRefuse ht
          · refine memsWf_opPart ht (fun _ hu => ?_) (fun _ hu _ _ => ?_)
            · split
              · exact memsWf_tensorBytes hu
              · exact hu
            · split
              · exact memsWf_mxRefuse hu
              · refine memsWf_opPart hu (fun _ hv => ?_) (fun _ hv _ _ => ?_)
                · split
                  · exact hv
                  · exact memsWf_tensorBytes hv
                · refine memsWf_opPart hv (fun _ hw' => ?_) (fun _ hw' _ _ => ?_)
                  · split
                    · exact memsWf_engRead hw'
                    · exact hw'
                  · refine memsWf_opPart hw' (fun _ h480 => ?_) (fun _ h500 _ _ => (memsWf_mxBind h500))
                    split
                    · exact memsWf_engRead h480
                    · exact h480
      · split
        · exact memsWf_mxRefuse hs
        · refine memsWf_opPart hs (fun _ ht => memsWf_tensorBytes ht) (fun _ ht _ _ => ?_)
          split
          · exact memsWf_mxRefuse ht
          · refine memsWf_opPart ht (fun _ hu => ?_) (fun _ hu _ _ => ?_)
            · split
              · exact memsWf_tensorBytes hu
              · exact hu
            · split
              · exact memsWf_mxRefuse hu
              · refine memsWf_opPart hu (fun _ hv => ?_) (fun _ hv _ _ => ?_)
                · split
                  · exact hv
                  · exact memsWf_tensorBytes hv
                · refine memsWf_opPart hv (fun _ hw' => ?_) (fun _ hw' _ _ => ?_)
                  · split
                    · exact memsWf_engRead hw'
                    · exact hw'
                  · refine memsWf_opPart hw' (fun _ h480 => ?_) (fun _ h500 _ _ => (memsWf_mxBind h500))
                    split
                    · exact memsWf_engRead h480
                    · exact h480
    · exact memsWf_mxRefuse hs

end Sys2Proof.Machine
end

section
/-! PROOFS. The canonical form of the memories is kept: matrix operations, faults and dispositions, Proofs, and the step -/

namespace Sys2Proof.Machine

theorem memsWf_modUnit {s p u f} (h : memsWf s) : memsWf (modUnit s p u f) :=
  memsWf_modPress h

theorem memsWf_execMxConfigure {p u s} (h : memsWf s) : NextMems (execMxConfigure p u s) := by
  grind -ring -linarith [execMxConfigure, NextMems, memsWf_pushEvOnce, memsWf_withOp, memsWf_mxSetup]

theorem memsWf_unitFault {s p u b cause i again} (h : memsWf s) : memsWf (unitFault s p u b cause i again) := by
  unfold unitFault
  dsimp only
  exact memsWf_modUnit (memsWf_takeFault h)

theorem memsWf_scalesRead {s x b j ts} (h : memsWf s) : memsWf (scalesRead s x b j ts).1 := by
  induction ts generalizing s j with
  | nil => exact h
  | cons t r ih =>
    have hrest : ∀ u (e : Option (List Byte)), memsWf u → memsWf (match scalesRead u x b (j + 1) r with
        | (s1, .ok l) => (s1, EngGot.ok (e :: l))
        | q => q).1 := fun u e hu => by
      split
      · next he => exact memsWf_fst (ih hu) he
      · exact ih hu
    rw [scalesRead]
    dsimp only
    split
    · exact hrest _ _ h
    · split
      · next he =>
        have hs := memsWf_fst (memsWf_engGot (memsWf_engFetch h)) he
        split
        · exact hs
        · exact hrest _ _ hs
      · next he => exact memsWf_fst (memsWf_engGot (memsWf_engFetch h)) he
      · next he => exact memsWf_fst (memsWf_engGot (memsWf_engFetch h)) he

theorem memsWf_ringRelease {s c g r ks} (h : memsWf s) : memsWf (ringRelease s c g r ks) :=
  memsWf_modRing (memsWf_foldl (fun _ hs _ => (memsWf_slotState hs)) h)

theorem memsWf_mxFire {s p u b x q as bs es} (h : memsWf s) : memsWf (mxFire s p u b x q as bs es) := by
  unfold mxFire
  dsimp only
  refine memsWf_pushEvOnce (memsWf_pushEvOnce (memsWf_modUnit (memsWf_modRing (memsWf_slotFill ?_))))
  split
  · exact memsWf_ringRelease (memsWf_ringRelease h)
  · exact memsWf_ringRelease h

theorem memsWf_mxEnd {s p u b} (h : memsWf s) : memsWf (mxEnd s p u b) := by
  unfold mxEnd
  dsimp only
  exact memsWf_foldl (fun _ hs _ => (memsWf_settle (memsWf_answer hs))) (memsWf_pushEvOnce (memsWf_modPress h))

theorem memsWf_execMxFiring {p u s} (h : memsWf s) : NextMems (execMxFiring p u s) := by
  unfold execMxFiring
  split
  · exact h
  · dsimp only
    split
    · exact memsWf_mxEnd h
    · split
      · exact memsWf_pushEvOnce h
      · split
        · split
          · exact memsWf_mxEnd h
          · exact memsWf_pushEvOnce h
        · split
          · exact memsWf_pushEvOnce h
          · split
            · exact memsWf_pushEvOnce h
            · split
              · exact memsWf_pushEvOnce h
              · split
                · exact memsWf_pushEvOnce (OptMems.of_some (memsWf_shareTurn h) ‹_›)
                · exact memsWf_unitFault (OptMems.of_some (memsWf_shareTurn h) ‹_›)
                · split
                  · exact memsWf_pushEvOnce (memsWf_fst (memsWf_scalesRead (OptMems.of_some (memsWf_shareTurn h) ‹_›)) ‹_›)
                  · exact memsWf_unitFault (memsWf_fst (memsWf_scalesRead (OptMems.of_some (memsWf_shareTurn h) ‹_›)) ‹_›)
                  · exact memsWf_mxFire (memsWf_fst (memsWf_scalesRead (OptMems.of_some (memsWf_shareTurn h) ‹_›)) ‹_›)

theorem memsWf_execEpilogueWrite {p u s} (h : memsWf s) : NextMems (execEpilogueWrite p u s) := by
  grind -ring -linarith [execEpilogueWrite, NextMems, memsWf_pushEvOnce, memsWf_unitFault, memsWf_modUnit, memsWf_slotState,
      memsWf_sinkBits, memsWf_offend, memsWf_sramFresh, memsWf_slotWrite]

theorem memsWf_execMxDef {f tid t unit s} (h : memsWf s) : NextMems (execMxDef f tid t unit s) := by
  grind -ring -linarith [execMxDef, NextMems, memsWf_onFire, memsWf_passEosAfter, memsWf_nullsUnless, memsWf_fireFault, memsWf_queueOp]

theorem memsWf_execMxUnbind {f t unit s} (h : memsWf s) : NextMems (execMxUnbind f t unit s) := by
  grind -ring -linarith [execMxUnbind, NextMems, memsWf_onFire, memsWf_passEosAfter, memsWf_sendNulls, memsWf_pushEvOnce, memsWf_modUnit,
      memsWf_openReply, memsWf_answer]

theorem memsWf_invalidateTlbs {s scope ten page} (h : memsWf s) : memsWf (invalidateTlbs s scope ten page) :=
  memsWf_same h rfl rfl rfl

theorem memsWf_invalidating {s l} (h : memsWf s) : memsWf { s with invalidating := l } :=
  memsWf_same h rfl rfl rfl

theorem memsWf_startInvalidation {s scope} (h : memsWf s) : memsWf (startInvalidation s scope) := by
  unfold startInvalidation
  exact memsWf_pushEvOnce (memsWf_invalidating (memsWf_csrPoke h))

theorem memsWf_execTlbInvalidatePage {s} (h : memsWf s) : NextMems (execTlbInvalidatePage s) :=
  memsWf_startInvalidation h

theorem memsWf_execTlbInvalidateTenancy {s} (h : memsWf s) : NextMems (execTlbInvalidateTenancy s) :=
  memsWf_startInvalidation h

theorem memsWf_execTlbInvalidateAll {s} (h : memsWf s) : NextMems (execTlbInvalidateAll s) :=
  memsWf_startInvalidation h

theorem memsWf_execTlbInvalidateDone {s} (h : memsWf s) : NextMems (execTlbInvalidateDone s) := by
  unfold execTlbInvalidateDone
  split
  · exact h
  · dsimp only
    split
    · exact memsWf_pushEvOnce (memsWf_same h rfl rfl rfl)
    · exact memsWf_csrPoke (memsWf_same h rfl rfl rfl)

theorem memsWf_execMigrationComplete {ten va s} (h : memsWf s) : NextMems (execMigrationComplete ten va s) := by
  unfold execMigrationComplete
  split
  · exact h
  · dsimp only
    split
    · exact memsWf_pushEvOnce h
    · split
      · exact memsWf_same (memsWf_dropRemote (memsWf_dropFail h)) rfl rfl rfl
      · split
        · exact memsWf_pushEvOnce (memsWf_fst (memsWf_remoteRead h) ‹_›)
        · exact memsWf_same (memsWf_dropRemote (memsWf_fst (memsWf_remoteRead h) ‹_›)) rfl rfl rfl
        · exact memsWf_pfEvent (memsWf_same (memsWf_hbmPutDbl _ _ _ (memsWf_dropRemote (memsWf_hbmFresh (memsWf_hbmWrite _ _ _
              (memsWf_fst (memsWf_remoteRead h) ‹_›))))) rfl rfl rfl)

theorem memsWf_unbindEndless {s c x} (h : memsWf s) : memsWf (unbindEndless s c x) :=
  memsWf_foldl (fun _ hs _ => (memsWf_pushEvOnce (memsWf_modUnit hs))) h

theorem memsWf_ctxEnds {s c} (h : memsWf s) : memsWf (ctxEnds s c) := by
  grind -ring -linarith [ctxEnds, memsWf_spawnTagFreed, memsWf_turnWake, memsWf_dropCtx, memsWf_addCounts, memsWf_endActor]

theorem memsWf_childEnds {s c x} (h : memsWf s) : memsWf (childEnds s c x) := by
  grind -ring -linarith [childEnds, memsWf_ctxEnds, memsWf_settle, memsWf_answer, memsWf_joinFinal, memsWf_modCtx]

theorem memsWf_childrenEnd {s stp} (h : memsWf s) : memsWf (childrenEnd s stp) := by
  grind -ring -linarith [childrenEnd, memsWf_foldl, memsWf_childEnds, memsWf_unbindEndless]

theorem memsWf_retireRoot {s stp r} (h : memsWf s) : memsWf (retireRoot s stp r) := by
  unfold retireRoot
  dsimp only
  refine memsWf_kickGroup (memsWf_foldl (fun _ hs _ => (memsWf_cardRetired (memsWf_entryTouch (memsWf_modEntry hs)))) (memsWf_devCount
      (memsWf_same (memsWf_ctxEnds (memsWf_plateRelease (memsWf_foldl (fun _ hs _ => (memsWf_sendCompletions hs)) (memsWf_foldl (fun _ hs
          _ => ?_) h)))) rfl rfl rfl)))
  split
  · exact memsWf_releaseStim hs
  · exact memsWf_sinkPut hs

theorem memsWf_flushStaged {s x b} (h : memsWf s) : memsWf (flushStaged s x b) := by
  unfold flushStaged
  refine memsWf_foldl (fun _ hs _ => ?_) h
  dsimp only
  split
  · exact hs
  · exact memsWf_slotState (memsWf_offend (memsWf_sramFresh (memsWf_slotWrite _ _ _ _ _ hs)))

theorem memsWf_drainsEnd {s x l} (h : memsWf s) : memsWf (drainsEnd s x l) := by
  grind -ring -linarith [drainsEnd, memsWf_foldl, memsWf_slotState]

theorem memsWf_performAll {s c} (h : memsWf s) : memsWf (performAll s c) := by
  unfold performAll
  dsimp only
  refine memsWf_foldl (fun _ hs _ => ?_) h
  split
  · exact hs
  · exact memsWf_performAccess hs

theorem memsWf_dropWork {s c x} (h : memsWf s) : memsWf (dropWork s c x) := by
  unfold dropWork
  dsimp only
  refine memsWf_foldl (fun _ hs _ => ?_) (memsWf_setSpawns (memsWf_modPress (memsWf_drainsEnd (memsWf_foldl (fun _ hs _ =>
      (memsWf_flushStaged hs)) (memsWf_same h rfl rfl rfl)))))
  split
  · exact hs
  · exact memsWf_pushEvOnce hs

theorem memsWf_ctxAborts {s c} (h : memsWf s) : memsWf (ctxAborts s c) := by
  unfold ctxAborts
  split
  · exact h
  · dsimp only
    exact memsWf_ctxEnds (memsWf_dropWork (memsWf_performAll (memsWf_setCtx h)))

theorem memsWf_headBack {s r q mask m} (h : memsWf s) : memsWf (headBack s r q mask m) := by
  grind -ring -linarith [headBack, memsWf_pushEvOnce, memsWf_entryTouch, memsWf_modEntry, memsWf_quarantine]

theorem memsWf_abortStep {s stp q mask record} (h : memsWf s) : memsWf (abortStep s stp q mask record) := by
  unfold abortStep
  split
  · exact h
  · next r _ =>
    refine memsWf_ite h (memsWf_kickGroup ?_)
    have hends : memsWf (((s.ctxs.filter fun e => e.2.stp == stp).map (·.1)).foldl ctxAborts s) :=
      memsWf_foldl (fun _ hs _ => memsWf_ctxAborts hs) h
    generalize ((s.ctxs.filter fun e => e.2.stp == stp).map (·.1)).foldl ctxAborts s = s1 at hends ⊢
    have hback : memsWf ((r.members.zipIdx.map fun m => (m.2, m.1)).foldl (fun s m => headBack s r q mask m)
        { s1 with proofs := s1.proofs.filter fun p => (ctxAt s1 p.2.ctx).isSome }) :=
      memsWf_foldl (fun _ hs _ => memsWf_headBack hs) (memsWf_same hends rfl rfl rfl)
    generalize (r.members.zipIdx.map fun m => (m.2, m.1)).foldl (fun s m => headBack s r q mask m)
        { s1 with proofs := s1.proofs.filter fun p => (ctxAt s1 p.2.ctx).isSome } = s3 at hback ⊢
    split
    · exact memsWf_devCount (memsWf_same hback rfl rfl rfl)
    · exact memsWf_tenRecord (memsWf_devCount (memsWf_same hback rfl rfl rfl))

theorem memsWf_execAbort {f q s} (h : memsWf s) : NextMems (execAbort f q s) := by
  unfold execAbort
  refine memsWf_onFire h (fun _ _ => h) (fun _ => h) (fun _ => ?_)
  dsimp only
  split
  · exact h
  · exact memsWf_abortStep h

theorem memsWf_dispose {s ten seq act mask register} (h : memsWf s) : memsWf (dispose s ten seq act mask register) := by
  grind -ring -linarith [dispose, memsWf_dispRefused, memsWf_pushEv, memsWf_abortStep, memsWf_thawSaved, memsWf_thaw, memsWf_iff]

theorem memsWf_execDispositionResume {ten seq s} (h : memsWf s) : NextMems (execDispositionResume ten seq s) :=
  memsWf_dispose h

theorem memsWf_execDispositionAbort {ten seq qmask s} (h : memsWf s) : NextMems (execDispositionAbort ten seq qmask s) :=
  memsWf_dispose h

theorem memsWf_dispRead {s stp r l} (h : memsWf s) : memsWf (dispRead s stp r l).1 := by
  induction l generalizing s with
  | nil => exact h
  | cons e q ih =>
    have hone : ∀ t k, memsWf t → memsWf (match dispRead t stp r q with
        | (s1, some l) => (s1, some ((stimDbl e.2 8 % 2 ^ 24, k) :: l))
        | k => k).1 := fun t k ht => by
      split
      · next he => exact memsWf_fst (ih ht) he
      · exact ih ht
    rw [dispRead]
    dsimp only
    split
    · next he => exact memsWf_fst (memsWf_vaKeep h) he
    · next he => exact hone _ _ (memsWf_fst (memsWf_vaKeep h) he)
    · next he => exact hone _ _ (memsWf_fst (memsWf_vaKeep h) he)

theorem memsWf_dispTake {s ten seq v} (h : memsWf s) : memsWf (dispTake s ten seq v) := by
  unfold dispTake
  split
  · dsimp only
    exact memsWf_eventPut h
  · dsimp only
    split
    · exact h
    · exact memsWf_dispose h

theorem memsWf_rootRetires {s stp} (h : memsWf s) : memsWf (rootRetires s stp) := by
  unfold rootRetires
  split
  · exact h
  · split
    · exact h
    · dsimp only
      split
      · exact memsWf_unbindEndless h
      · split
        · exact memsWf_fst (memsWf_dispRead (memsWf_modStep (memsWf_unbindEndless h))) ‹_›
        · exact memsWf_retireRoot (memsWf_foldl (fun _ hs _ => (memsWf_dispTake hs)) (memsWf_foldl (fun _ hs _ => (memsWf_dropRemote hs))
              (memsWf_fst (memsWf_dispRead (memsWf_modStep (memsWf_unbindEndless h))) ‹_›)))

theorem memsWf_execRetirement {stp s} (h : memsWf s) : NextMems (execRetirement stp s) := by
  unfold execRetirement
  dsimp only
  split
  · exact memsWf_pushEvOnce (memsWf_rootRetires (memsWf_childrenEnd h))
  · exact memsWf_rootRetires (memsWf_childrenEnd h)

theorem memsWf_execPreempt {f s} (h : memsWf s) : NextMems (execPreempt f s) := by
  unfold execPreempt
  refine memsWf_onFire h (fun _ _ => h) (fun _ => (memsWf_nullsUnless h)) (fun _ => ?_)
  split
  · exact memsWf_fireFault h
  · exact h
  · split
    · exact h
    · split
      · exact h
      · split
        · exact memsWf_fireFault h
        · split
          · exact h
          · split
            · exact memsWf_drainStart h
            · exact memsWf_waitFor h

theorem memsWf_execPreemptRequest {s} (h : memsWf s) : NextMems (execPreemptRequest s) := by
  unfold execPreemptRequest
  split
  · exact h
  · exact memsWf_drainStart h

theorem memsWf_proofWrite {s c slot x hold frozen} (h : memsWf s) : memsWf (proofWrite s c slot x hold frozen) := by
  unfold proofWrite
  split
  · exact h
  · dsimp only
    exact memsWf_same (memsWf_hbmFresh (memsWf_hbmWrite _ _ _ (memsWf_hbmFresh (memsWf_hbmWrite _ _ _ (memsWf_hbmFresh (memsWf_hbmWrite _
        _ _ (memsWf_hbmFresh (memsWf_hbmWrite _ _ _ h)))))))) rfl rfl rfl

theorem memsWf_opsAway {s c x} (h : memsWf s) : memsWf (opsAway s c x) := by
  grind -ring -linarith [opsAway, memsWf_foldl, memsWf_modPress, memsWf_pushEvOnce, memsWf_setQueue]

theorem memsWf_cutDone {s c slot x hold} (h : memsWf s) : memsWf (cutDone s c slot x hold) := by
  grind -ring -linarith [cutDone, memsWf_tenRecord, memsWf_spawnTagFreed, memsWf_turnWake, memsWf_setCtx, memsWf_opsAway,
      memsWf_proofWrite, memsWf_pushEvOnce, memsWf_iff]

theorem memsWf_drainStops {s c x} (h : memsWf s) : memsWf (drainStops s c x) := by
  unfold drainStops
  dsimp only
  exact memsWf_ctxCount (memsWf_setCtx h)

theorem memsWf_execDrainCutComplete {c s} (h : memsWf s) : NextMems (execDrainCutComplete c s) := by
  grind -ring -linarith [execDrainCutComplete, NextMems, memsWf_setCtx, memsWf_pushEvOnce, memsWf_drainStops, memsWf_cutDone]

theorem memsWf_opsBack {s c x} (h : memsWf s) : memsWf (opsBack s c x) := by
  unfold opsBack
  dsimp only
  refine memsWf_foldl (fun _ hs _ => ?_) h
  split
  · exact hs
  · exact memsWf_pushEvOnce (memsWf_foldl (fun _ ht _ => (memsWf_pushEv ht)) (memsWf_modPress (memsWf_setQueue (memsWf_setQueue hs))))

theorem memsWf_restored {s c slot tag x} (h : memsWf s) : memsWf (restored s c slot tag x) := by
  grind -ring -linarith [restored, memsWf_pushEv, memsWf_setCtx, memsWf_opsBack, memsWf_iff]

theorem memsWf_execProofRestore {slot s} (h : memsWf s) : NextMems (execProofRestore slot s) := by
  grind -ring -linarith [execProofRestore, NextMems, memsWf_restored, memsWf_pushEv, memsWf_iff]

theorem memsWf_execProofRelease {s} (h : memsWf s) : NextMems (execProofRelease s) := by
  unfold execProofRelease
  dsimp only
  split
  · exact h
  · exact memsWf_pushEvOnce (memsWf_same h rfl rfl rfl)

theorem memsWf_refire {i s} (h : memsWf s) : NextMems (refire i s) := by
  unfold refire
  split
  · exact memsWf_execTileFill h
  · exact memsWf_execTileReady h
  · exact memsWf_execTileDrain h
  · exact memsWf_execTileFree h
  · exact memsWf_execRingDef h
  · exact memsWf_execMxDef h
  · exact memsWf_execGvAff h
  · exact memsWf_execGvInd h
  · exact memsWf_execGvGo h
  · exact memsWf_execCpGo h
  · exact memsWf_execCpRem h
  · exact memsWf_execEngCmd h
  · exact memsWf_execEmit h
  · exact memsWf_execEmitT h
  · exact memsWf_execEmitX h
  · exact memsWf_execJoin h
  · exact memsWf_execLeave h
  · exact memsWf_execCbar h
  · exact memsWf_execCq h
  · exact memsWf_execCredAddI32 h
  · exact memsWf_execCredAddF32 h
  · exact memsWf_execCredMaxI32 h
  · exact memsWf_execCredMaxF32 h
  · exact memsWf_execCredMinI32 h
  · exact memsWf_execCredMinF32 h
  · exact memsWf_execPreempt h
  · exact h

theorem memsWf_tryWaiter {s w} (h : memsWf s) : memsWf (tryWaiter s w) := by
  unfold tryWaiter
  split
  · exact memsWf_same h rfl rfl rfl
  · split
    · exact h
    · split
      · exact h
      · next i _ =>
        split
        · next he => exact memsWf_afterFire (memsWf_next he (memsWf_refire (memsWf_same h rfl rfl rfl)))
        · exact h

theorem memsWf_execTileWaitSatisfied {s} (h : memsWf s) : NextMems (execTileWaitSatisfied s) := by
  unfold execTileWaitSatisfied
  dsimp only
  split
  · exact memsWf_same (memsWf_foldl (fun _ hs _ => (memsWf_tryWaiter hs)) h) rfl rfl rfl
  · exact memsWf_pushEvOnce (memsWf_same (memsWf_foldl (fun _ hs _ => (memsWf_tryWaiter hs)) h) rfl rfl rfl)

theorem memsWf_exec {i s} (h : memsWf s) : NextMems (exec i s) := by
  unfold exec
  split
  · exact memsWf_execAddInt h
  · exact memsWf_execSubInt h
  · exact memsWf_execAddClamp h
  · exact memsWf_execSubClamp h
  · exact memsWf_execMinInt h
  · exact memsWf_execMaxInt h
  · exact memsWf_execAbsInt h
  · exact memsWf_execMulInt h
  · exact memsWf_execMulh h
  · exact memsWf_execDiv h
  · exact memsWf_execRem h
  · exact memsWf_execMulClamp h
  · exact memsWf_execAnd h
  · exact memsWf_execOr h
  · exact memsWf_execXor h
  · exact memsWf_execAndn h
  · exact memsWf_execOrn h
  · exact memsWf_execXnor h
  · exact memsWf_execShl h
  · exact memsWf_execShr h
  · exact memsWf_execSar h
  · exact memsWf_execRotl h
  · exact memsWf_execPopc h
  · exact memsWf_execClz h
  · exact memsWf_execCtz h
  · exact memsWf_execBrev h
  · exact memsWf_execCmpEq h
  · exact memsWf_execCmpNe h
  · exact memsWf_execCmpLt h
  · exact memsWf_execCmpLe h
  · exact memsWf_execCmpGt h
  · exact memsWf_execCmpGe h
  · exact memsWf_execCmpEqFloat h
  · exact memsWf_execCmpNeFloat h
  · exact memsWf_execCmpLtFloat h
  · exact memsWf_execCmpLeFloat h
  · exact memsWf_execCmpGtFloat h
  · exact memsWf_execCmpGeFloat h
  · exact memsWf_execSel h
  · exact memsWf_execAddi h
  · exact memsWf_execAndi h
  · exact memsWf_execOri h
  · exact memsWf_execXori h
  · exact memsWf_execShli h
  · exact memsWf_execShri h
  · exact memsWf_execSari h
  · exact memsWf_execMovi h
  · exact memsWf_execMovhi h
  · exact memsWf_execCmpiEq h
  · exact memsWf_execCmpiLt h
  · exact memsWf_execAddFloat h
  · exact memsWf_execSubFloat h
  · exact memsWf_execMulFloat h
  · exact memsWf_execFma h
  · exact memsWf_execFms h
  · exact memsWf_execMinFloat h
  · exact memsWf_execMaxFloat h
  · exact memsWf_execAbsFloat h
  · exact memsWf_execNegFloat h
  · exact memsWf_execCvt h
  · exact memsWf_execExp2 h
  · exact memsWf_execLog2 h
  · exact memsWf_execRcp h
  · exact memsWf_execRsqrt h
  · exact memsWf_execSigm h
  · exact memsWf_execTanh h
  · exact memsWf_execScaleApply h
  · exact memsWf_execScaleStrip h
  · exact memsWf_execPerm h
  · exact memsWf_execBcast h
  · exact memsWf_execRedAdd h
  · exact memsWf_execRedMax h
  · exact memsWf_execRedMin h
  · exact memsWf_execScanAdd h
  · exact memsWf_execRpack h
  · exact memsWf_execTurn h
  · exact memsWf_execMovFull h
  · exact memsWf_execNullFull h
  · exact memsWf_execMovCompact h
  · exact memsWf_execNullCompact h
  · exact memsWf_execNot h
  · exact memsWf_execNeg h
  · exact memsWf_execInc h
  · exact memsWf_execDec h
  · exact memsWf_execIsz h
  · exact memsWf_execNz h
  · exact memsWf_execRdg h
  · exact memsWf_execWrg h
  · exact memsWf_execIter h
  · exact memsWf_execLfld h
  · exact memsWf_execLfst h
  · exact memsWf_execLfldV h
  · exact memsWf_execLfstV h
  · exact memsWf_execLfswp h
  · exact memsWf_execLd h
  · exact memsWf_execLdV h
  · exact memsWf_execSt h
  · exact memsWf_execStV h
  · exact memsWf_execAmoAdd h
  · exact memsWf_execAmoAnd h
  · exact memsWf_execAmoOr h
  · exact memsWf_execAmoXor h
  · exact memsWf_execAmoMin h
  · exact memsWf_execAmoMax h
  · exact memsWf_execAmoXchg h
  · exact memsWf_execCas h
  · exact memsWf_execFence h
  · exact memsWf_execQfence h
  · exact memsWf_execBset h
  · exact memsWf_execBadd h
  · exact memsWf_execBget h
  · exact memsWf_execCvta h
  · exact memsWf_execIsap h
  · exact memsWf_execTileFill h
  · exact memsWf_execTileReady h
  · exact memsWf_execTileDrain h
  · exact memsWf_execTileFree h
  · exact memsWf_execTileStat h
  · exact memsWf_execRingDef h
  · exact memsWf_execMxDef h
  · exact memsWf_execMxUnbind h
  · exact memsWf_execGvAff h
  · exact memsWf_execGvInd h
  · exact memsWf_execGvGo h
  · exact memsWf_execCpGo h
  · exact memsWf_execCpRem h
  · exact memsWf_execEngCmd h
  · exact memsWf_execPlateLd h
  · exact memsWf_execPlateEv h
  · exact memsWf_execPlateQ h
  · exact memsWf_execEmit h
  · exact memsWf_execEmitT h
  · exact memsWf_execEmitX h
  · exact memsWf_execSpawn h
  · exact memsWf_execRest h
  · exact memsWf_execBind h
  · exact memsWf_execHint h
  · exact memsWf_execAq h
  · exact memsWf_execJoin h
  · exact memsWf_execLeave h
  · exact memsWf_execCbar h
  · exact memsWf_execCq h
  · exact memsWf_execCredAddI32 h
  · exact memsWf_execCredAddF32 h
  · exact memsWf_execCredMaxI32 h
  · exact memsWf_execCredMaxF32 h
  · exact memsWf_execCredMinI32 h
  · exact memsWf_execCredMinF32 h
  · exact memsWf_execLeaseReq h
  · exact memsWf_execLeaseGive h
  · exact memsWf_execLeaseRev h
  · exact memsWf_execLeaseQ h
  · exact memsWf_execExit h
  · exact memsWf_execExitI h
  · exact memsWf_execTrap h
  · exact memsWf_execTret h
  · exact memsWf_execMfs h
  · exact memsWf_execMts h
  · exact memsWf_execNop h
  · exact memsWf_execBrk h
  · exact memsWf_execTrmk h
  · exact memsWf_execStylus h
  · exact memsWf_execCtrRd h
  · exact memsWf_execCtrClr h
  · exact memsWf_execPreempt h
  · exact memsWf_execAbort h
  · exact memsWf_execRegisterWrite h
  · exact memsWf_execResetBoot h
  · exact memsWf_execSelfTestDone h
  · exact memsWf_execPressPowerUp h
  · exact memsWf_execMatrixRampDone h
  · exact memsWf_execW4Write h
  · exact memsWf_execW4Read h
  · exact memsWf_execPortBindingWrite h
  · exact memsWf_execProdWrite h
  · exact memsWf_execIngressAccept h
  · exact memsWf_execEgressDrain h
  · exact memsWf_execKeySlotWrite h
  · exact memsWf_execKeyTableLock h
  · exact memsWf_execAttestationRequest h
  · exact memsWf_execAttestationComplete h
  · exact memsWf_execStimulusArrival h
  · exact memsWf_execPromotionRetry h
  · exact memsWf_execQueueRefill h
  · exact memsWf_execDemotion h
  · exact memsWf_execEntryMove h
  · exact memsWf_execPlateLoadStart h
  · exact memsWf_execPlateLoadComplete h
  · exact memsWf_execProbe h
  · exact memsWf_execProbeClear h
  · exact memsWf_execProbeUnblock h
  · exact memsWf_execProbeResult h
  · exact memsWf_execAgeTick h
  · exact memsWf_execImpressionGather h
  · exact memsWf_execBatchWindowExpiry h
  · exact memsWf_execAdmission h
  · exact memsWf_execShareTableSwap h
  · exact memsWf_execSpawnStarve h
  · exact memsWf_execCardDeal h
  · exact memsWf_execBlockFetch h
  · exact memsWf_execRegionAcquire h
  · exact memsWf_execMapperPlace h
  · exact memsWf_execConfigPacketComplete h
  · exact memsWf_execTokenArrival h
  · exact memsWf_execIterEmit h
  · exact memsWf_execCommit h
  · exact memsWf_execBlockWatchExpiry h
  · exact memsWf_execPlacementCacheFlush h
  · exact memsWf_execPageWalkComplete h
  · exact memsWf_execAccessPerformed h
  · exact memsWf_execMigrationComplete h
  · exact memsWf_execTlbInvalidatePage h
  · exact memsWf_execTlbInvalidateTenancy h
  · exact memsWf_execTlbInvalidateAll h
  · exact memsWf_execTlbInvalidateDone h
  · exact memsWf_execTileWaitSatisfied h
  · exact memsWf_execTileDrainComplete h
  · exact memsWf_execEngineOpStart h
  · exact memsWf_execMxConfigure h
  · exact memsWf_execMxFiring h
  · exact memsWf_execEpilogueWrite h
  · exact memsWf_execGraverStream h
  · exact memsWf_execCopyComplete h
  · exact memsWf_execFenceComplete h
  · exact memsWf_execQfenceComplete h
  · exact memsWf_execEngCmdDeliver h
  · exact memsWf_execPlateEvictionComplete h
  · exact memsWf_execSpawnStart h
  · exact memsWf_execAgentOpAtWalker h
  · exact memsWf_execCohortOpAtHome h
  · exact memsWf_execRetirement h
  · exact memsWf_execDispositionResume h
  · exact memsWf_execDispositionAbort h
  · exact memsWf_execFaultRingFlush h
  · exact memsWf_execQuarantineFlush h
  · exact memsWf_execPreemptRequest h
  · exact memsWf_execDrainCutComplete h
  · exact memsWf_execProofRelease h
  · exact memsWf_execProofRestore h
  · exact memsWf_execShardWatchExpiry h
  · exact memsWf_execDomainModeEnable h
  · exact memsWf_execMetadataClearDone h
  · exact memsWf_execActorSlotAcquire h
  · exact memsWf_execSlotSweep h
  · exact memsWf_execRaceBudgetInterval h
  · exact memsWf_execFabricLoad h
  · exact memsWf_execFabricReconfigure h
  · exact memsWf_execFabricResume h
  · exact memsWf_execPilotsLocked h
  · exact memsWf_execReconfDrainDone h
  · exact memsWf_execDistributionStart h
  · exact memsWf_execDistributionReport h
  · exact memsWf_execLeaseArbitrate h
  · exact memsWf_execWavelengthLocked h
  · exact memsWf_execWavelengthDark h
  · exact memsWf_execLightRestored h
  · exact memsWf_execLeaseAgeExpiry h
  · exact memsWf_execWrite h
  · exact memsWf_execData h
  · exact memsWf_execLoadreq h
  · exact memsWf_execLoadrsp h
  · exact memsWf_execAmoreq h
  · exact memsWf_execAmorsp h
  · exact memsWf_execAck h
  · exact memsWf_execNak h
  · exact memsWf_execStim h
  · exact memsWf_execPlate h
  · exact memsWf_execLinkctl h
  · exact memsWf_execRestripe h
  · exact memsWf_execLease h
  · exact memsWf_execDrain h
  · exact memsWf_execFlitTransit h
  · exact memsWf_execReplayTimeout h
  · exact memsWf_execLinkctlBeacon h
  · exact memsWf_execLossOfLight h
  · exact memsWf_execRealignComplete h
  · exact memsWf_execRemoteTimeout h
  · exact memsWf_execCounterSweep h
  · exact memsWf_execTraceRestart h
  · exact memsWf_execMonitorLimitCross h
  · exact memsWf_execEventRingFlush h
  · exact memsWf_execReservedTypeFlit h

theorem memsWf_runEvent {s i} (h : memsWf s) : NextMems (runEvent s i) :=
  memsWf_exec (memsWf_same (memsWf_takeCycle h) rfl rfl rfl)

theorem memsWf_runInstr {s i f} (h : memsWf s) : NextMems (runInstr s i f) := by
  unfold runInstr
  split
  · next he => exact memsWf_afterFire (memsWf_next he (memsWf_exec (memsWf_same h rfl rfl rfl)))
  · trivial
  · trivial

theorem memsWf_runFiring {s f} (h : memsWf s) : NextMems (runFiring s f) := by
  grind -ring -linarith [runFiring, NextMems, OptMems, memsWf_parkWork, memsWf_pushWork, memsWf_runInstr, memsWf_takeCycle,
      memsWf_shareTurn]

theorem memsWf_runAt {s k} (h : memsWf s) : NextMems (runAt s k) := by
  grind -ring -linarith [runAt, NextMems, memsWf_runEvent, memsWf_runFiring, memsWf_iff]

theorem memsWf_runPick {s p} (h : memsWf s) : NextMems (runPick s p) := by
  grind -ring -linarith [runPick, NextMems, memsWf_runAt, memsWf_pushEv, memsWf_runEvent]

theorem memsWf_runNext {s} (h : memsWf s) : NextMems (runNext s) := by
  unfold runNext
  split
  · exact memsWf_runAt (memsWf_same h rfl rfl rfl)
  · exact memsWf_runPick (memsWf_same h rfl rfl rfl)

theorem memsWf_placeWord {s nbits w} (h : memsWf s) : memsWf (placeWord s nbits w) := by
  unfold placeWord
  split
  · exact h
  · dsimp only
    exact memsWf_same h rfl rfl rfl

theorem memsWf_step {s} (h : memsWf s) : NextMems (step s) :=
  memsWf_runNext h



/-- Settles O60, by the lemmas above: each operation writes the memories only through writes that keep them canonical. -/
theorem memoriesStayCanonical : Obligations.MemoriesStayCanonical := by
  unfold Obligations.MemoriesStayCanonical
  exact fun s t h hstep => memsWf_next hstep (memsWf_step h)

end Sys2Proof.Machine
end

section
/-! PROOFS. Moves, tokens without value operands, and what a firing keeps for the commit (R117, R170 to R175, R183, R191, R192). -/

namespace Sys2Proof.Machine

/-! Operations on runs (R183). -/

theorem scaleStates_a {f : Firing} {a : Token} (ha : f.a = some a) : scaleStates f [.a] = [a.scaled] := by
  simp [scaleStates, operand, ha]

theorem inScale_a {f : Firing} {a : Token} (ha : f.a = some a) : inScale f [.a] a.scaled := by
  simp [inScale, scaleStates_a ha]

theorem orBits_zeros (n : Nat) : orBits (List.replicate n 0) = 0 := by
  induction n with
  | zero => rfl
  | succ n ih => exact ih

theorem mov_delivers {m : FireMode} {s : State} {f : Firing} {a : Token} (ts : List Target) (h : Acting m s f) (ha : f.a = some a)
    (hb : f.b = none) (hc : f.c = none) :
    compute movOp m ts s = .next (delivered s m f ts a.ew a.scaled (elemNat f .a a.ew) fun _ => 0) := by
  have hw : widthBad f (compWidths movOp) = false := by simp [widthBad, operand, ha, hb, hc, compWidths, movOp]
  rw [compute_delivers movOp m ts s f a.ew a.scaled h hw (scaleBad_none f [.a] .pass a.scaled (inScale_a ha) (pass_admits _))
    (noTrap_zero m s f) (by simp [movOp, ha]) (scale_head f [.a] _ (inScale_a ha))]
  exact congrArg Host.Outcome.next (delivered_congr s m f ts a.ew a.scaled _ _ _ _
    (fun j => by simp [compElem, movOp, plainOp, compArg, elemNat, operand, ha]) fun _ => rfl)

theorem runGo_delivers {m : FireMode} {s : State} {f : Firing} {a : Token} (r : RawTy) (ts : List Target) (g : Nat → Nat)
    (ha : f.a = some a) (hw : hasWidths f (rawWidth r) .w32 .w32) :
    runGo r m ts s f g = delivered s m f ts (rawWidth r) a.scaled g fun _ => 0 := by
  have hfault : operandFault f (runWidths r) [.a] .pass = none :=
    operandFault_none f _ _ _ (widthBad_none f _ _ _ _ hw (.inl rfl) (.inl rfl) (.inl rfl))
      (scaleBad_none f _ _ a.scaled (inScale_a ha) (pass_admits _))
  have hown : ∀ n, orBits (List.replicate n 0#5) = 0 := orBits_zeros
  simp [runGo, hfault, delivered, hown, scaleStates_a ha]

theorem perm_delivers {m : FireMode} {s : State} {f : Firing} {a : Token} (t u : Target) (r : RawTy) (h : Acting m s f) (ha : f.a = some a)
    (hw : hasWidths f (rawWidth r) .w32 .w32) : execPerm m t u r s = .next (delivered s m f [t, u] (rawWidth r) a.scaled
      (fun j => elemAt (some a) (elemNat f .b .w32 j % 32)) fun _ => 0) := by
  have hplace : ∀ j, elemNat f .b .w32 j % 32 = elemAt f.b j % 32 := fun j => Nat.mod_mod_of_dvd _ ⟨2 ^ 27, rfl⟩
  simp only [execPerm, onFire_acts m s f _ _ _ h, runGo_delivers r [t, u] _ ha hw, ha, hplace]

theorem bcast_delivers {m : FireMode} {s : State} {f : Firing} {a : Token} (t u : Target) (r : RawTy) (h : Acting m s f) (ha : f.a = some a)
    (hw : hasWidths f (rawWidth r) .w32 .w32) : execBcast m t u r s = .next (delivered s m f [t, u] (rawWidth r) a.scaled
      (fun _ => a.head.toNat) fun _ => 0) := by
  rw [execBcast, onFire_acts m s f _ _ _ h, runGo_delivers r [t, u] _ ha hw, ha]

/-! Tokens without value operands (R117, R170 to R172, R175, R236). -/

/-- A firing without value operands that fires acts. -/
theorem acting_bare {m : FireMode} {s : State} {f : Firing} (hcur : s.cur = some f) (heos : f.eos = none)
    (hfires : (firedElems m f).isEmpty = false) (ha : f.a = none) (hb : f.b = none) (hc : f.c = none) : Acting m s f :=
  ⟨hcur, heos, hfires, by simp [nullOperand, ha, hb, hc]⟩

theorem inputBits_bare {f : Firing} (ha : f.a = none) (hb : f.b = none) (hc : f.c = none) : inputBits f = tokenBits f.p := by
  simp [inputBits, ha, hb, hc, tokenBits]

/-- At block start such an instruction sends one token, standing in a resident loop; on a predicate a token for each run. -/
theorem bare_gives {m : FireMode} {s : State} {n : Next} (f : Firing) (ts : List Target) (mk : Nat → Token)
    (hn : n = .next (sendPlain s m ts f mk)) (hmk : (mk 1).iter = 0) (ha : f.a = none) (hb : f.b = none) (hc : f.c = none) :
    (f.p = none → n = .next (sendTokens s f.ctx f.inst f.born ts
      (if inLoop s f.ctx then { mk 1 with iter := 65535, standing := true } else mk 1))) ∧
    (f.p.isSome = true → n = .next ((runsFrom 0 (firedMask m f)).foldl (fun s r => sendRun s f ts r.1 (mk r.2)) s)) := by
  subst hn
  constructor
  · intro hp
    have hiter : { mk 1 with iter := 0 } = mk 1 := by rw [← hmk]
    simp [sendPlain, operands, ha, hb, hc, hp, hiter]
  · intro hp
    obtain ⟨p, hp⟩ := Option.isSome_iff_exists.mp hp
    simp [sendPlain, operands, ha, hb, hc, hp]

theorem wrap_signExtend (k : BitVec 12) : BitVec.ofNat 64 (wrap 32 k.toInt) = (k.signExtend 32).zeroExtend 64 := by
  rw [wrap_eq_ofInt, BitVec.ofNat_toNat]
  rfl

/-- Settles O8: each move keeps its operand, and a token from nothing is what `sendPlain` makes of it. -/
theorem movesAndTokensFromNothing : Obligations.MovesAndTokensFromNothing := by
  refine ⟨fun m t u s f a h ha hc => ⟨fun hb => ⟨mov_delivers [t, u] h ha hb hc, mov_delivers [t] h ha hb hc⟩, fun r hw =>
    ⟨perm_delivers t u r h ha hw, bcast_delivers t u r h ha hw⟩⟩, fun m t u k g n s f hcur heos hfires ha hb hc => ?_⟩
  have h := acting_bare hcur heos hfires ha hb hc
  have hbits := inputBits_bare ha hb hc
  let token := fun (w : Width) (v : Dbl) (n : Nat) => freshToken 0 (List.replicate n v) w false (tokenBits f.p)
  let late : Firing := { f with born := 0 }
  refine ⟨bare_gives f [t] (token .w32 _) ?_ rfl ha hb hc, bare_gives late [t] (token .w32 _) ?_ rfl ha hb hc,
    bare_gives late [t] (token .w64 _) ?_ rfl ha hb hc, bare_gives f [t, u] nullToken ?_ rfl ha hb hc,
    bare_gives f [t] nullToken ?_ rfl ha hb hc⟩
  · exact (onFire_acts m s f _ _ _ h).trans (by rw [hbits, wrap_signExtend])
  · exact (onFire_acts m s f _ _ _ h).trans (by rw [hbits])
  · exact (onFire_acts m s f _ _ _ h).trans (by rw [hbits])
  · exact onFire_acts m s f _ _ _ h
  · exact onFire_acts m s f _ _ _ h

/-! What a firing keeps for the commit (R128, R173, R191, R192). -/

theorem oneValue_widths {f : Firing} {w : Width} {v : Dbl} (h : oneValue f w v) : operandFault f (fun _ => some w) [] .pass = none := by
  obtain ⟨-, hb, hc, a, ha, hw, -, -⟩ := h
  exact operandFault_none f _ _ _ (by simp [widthBad, operand, ha, hb, hc, hw]) rfl

theorem countGw_first {s : State} {f : Firing} {x : Ctx} (g : Nat) (v : Option Word) (hx : ctxAt s f.ctx = some x)
    (honce : ∀ w ∈ x.gws, w.1 ≠ f.inst) (hroom : x.gws.length < blkWrites x.image) :
    countGw s f g v = modCtx (setCtx s f.ctx { x with gws := x.gws ++ [(f.inst, g, v)] }) f.ctx
      fun y => { y with esum := y.esum ||| inputBits f } := by
  have htwice : (x.gws.any fun e => e.1 == f.inst) = false := by simpa using honce
  have hfew : decide (blkWrites x.image ≤ x.gws.length) = false := by simpa using hroom
  simp [countGw, hx, htwice, hfew, sinkBits]

theorem wrg_keeps {m : FireMode} {s : State} {f : Firing} {x : Ctx} {v : Dbl} (g : BitVec 8) (h : Acting m s f)
    (hx : ctxAt s f.ctx = some x) (hv : oneValue f .w32 v) (honce : ∀ w ∈ x.gws, w.1 ≠ f.inst)
    (hroom : x.gws.length < blkWrites x.image) :
    execWrg m g s = .next (modCtx (setCtx s f.ctx { x with gws := x.gws ++ [(f.inst, g.toNat, some (v.setWidth 32))] })
      f.ctx fun y => { y with esum := y.esum ||| inputBits f }) := by
  obtain ⟨-, -, hfirst⟩ := oneValue_elem m f _ _ h.fires hv
  have hone : manyElems f = false := by
    obtain ⟨-, -, -, a, -, -, -, hone⟩ := hv
    exact hone
  rw [execWrg, onFire_acts m s f _ _ _ h]
  simp [oneValue_widths hv, hone, countGw_first _ _ hx honce hroom, hfirst]

/-- The first exit of a block is kept. -/
theorem exitFires_first {s : State} {f : Firing} {x : Ctx} (num : Nat) (dest : Option Nat) (hx : ctxAt s f.ctx = some x)
    (hnone : x.exits = []) : exitFires s f num dest = setCtx s f.ctx { x with exits := [{ inst := f.inst, num := num, dest := dest }] } := by
  simp [exitFires, hx, hnone]

theorem exitI_keeps {m : FireMode} {s : State} {f : Firing} {x : Ctx} {v : Dbl} (e : BitVec 3) (h : Acting m s f)
    (hx : ctxAt s f.ctx = some x) (hv : oneValue f .w64 v) (hnone : x.exits = []) :
    (v = 0xFFFFFFFFFFFFFFFF → execExitI m e s = .next (setCtx s f.ctx { x with exits := [{ inst := f.inst, num := e.toNat, dest := none }] })) ∧
    (v.extractLsb' 56 8 = 0 → v.extractLsb' 0 4 = 0 → execExitI m e s =
      .next (setCtx s f.ctx { x with exits := [{ inst := f.inst, num := e.toNat, dest := some v.toNat }] })) := by
  obtain ⟨-, -, hfirst⟩ := oneValue_elem m f _ _ h.fires hv
  have hone : manyElems f = false := by
    obtain ⟨-, -, -, a, -, -, -, hone⟩ := hv
    exact hone
  rw [execExitI, onFire_acts m s f _ _ _ h]
  constructor
  · intro hend
    subst hend
    simp [oneValue_widths hv, hone, hfirst, exitFires_first _ _ hx hnone]
  · intro hhigh hlow
    have h1 : bitsOf v.toNat 63 56 = 0 := by rw [← extract_bitsOf, hhigh]; rfl
    have h2 : bitsOf v.toNat 3 0 = 0 := by rw [← extract_bitsOf, hlow]; rfl
    have hsmall : v.toNat < 72057594037927936 := by
      have := v.isLt
      simp only [bitsOf] at h1
      omega
    simp [oneValue_widths hv, hone, hfirst, exitFires_first _ _ hx hnone, h1, h2, Nat.mod_eq_of_lt hsmall,
      show v.toNat ≠ 18446744073709551615 by omega]

/-- Settles O9: each is kept as the first of its kind. -/
theorem writesAndExitsForTheCommit : Obligations.WritesAndExitsForTheCommit := by
  refine fun m g e off s f x h hx hb hc hlen hone => ⟨fun a v ha hw hvals honce hroom => ?_, fun hnone ha => ?_, fun a v hnone ha hw hvals => ?_⟩
  · exact wrg_keeps g h hx ⟨hlen, hb, hc, a, ha, hw, hvals, hone⟩ honce hroom
  · exact (onFire_acts m s f _ _ _ h).trans (by simp [hx, exitFires_first _ _ hx hnone, exitDest])
  · exact exitI_keeps e h hx ⟨hlen, hb, hc, a, ha, hw, hvals, hone⟩ hnone

/-! `iter` (R132, R163, R174). -/

/-- Settles O10: the turns of `iter` by the frames and trips that are left. -/
theorem iterEmitsRuns : Obligations.IterEmitsRuns := by
  refine fun m t s c inst x hx => ⟨fun f h hc hi hnone => ?_, fun n done sb hrun hnext hat => ⟨fun hleft hframes => ?_, fun hleft => ?_⟩⟩
  · subst hc hi
    exact (onFire_acts m s f _ _ _ h).trans (by simp [hx, hnone])
  · have hne : loopTrips x.image - done ≠ 0 := by omega
    have hfree : (!(frameReach x.image).isEmpty && decide (loopFrames x.image <
        framesHeld x + min (loopRun x.image) (loopTrips x.image - done))) = false := by
      by_cases hreach : frameReach x.image = []
      · simp [hreach]
      · simpa using fun _ => hframes hreach
    show execIterEmit c inst s = _
    simp only [execIterEmit, hx, hrun, hnext, hat, hne, hfree, Option.isSome_none, Bool.false_eq_true, if_false, ne_eq, not_true,
      List.isEmpty_iff]
  · show execIterEmit c inst s = _
    simp [execIterEmit, hx, hrun, hnext, hat, hleft]

end Sys2Proof.Machine
end

section
/-! PROOFS. Reductions, scans and regrouped runs (R138, R184 to R187). -/

namespace Sys2Proof.Machine

/-! Firings of streams. -/

theorem onStream_fires {s : State} {f : Firing} {eos : Firing → Nat → State} {go : Firing → State} (hcur : s.cur = some f)
    (heos : f.eos = none) : onStream s eos go = .next (go f) := by
  simp [onStream, hcur, heos]

theorem onStream_ends {s : State} {f : Firing} {b : Nat} {eos : Firing → Nat → State} {go : Firing → State} (hcur : s.cur = some f)
    (heos : f.eos = some b) : onStream s eos go = .next (eos f b) := by
  simp [onStream, hcur, heos]

theorem notNull_a {f : Firing} {a : Token} (ha : f.a = some a) (hb : f.b = none) (hc : f.c = none) (hnul : a.nul = false) :
    nullOperand f = false := by
  simp [nullOperand, ha, hb, hc, hnul]

/-- A single operand of its width passes the checks of a stream. -/
theorem operandFault_a {f : Firing} {a : Token} (w : Width) (ha : f.a = some a) (hb : f.b = none) (hc : f.c = none) (hw : a.ew = w) :
    operandFault f (fun q => if q == Port.a then some w else none) [.a] .pass = none :=
  operandFault_none f _ _ _ (by simp [widthBad, operand, ha, hb, hc, hw]) (scaleBad_none f _ _ a.scaled (inScale_a ha) (pass_admits _))

/-! Reductions and the scan (R184). -/

theorem redFold_getLast (op : RedOp) (f : Firing) (acc : Option Nat) (js : List Nat) (hjs : js.isEmpty = false) :
    ∃ r, (redFold op f acc js).getLast? = some r := by
  cases js with
  | nil => cases hjs
  | cons j js => exact ⟨_, List.getLast?_eq_some_getLast (by simp [redFold])⟩

/-- The stream after a firing whose turn has come (R184). -/
def redKept (op : RedOp) (m : FireMode) (f : Firing) (t : Stream) (scaled : Bool) : Stream :=
  let rs := redFold op f (t.acc.map (·.toNat)) (firedElems m f)
  { t with taken := t.taken + f.len, acc := rs.getLast?.map fun r => BitVec.ofNat 64 r.2.1, scaled := some scaled,
           sb := t.sb ||| inputBits f ||| orBits (rs.map (·.2.2)), bare := t.acc.isNone && (firedElems m f).length == 1 }

/-- A firing whose turn has come and whose own bits are not caught is combined into the accumulator, and a scan delivers it. -/
theorem redGo_takes (op : RedOp) (m : FireMode) (ts : List Target) {s : State} {f : Firing} {x : Ctx} {a : Token}
    (hx : ctxAt s f.ctx = some x) (hwaive : f.waive = none) (ha : f.a = some a) (hb : f.b = none) (hc : f.c = none) (hnul : a.nul = false)
    (hw : a.ew = tyWidth op.ty) (hstand : allStanding f = false) (hfires : (firedElems m f).isEmpty = false)
    (hturn : iterOffset x.image f.iter = (streamAt x f.inst).taken)
    (hscaled : (streamAt x f.inst).scaled = none ∨ (streamAt x f.inst).scaled = some a.scaled)
    (hown : orBits ((redFold op f ((streamAt x f.inst).acc.map (·.toNat)) (firedElems m f)).map (·.2.2)) &&& x.eenable = 0) :
    let t := redKept op m f (streamAt x f.inst) a.scaled
    let s1 := setStream s f.ctx f.inst t
    redGo op m ts s f = streamDue (if op.scan then (runsFrom 0 (firedMask m f)).foldl (fun s q =>
      sendRun s f ts q.1 (freshToken 0 ((List.range q.2).map fun k => BitVec.ofNat 64
        ((((redFold op f ((streamAt x f.inst).acc.map (·.toNat)) (firedElems m f)).find? fun r => r.1 == q.1 + k).map (·.2.1)).getD 0))
        (tyWidth op.ty) a.scaled t.sb)) s1 else s1) f.ctx f.inst := by
  have hnull := notNull_a ha hb hc hnul
  obtain ⟨r, hr⟩ := redFold_getLast op f ((streamAt x f.inst).acc.map (·.toNat)) (firedElems m f) hfires
  have hnot : ∀ (p : Bool) (u v : State), (if (!p) = true then u else v) = if p = true then v else u := fun p _ _ => by cases p <;> rfl
  simp only [redGo, hx, hstand, hturn, lt_irrefl, hnull, hfires, hwaive, operandFault_a (tyWidth op.ty) ha hb hc hw, redTake,
    hown, enableCause_zero, redKept, hr, scaleStates_a ha, ite_self, Bool.not_false, Bool.and_self, Bool.false_and, Bool.true_and,
    if_false, decide_false, Bool.false_eq_true, List.head?_cons, Option.map_some, Option.getD_some, Nat.le_add_right, max_eq_right, hnot]
  rcases hscaled with h | h <;> simp [h]

/-- What a reduction delivers at EOS, none where it is a null (R184). -/
def redOut (op : RedOp) (t : Stream) (empty : Option Nat) : Option Res :=
  match t.acc with
  | some v => some (if t.bare then deliverElem op.ty v.toNat else (v.toNat, 0))
  | none => empty.map fun v => (v, 0)

/-- The token of it. -/
def redToken (op : RedOp) (t : Stream) (s0 : Nat) (out : Option Res) : Token :=
  match out with
  | some v => freshToken s0 [BitVec.ofNat 64 v.1] (tyWidth op.ty) (t.scaled.getD false) (t.sb ||| v.2)
  | none => { freshToken s0 [0] (tyWidth op.ty) false 0 with nul := true }

/-- The EOS of a reduction: one token of what has been accumulated, then the EOS behind it. -/
theorem redEos_gives (op : RedOp) (ts : List Target) (empty : Option Nat) {s : State} {f : Firing} {b : Nat} {x : Ctx}
    (hx : ctxAt s f.ctx = some x) (hlate : (streamAt x f.inst).late = []) (hbound : (streamAt x f.inst).taken ≤ iterOffset x.image b)
    (hscan : op.scan = false) (out : Option Res)
    (hout : redOut op (streamAt x f.inst) empty = out) (hown : ∀ v, out = some v → v.2 &&& x.eenable = 0) :
    redEos op ts empty s f b = sendTokens (sendTokens s f.ctx f.inst f.born ts (redToken op (streamAt x f.inst) (streamStart x.image) out))
      f.ctx f.inst f.born ts
      { freshToken 0 [BitVec.ofNat 64 ((streamStart x.image + 1) % 65536)] .w32 false 0 with eos := true } := by
  have hless : ¬ iterOffset x.image b < (streamAt x f.inst).taken := by omega
  have hzero : enableCause 0#5 = none := enableCause_zero
  subst hout
  cases hacc : (streamAt x f.inst).acc with
  | none =>
    cases empty with
    | none => simp [redEos, redOut, redToken, hx, hlate, hless, hscan, hacc, hzero]
    | some n => simp [redEos, redOut, redToken, hx, hlate, hless, hscan, hacc, hzero]
  | some v =>
    have hbits : (if (streamAt x f.inst).bare then deliverElem op.ty v.toNat else (v.toNat, 0#5)).2 &&& x.eenable = 0#5 :=
      hown _ (by
        simp only [redOut, hacc]
        rfl)
    simp [redEos, redOut, redToken, hx, hlate, hless, hscan, hacc, hbits, hzero]

/-- A scan passes the EOS on. -/
theorem redEos_scan {op : RedOp} {ts : List Target} {empty : Option Nat} {s : State} {f : Firing} {b : Nat} {x : Ctx}
    (hx : ctxAt s f.ctx = some x) (hlate : (streamAt x f.inst).late = []) (hbound : (streamAt x f.inst).taken ≤ iterOffset x.image b)
    (hscan : op.scan = true) : redEos op ts empty s f b = passEos s ts f b := by
  have hless : ¬ iterOffset x.image b < (streamAt x f.inst).taken := by omega
  simp [redEos, hx, hlate, hless, hscan]

/-- Settles O11: each reduction is its combination, taken in turn and delivered at EOS. -/
theorem reductionsAndScan : Obligations.ReductionsAndScan := by
  refine fun m t u y s f x hcur hx => ⟨fun a heos hwaive ha hb hc hnul hw hstand hfires hturn hscaled => ?_, fun b heos hlate hbound => ?_⟩
  · have takes := fun (op : RedOp) (hty : op.ty = accTy y) => redGo_takes op m [t, u] hx hwaive ha hb hc hnul
      (hw.trans (congrArg tyWidth hty.symm)) hstand hfires hturn hscaled
    refine ⟨fun hown => ?_, fun hown => ?_, fun hown => ?_, fun hown => ?_⟩
    · exact (onStream_fires hcur heos).trans (congrArg Host.Outcome.next (takes (sumOp y false) rfl hown))
    · exact (onStream_fires hcur heos).trans (congrArg Host.Outcome.next (takes (pickOp y true) rfl hown))
    · exact (onStream_fires hcur heos).trans (congrArg Host.Outcome.next (takes (pickOp y false) rfl hown))
    · exact (onStream_fires hcur heos).trans (congrArg Host.Outcome.next (takes (sumOp y true) rfl hown))
  · have ends := fun (op : RedOp) (hty : op.ty = accTy y) (hscan : op.scan = false) (empty : Option Nat) =>
      redEos_gives op [t, u] empty hx hlate hbound hscan
    refine ⟨fun v hacc hown => ⟨?_, ?_, ?_⟩, fun hacc => ⟨?_, ?_, ?_⟩, ?_⟩
    · refine (onStream_ends hcur heos).trans (congrArg Host.Outcome.next (ends (sumOp y false) rfl rfl (some 0) (some _) ?_ ?_))
      · simp only [redOut, hacc]
        rfl
      · rintro _ ⟨⟩
        exact hown
    · refine (onStream_ends hcur heos).trans (congrArg Host.Outcome.next (ends (pickOp y true) rfl rfl none (some _) ?_ ?_))
      · simp only [redOut, hacc]
        rfl
      · rintro _ ⟨⟩
        exact hown
    · refine (onStream_ends hcur heos).trans (congrArg Host.Outcome.next (ends (pickOp y false) rfl rfl none (some _) ?_ ?_))
      · simp only [redOut, hacc]
        rfl
      · rintro _ ⟨⟩
        exact hown
    · exact (onStream_ends hcur heos).trans (congrArg Host.Outcome.next
        (ends (sumOp y false) rfl rfl (some 0) (some (0, 0)) (by simp [redOut, hacc]) (by rintro _ ⟨⟩; simp)))
    · exact (onStream_ends hcur heos).trans (congrArg Host.Outcome.next
        (ends (pickOp y true) rfl rfl none none (by simp [redOut, hacc]) (by rintro _ ⟨⟩)))
    · exact (onStream_ends hcur heos).trans (congrArg Host.Outcome.next
        (ends (pickOp y false) rfl rfl none none (by simp [redOut, hacc]) (by rintro _ ⟨⟩)))
    · exact (onStream_ends hcur heos).trans (congrArg Host.Outcome.next (redEos_scan hx hlate hbound rfl))

/-! `rpack` and `turn` (R186, R187). -/

theorem notStanding_a {f : Firing} {a : Token} (ha : f.a = some a) (hstand : a.standing = false) : allStanding f = false := by
  simp [allStanding, operands, ha, hstand]

/-- A firing's cells are kept, and the groups that they fill are delivered. -/
theorem packGo_gives {size : Nat} {place : Nat → Nat} {r : RawTy} {m : FireMode} {ts : List Target} {s : State} {f : Firing} {x : Ctx}
    {a : Token} (hx : ctxAt s f.ctx = some x) (ha : f.a = some a) (hb : f.b = none) (hc : f.c = none) (hnul : a.nul = false)
    (hstand : a.standing = false) (hw : a.ew = rawWidth r) :
    let t := streamAt x f.inst
    let cells := (firedElems m f).map fun j => (place (iterOffset x.image f.iter + j),
      ({ val := some (BitVec.ofNat 64 (elemAt f.a j)), sb := inputBits f, scaled := a.scaled } : Cell))
    let kept := cells.foldl (fun b e => tabPut b e.1 e.2) t.buffer
    let full := (((firedElems m f).map fun j => place (iterOffset x.image f.iter + j) / size).eraseDups).filter
      fun g => (kept.filter fun e => e.1 / size == g).length == size
    packGo size place r m ts s f = sendCells size (setStream s f.ctx f.inst { t with
        taken := t.taken + f.len, buffer := kept.filter fun e => !full.contains (e.1 / size) }) f ts (rawWidth r)
      (streamStart x.image) (kept.filter fun e => full.contains (e.1 / size)) := by
  have hnull := notNull_a ha hb hc hnul
  simp only [packGo, hx, hnull, notStanding_a ha hstand, operandFault_a (rawWidth r) ha hb hc hw, cellsOf, scaleStates_a ha, ite_self,
    Bool.false_eq_true, if_false, List.headD_cons, List.map_map, Function.comp_def]

theorem turnPlace_eq : turnPlace = fun o => 1024 * (o / 1024) + 32 * (o % 32) + o % 1024 / 32 := by
  funext o
  rw [turnPlace, Nat.mul_comm (o / 1024)]

/-- Settles O12: both keep a firing's cells and send full groups, and at EOS the rest. -/
theorem runsRegrouped : Obligations.RunsRegrouped := by
  refine fun m t u r s f x hcur hx => ⟨fun a heos ha hb hc hnul hstand hw => ⟨?_, fun hheld => ?_⟩, fun b heos hlate => ⟨?_, ?_⟩⟩
  · exact (onStream_fires hcur heos).trans (congrArg Host.Outcome.next (packGo_gives hx ha hb hc hnul hstand hw))
  · refine (onStream_fires hcur heos).trans (congrArg Host.Outcome.next ?_)
    simp only [hx, hheld, notStanding_a ha hstand, Bool.false_and, Bool.false_eq_true, if_false]
    rw [turnPlace_eq]
    exact @packGo_gives _ _ _ _ _ (turnTake s f x) _ _ _ hx ha hb hc hnul hstand hw
  · refine (onStream_ends hcur heos).trans (congrArg Host.Outcome.next ?_)
    simp [packEos, hx]
  · refine (onStream_ends hcur heos).trans (congrArg Host.Outcome.next ?_)
    simp [packEos, hx, hlate]

end Sys2Proof.Machine
end

section
/-! PROOFS. Lane File accesses (R188 to R190). -/

namespace Sys2Proof.Machine

/-! Runs of fired elements (R160). -/

/-- Every position of a run is one at which the mask holds. -/
theorem runsFrom_mem (mask : List Bool) (j : Nat) : ∀ r ∈ runsFrom j mask, ∀ k < r.2, ∃ i, r.1 + k = j + i ∧ mask[i]? = some true := by
  induction mask generalizing j with
  | nil => simp [runsFrom]
  | cons b mask ih =>
    have later : ∀ r ∈ runsFrom (j + 1) mask, ∀ k < r.2, ∃ i, r.1 + k = j + i ∧ (b :: mask)[i]? = some true := by
      intro r hr k hk
      obtain ⟨i, hi, hm⟩ := ih (j + 1) r hr k hk
      exact ⟨i + 1, by omega, hm⟩
    intro r hr k hk
    cases b with
    | false => exact later r (by simpa [runsFrom] using hr) k hk
    | true =>
      cases hl : runsFrom (j + 1) mask with
      | nil =>
        obtain rfl : r = (j, 1) := by simpa [runsFrom, hl] using hr
        exact ⟨0, by simp at hk ⊢; omega, rfl⟩
      | cons q l =>
        obtain ⟨i, n⟩ := q
        rw [hl] at later
        by_cases hnext : i = j + 1
        · subst hnext
          rcases (by simpa [runsFrom, hl] using hr : r = (j, n + 1) ∨ r ∈ l) with rfl | hr
          · cases k with
            | zero => exact ⟨0, rfl, rfl⟩
            | succ k =>
              obtain ⟨i, hi, hm⟩ := later (j + 1, n) (by simp) k (by simpa using hk)
              exact ⟨i, by simp at hi ⊢; omega, hm⟩
          · exact later r (List.mem_cons_of_mem _ hr) k hk
        · rcases (by simpa [runsFrom, hl, hnext] using hr : r = (j, 1) ∨ r = (i, n) ∨ r ∈ l) with rfl | hr
          · exact ⟨0, by simp at hk ⊢; omega, rfl⟩
          · exact later r (by simpa using hr) k hk

theorem run_fires {m : FireMode} {f : Firing} {r : Nat × Nat} (hr : r ∈ runsFrom 0 (firedMask m f)) {k : Nat} (hk : k < r.2) :
    r.1 + k ∈ firedElems m f := by
  obtain ⟨i, hi, hm⟩ := runsFrom_mem (firedMask m f) 0 r hr k hk
  simp only [firedMask, List.getElem?_map, Option.map_eq_some_iff, List.getElem?_eq_some_iff] at hm
  obtain ⟨i', ⟨hlt, rfl⟩, hm⟩ := hm
  rw [List.getElem_range] at hm
  rw [List.length_range] at hlt
  simp [firedElems, hi, hm, hlt]

theorem foldl_congr_mem {α β : Type} {g g' : β → α → β} {l : List α} (h : ∀ b, ∀ a ∈ l, g b a = g' b a) (b : β) :
    l.foldl g b = l.foldl g' b := by
  induction l generalizing b with
  | nil => rfl
  | cons a l ih => rw [List.foldl_cons, List.foldl_cons, h b a (by simp), ih fun b a ha => h b a (List.mem_cons_of_mem _ ha)]

/-- Results that agree on the elements that fire are the same results. -/
theorem sendRuns_delivered {s : State} {m : FireMode} {f : Firing} {ts : List Target} {ew : Width} {val : Nat → Dbl} {v : Nat → Nat}
    (hv : ∀ j ∈ firedElems m f, val j = BitVec.ofNat 64 (v j % 2 ^ widthBits ew)) :
    (runsFrom 0 (firedMask m f)).foldl (fun s q => sendRun s f ts q.1 (freshToken 0 ((List.range q.2).map fun k => val (q.1 + k)) ew false
      (inputBits f))) s = delivered s m f ts ew false v fun _ => 0 := by
  refine foldl_congr_mem (fun t r hr => ?_) s
  have hvals : (List.range r.2).map (fun k => val (r.1 + k)) =
      (List.range r.2).map fun k => BitVec.ofNat 64 (v (r.1 + k) % 2 ^ widthBits ew) :=
    List.map_congr_left fun k hk => hv _ (run_fires hr (List.mem_range.mp hk))
  rw [hvals]
  have hown : ∀ n, orBits (List.replicate n 0#5) = 0 := orBits_zeros
  simp [hown]

/-! The window (R188). -/

theorem leNat_lt (bs : List Byte) : leNat bs < 256 ^ bs.length := by
  induction bs with
  | nil => simp [leNat]
  | cons b bs ih =>
    have := b.isLt
    rw [leNat, List.length_cons, pow_succ]
    omega

theorem windowRead_inside {w : StepRec} {off n : Nat} (h : off + n ≤ windowBytes w) : windowRead w off n = memRead w.window off n := by
  refine List.ext_getElem (by simp [windowRead]) fun i h1 h2 => ?_
  have hi : i < n := by simpa [memRead_length] using h2
  simp [windowRead, show off + i < windowBytes w by omega]

theorem windowWrite_inside {w : StepRec} {off : Nat} {bs : List Byte} (h : off + bs.length ≤ windowBytes w) :
    windowWrite w off bs = { w with window := memWrite w.window off bs } := by
  rw [windowWrite, List.take_of_length_le (by omega)]

/-- An element's access lies inside the window and is aligned. -/
def laneFits (w : StepRec) (vec : Bool) (r : RawTy) (f : Firing) (q : Port) (j : Nat) : Prop :=
  laneOff vec r f q j % widthBytes (rawWidth r) = 0 ∧ laneOff vec r f q j + widthBytes (rawWidth r) ≤ 128 * w.words

theorem laneBad_fits {w : StepRec} {vec : Bool} {r : RawTy} {f : Firing} {q : Port} {j : Nat} (h : laneFits w vec r f q j) :
    laneBad w r (laneOff vec r f q j) = none := by
  obtain ⟨haligned, hinside⟩ := h
  simp [laneBad, haligned, windowBytes, Nat.not_lt.mpr hinside]

theorem laneFault_fits {w : StepRec} {vec : Bool} {r : RawTy} {m : FireMode} {f : Firing} {q : Port}
    (h : ∀ j ∈ firedElems m f, laneFits w vec r f q j) : laneFault w vec r m f q = none := by
  have hnone : ((firedElems m f).filterMap fun j => (laneBad w r (laneOff vec r f q j)).map fun c => (j, laneOff vec r f q j, c)) = [] :=
    List.filterMap_eq_nil_iff.mpr fun j hj => by rw [laneBad_fits (h j hj)]; rfl
  simp [laneFault, hnone]

/-- The first access that does not fit is the one that faults. -/
theorem laneFault_first {w : StepRec} {vec : Bool} {r : RawTy} {m : FireMode} {f : Firing} {q : Port} {js rest : List Nat} {j c : Nat}
    (hj : firedElems m f = js ++ j :: rest) (hwaive : f.waive = none) (h : ∀ k ∈ js, laneFits w vec r f q k)
    (hc : laneBad w r (laneOff vec r f q j) = some c) : laneFault w vec r m f q = some (j, laneOff vec r f q j, c) := by
  have hnone : (js.filterMap fun j => (laneBad w r (laneOff vec r f q j)).map fun c => (j, laneOff vec r f q j, c)) = [] :=
    List.filterMap_eq_nil_iff.mpr fun k hk => by rw [laneBad_fits (h k hk)]; rfl
  simp [laneFault, hwaive, passed, hj, List.filterMap_append, hnone, hc]

/-- The window with some elements written (R190). -/
def laneWindow (vec : Bool) (r : RawTy) (f : Firing) (mem : Tab Byte) (js : List Nat) : Tab Byte :=
  js.foldl (fun mem j => memWrite mem (laneOff vec r f .b j) (leBytes (widthBytes (rawWidth r)) (elemNat f .a (rawWidth r) j))) mem

theorem laneStore_fits {vec : Bool} {r : RawTy} {f : Firing} (js : List Nat) (w : StepRec)
    (h : ∀ j ∈ js, laneFits w vec r f .b j) : laneStore vec r f w js = { w with window := laneWindow vec r f w.window js } := by
  induction js generalizing w with
  | nil => rfl
  | cons j js ih =>
    obtain ⟨-, hinside⟩ := h j (by simp)
    have hone : laneStore vec r f w (j :: js) = laneStore vec r f { w with window := laneWindow vec r f w.window [j] } js :=
      congrArg (fun v => laneStore vec r f v js) (windowWrite_inside (by rw [leBytes_length]; exact hinside))
    exact hone.trans (ih { w with window := laneWindow vec r f w.window [j] } fun k hk => h k (List.mem_cons_of_mem _ hk))

theorem laneValue_fits {vec : Bool} {r : RawTy} {f : Firing} {q : Port} {w : StepRec} {j : Nat} (h : laneFits w vec r f q j) :
    laneValue vec r f q w j = BitVec.ofNat 64 (leNat (memRead w.window (laneOff vec r f q j) (widthBytes (rawWidth r))) %
      2 ^ widthBits (rawWidth r)) := by
  obtain ⟨-, hinside⟩ := h
  have hlt := leNat_lt (memRead w.window (laneOff vec r f q j) (widthBytes (rawWidth r)))
  rw [memRead_length, show 256 = 2 ^ 8 from rfl, ← pow_mul] at hlt
  have hmod : _ % 2 ^ widthBits (rawWidth r) = _ := Nat.mod_eq_of_lt hlt
  rw [laneValue, windowRead_inside hinside, hmod]

/-- `lfswp` reads each element after those before it are written. -/
theorem laneSwap_find {r : RawTy} {f : Firing} {js : List Nat} {w : StepRec} {j : Nat} (hj : j ∈ js)
    (h : ∀ j ∈ js, laneFits w false r f .b j) :
    tabFind (laneSwap r f w js) j = some (BitVec.ofNat 64 (leNat (memRead (laneWindow false r f w.window (js.takeWhile (· ≠ j)))
      (laneOff false r f .b j) (widthBytes (rawWidth r))) % 2 ^ widthBits (rawWidth r))) := by
  induction js generalizing w with
  | nil => cases hj
  | cons k js ih =>
    by_cases hkj : k = j
    · subst hkj
      simp [laneSwap, tabFind, laneValue_fits (h k (by simp)), laneWindow]
    · have hstored := laneStore_fits [k] w fun i hi => h i (by simp at hi; simp [hi])
      have hin : j ∈ js := by simpa [Ne.symm hkj] using hj
      simp only [laneSwap, tabFind, hkj, if_false, hstored]
      refine (@ih { w with window := laneWindow false r f w.window [k] } hin fun i hi => h i (List.mem_cons_of_mem _ hi)).trans ?_
      simp [hkj, laneWindow]

/-! The instructions (R189). -/

theorem ctxAt_pushEvOnce (s : State) (i : Instr) (c : Nat) : ctxAt (pushEvOnce s i) c = ctxAt s c := by
  simp [ctxAt]

/-- A count leaves the context's step and the steps alone. -/
theorem ctxCount_step {s : State} {c : Nat} {x : Ctx} (e k : Nat) (hx : ctxAt s c = some x) :
    ∃ counts, ctxAt (ctxCount s c e k) c = some { x with counts := counts } ∧ (ctxCount s c e k).steps = s.steps := by
  unfold ctxCount
  simp only [hx]
  split
  · exact ⟨_, (ctxAt_pushEvOnce _ _ _).trans ((ctxAt_setCtx _ _ _ _).trans (if_pos rfl)), by simp⟩
  · exact ⟨_, (ctxAt_setCtx _ _ _ _).trans (if_pos rfl), rfl⟩

theorem tabUpdate_congr {α : Type} {t : Tab α} {k : Nat} {v : α} {f g : α → α} (h : tabFind t k = some v) (hfg : f v = g v) :
    tabUpdate t k f = tabUpdate t k g := by
  induction t with
  | nil => rfl
  | cons e t ih =>
    by_cases he : e.1 = k
    · simp only [tabFind, he, if_true, Option.some.injEq] at h
      simp [tabUpdate, he, h, hfg]
    · simp only [tabFind, he, if_false] at h
      simp [tabUpdate, he, ih h]

theorem laneGo_fits {vec : Bool} {r : RawTy} {m : FireMode} {q : Port} {s : State} {f : Firing} {x : Ctx} {w : StepRec}
    {go : StepRec → List Nat → State → State} (hx : ctxAt s f.ctx = some x) (hw : stepAt s x.stp = some w)
    (hwidth : operandFault f (laneWidths r q) (if q = .a then [] else [.a]) .pass = none)
    (h : ∀ j ∈ firedElems m f, laneFits w vec r f q j) :
    laneGo vec r m q s f go = go w (firedElems m f) (ctxCount s f.ctx 0x005 (firedElems m f).length) := by
  simp [laneGo, hwidth, stepOf, hx, hw, laneFault_fits h]

theorem laneGo_faults {vec : Bool} {r : RawTy} {m : FireMode} {q : Port} {s : State} {f : Firing} {x : Ctx} {w : StepRec}
    {go : StepRec → List Nat → State → State} {js rest : List Nat} {j c : Nat} (hx : ctxAt s f.ctx = some x) (hw : stepAt s x.stp = some w)
    (hwidth : operandFault f (laneWidths r q) (if q = .a then [] else [.a]) .pass = none)
    (hj : firedElems m f = js ++ j :: rest) (hwaive : f.waive = none) (h : ∀ k ∈ js, laneFits w vec r f q k)
    (hc : laneBad w r (laneOff vec r f q j) = some c) :
    laneGo vec r m q s f go = fireFault s f c { noInfo with iter := iterAt f j, addr := BitVec.ofNat 64 (laneOff vec r f q j) } := by
  simp [laneGo, hwidth, stepOf, hx, hw, laneFault_first hj hwaive h hc]

theorem laneLoad_gives {vec : Bool} {r : RawTy} {m : FireMode} {ts : List Target} {s : State} {f : Firing} {x : Ctx} {w : StepRec}
    (ha : Acting m s f) (hx : ctxAt s f.ctx = some x) (hw : stepAt s x.stp = some w)
    (hwidth : hasWidths f .w32 (rawWidth r) (rawWidth r)) (h : ∀ j ∈ firedElems m f, laneFits w vec r f .a j) :
    laneLoad vec m ts r s = .next (delivered (ctxCount s f.ctx 0x005 (firedElems m f).length) m f ts (rawWidth r) false
      (fun j => leNat (memRead w.window (laneOff vec r f .a j) (widthBytes (rawWidth r)))) fun _ => 0) := by
  have hnone : operandFault f (laneWidths r .a) [] .pass = none :=
    operandFault_none f _ _ _ (widthBad_none f _ _ _ _ hwidth (.inl rfl) (.inl rfl) (.inl rfl)) rfl
  rw [laneLoad, onFire_acts m s f _ _ _ ha, laneGo_fits hx hw hnone h]
  exact congrArg Host.Outcome.next (sendRuns_delivered fun j hj => laneValue_fits (h j hj))

/-- What the stores leave (R48, R190). -/
def laneStored (vec : Bool) (r : RawTy) (m : FireMode) (s : State) (f : Firing) (x : Ctx) (w : StepRec) : State :=
  modCtx (modStep (ctxCount s f.ctx 0x005 (firedElems m f).length) x.stp fun v =>
    { v with window := laneWindow vec r f w.window (firedElems m f) }) f.ctx fun y => { y with esum := y.esum ||| inputBits f }

theorem laneStores_gives {vec : Bool} {r : RawTy} {m : FireMode} {s : State} {f : Firing} {x : Ctx} {w : StepRec}
    (hx : ctxAt s f.ctx = some x) (hw : stepAt s x.stp = some w) (h : ∀ j ∈ firedElems m f, laneFits w vec r f .b j) :
    sinkBits (modStepOf (ctxCount s f.ctx 0x005 (firedElems m f).length) f.ctx fun w => laneStore vec r f w (firedElems m f)) f.ctx
      (inputBits f) = laneStored vec r m s f x w := by
  obtain ⟨counts, hctx, hsteps⟩ := ctxCount_step 0x005 (firedElems m f).length hx
  have hfound : tabFind (ctxCount s f.ctx 0x005 (firedElems m f).length).steps x.stp = some w := by rw [hsteps]; exact hw
  have hmod : modStep (ctxCount s f.ctx 0x005 (firedElems m f).length) x.stp (fun w => laneStore vec r f w (firedElems m f)) =
      modStep (ctxCount s f.ctx 0x005 (firedElems m f).length) x.stp fun v =>
        { v with window := laneWindow vec r f w.window (firedElems m f) } := by
    have hsame : tabUpdate _ x.stp (fun w => laneStore vec r f w (firedElems m f)) = tabUpdate _ x.stp fun v =>
        { v with window := laneWindow vec r f w.window (firedElems m f) } := tabUpdate_congr hfound (laneStore_fits _ w h)
    unfold modStep
    rw [hsame]
  simp only [modStepOf, hctx, hmod, sinkBits, laneStored]

theorem storeWidths_ok {r : RawTy} {f : Firing} {ps : List Port} (hwidth : hasWidths f (rawWidth r) .w32 (rawWidth r))
    (hs : scaleBad f ps .pass = false) : operandFault f (laneWidths r .b) ps .pass = none :=
  operandFault_none f _ _ _ (widthBad_none f _ _ _ _ hwidth (.inl rfl) (.inl rfl) (.inl rfl)) hs

theorem scaleBad_a (f : Firing) : scaleBad f [.a] .pass = false := by
  cases ha : f.a with
  | none => simp [scaleBad, scaleStates, operand, ha]
  | some a => exact scaleBad_none f _ _ a.scaled (inScale_a ha) (pass_admits _)

theorem laneSave_gives {vec : Bool} {r : RawTy} {m : FireMode} {s : State} {f : Firing} {x : Ctx} {w : StepRec}
    (ha : Acting m s f) (hx : ctxAt s f.ctx = some x) (hw : stepAt s x.stp = some w)
    (hwidth : hasWidths f (rawWidth r) .w32 (rawWidth r)) (h : ∀ j ∈ firedElems m f, laneFits w vec r f .b j) :
    laneSave vec m r s = .next (laneStored vec r m s f x w) := by
  rw [laneSave, onFire_acts m s f _ _ _ ha, laneGo_fits hx hw (storeWidths_ok hwidth (scaleBad_a f)) h, laneStores_gives hx hw h]

theorem lfswp_gives {r : RawTy} {m : FireMode} {t u : Target} {s : State} {f : Firing} {x : Ctx} {w : StepRec}
    (ha : Acting m s f) (hx : ctxAt s f.ctx = some x) (hw : stepAt s x.stp = some w)
    (hwidth : hasWidths f (rawWidth r) .w32 (rawWidth r)) (h : ∀ j ∈ firedElems m f, laneFits w false r f .b j) :
    execLfswp m t u r s = .next (delivered (laneStored false r m s f x w) m f [t, u] (rawWidth r) false (fun j =>
      leNat (memRead (laneWindow false r f w.window ((firedElems m f).takeWhile (· ≠ j))) (laneOff false r f .b j) (widthBytes (rawWidth r))))
      fun _ => 0) := by
  rw [execLfswp, onFire_acts m s f _ _ _ ha, laneGo_fits hx hw (storeWidths_ok hwidth (scaleBad_a f)) h, laneStores_gives hx hw h]
  have hold : ∀ j ∈ firedElems m f, (tabFind (laneSwap r f w (firedElems m f)) j).getD 0 = _ := fun j hj =>
    congrArg (·.getD 0) (laneSwap_find hj h)
  exact congrArg Host.Outcome.next (sendRuns_delivered hold)

/-- The cause of an access that does not fit. -/
theorem laneBad_cause {w : StepRec} {vec : Bool} {r : RawTy} {f : Firing} {q : Port} {j cause : Nat}
    (h : cause = 0x131 ∧ laneOff vec r f q j % widthBytes (rawWidth r) ≠ 0 ∨ cause = 0x130 ∧
      laneOff vec r f q j % widthBytes (rawWidth r) = 0 ∧ 128 * w.words < laneOff vec r f q j + widthBytes (rawWidth r)) :
    laneBad w r (laneOff vec r f q j) = some cause := by
  rcases h with ⟨rfl, h⟩ | ⟨rfl, h, hout⟩
  · simp [laneBad, h]
  · simp [laneBad, h, windowBytes, hout]

/-- Settles O13: accesses that fit read and write the window, and the first that does not faults. -/
theorem laneFileAccesses : Obligations.LaneFileAccesses := by
  intro m t u r s f x w ha hx hw
  have loadWidths : hasWidths f .w32 (rawWidth r) (rawWidth r) → operandFault f (laneWidths r .a) [] .pass = none := fun hwidth =>
    operandFault_none f _ _ _ (widthBad_none f _ _ _ _ hwidth (.inl rfl) (.inl rfl) (.inl rfl)) rfl
  refine ⟨fun hwidth h => laneLoad_gives ha hx hw hwidth h, fun hwidth h => laneLoad_gives ha hx hw hwidth h,
    fun hwidth h => laneSave_gives ha hx hw hwidth h, fun hwidth h => laneSave_gives ha hx hw hwidth h,
    fun hwidth h => lfswp_gives ha hx hw hwidth h, fun vec q js rest j hj hwaive h => ⟨?_, ?_⟩⟩
  · rintro rfl hwidth cause hc
    have stops : ∀ go, laneGo vec r m .a s f go = _ := fun go =>
      laneGo_faults hx hw (loadWidths hwidth) hj hwaive h (laneBad_cause hc)
    cases vec with
    | true => exact (onFire_acts m s f _ _ _ ha).trans (congrArg Host.Outcome.next (stops _))
    | false => exact (onFire_acts m s f _ _ _ ha).trans (congrArg Host.Outcome.next (stops _))
  · rintro rfl hwidth
    have stops : ∀ go cause, _ → laneGo vec r m .b s f go = fireFault s f cause _ := fun go cause hc =>
      laneGo_faults hx hw (storeWidths_ok hwidth (scaleBad_a f)) hj hwaive h (laneBad_cause hc)
    refine ⟨fun cause hc => ?_, fun hvec cause hc => ?_⟩
    · cases vec with
      | true => exact (onFire_acts m s f _ _ _ ha).trans (congrArg Host.Outcome.next (stops _ cause hc))
      | false => exact (onFire_acts m s f _ _ _ ha).trans (congrArg Host.Outcome.next (stops _ cause hc))
    · subst hvec
      exact (onFire_acts m s f _ _ _ ha).trans (congrArg Host.Outcome.next (stops _ cause hc))

end Sys2Proof.Machine
end

section
/-! PROOFS. Traps and breaks, trace marks, special registers and counters (R304, R320 to R324, R393 to R398). -/

namespace Sys2Proof.Machine

/-- Settles O14: each is its own branch of the operation. -/
theorem trapsReturnsAndBreaks : Obligations.TrapsReturnsAndBreaks := by
  refine ⟨fun m n s f x ha hx hdiv => ⟨fun hth hvalid => ?_, fun hth => ?_⟩, fun m k s f x ha hx => ⟨?_, fun hoff => ?_, fun hon hwaive => ?_⟩⟩
  · exact (onFire_acts m s f _ _ _ ha).trans (by simp [hx, hth, hdiv, hvalid])
  · exact (onFire_acts m s f _ _ _ ha).trans (by simp [hx, hth, hdiv])
  · exact onFire_acts m s f _ _ _ ha
  · exact (onFire_acts m s f _ _ _ ha).trans (by simp [hx, hoff])
  · exact (onFire_acts m s f _ _ _ ha).trans (by simp [hx, hon, hwaive, fireInfo])

/-! Trace marks (R324, R395, R397). -/

/-- `trmk` passes its token on as `mov` does. -/
theorem compGo_trmk {m : FireMode} {s : State} {f : Firing} {a : Token} (ts : List Target) (h : Acting m s f) (ha : f.a = some a)
    (hb : f.b = none) (hc : f.c = none) :
    compGo trmkOp m ts s f = delivered s m f ts a.ew a.scaled (elemNat f .a a.ew) fun _ => 0 :=
  Host.Outcome.next.inj ((onFire_acts m s f _ _ _ h).symm.trans (mov_delivers ts h ha hb hc))

/-- Sending changes neither the context nor whether it is traced. -/
theorem markRecord_sent {s t : State} {l : List Work} {c : Nat} {x : Ctx} (id v : Nat) (hsent : onlySends s t l) (hx : ctxAt s c = some x)
    (hrun : x.frozen = none) : markRecord t c id v =
      if traced s x then traceRecord t (2 ^ 63 + x.tag % 256 * 2 ^ 54 + id * 2 ^ 44 + v % 2 ^ 32) false else t := by
  have hctx : ctxAt t c = some x := by rw [hsent]; exact hx
  have htraced : traced t x = traced s x := by rw [hsent]; rfl
  cases h : traced s x <;> simp [markRecord, hctx, hrun, htraced, h]

/-- Settles O15: a mark behind the token that is sent, and the path of the Stylus. -/
theorem traceMarks : Obligations.TraceMarks := by
  refine fun m t k s f x ha hx hrun => ⟨fun a hfa hb hc => ⟨fun hone => ?_, fun hmany hwaive => ?_⟩, fun hfree => ?_, fun hbusy => ?_⟩
  · obtain ⟨l, -, hsent⟩ := delivered_sends s m f [t] a.ew a.scaled (elemNat f .a a.ew) fun _ => 0
    refine (onFire_acts m s f _ _ _ ha).trans (congrArg Host.Outcome.next ?_)
    simp only [trmkFault, hone, Bool.false_and, Bool.false_eq_true, if_false, compGo_trmk [t] ha hfa hb hc]
    exact markRecord_sent _ _ hsent hx hrun
  · exact (onFire_acts m s f _ _ _ ha).trans (by simp [trmkFault, hmany, hwaive, passed, fireInfo])
  · have hwait : ∀ n : Nat, (if n < 524288 then n else 524287) = min n 524287 := fun n => by split <;> omega
    exact (onFire_acts m s f _ _ _ ha).trans (by simp only [hx, Nat.not_lt.mpr hfree, if_false, hwait])
  · exact (onFire_acts m s f _ _ _ ha).trans (by simp [hx, hbusy])

/-! Special registers and counters (R321 to R324, R393, R394). -/

theorem tabUpdate_id {α : Type} {t : Tab α} {k : Nat} {f : α → α} (hf : ∀ v, f v = v) : tabUpdate t k f = t := by
  induction t with
  | nil => rfl
  | cons e t ih => simp [tabUpdate, hf, ih]

theorem modCtx_id {s : State} {c : Nat} {f : Ctx → Ctx} (hf : ∀ x, f x = x) : modCtx s c f = s := by
  rw [modCtx, tabUpdate_id hf]

theorem mts_gives {m : FireMode} {s : State} {f : Firing} {x : Ctx} {v : Dbl} (csr : BitVec 12) (ha : Acting m s f)
    (hx : ctxAt s f.ctx = some x) (hwaive : f.waive = none) (hv : oneValue f .w64 v) :
    execMts m csr s = .next (if mayWrite s x csr.toNat = false then fireFault s f 0x3C4 { noInfo with iter := f.iter }
      else if contextScope csr.toNat then modCtx s f.ctx fun y => contextWrite y csr.toNat v
      else if csr.toNat = 0x0F8 then s else csrWrite s csr.toNat v) := by
  obtain ⟨-, -, hfirst⟩ := oneValue_elem m f _ _ ha.fires hv
  refine (onFire_acts m s f _ _ _ ha).trans ?_
  cases h : mayWrite s x csr.toNat <;> simp [hx, oneElem_ok f _ _ hv, h, hwaive, passed, hfirst, fireInfo]

theorem eventListed_iff (n : Nat) : eventListed n = true ↔ n ≤ 8 ∨ 0x200 ≤ n ∧ n ≤ 0x20A := by simp [eventListed]
theorem devEvent_iff (n : Nat) : devEvent n = true ↔ 0x200 ≤ n := by simp [devEvent]

/-- `ctr.clr` of a device event by a supervisor: the live count goes, and with V set the total in HBM too (R394). -/
theorem ctrClr_device {m : FireMode} {e : BitVec 10} {s : State} {f : Firing} {x : Ctx} (ha : Acting m s f) (hx : ctxAt s f.ctx = some x)
    (hk : 0x200 ≤ e.toNat) (hk' : e.toNat < 0x20B) (hsup : supervisor s x = true) :
    execCtrClr m e s = .next (if csrBits s 0x3F0 0 0 = 1
      then hbmPutDbl { s with devCounts := tabDrop s.devCounts e.toNat } (devTotalAt s e.toNat) 0
      else { s with devCounts := tabDrop s.devCounts e.toNat }) := by
  have hdev := (devEvent_iff e.toNat).mpr hk
  have hlist := (eventListed_iff e.toNat).mpr (by omega)
  exact (onFire_acts m s f _ _ _ ha).trans (by simp [hx, hdev, hlist, hsup])

/-- Settles O16: each register and counter by its own branch. -/
theorem specialRegistersAndCounters : Obligations.SpecialRegistersAndCounters := by
  intro m t csr e v s f x ha hx hwaive
  have hpass : ∀ n, passed f.waive n = false := fun n => by simp [hwaive, passed]
  have hbarred : ¬ (e.toNat < 0x200 ∨ supervisor s x = true) → (devEvent e.toNat && !supervisor s x) = true := by
    simp [devEvent]
  refine ⟨fun hread => ?_, fun hread => ?_, fun hv => ⟨fun hn => ?_, fun hn => ?_, fun hn => ?_, fun hn => ?_, fun hn hscope hsup => ?_,
    fun hn hscope hsup => ?_⟩, fun hown => ?_, fun hown => ⟨?_, ?_⟩, fun hk => ?_, fun hk hk' hsup => ⟨fun hv => ?_, fun hv => ?_⟩, fun hlist hown => ?_⟩
  · exact (onFire_acts m s f _ _ _ ha).trans (by simp [hx, hread])
  · exact (onFire_acts m s f _ _ _ ha).trans (by simp [hx, hread, hpass, fireInfo])
  · exact (mts_gives csr ha hx hwaive hv).trans (by simp [hn, mayWrite, contextScope, contextWrite])
  · exact (mts_gives csr ha hx hwaive hv).trans (by simp [hn, mayWrite, contextScope, contextWrite])
  · exact (mts_gives csr ha hx hwaive hv).trans (by simp [hn, mayWrite, contextScope, contextWrite])
  · refine (mts_gives csr ha hx hwaive hv).trans ?_
    rcases hn with hn | hn | hn <;> simp [hn, mayWrite, contextScope, contextWrite, modCtx_id]
  · exact (mts_gives csr ha hx hwaive hv).trans (by simp [hn, mayWrite, hscope, hsup])
  · exact (mts_gives csr ha hx hwaive hv).trans (by simp [hn, mayWrite, hscope, hsup])
  · have hfree : (devEvent e.toNat && !supervisor s x) = false := by
      rcases hown with h | h
      · simp [devEvent, h]
      · simp [h]
    exact (onFire_acts m s f _ _ _ ha).trans (by simp [hx, hfree])
  · exact (onFire_acts m s f _ _ _ ha).trans (by simp [hx, hbarred hown, hpass, fireInfo])
  · exact (onFire_acts m s f _ _ _ ha).trans (by simp [hx, hbarred hown, hpass, fireInfo])
  · have hdev : devEvent e.toNat = false := Bool.eq_false_iff.mpr ((devEvent_iff e.toNat).not.mpr (by omega))
    have hlist := (eventListed_iff e.toNat).mpr (by omega)
    exact (onFire_acts m s f _ _ _ ha).trans (by simp [hx, hdev, hlist])
  · exact (ctrClr_device ha hx hk hk' hsup).trans (congrArg Host.Outcome.next (if_neg (by omega)))
  · exact (ctrClr_device ha hx hk hk' hsup).trans (congrArg Host.Outcome.next (if_pos hv))
  · have hfree : (devEvent e.toNat && !supervisor s x) = false := by
      rcases hown with h | h
      · simp [devEvent, h]
      · simp [h]
    exact (onFire_acts m s f _ _ _ ha).trans (by simp [hx, hfree, hlist])

end Sys2Proof.Machine
end

section
/-! PROOFS. Loads, stores and atomics issue their accesses (R200, R223, R228 to R232). -/

namespace Sys2Proof.Machine

theorem baseReg_ctx {s : State} {c : Nat} {x : Ctx} (n : Nat) (hx : ctxAt s c = some x) : baseReg s c n = (tabGet (fun _ => 0) x.b n).toNat := by
  simp [baseReg, hx]

theorem indexFault_none {s : State} {f : Firing} (vec : Bool) (hw : operandFault f (fun q => if q == Port.a then some .w32 else none) [] .pass = none)
    (hone : vec = true → manyElems f = false) (hloop : vec = true → inLoop s f.ctx = false) : indexFault s vec f = none := by
  cases vec <;> simp_all [indexFault]

theorem storeFault_none {s : State} {f : Firing} {want : Port → Option Width} {agree : List Port} {l : Nat}
    (hw : operandFault f want agree .pass = none) (hone : longOperand f = false) (hl : lsidBad s f l = false) :
    storeFault s f want agree false l = none := by
  simp [storeFault, hw, hone, hl]

/-- A piece of `st.v` outside a loop whose LSID may still be delivered passes, its iterations not above 31 (R161, R230). -/
theorem pieceFault_none {s : State} {m : FireMode} {f : Firing} {w : Width} {l : Nat}
    (hw : operandFault f (fun q => if q == Port.a then some w else none) [] .pass = none) (hl : lsidBad s f l = false)
    (hloop : inLoop s f.ctx = false) (hin : ∀ j ∈ firedElems m f, (f.iter + j) % 65536 ≤ 31) : pieceFault s m f w l = none := by
  have hfind : ((firedElems m f).find? fun j => decide (31 < (f.iter + j) % 65536)) = none :=
    List.find?_eq_none.mpr fun j hj => by simpa using hin j hj
  simp only [pieceFault, hl, hw, hloop, hfind, Bool.false_and, Bool.false_eq_true, if_false, Option.map_none, ite_self]

theorem operandFault_index {f : Firing} {a : Token} (w : Width) (ha : f.a = some a) (hb : f.b = none) (hc : f.c = none) (hw : a.ew = w) :
    operandFault f (fun q => if q == Port.a then some w else none) [] .pass = none :=
  operandFault_none f _ _ _ (by simp [widthBad, operand, ha, hb, hc, hw]) rfl

/-- Settles O17: each passes its checks and issues; an address is the base register and the offset modulo 2^64. -/
theorem loadsAndStoresIssueAccesses : Obligations.LoadsAndStoresIssueAccesses := by
  intro m l t b y q k s f x a hact hx ha hb hc
  have hbase := baseReg_ctx b.toNat hx
  refine ⟨fun hw => ?_, fun hw hone hloop => ?_, fun hw hone hl => ?_, fun hw hl hloop hin => ?_⟩
  · have hfault : indexFault s false f = none := indexFault_none false (operandFault_index .w32 ha hb hc hw) nofun nofun
    exact (onFire_acts m s f _ _ _ hact).trans (by simp only [hfault, hbase]; rfl)
  · have hfault : indexFault s true f = none := indexFault_none true (operandFault_index .w32 ha hb hc hw) (fun _ => hone) fun _ => hloop
    exact (onFire_acts m s f _ _ _ hact).trans (by simp only [hfault, hbase]; rfl)
  · have hfault := storeFault_none (operandFault_index _ ha hb hc hw) hone hl
    exact (onFire_acts m s f _ _ _ hact).trans (by simp only [hfault, hbase]; rfl)
  · have hfault := pieceFault_none (operandFault_index _ ha hb hc hw) hl hloop hin
    show execStV m l b y q k s = _
    simp only [execStV, hact.cur, hact.value, hfault, hact.fires, hact.noNull, hbase, Bool.false_eq_true, if_false]
    rfl

/-- An `amo` of one element issues its access (R231). -/
theorem amoFiring_issues {m : FireMode} {y : AmoTy} {s : State} {f : Firing} {a b : Token} (op : BitVec 3) (l : BitVec 5) (t : Target)
    (o : Ord) (sys : Bool) (hact : Acting m s f) (ha : f.a = some a) (hb : f.b = some b) (hc : f.c = none) (hw : a.ew = .w64)
    (hone : longOperand f = false) (hl : lsidBad s f l.toNat = false) (hbw : b.ew = tyWidth (amoTy y)) :
    amoFiring op m l t y o sys s = .next (memIssue s m f [t]
      ⟨.amo op y, amoTy y, tyWidth (amoTy y), widthBytes (tyWidth (amoTy y)), ordAcq o, ordRel o, sys, false, l.toNat⟩
      [⟨0, f.iter, elemAt f.a 0, elemNat f .b (tyWidth (amoTy y)) 0, 0⟩]) := by
  have hwidth : operandFault f (fun q => if q == Port.a then some .w64 else if q == Port.b then some (tyWidth (amoTy y)) else none) [] .pass =
      none := operandFault_none f _ _ _ (by simp [widthBad, operand, ha, hb, hc, hw, hbw]) rfl
  exact (onFire_acts m s f _ _ _ hact).trans (by simp only [storeFault_none hwidth hone hl]; rfl)

/-- Settles O18: each `amo` by its operation's number, `cas` by its own checks. -/
theorem atomicsIssueAccesses : Obligations.AtomicsIssueAccesses := by
  intro m l t y wide o sys s f a b hact ha hb hw hone hl
  have hacq : decide (o = .acq ∨ o = .acqRel) = ordAcq o := by cases o <;> rfl
  have hrel : decide (o = .rel ∨ o = .acqRel) = ordRel o := by cases o <;> rfl
  simp only [hacq, hrel]
  refine ⟨fun hbw hc => ?_, fun c hc hscale hbw hcw => ?_⟩
  · have issues := fun op => amoFiring_issues op l t o sys hact ha hb hc hw hone hl hbw
    exact ⟨issues 0, issues 1, issues 2, issues 3, issues 4, issues 5, issues 6⟩
  · have hwidth : operandFault f (fun q => if q == Port.a then some .w64 else if q == Port.p then none else some (if wide then .w64 else .w32))
        [.b, .c] .pass = none :=
      operandFault_none f _ _ _ (by simp [widthBad, operand, ha, hb, hc, hw, hbw, hcw])
        (scaleBad_none f _ _ b.scaled (by simp [inScale, scaleStates, operand, hb, hc, hscale]) (pass_admits _))
    exact (onFire_acts m s f _ _ _ hact).trans (by simp only [storeFault_none hwidth hone hl]; rfl)

end Sys2Proof.Machine
end

section
/-! PROOFS. An access in local HBM is performed at its ordering point (R223, R228 to R232, R288). -/

namespace Sys2Proof.Machine

/-! What leaves every byte of memory as it was. -/

theorem sameMemory_foldl {α : Type} {g : State → α → State} (h : ∀ s a, sameMemory s (g s a)) (l : List α) (s : State) :
    sameMemory s (l.foldl g s) := by
  induction l generalizing s with
  | nil => exact sameMemory_refl s
  | cons a l ih => exact sameMemory_trans _ _ _ (h s a) (ih (g s a))

theorem sameMemory_sendTokens (s : State) (c src born : Nat) (ts : List Target) (t : Token) : sameMemory s (sendTokens s c src born ts t) :=
  let ⟨_, _, h⟩ := sendTokens_sends s c src born ts t
  onlySends_memory _ _ _ h

theorem sameMemory_settle (s : State) (c : Nat) : sameMemory s (settle s c) :=
  (settle_sends s c).elim (onlySends_memory _ _ _) (onlySends_memory _ _ _)

theorem sameMemory_closeReply (s : State) (r : Reply) : sameMemory s (closeReply s r) := by
  unfold closeReply
  split
  · exact sameMemory_refl s
  · split
    · exact sameMemory_refl s
    · exact sameMemory_trans _ (setCtx s r.ctx _) _ (sameMemory_of_eq _ _ rfl rfl rfl)
        (sameMemory_foldl (fun _ _ => sameMemory_sendTokens _ _ _ _ _ _) _ _)

theorem sameMemory_deliverMem (s : State) (m : MemFire) : sameMemory s (deliverMem s m) :=
  sameMemory_trans _ _ _ (sameMemory_foldl (fun _ _ => sameMemory_sendTokens _ _ _ _ _ _) _ s)
    (sameMemory_trans _ _ _ (sameMemory_of_eq _ _ rfl rfl rfl) (sameMemory_closeReply _ m.reply))

theorem sameMemory_accDone (s : State) (a : Access) (vals : List (Nat × Nat)) (own : BitVec 5) : sameMemory s (accDone s a vals own) := by
  refine sameMemory_trans _ _ _ (sameMemory_of_eq s (modMemFire (dropAcc s a.id) a.fire _) rfl rfl rfl) (sameMemory_foldl (fun s id => ?_) _ _)
  dsimp only
  split
  · exact sameMemory_of_eq _ _ rfl rfl rfl
  · split
    · exact sameMemory_trans _ _ _ (sameMemory_of_eq _ _ rfl rfl rfl) (sameMemory_deliverMem _ _)
    · exact sameMemory_of_eq _ _ rfl rfl rfl

/-! Bytes written at the position of an access. -/

/-- What a write of `bs` at `pa` leaves: those bytes of HBM, and every other byte of memory as it was. -/
def writesHbm (s t : State) (pa : Nat) (bs : List Byte) : Prop :=
  (∀ p, hbmByte t p = if pa ≤ p ∧ p < pa + bs.length then bs.getD (p - pa) 0 else hbmByte s p) ∧
    (∀ p, sramByte t p = sramByte s p) ∧ ∀ p, memByte t.hostMem p = memByte s.hostMem p

theorem writesHbm_then {s t u : State} {pa : Nat} {bs : List Byte} (h : writesHbm s t pa bs) (k : sameMemory t u) : writesHbm s u pa bs :=
  ⟨fun p => (k.1 p).trans (h.1 p), fun p => (k.2.1 p).trans (h.2.1 p), fun p => (k.2.2 p).trans (h.2.2 p)⟩

/-- No byte of the context was set aside for a position above the access's. -/
def noneAbove (s : State) (a : Access) : Prop := ∃ x, ctxAt s a.ctx = some x ∧ ∀ e ∈ x.undo, e.2.1 ≤ a.lsid

theorem undoAbove_none {x : Ctx} {l : Nat} (key : Nat) (h : ∀ e ∈ x.undo, e.2.1 ≤ l) : undoAbove x key l = none := by
  unfold undoAbove
  generalize hu : x.undo = u at h
  clear hu
  induction u with
  | nil => rfl
  | cons e u ih =>
    have he : ¬ (e.1 = key ∧ l < e.2.1) := fun hk => absurd (h e (by simp)) (by omega)
    rw [List.foldl_cons, if_neg he]
    exact ih fun d hd => h d (by simp [hd])

/-- One byte written where nothing is set aside above: it is in HBM, and what it replaced may be set aside at its own position (R224). -/
theorem putByte_writes {s : State} {a : Access} (pa i : Nat) (v : Byte) (h : noneAbove s a) :
    noneAbove (putByte s a (.hbm pa) i v) a ∧ writesHbm s (putByte s a (.hbm pa) i v) (pa + i) [v] := by
  obtain ⟨x, hx, hle⟩ := h
  have hnone : (if a.entry = x.entry then undoAbove x (2 * (pa + i)) a.lsid else none) = none := by
    rw [undoAbove_none _ hle, ite_self]
  simp only [putByte, hx, undoKey, hnone]
  split
  · refine ⟨⟨_, (ctxAt_setCtx _ _ _ _).trans (if_pos rfl), fun e he => ?_⟩, fun p => hbmByte_hbmWrite _ _ _ p, fun _ => rfl, fun _ => rfl⟩
    rcases List.mem_append.mp he with he | he
    · exact hle e he
    · simp_all
  · exact ⟨⟨x, hx, hle⟩, fun p => hbmByte_hbmWrite _ _ _ p, fun _ => rfl, fun _ => rfl⟩

theorem writesHbm_append {s t u : State} {pa : Nat} {bs cs : List Byte} (h : writesHbm s t pa bs) (k : writesHbm t u (pa + bs.length) cs) :
    writesHbm s u pa (bs ++ cs) := by
  refine ⟨fun p => ?_, fun p => (k.2.1 p).trans (h.2.1 p), fun p => (k.2.2 p).trans (h.2.2 p)⟩
  rw [k.1 p, h.1 p]
  simp only [List.length_append, List.getD_eq_getElem?_getD]
  by_cases hfirst : pa ≤ p ∧ p < pa + bs.length
  · rw [if_neg (by omega), if_pos hfirst, if_pos (by omega), List.getElem?_append_left (by omega)]
  · by_cases hlast : pa + bs.length ≤ p ∧ p < pa + bs.length + cs.length
    · rw [if_pos hlast, if_pos (by omega), List.getElem?_append_right (by omega), Nat.sub_sub]
    · rw [if_neg hlast, if_neg hfirst, if_neg (by omega)]

theorem putBytes_writes {a : Access} (pa : Nat) (bs : List Byte) (k : Nat) {s : State} (h : noneAbove s a) :
    writesHbm s ((bs.zipIdx k).foldl (fun s e => putByte s a (.hbm pa) e.2 e.1) s) (pa + k) bs := by
  induction bs generalizing s k with
  | nil => exact ⟨fun p => (if_neg (by simp)).symm, fun _ => rfl, fun _ => rfl⟩
  | cons v bs ih =>
    obtain ⟨habove, hwrites⟩ := putByte_writes pa k v h
    exact writesHbm_append hwrites (ih (k + 1) habove)

/-- The one local part of a store written (R229). -/
theorem storeParts_writes {s : State} {a : Access} {pa n : Nat} {kind : BitVec 2} (bs : List Byte) (sb : BitVec 5)
    (hparts : a.parts = [(.hbm pa, n, kind, false)]) (hlen : bs.length = n) (h : noneAbove s a) :
    writesHbm s (storeParts s a bs sb) pa bs := by
  have hstore : storeParts s a bs sb = bs.zipIdx.foldl (fun s e => putByte s a (.hbm pa) e.2 e.1) s := by
    simp [storeParts, hparts, partsFrom, writeAt, ← hlen]
  rw [hstore]
  exact putBytes_writes pa bs 0 h

theorem storeBytes_length (a : Access) : (storeBytes a).length = a.size := by
  unfold storeBytes
  split
  case isTrue h => simp [leBytes_length, h]
  case isFalse => exact leBytes_length _ _

/-! The access of the statement: one part in local HBM, unordered, not looked at by the race checker. -/

theorem atomicCause_none {x : Ctx} (a : Access) {own : BitVec 5} (hown : own &&& x.eenable = 0) : atomicCause x a own = none := by
  simp only [atomicCause, hown, enableCause_zero, ite_self]

/-- What the statement of R288 assumes of the access that its context performs. -/
structure Local (s : State) (a : Access) (x : Ctx) (pa n : Nat) (kind : BitVec 2) : Prop where
  ctx : ctxAt s a.ctx = some x
  acq : a.acq = false
  rel : a.rel = false
  actor : x.actor = none
  undo : x.undo = []
  parts : a.parts = [(.hbm pa, n, kind, false)]
  size : n = a.size
  stack : stackReady s pa = true
  good : badGranule s a = none

section
variable {s : State} {a : Access} {x : Ctx} {pa n : Nat} {kind : BitVec 2} (h : Local s a x pa n kind)
include h

theorem Local.noneAbove : noneAbove s a := ⟨x, h.ctx, by simp [h.undo]⟩

theorem Local.withRace (stores : Bool) (go : State → State) : withRace s a stores go = go s := by
  have hlines : raceLines a = [] := by simp [raceLines, h.parts, partsFrom]
  simp [Machine.withRace, raceAccess, h.ctx, hlines, raceOf, relScope, h.rel, h.actor]

theorem Local.allBytes : allBytes s x a a.parts.zipIdx = some (hbmRead s pa n) := by
  simp [h.parts, Machine.allBytes, readAt, placeRead, h.undo]

theorem Local.acquired (t : State) : acquired t x a = t := by simp [Machine.acquired, acqScope, h.acq]

theorem Local.placeWaits : placeWaits s x a = false := by simp [Machine.placeWaits, h.parts, partsFrom, h.stack]

theorem Local.performLoad (m : MemFire) : performLoad s x a m = accDone s a (loadVals m a (hbmRead s pa n)) 0 := by
  simp only [Machine.performLoad, h.allBytes, h.withRace, h.acquired]

theorem Local.performStore (sb : BitVec 5) : performStore s x a sb = accDone (storeParts s a (storeBytes a) sb) a [] 0 := by
  have hremote : hasRemote a = false := by simp [hasRemote, h.parts]
  have hsend : sendParts s a x.group ((partsFrom 0 a.parts).zipIdx) = .ok s := by simp [h.parts, partsFrom, sendParts]
  simp [Machine.performStore, h.withRace, hremote, hsend]

/-- An atomic with a new value writes it (R231, R232). -/
theorem Local.performAtomic_writes {v : Nat} {own : BitVec 5} (m : MemFire) (hnew : atomicNew a (leNat (hbmRead s pa n)) = (some v, own))
    (hown : own &&& x.eenable = 0) : writesHbm s (performAtomic s x a m) pa (leBytes n v) := by
  simp only [performAtomic, h.allBytes, hnew, atomicCause_none a hown, h.withRace, h.acquired, ← h.size]
  exact writesHbm_then (storeParts_writes _ _ h.parts (leBytes_length _ _) h.noneAbove)
    (sameMemory_trans _ _ _ (sameMemory_of_eq _ (sinkBits _ _ _) rfl rfl rfl) (sameMemory_accDone _ _ _ _))

/-- A `cas` whose bytes differ from what it compares with writes nothing (R232). -/
theorem Local.performAtomic_keeps {own : BitVec 5} (m : MemFire) (hnew : atomicNew a (leNat (hbmRead s pa n)) = (none, own))
    (hown : own &&& x.eenable = 0) : sameMemory s (performAtomic s x a m) := by
  simp only [performAtomic, h.allBytes, hnew, atomicCause_none a hown, h.withRace, h.acquired]
  exact sameMemory_trans _ _ _ (sameMemory_of_eq _ (sinkBits _ _ _) rfl rfl rfl) (sameMemory_accDone _ _ _ _)

end

theorem writesHbm_read {s t : State} (pa n : Nat) (h : sameMemory s t) : writesHbm s t pa (hbmRead s pa n) := by
  refine ⟨fun p => ?_, h.2.1, h.2.2⟩
  have hlen : (hbmRead s pa n).length = n := memRead_length _ _ _
  rw [h.1 p, hlen]
  split
  case isFalse => rfl
  case isTrue hin =>
    rw [List.getD_eq_getElem?_getD, hbmRead, memRead_byte _ _ _ _ (by omega), Nat.add_sub_cancel' hin.1]
    rfl

/-- Settles O19: the access's turn has come, so it is performed; its bytes go to HBM one by one, and nothing else reaches memory. -/
theorem accessesArePerformed : Obligations.AccessesArePerformed := by
  intro s id pa n kind a x m hacc hctx hfire hheld hwalked hmay hacq hrel hactor hundo hparts hsize hstack hgood
  have h : Local s a x pa n kind := ⟨hctx, hacq, hrel, hactor, hundo, hparts, hsize, hstack, hgood⟩
  have hgo : execAccessPerformed id s = .next (settle (performAccess s x a) a.ctx) := by
    simp [execAccessPerformed, hacc, hctx, hheld, hwalked, hmay]
  have performs : ∀ bs, bs.length = n → writesHbm s (performAccess s x a) pa bs →
      ∃ t, execAccessPerformed id s = .next t ∧ (∀ p, hbmByte t p = if pa ≤ p ∧ p < pa + n then bs.getD (p - pa) 0 else hbmByte s p) ∧
        (∀ p, sramByte t p = sramByte s p) ∧ ∀ p, memByte t.hostMem p = memByte s.hostMem p := by
    intro bs hlen hw
    subst hlen
    exact ⟨_, hgo, writesHbm_then hw (sameMemory_settle _ _)⟩
  refine ⟨fun hk => ?_, fun hk => ?_, fun op y hk hown => ?_, fun wide hk => ?_⟩
  · have hload : performAccess s x a = accDone s a (loadVals m a (hbmRead s pa n)) 0 := by
      simp only [performAccess, h.placeWaits, hgood, hk, hfire, h.performLoad]; rfl
    exact ⟨hload ▸ hgo, sameMemory_trans _ _ _ (sameMemory_accDone _ _ _ _) (sameMemory_settle _ _)⟩
  · have hstore : performAccess s x a = accDone (storeParts s a (storeBytes a) m.reply.sb) a [] 0 := by
      simp only [performAccess, h.placeWaits, hgood, hk, hfire, h.performStore]; rfl
    have hlen : (storeBytes a).length = n := (storeBytes_length a).trans hsize.symm
    exact performs _ hlen (hstore ▸ writesHbm_then (storeParts_writes _ _ hparts hlen h.noneAbove) (sameMemory_accDone _ _ _ _))
  · have hamo : performAccess s x a = performAtomic s x a m := by
      simp only [performAccess, h.placeWaits, hgood, hk, hfire]; rfl
    exact performs _ (leBytes_length _ _) (hamo ▸ h.performAtomic_writes m (by simp only [atomicNew, hk]) hown)
  · have hcas : performAccess s x a = performAtomic s x a m := by
      simp only [performAccess, h.placeWaits, hgood, hk, hfire]; rfl
    by_cases hsame : leNat (hbmRead s pa n) = a.val.toNat
    · rw [if_pos hsame]
      exact performs _ (leBytes_length _ _) (hcas ▸ h.performAtomic_writes m (by simp only [atomicNew, hk, if_pos hsame]; rfl) BitVec.zero_and)
    · rw [if_neg hsame]
      exact performs _ (memRead_length _ _ _)
        (hcas ▸ writesHbm_read pa n (h.performAtomic_keeps m (by simp only [atomicNew, hk, if_neg hsame]; rfl) BitVec.zero_and))

end Sys2Proof.Machine
end

section
/-! PROOFS. Fences, base registers and apertures (R127, R200, R234 to R237). -/

namespace Sys2Proof.Machine

/-! Fences (R234, R235). -/

/-- A fence whose waits are met leaves and answers, once the race checker has fenced its scope (R234, R338). -/
theorem fenceComplete_answers {s s1 : State} {r : FenceRec} {x : Ctx} (hr : s.fences.find? (fenceReady s) = some r)
    (hfenced : (if r.waive then .ok s else ctxFence s r.reply.ctx (scopeCode r.scope)) = Raced.ok s1) (hx : ctxAt s1 r.reply.ctx = some x) :
    let gone := { s1 with fences := s1.fences.filter fun g => g.id != r.id }
    let dropped := if r.scope = .system then dropLines gone x.group else gone
    let u := settle (answer dropped r.reply 0 .w32) r.reply.ctx
    execFenceComplete s = .next (if u.fences.isEmpty then u else pushEvOnce u .fenceComplete) := by
  have hx' : ctxAt { s1 with fences := s1.fences.filter fun g => g.id != r.id } r.reply.ctx = some x := hx
  simp only [execFenceComplete, hr, hfenced, hx']

/-- A reply that is owed changes nothing that a `qfence` looks at (R235). -/
theorem queueOps_openReply (s : State) (m : FireMode) (f : Firing) (ts : List Target) (mask : Nat) :
    queueOps (openReply s m f ts).1 f.ctx mask = queueOps s f.ctx mask := by
  rw [openReply_state]
  split
  · rfl
  · rw [queueOps, queueOps, ctxOps, ctxOps, ctxAt_modCtx, if_pos rfl]
    cases ctxAt s f.ctx <;> rfl

/-- Settles O20: a fence joins and leaves by its own branch; a waived one is not fenced again. -/
theorem fencesWaitAndAnswer : Obligations.FencesWaitAndAnswer := by
  intro m l t scope level mask s
  refine ⟨fun f x hact hx => ⟨?_, ?_, ?_⟩, fun r x s1 hr hfence hwaived hx => ?_, fun q hq => ?_⟩
  · exact (onFire_acts m s f _ _ _ hact).trans (by simp only [hx]; rfl)
  · rw [queueOps_openReply]
    intro hnone
    exact (onFire_acts m s f _ _ _ hact).trans (by simp only [hnone]; rfl)
  · rw [queueOps_openReply]
    intro hsome
    exact (onFire_acts m s f _ _ _ hact).trans (by simp only [List.isEmpty_iff, if_neg hsome]; rfl)
  · refine fenceComplete_answers hr ?_ hx
    cases hw : r.waive
    case false => exact hfence hw
    case true => exact congrArg Raced.ok (hwaived hw).symm
  · show execQfenceComplete s = _
    simp only [execQfenceComplete, hq]

/-! Base registers (R127, R236). -/

theorem bset_keeps {m : FireMode} {s : State} {f : Firing} {v : Dbl} (n : BitVec 4) (h : Acting m s f) (hv : oneValue f .w64 v) :
    execBset m n s = .next (modCtx s f.ctx fun x => { x with bsets := x.bsets ++ [(f.inst, n.toNat, v)] }) := by
  obtain ⟨-, -, hfirst⟩ := oneValue_elem m f _ _ h.fires hv
  exact (onFire_acts m s f _ _ _ h).trans (by simp [oneElem_ok f _ _ hv, hfirst])

theorem badd_keeps {m : FireMode} {s : State} {f : Firing} {v : Dbl} (n : BitVec 4) (h : Acting m s f) (hv : oneValue f .w32 v)
    (hlt : v.toNat < 2 ^ 32) :
    execBadd m n s = .next (modCtx s f.ctx fun x => { x with badds := x.badds ++ [(n.toNat, (v.setWidth 32).signExtend 64)] }) := by
  obtain ⟨-, -, hfirst⟩ := oneValue_elem m f _ _ h.fires hv
  have hword : BitVec.ofNat 64 (wrap 64 (signed 32 v.toNat)) = (v.setWidth 32).signExtend 64 := by
    have hlow : v.toNat = (v.setWidth 32).toNat := by rw [BitVec.toNat_setWidth, Nat.mod_eq_of_lt hlt]
    rw [hlow, signed_toNat (by decide), wrap_eq_ofInt, BitVec.ofNat_toNat, BitVec.setWidth_eq]
    rfl
  exact (onFire_acts m s f _ _ _ h).trans (by simp only [oneElem_ok f _ _ hv, hfirst, hword])

/-! Apertures (R200, R237). -/

/-- An operation on one double without a scale state or bits of its own, whose result the family `v` gives. -/
theorem unscaled_gives {m : FireMode} {s : State} {f : Firing} (t : Target) (w : Width) (g : Nat → Nat) (v : Nat → Nat) (h : Acting m s f)
    (hw : hasWidths f .w64 .w64 .w64) (hv : ∀ j, g (elemNat f .a .w64 j) = v j) :
    compute ⟨some .w64, .w64, .w64, [], .pass, some w, some false, fun a _ _ => (g a, 0)⟩ m [t] s =
      .next (delivered s m f [t] w false v fun _ => 0) := by
  let op : CompOp := ⟨some .w64, .w64, .w64, [], .pass, some w, some false, fun a _ _ => (g a, 0)⟩
  refine (compute_delivers op m [t] s f w false h (widthBad_none f _ _ _ _ hw (.inl rfl) (.inl rfl) (.inl rfl)) rfl
    (noTrap_zero m s f) rfl rfl).trans (congrArg Host.Outcome.next (delivered_congr _ _ _ _ _ _ _ _ _ _ (fun j => ?_) fun _ => rfl))
  exact congrArg (· % 2 ^ widthBits w) (hv j)

theorem bitsOf_eq_zero (v : Dbl) (hi lo : Nat) : bitsOf v.toNat hi lo = 0 ↔ v.extractLsb' lo (hi + 1 - lo) = 0 := by
  rw [← extract_bitsOf]
  exact ⟨fun h => BitVec.eq_of_toNat_eq h, fun h => by rw [h]; rfl⟩

/-- The top byte of an address, that tells its aperture (R200). -/
theorem bitsOf_top (v : Dbl) : bitsOf v.toNat 63 56 = (v.extractLsb' 56 8).toNat := (extract_bitsOf v 63 56).symm

theorem isapOf_iff (ap : Ap) (v : Dbl) : isapOf ap v.toNat = true ↔ match ap with
    | .glob => (v.extractLsb' 56 8).toNat = 0
    | .lf => (v.extractLsb' 56 8).toNat = 0xE0 ∧ v.extractLsb' 32 24 = 0
    | .grp => (v.extractLsb' 56 8).toNat = 0xE8 ∧ v.extractLsb' 25 31 = 0
    | .dev => (v.extractLsb' 56 8).toNat = 0xEC ∧ v.extractLsb' 54 2 = 0 ∧ v.extractLsb' 25 24 = 0 := by
  simp only [isapOf, bitsOf_top, Bool.and_eq_true, beq_iff_eq]
  cases ap <;> simp only [apTop, Bool.and_eq_true, beq_iff_eq, bitsOf_eq_zero, and_true]

theorem ofNat_elemNat (f : Firing) (j : Nat) : (BitVec.ofNat 64 (elemNat f .a .w64 j)).toNat = elemNat f .a .w64 j := by
  rw [BitVec.toNat_ofNat, Nat.mod_eq_of_lt]
  exact Nat.mod_lt _ (by decide)

/-- Settles O21: what is kept for the commit, and the two families of results. -/
theorem baseRegistersAndApertures : Obligations.BaseRegistersAndApertures := by
  intro m n t ap v s f h
  refine ⟨bset_keeps n h, badd_keeps n h, fun hw => ⟨?_, fun v hv => unscaled_gives t .w32 _ v h hw fun j => ?_⟩⟩
  · refine Eq.trans ?_ (unscaled_gives t .w64 (cvtaOf (groupOf s f.ctx) ap) _ h hw fun j => ?_)
    · show execCvta m t ap s = _
      simp only [execCvta, h.cur]
    · rw [← ofNat_elemNat]
      simp only [cvtaOf, bitsOf_top, bitsOf_eq_zero]
      simp only [← extract_bitsOf]
      cases ap with
      | grp => simp only [ite_or]; rfl
      | glob | lf | dev => rfl
  · obtain ⟨hin, hout⟩ := hv j
    rw [← ofNat_elemNat]
    by_cases hlies : isapOf ap (BitVec.ofNat 64 (elemNat f .a .w64 j)).toNat = true
    · rw [if_pos hlies, hin ((isapOf_iff ap _).mp hlies)]
    · rw [if_neg hlies, hout ((isapOf_iff ap _).not.mp hlies)]

end Sys2Proof.Machine
end

section
/-! PROOFS. TLB invalidation, translations and migrations (R207 to R214). -/

namespace Sys2Proof.Machine

/-! CSR fields that the device sets. -/

theorem tabGet_tabSet_ne {α : Type} [DecidableEq α] (d : Nat → α) (t : Tab α) (k : Nat) {v : α} (h : v ≠ d k) :
    tabGet d (tabSet d t k v) k = v := by
  simp [tabGet, tabSet, h, tabFind_tabPut]

/-- A field that the device sets to another value than its reset value reads as it was set. -/
theorem csrBits_csrPoke (s : State) {num hi lo x : Nat} (hhi : hi < 64) (hx : x < 2 ^ (hi + 1 - lo))
    (hreset : bitsOf (csrReset num).toNat hi lo ≠ x) : csrBits (csrPoke s num hi lo x) num hi lo = x := by
  have hfield : bitsOf (BitVec.ofNat 64 (putBits (csrGet s num).toNat hi lo x)).toNat hi lo = x := by
    apply Nat.eq_of_testBit_eq
    intro i
    rw [testBit_bitsOf, BitVec.toNat_ofNat, Nat.testBit_mod_two_pow, testBit_putBits]
    by_cases hin : i < hi + 1 - lo
    · simp [hin, show lo + i < 64 by omega, show lo + i ≤ hi by omega]
    · have hbit : x.testBit i = false :=
        Nat.testBit_lt_two_pow (hx.trans_le (Nat.pow_le_pow_right (by decide) (by omega)))
      simp [hin, hbit]
  have hne : BitVec.ofNat 64 (putBits (csrGet s num).toNat hi lo x) ≠ csrReset num := fun h => hreset (h ▸ hfield)
  rw [csrBits, csrGet, csrPoke, csrSet, tabGet_tabSet_ne _ _ _ hne, hfield]

/-! TLB invalidation (R212). -/

theorem invalidateTlbs_presses (s : State) (scope ten page : Nat) : ∀ p ∈ (invalidateTlbs s scope ten page).presses, ∀ e ∈ p.2.tlb,
    underInvalidation scope ten page e.ten e.va e.size = false := by
  simp only [invalidateTlbs, List.mem_map]
  rintro _ ⟨p, -, rfl⟩ e he
  simpa [tlbWithout] using (List.mem_filter.mp he).2

theorem invalidateTlbs_groups (s : State) (scope ten page : Nat) : ∀ g ∈ (invalidateTlbs s scope ten page).groups, ∀ e ∈ g.2.tlb,
    underInvalidation scope ten page e.ten e.va e.size = false := by
  simp only [invalidateTlbs, List.mem_map]
  rintro _ ⟨g, -, rfl⟩ e he
  simpa [tlbWithout] using (List.mem_filter.mp he).2

/-- Where nothing translated through the addressed entries is left, no access is translated again (R212). -/
theorem mapWhere_none {α : Type} {p : α → Bool} (g : α → α) {l : List α} (h : ∀ a ∈ l, p a = false) : mapWhere p g l = l := by
  unfold mapWhere
  exact (List.map_congr_left fun a ha => by simp [h a ha]).trans l.map_id

/-- TLB_INVALIDATE_DONE with an invalidation at work: no TLB keeps an addressed entry, and it ends once nothing translated through them is
left; where that holds already no access is changed (R212). -/
theorem tlbInvalidateDone_cases {s : State} {scope : BitVec 2} {ten page : Nat} (hs : s.invalidating = some (scope, ten, page)) :
    ∃ l : List Access, ((∀ a ∈ s.accesses, accUnder s scope.toNat ten page a = false) → l = s.accesses) ∧
      execTlbInvalidateDone s = .next (if l.any (accUnder s scope.toNat ten page) || s.xfers.any (writeUnder s scope.toNat ten)
        then pushEvOnce { invalidateTlbs s scope.toNat ten page with accesses := l } .tlbInvalidateDone
        else csrPoke { invalidateTlbs s scope.toNat ten page with accesses := l, invalidating := none } 0x364 62 62 1) := by
  simp only [execTlbInvalidateDone, hs]
  exact ⟨_, fun h => mapWhere_none _ fun a ha => by simp [h a ha], rfl⟩

/-- Settles O23: the entries go at once, and DONE sets with the last access and write translated through them. -/
theorem tlbInvalidation : Obligations.TlbInvalidation := by
  intro s
  refine ⟨⟨rfl, rfl, rfl⟩, fun scope ten page hs => ?_⟩
  obtain ⟨l, hkept, hgo⟩ := tlbInvalidateDone_cases hs
  refine ⟨_, hgo, ?_, ?_, fun haccs hxfers => ?_⟩
  · split
    · simpa using invalidateTlbs_presses s scope.toNat ten page
    · exact invalidateTlbs_presses s scope.toNat ten page
  · split
    · simpa using invalidateTlbs_groups s scope.toNat ten page
    · exact invalidateTlbs_groups s scope.toNat ten page
  · have hdone : ¬ (l.any (accUnder s scope.toNat ten page) || s.xfers.any (writeUnder s scope.toNat ten)) = true := by
      rw [hkept haccs]
      simpa using ⟨haccs, hxfers⟩
    rw [if_neg hdone]
    exact ⟨rfl, csrBits_csrPoke _ (by decide) (by decide) (by decide)⟩

/-! Translations (R207 to R211). -/

/-- The end of a walk whose parts all pass: the pages are marked, their uses counted, and the access is accepted (R210). -/
theorem translate_accepts {s : State} {a : Access} {x : Ctx} {l : List (Spot × Nat × Nat)} (hx : ctxAt s a.ctx = some x)
    (hrun : x.frozen = none) (htop : a.addr.extractLsb' 56 8 = 0) (halign : isAtomic a = true → a.addr.toNat % a.size = 0)
    (hl : spotsFind s (some (x.press, x.group)) x.ten (wayOf a.kind) (partsOf a.addr.toNat a.size) = .ok l) :
    translate s true a = accept (l.foldl (fun s e => countUse s x.group x.ten e.2.1 e.1)
      (spotsMark s (some (x.press, x.group)) x.ten (wayOf a.kind) l)) a
      (l.map fun e => (spotPlace e.1, e.2.2, BitVec.ofNat 2 e.1.kind, e.1.checked)) := by
  have htop' : bitsOf a.addr.toNat 63 56 = 0 := (bitsOf_eq_zero _ _ _).mpr htop
  have hlow : a.addr.toNat % 2 ^ 56 = a.addr.toNat := by
    have := a.addr.isLt
    simp only [bitsOf] at htop'
    omega
  have hword : (isAtomic a && decide (a.addr.toNat % a.size ≠ 0)) = false := by
    cases h : isAtomic a <;> simp [halign, h]
  simp only [translate, hx, hrun, htop', hlow, hword, hl]
  rfl

/-! Migrations (R214). -/

theorem bitsOf_mod_two_pow (v hi lo : Nat) (h : hi < 64) : bitsOf (v % 2 ^ 64) hi lo = bitsOf v hi lo := by
  apply Nat.eq_of_testBit_eq
  intro i
  rw [testBit_bitsOf, testBit_bitsOf, Nat.testBit_mod_two_pow]
  by_cases hin : i < hi + 1 - lo
  · simp [show lo + i < 64 by omega]
  · simp [hin]

/-- A PTE with its new frame, in mode 00 and with peer 0 (R214). -/
def movedPte (pte frame : Nat) : Nat := putBits (putBits (putBits pte 57 56 0) 54 41 0) 31 0 frame

theorem movedPte_fields (pte : Nat) {frame : Nat} (h : frame < 2 ^ 32) : bitsOf (movedPte pte frame) 31 0 = frame ∧
    bitsOf (movedPte pte frame) 57 56 = 0 ∧ bitsOf (movedPte pte frame) 54 41 = 0 := by
  refine ⟨bitsOf_putBits_of_lt _ h, ?_, ?_⟩
  · rw [movedPte, bitsOf_putBits_disjoint _ _ (.inl (by decide)), bitsOf_putBits_disjoint _ _ (.inl (by decide)), bitsOf_putBits]
    rfl
  · rw [movedPte, bitsOf_putBits_disjoint _ _ (.inl (by decide)), bitsOf_putBits]
    rfl

/-- The state in which the event of a migration that has copied its page is sent. -/
def movedState (s : State) (ten va : Nat) (m : Migration) (l : List Access) : State :=
  { invalidateTlbs { hbmPutDbl s m.pteAddr (movedPte (hbmDbl s m.pteAddr) m.newFrame) with
      migrations := s.migrations.filter fun k => !(k.ten == ten && k.va == va) } 0 ten va with accesses := l }

theorem migrationComplete_moves {s s1 : State} {ten va : Nat} {m : Migration} {bs : List Byte}
    (hm : s.migrations.find? (fun m => m.ten == ten && m.va == va) = some m) (haccs : ∀ a ∈ s.accesses, a.sent = true → accIn s ten va a = false)
    (hfail : remoteFail s (2 ^ 44 + va) = none)
    (hread : remoteRead 600 s (2 ^ 44 + va) m.peer (m.oldFrame * 65536) 65536 = (s1, .ok bs)) :
    ∃ s2 l, execMigrationComplete ten va s = .next (pfEvent (movedState s2 ten va m l)
      { recOf 0x108 with ten := ten, addr := va, aux := m.peer, ntok := 2, items := [m.oldFrame, m.newFrame] }) := by
  have hgone : (s.accesses.any fun a => a.sent && accIn s ten va a) = false := by simpa using haccs
  simp only [execMigrationComplete, hm, hgone, hfail, hread]
  exact ⟨_, _, rfl⟩

/-- Settles O22: the walk's end by the translation that passes, the migration by the state in which its event is sent. -/
theorem translationsAndMigrationsEnd : Obligations.TranslationsAndMigrationsEnd := by
  refine ⟨fun s id a x l hacc hwalk hx hrun htop halign hl => ?_, fun s s1 ten va m bs hm haccs hfail hframe hread => ?_⟩
  · show execPageWalkComplete id s = _
    simp only [execPageWalkComplete, hacc, hwalk, Bool.false_eq_true, if_false, translate_accepts hx hrun htop halign hl]
    rfl
  · obtain ⟨s2, l, hgo⟩ := migrationComplete_moves hm haccs hfail hread
    have hpte : hbmDbl (movedState s2 ten va m l) m.pteAddr = movedPte (hbmDbl s2 m.pteAddr) m.newFrame % 2 ^ 64 :=
      hbmDbl_hbmPutDbl s2 m.pteAddr _
    refine ⟨_, hgo, ?_, fun k hk hten hva => ?_, invalidateTlbs_presses _ 0 ten va, invalidateTlbs_groups _ 0 ten va⟩
    · rw [hpte, bitsOf_mod_two_pow _ _ _ (by decide), bitsOf_mod_two_pow _ _ _ (by decide), bitsOf_mod_two_pow _ _ _ (by decide)]
      exact movedPte_fields _ hframe
    · have hkept := (List.mem_filter.mp hk).2
      simp [hten, hva] at hkept

end Sys2Proof.Machine
end

section
/-! PROOFS. Graver and matrix operations (R243 to R252). -/

namespace Sys2Proof.Machine

/-- An operation's event acts where its context is there, not frozen, and nothing stalls it (R220). -/
theorem withOp_acts {s : State} {id p : Nat} {o : EngOp} {x : Ctx} (go : State → Nat → EngOp → Ctx → State) (ho : opAt s id = some (p, o))
    (hx : ctxAt s o.ctx = some x) (hrun : x.frozen = none) (hstall : o.stalled = false) : withOp s id go = .next (go s p o x) := by
  simp [withOp, ho, hx, hrun, hstall]

/-- Settles O29: each piece of work by its own branch. -/
theorem graverOperations : Obligations.GraverOperations := by
  intro s id p o x ho hx hrun hstall
  have acts : execGraverStream id s = _ := withOp_acts _ ho hx hrun hstall
  refine ⟨fun desc s1 s2 bs e hk hpos hfetch hgood htensor hring => ?_, fun st start c hk hc => ?_,
    fun st start c s1 vals e hk hstore hringed hpos hvals hreads => ?_⟩
  · refine acts.trans ?_
    have hring' : ((gvConfig (dblsOf bs) e false o.tid).ringed && (ringOf x (gvConfig (dblsOf bs) e false o.tid).ring).isNone) = false := by
      cases h : (gvConfig (dblsOf bs) e false o.tid).ringed <;> simp [hring, h]
    simp only [hk, hpos, gvConfigure, hfetch, htensor, engGot, opThen, hgood, hring']
    rfl
  · refine acts.trans ?_
    simp only [hk, gvRun, hc]
  · refine acts.trans ?_
    have hdata : (o.data ++ vals.flatMap fun v => leBytes 8 (widen (tdtTy c.tdt) v)).isEmpty = false := by
      obtain ⟨v, vs, rfl⟩ := List.exists_cons_of_ne_nil hvals
      simp [leBytes]
    have hmoved : ¬ e = o.pos := by omega
    simp only [hk, gvRun, hstore, hringed, gvLoad, hreads, hdata, opThen, if_neg hmoved]
    rfl

/-! Matrix operations (R243 to R247). -/

/-- The first operation of a unit that is not held, stalled or of a frozen context is the one that is configured (R220). -/
theorem head_ready (s : State) (l : List EngOp) {o : EngOp} (h : l.find? (fun o => !o.held && !ctxFrozen s o.ctx && !o.stalled) = some o)
    (r : List EngOp) : (((l.filter fun o => !o.held).filter fun o => !ctxFrozen s o.ctx && !o.stalled) ++ r).head? = some o := by
  have hsame : (fun o : EngOp => !ctxFrozen s o.ctx && !o.stalled && !o.held) = fun o => !o.held && !ctxFrozen s o.ctx && !o.stalled := by
    funext o
    cases o.held <;> simp
  rw [List.head?_append, List.filter_filter, List.head?_filter, hsame, h]
  rfl

/-- The first operation that is ready goes to a free unit (R220, R243). -/
theorem mxConfigure_ready {s : State} {p u q desc k : Nat} {o : EngOp} {x : Ctx} (hrun : x.frozen = none) (hfree : unitAt s p u = none)
    (hfirst : (runningOf s p u).find? (fun o => !o.held && !ctxFrozen s o.ctx && !o.stalled) = some o) (ho : opAt s o.id = some (q, o))
    (hx : ctxAt s o.ctx = some x) (hkind : o.kind = .matrix desc k) : execMxConfigure p u s = .next (mxSetup s q u o x desc) := by
  have hstall : o.stalled = false := by
    have := List.find?_some hfirst
    simp_all
  have hhead := head_ready s (runningOf s p u) hfirst ((((runningOf s p u).filter fun o => !o.held).filter fun o => !ctxFrozen s o.ctx) ++
    (runningOf s p u).filter fun o => !o.held)
  simp only [execMxConfigure, List.append_assoc, hhead, hfree]
  exact (withOp_acts _ ho hx hrun hstall).trans (by simp only [hkind])

/-- The block scale base of the first plate tile (R43, R245). -/
theorem plateScale (l : List (Nat × Nat × DirEntry)) : (match l with
    | [] => 0
    | t :: _ => signed 8 t.2.2.scale.toNat) = ((l.head?).map fun t => signed 8 t.2.2.scale.toNat).getD 0 := by
  cases l <;> rfl

/-- Settles O28: the parts of a configuration in their order, a firing by its parties, a staged output by its slot. -/
theorem matrixOperations : Obligations.MatrixOperations := by
  refine fun s p u x hrun => ⟨fun o desc k q a c b hfree hfirst ho hx hkind hlen => ?_, fun b hb hx => ⟨fun q s1 s2 l es => ?_, fun t r => ?_⟩⟩
  · intro part d ring path kt need tiles tb hdesc ha hc hbring hka hneed hplate hcode
    refine (mxConfigure_ready hrun hfree hfirst ho hx hkind).trans (congrArg Host.Outcome.next ?_)
    have hsecond : (if (bitsOf (d 0) 61 60 == 1) = true then ringOf x (bitsOf (d 0) 55 52) else ringOf x (bitsOf (d 0) 51 48)) =
        some (if ring then b else c) := by
      by_cases hring : ring <;> simp [hring, ring, hbring, hc]
    have hchecks : (decide (a.len < kt) || (bitsOf (d 0) 61 60 == 1) && decide ((if ring then b else c).len < need) ||
        !(bitsOf (d 0) 61 60 == 1) && mxPlateBad tiles need path o.tid) = false := by
      by_cases hring : ring <;> simp_all [ring]
    have hblocks : ((bitsOf (d 0) 61 60 == 1) && tdtBlocks tb) = false := by
      by_cases hring : ring <;> simp_all [ring]
    simp only [mxSetup, opPart, hlen, Nat.reduceAdd, Nat.reduceLeDiff, if_true]
    refine (if_neg (ne_true_of_eq_false hdesc)).trans ?_
    simp only [d, part] at ha hc hsecond
    simp only [hsecond]
    simp only [ha, hc]
    refine (if_neg (ne_true_of_eq_false hchecks)).trans ((if_neg (not_not.mpr hcode)).trans ((if_neg (ne_true_of_eq_false hblocks)).trans ?_))
    refine congrArg (mxBind s q u o) ?_
    congr 1
    by_cases hring : ring
    · exact (if_pos (beq_iff_eq.mpr hring)).trans (if_pos hring).symm
    · exact (if_neg fun h => hring (beq_iff_eq.mp h)).trans ((plateScale tiles).trans (if_neg hring).symm)
  · intro howes hslots hpresent hroom hreads hturn htiles hscales
    have hcan : mxCan s x b = true := by
      have hquiet : (q.1 ++ q.2.1).any (slotReads s x.group) = false := List.any_eq_false.mpr fun k hk => by simp [hreads k hk]
      simp [mxCan, hrun, howes, hroom, hslots, hpresent, hquiet]
    show execMxFiring p u s = _
    simp only [execMxFiring, hb, hx, hrun, howes, hslots, hcan, hturn, htiles, hscales]
    rfl
  · intro hstaged hown hstate hten
    show execEpilogueWrite p u s = _
    simp only [execEpilogueWrite, hb, hstaged, hx, hrun, hown, enableCause_zero, ite_self, hstate, hten]
    simp

end Sys2Proof.Machine
end

section
/-! PROOFS. The life of a block, the end of a step, dispositions, preemption (R116, R126, R130 to R134, R326, R357 to R374, R390). -/

namespace Sys2Proof.Machine

/-! The life of a block. -/

/-- Settles O37: each phase of a block by its own branch. -/
theorem lifeOfABlock : Obligations.LifeOfABlock := by
  refine fun s c x hx hrun => ⟨fun s1 img hphase hfetch => ⟨fun r hr => ?_, fun hr hcache => ?_, fun hr hcache => ?_⟩,
    fun hphase hready => ⟨fun hok => ?_, fun r hbad => ?_⟩, fun r hphase hnone hfree => ?_, fun inst hphase hnew => ?_, fun t hbegun => ?_,
    fun hphase hwatch hlate hcommit => ?_, ?_⟩
  · show execBlockFetch c s = _
    simp [execBlockFetch, hx, hphase, hrun, hfetch, hr]
  · have hin : (groupAt s1 x.group).cache.any (placedAs s1 img) = true := List.any_eq_true.mpr hcache
    show execBlockFetch c s = _
    simp [execBlockFetch, hx, hphase, hrun, hfetch, hr, hin]
  · have hout : (groupAt s1 x.group).cache.any (placedAs s1 img) = false := List.any_eq_false.mpr fun e he => by simp [hcache e he]
    show execBlockFetch c s = _
    simp [execBlockFetch, hx, hphase, hrun, hfetch, hr, hout]
  · show execMapperPlace c s = _
    simp [execMapperPlace, hx, hphase, hrun, hready, hok]
  · show execMapperPlace c s = _
    simp [execMapperPlace, hx, hphase, hrun, hready, hbad]
  · show execRegionAcquire c s = _
    simp [execRegionAcquire, hx, hphase, hrun, hnone, hfree]
  · show execConfigPacketComplete c inst s = _
    simp [execConfigPacketComplete, hx, hphase, hrun, hnew]
  · show execTokenArrival c t s = _
    simp [execTokenArrival, hx, hrun, hbegun]
  · show execBlockWatchExpiry c s = _
    simp [execBlockWatchExpiry, hx, hphase, hrun, hwatch, hlate, hcommit]
  · refine ⟨_, rfl, ?_⟩
    simp only [List.mem_map]
    rintro _ ⟨g, -, rfl⟩
    rfl

/-! The end of a step (R390, R391). -/

theorem childrenEnd_none {s : State} {stp : Nat} (h : ∀ e ∈ s.ctxs, e.2.stp = stp → e.2.spawned = false) : childrenEnd s stp = s := by
  have hnone : (s.ctxs.filter fun e => e.2.stp == stp && e.2.spawned && e.2.phase == .ending) = [] :=
    List.filter_eq_nil_iff.mpr fun e he => by
      have := h e he
      simp_all
  rw [childrenEnd, hnone]
  rfl

/-- A context that is ready to end has no unit that is bound to an operation of its own (R248, R390). -/
theorem unbindEndless_ready {s : State} {c : Nat} {x : Ctx} (h : endReady s c x = true) : unbindEndless s c x = s := by
  have hunits : ((pressAt s x.press).units.any fun u => u.2.op.ctx == c) = false := by
    simp only [endReady, Bool.and_eq_true, Bool.not_eq_true'] at h
    exact h.1.1.1.2
  have hnone : ((pressAt s x.press).units.filter fun u => u.2.op.ctx == c && u.2.cfg.count == 0 && !u.2.unbinding) = [] :=
    List.filter_eq_nil_iff.mpr fun u hu => by
      have := List.any_eq_false.mp hunits u hu
      simp_all
  rw [unbindEndless, hnone]
  rfl

/-- A step whose root alone is left and ready to end, with no dispositions to take, retires (R390). -/
theorem rootRetires_ready {s : State} {stp : Nat} {r : StepRec} {x : Ctx} (hr : stepAt s stp = some r) (hx : ctxAt s r.root = some x)
    (hready : endReady s r.root x = true) (halone : ∀ e ∈ s.ctxs, e.2.stp = stp → e.1 = r.root) (hstims : faultStims r = []) :
    rootRetires s stp = retireRoot (modStep s stp fun q => { q with retiring := true }) stp r := by
  have hothers : (s.ctxs.any fun e => e.2.stp == stp && e.1 != r.root) = false := List.any_eq_false.mpr fun e he => by
    have := halone e he
    simp_all
  simp [rootRetires, hr, hx, unbindEndless_ready hready, hothers, hready, hstims, dispRead]

/-! Dispositions (R367, R368). -/

theorem dispose_record {s : State} {ten seq : Nat} {r : FaultRec} {x : Ctx} {z : Frozen} (act mask : Nat) (register : Bool)
    (hr : tabFind s.records (2 ^ 24 * ten + seq) = some r) (hdone : r.done = false) (hx : ctxAt s r.ctx = some x) (hz : x.frozen = some z)
    (hseq : z.seq = seq) (hre : x.refreeze = none) (hact : act = 1 ∨ act = 2) :
    dispose s ten seq act mask register =
      let s1 := { s with records := tabPut s.records (2 ^ 24 * ten + seq) { r with done := true } }
      if act = 2 then abortStep s1 x.stp false mask none else thaw s1 r.ctx := by
  have hfrozen : frozenAs s r.ctx seq = some x := by simp [frozenAs, hx, hz, hseq]
  unfold dispose
  generalize 2 ^ 24 * ten + seq = key at hr
  rcases hact with rfl | rfl
  · simp [hr, hfrozen, hdone, hz, hre]
  · simp [hr, hfrozen, hdone, hz]

theorem sinkFlush_room {s : State} {ten j : Nat} {st : Stim} {rest : List Stim} (n : Nat) (hst : egressAt s (8 * ten + j) = st :: rest)
    (hroom : ringRoom (ringAt s (8 * ten + j)) = true) :
    sinkFlush (n + 1) s ten j = sinkFlush n (sinkWrite (setEgress s (8 * ten + j) rest) ten j st) ten j := by
  rw [sinkFlush]
  simp only [hst, hroom, if_true]

/-- Settles O39: retirement, abort, the two dispositions, and the flushes of the rings. -/
theorem stepsEndAndDispositions : Obligations.StepsEndAndDispositions := by
  refine ⟨⟨fun s stp r x hr hx hready halone hstims => ?_, fun m q s f x h hx => ?_⟩,
    fun s ten seq mask r x z hr hdone hx hz hseq hre => ⟨?_, ?_⟩, fun s => ⟨fun ten ring st rest hst hroom => ?_, rfl, rfl, rfl⟩⟩
  · have hchildren : childrenEnd s stp = s := childrenEnd_none fun e he h => (halone e he h).2
    have hroot := rootRetires_ready hr hx hready (fun e he h => (halone e he h).1) hstims
    show execRetirement stp s = _
    simp only [execRetirement, hchildren, hroot]
    rfl
  · exact (onFire_acts m s f _ _ _ h).trans (by simp only [hx])
  · exact congrArg Host.Outcome.next (dispose_record 1 0 true hr hdone hx hz hseq hre (.inl rfl))
  · exact congrArg Host.Outcome.next (dispose_record 2 mask.toNat true hr hdone hx hz hseq hre (.inr rfl))
  · exact congrArg Host.Outcome.next (sinkFlush_room 63 hst hroom)

/-! Preemption (R325, R369 to R374). -/

/-- A drain that starts is noted in its context, and its cut is awaited (R371). -/
theorem drainStart_starts {s : State} {c : Nat} {y : Ctx} (hold : Bool) (hy : ctxAt s c = some y) (hvalid : csrBits s 0x3DA 0 0 = 1)
    (hdrain : y.drain = none) (hphase : y.phase ≠ .ending) :
    drainStart s c hold = pushEvOnce (setCtx s c { y with drain := some hold }) (.drainCutComplete c) := by
  simp [drainStart, hy, hvalid, hdrain, hphase]

/-- Settles O40: a drain as it starts, the cut, and the way back. -/
theorem preemptionAndProofs : Obligations.PreemptionAndProofs := by
  refine ⟨fun m v s f x y c h hv hx hname hy hten hvalid hdrain hphase hroom => ?_, fun s c hname => ?_,
    fun s c slot x hold hx hdrain htag hphase hslot => ⟨fun hmarker => ?_, fun hmarker hcut => ?_⟩,
    fun s slot tag region p x hp hhold hx htag hregion hwords => ?_, fun s p hp => ?_⟩
  · obtain ⟨-, -, hfirst⟩ := oneValue_elem m f _ _ h.fires hv
    have hgo : execPreempt m s = .next (drainStart s c false) := by
      refine (onFire_acts m s f _ _ _ h).trans ?_
      rcases hten with hten | hten <;>
        simp [oneElem_ok f _ _ hv, hx, hfirst, hname, hy, hten, hvalid, hdrain, hphase, hroom]
    rw [drainStart_starts false hy hvalid hdrain hphase] at hgo
    refine ⟨_, hgo, ?_, List.contains_iff_mem.mpr (pushEvOnce_has _ _), ?_⟩
    · rw [ctxAt_pushEvOnce, ctxAt_setCtx, if_pos rfl]
      rfl
    · exact sameMemory_trans _ _ _ (sameMemory_of_eq _ _ rfl rfl rfl) ((pushEvOnce_sends _ _).elim (onlySends_memory _ _ _) (onlySends_memory _ _ _))
  · show execPreemptRequest s = _
    simp only [execPreemptRequest, hname]
  · show execDrainCutComplete c s = _
    simp [execDrainCutComplete, hx, hdrain, hphase, hslot, hmarker, Nat.not_le.mpr htag]
  · show execDrainCutComplete c s = _
    simp [execDrainCutComplete, hx, hdrain, hphase, hslot, hmarker, Nat.not_le.mpr htag, hcut]
  · show execProofRestore slot s = _
    simp [execProofRestore, hp, hhold, hx, htag, hregion, hwords]
  · show execProofRelease s = _
    simp only [execProofRelease, hp]

end Sys2Proof.Machine
end

section
/-! PROOFS. The race checker's housekeeping and the monitors (R332, R336, R337, R340, R378, R393). -/

namespace Sys2Proof.Machine

/-! Bytes and doubles of HBM. -/

/-- The double at `a` is a matter of its eight bytes. -/
theorem hbmDbl_congr {s t : State} {a : Nat} (h : ∀ p, a ≤ p → p < a + 8 → hbmByte t p = hbmByte s p) : hbmDbl t a = hbmDbl s a := by
  have hbytes : hbmRead t a 8 = hbmRead s a 8 := by
    apply List.ext_getElem?
    intro i
    by_cases hi : i < 8
    · rw [hbmRead, hbmRead, memRead_byte _ _ _ _ hi, memRead_byte _ _ _ _ hi]
      exact congrArg some (h (a + i) (by omega) (by omega))
    · rw [List.getElem?_eq_none (by simp [hbmRead, memRead_length]; omega), List.getElem?_eq_none (by simp [hbmRead, memRead_length]; omega)]
  rw [hbmDbl, hbmDbl, hbytes]

theorem hbmDbl_zero {s : State} {a : Nat} (h : ∀ p, a ≤ p → p < a + 8 → hbmByte s p = 0) : hbmDbl s a = 0 := by
  have hzero : hbmRead s a 8 = List.replicate 8 0 := by
    apply List.ext_getElem?
    intro i
    by_cases hi : i < 8
    · rw [hbmRead, memRead_byte _ _ _ _ hi, List.getElem?_replicate, if_pos hi]
      exact congrArg some (h (a + i) (by omega) (by omega))
    · rw [List.getElem?_eq_none (by simp [hbmRead, memRead_length]; omega), List.getElem?_eq_none (by simp; omega)]
  rw [hbmDbl, hzero]
  rfl

/-- The top bit of a double is that of its last byte. -/
theorem bitsOf_hbmDbl_top (s : State) (a : Nat) : bitsOf (hbmDbl s a) 63 63 = (hbmByte s (a + 7)).toNat / 128 := by
  have hbytes : hbmRead s a 8 = [hbmByte s a, hbmByte s (a + 1), hbmByte s (a + 2), hbmByte s (a + 3), hbmByte s (a + 4), hbmByte s (a + 5),
      hbmByte s (a + 6), hbmByte s (a + 7)] := by
    apply List.ext_getElem?
    intro i
    by_cases hi : i < 8
    · rw [hbmRead, memRead_byte _ _ _ _ hi]
      interval_cases i <;> rfl
    · rw [List.getElem?_eq_none (by simp [hbmRead, memRead_length]; omega), List.getElem?_eq_none (by simp; omega)]
  have h0 := (hbmByte s a).isLt
  have h1 := (hbmByte s (a + 1)).isLt
  have h2 := (hbmByte s (a + 2)).isLt
  have h3 := (hbmByte s (a + 3)).isLt
  have h4 := (hbmByte s (a + 4)).isLt
  have h5 := (hbmByte s (a + 5)).isLt
  have h6 := (hbmByte s (a + 6)).isLt
  have h7 := (hbmByte s (a + 7)).isLt
  rw [hbmDbl, hbytes]
  simp only [leNat, bitsOf]
  omega

/-- Doubles set to zero one after the other: their bytes are zero, the others as they were. -/
theorem hbmByte_clears (l : List (Nat × Nat)) (s : State) (p : Nat) :
    hbmByte (l.foldl (fun s e => hbmPutDbl s e.1 0) s) p = if ∃ e ∈ l, e.1 ≤ p ∧ p < e.1 + 8 then 0 else hbmByte s p := by
  induction l generalizing s with
  | nil => simp
  | cons e l ih =>
    have hput : hbmByte (hbmPutDbl s e.1 0) p = if e.1 ≤ p ∧ p < e.1 + 8 then 0 else hbmByte s p := by
      rw [hbmPutDbl, hbmByte_hbmWrite, leBytes_length]
      split
      · have hzero : leBytes 8 0 = List.replicate 8 0 := rfl
        rw [hzero, List.getD_eq_getElem?_getD, List.getElem?_replicate]
        split <;> rfl
      · rfl
    rw [List.foldl_cons, ih, hput]
    by_cases hl : ∃ e ∈ l, e.1 ≤ p ∧ p < e.1 + 8
    · rw [if_pos hl, if_pos (by obtain ⟨d, hd, h⟩ := hl; exact ⟨d, by simp [hd], h⟩)]
    · rw [if_neg hl]
      by_cases he : e.1 ≤ p ∧ p < e.1 + 8
      · rw [if_pos he, if_pos ⟨e, by simp, he⟩]
      · rw [if_neg he, if_neg]
        rintro ⟨d, hd, h⟩
        rcases List.mem_cons.mp hd with rfl | hd
        · exact he h
        · exact hl ⟨d, hd, h⟩

theorem memWf_clears (l : List (Nat × Nat)) (s : State) (h : memWf s.hbm = true) :
    memWf (l.foldl (fun s e => hbmPutDbl s e.1 0) s).hbm = true := by
  induction l generalizing s with
  | nil => exact h
  | cons e l ih => exact ih _ (memWf_memWrite _ _ _ h)

/-! Metadata (R332, R335). -/

theorem tabFind_mem {α : Type} {l : Tab α} {k : Nat} {v : α} (h : tabFind l k = some v) : (k, v) ∈ l := by
  induction l with
  | nil => simp [tabFind] at h
  | cons e l ih =>
    rw [tabFind] at h
    split at h
    case isTrue he =>
      cases he
      cases h
      exact List.mem_cons_self
    case isFalse => exact List.mem_cons_of_mem _ (ih h)

/-- A tag whose top bit is set is among the live ones. -/
theorem mem_liveTags {s : State} {i w : Nat} (hi : i < metaSets s) (hw : w < 8) (htop : bitsOf (hbmDbl s (metaSet s i + 8 * w)) 63 63 = 1) :
    (metaSet s i + 8 * w, hbmDbl s (metaSet s i + 8 * w)) ∈ liveTags s := by
  have hbase : metaSet s i = metaSet s 0 + 256 * i := by simp [metaSet]
  rw [bitsOf_hbmDbl_top] at htop
  have hlt := (hbmByte s (metaSet s i + 8 * w + 7)).isLt
  obtain ⟨b, hb, hbig⟩ : ∃ b, (metaSet s i + 8 * w + 7, b) ∈ s.hbm ∧ 128 ≤ b.toNat := by
    cases hf : tabFind s.hbm (metaSet s i + 8 * w + 7) with
    | none =>
      simp [hbmByte, memByte, tabGet, hf] at htop
    | some b =>
      refine ⟨b, tabFind_mem hf, ?_⟩
      simp only [hbmByte, memByte, tabGet, hf, Option.getD_some] at htop
      omega
  refine List.mem_map.mpr ⟨(metaSet s i + 8 * w + 7, b), List.mem_filter.mpr ⟨hb, ?_⟩, by simp⟩
  have hrel : metaSet s i + 8 * w + 7 - metaSet s 0 = 256 * i + 8 * w + 7 := by omega
  simp only [hrel, Bool.and_eq_true, decide_eq_true_eq, beq_iff_eq]
  omega

/-- Tags at places of tags lie apart (R334). -/
theorem liveTags_apart {s : State} {i w p : Nat} {e : Nat × Nat} (he : e ∈ liveTags s) (hne : e.1 ≠ metaSet s i + 8 * w)
    (hp : metaSet s i + 8 * w ≤ p) (hp' : p < metaSet s i + 8 * w + 8) : ¬ (e.1 ≤ p ∧ p < e.1 + 8) := by
  have hbase : metaSet s i = metaSet s 0 + 256 * i := by simp [metaSet]
  obtain ⟨b, hb, rfl⟩ := List.mem_map.mp he
  have hplace := (List.mem_filter.mp hb).2
  simp only [Bool.and_eq_true, decide_eq_true_eq, beq_iff_eq] at hplace
  obtain ⟨⟨⟨⟨hlo, htop⟩, hway⟩, hbyte⟩, -⟩ := hplace
  simp only at hne ⊢
  omega

/-- Once the live tags of a domain are cleared, no valid tag is the domain's (R332). -/
theorem clearDomain_none (s : State) (d i w : Nat) (hi : i < metaSets s) (hw : w < 8) :
    let t := ((liveTags s).filter fun e => bitsOf e.2 62 61 == d).foldl (fun s e => hbmPutDbl s e.1 0) s
    bitsOf (hbmDbl t (metaSet s i + 8 * w)) 63 63 = 1 → bitsOf (hbmDbl t (metaSet s i + 8 * w)) 62 61 ≠ d := by
  intro t hvalid hd
  by_cases hin : ∃ e ∈ (liveTags s).filter (fun e => bitsOf e.2 62 61 == d), e.1 = metaSet s i + 8 * w
  · obtain ⟨e, he, hat⟩ := hin
    have hzero : hbmDbl t (metaSet s i + 8 * w) = 0 := hbmDbl_zero fun p hp hp' =>
      (hbmByte_clears _ s p).trans (if_pos ⟨e, he, by omega, by omega⟩)
    rw [hzero] at hvalid
    exact absurd hvalid (by decide)
  · have hsame : hbmDbl t (metaSet s i + 8 * w) = hbmDbl s (metaSet s i + 8 * w) := hbmDbl_congr fun p hp hp' =>
      (hbmByte_clears _ s p).trans (if_neg fun ⟨e, he, hcovers⟩ =>
        liveTags_apart (List.mem_filter.mp he).1 (fun hat => hin ⟨e, he, hat⟩) hp hp' hcovers)
    rw [hsame] at hvalid hd
    exact hin ⟨_, List.mem_filter.mpr ⟨mem_liveTags hi hw hvalid, by simpa using hd⟩, rfl⟩

theorem metadataClearDone_eq {s : State} (d : Nat) (hareas : raceAreas s = true) : execMetadataClearDone d s = .next (csrPoke
    (((liveTags s).filter fun e => bitsOf e.2 62 61 == d).foldl (fun s e => hbmPutDbl s e.1 0) s) (0x3A8 + 8 * d) 61 61 0) := by
  simp only [execMetadataClearDone, hareas, if_true]

theorem hbmDbl_csrPoke (s : State) (num hi lo x a : Nat) : hbmDbl (csrPoke s num hi lo x) a = hbmDbl s a := rfl
theorem memWf_csrPoke (s : State) (num hi lo x : Nat) : memWf (csrPoke s num hi lo x).hbm = memWf s.hbm := rfl

theorem metadataClearDone_clears {s : State} (d : Nat) (hareas : raceAreas s = true) (hwf : memWf s.hbm = true) :
    ∃ t, execMetadataClearDone d s = .next t ∧ memWf t.hbm = true ∧ ∀ i w, i < metaSets s → w < 8 →
      bitsOf (hbmDbl t (metaSet s i + 8 * w)) 63 63 = 1 → bitsOf (hbmDbl t (metaSet s i + 8 * w)) 62 61 ≠ d := by
  refine ⟨_, metadataClearDone_eq d hareas, ?_, fun i w hi hw => ?_⟩
  · rw [memWf_csrPoke]
    exact memWf_clears _ s hwf
  · rw [hbmDbl_csrPoke]
    exact clearDomain_none s d i w hi hw

/-! Slots (R336, R337). -/

theorem csrGet_csrPoke_other (s : State) {num num' : Nat} (hi lo x : Nat) (h : num' ≠ num) :
    csrGet (csrPoke s num hi lo x) num' = csrGet s num' := by
  unfold csrPoke csrSet csrGet tabGet tabSet
  split
  · rw [tabFind_tabDrop _ _ _ h]
  · rw [tabFind_tabPut, if_neg h]
theorem csrBits_csrPoke_other (s : State) {num num' : Nat} (hi lo x hi' lo' : Nat) (h : num' ≠ num) :
    csrBits (csrPoke s num hi lo x) num' hi' lo' = csrBits s num' hi' lo' := by
  rw [csrBits, csrGet_csrPoke_other _ _ _ _ h, csrBits]

theorem startActor_slotWait (s : State) (c d k : Nat) (recs : List (Nat × Nat)) : (startActor s c d k recs).slotWait = s.slotWait := by
  have hjoin : ∀ (l : List (Nat × Nat)) (t : State), (l.foldl (fun s r => joinRecord s d k r.1 r.2) t).slotWait = t.slotWait := by
    intro l
    induction l with
    | nil => intro t; rfl
    | cons r l ih =>
      intro t
      rw [List.foldl_cons, ih, joinRecord]
      split <;> rfl
  unfold startActor
  split
  · rfl
  · rw [hjoin]; rfl

/-- The context that waits takes the lowest free slot (R336). -/
theorem actorSlotAcquire_takes {s : State} {c d k : Nat} {x : Ctx} (hwait : s.slotWait = [c]) (hx : ctxAt s c = some x)
    (hd : domOf s x.ten = some d) (hactor : x.actor = none) (hfree : freeSlot s d = some k) :
    execActorSlotAcquire s = .next (startActor { s with slotWait := [] } c d k (wakeRecords s x d)) := by
  have hnone : ([c].filter fun y => y != c) = [] := by simp
  have hfind : ∀ p : Nat → Bool, p c = true → [c].find? p = some c := fun p hp => by simp [hp]
  have hthen : actorOf { s with slotWait := [] } c = some (startActor { s with slotWait := [] } c d k (wakeRecords s x d), some (d, k)) := by
    have hx' : ctxAt { s with slotWait := [] } c = some x := hx
    have hd' : domOf { s with slotWait := [] } x.ten = some d := hd
    have hfree' : freeSlot { s with slotWait := [] } d = some k := hfree
    simp only [actorOf, hx', hd', hactor, hfree']
    rfl
  unfold execActorSlotAcquire
  rw [hwait, hfind _ (by simp [actorOf, hx, hd, hactor, hfree])]
  simp only [hnone, hthen, wakeSlots, startActor_slotWait]
  rfl

/-- What a sweep keeps: HBM in its form, and where the metadata and the records stand. -/
structure Swept (s t : State) : Prop where
  wf : memWf t.hbm = true
  metaArea : csrGet t 0x3A1 = csrGet s 0x3A1
  recordArea : csrGet t 0x3A2 = csrGet s 0x3A2

theorem Swept.hbm {s t : State} (h : Swept s t) (m : Tab Byte) (hm : memWf m = true) : Swept s { t with hbm := m } :=
  ⟨hm, h.metaArea, h.recordArea⟩
theorem Swept.poke {s t : State} {d : Nat} (h : Swept s t) (hd : d < 4) (x : Nat) : Swept s (csrPoke t (0x3A8 + 8 * d + 4) 31 0 x) :=
  ⟨h.wf, (csrGet_csrPoke_other _ _ _ _ (by omega)).trans h.metaArea, (csrGet_csrPoke_other _ _ _ _ (by omega)).trans h.recordArea⟩

/-- What a sweep does at the tag `e` of a live line: slot `k` goes from its record (R337). -/
def sweepTag (base d k : Nat) (s : State) (e : Nat × Nat) : State :=
  let set := (e.1 - base) / 256
  let w := (e.1 - base) % 256 / 8
  let m := metaRec s set w
  let m1 := dropSlot k m
  if m1 = m then s
  else if bitsOf m1 119 88 = 0 ∧ bitsOf m1 79 48 = 0 ∧ bitsOf m1 39 8 = 0 then
    let n := domCsr s d 4 31 0
    csrPoke (hbmPutDbl s e.1 0) (0x3A8 + 8 * d + 4) 31 0 (if n + 1 < 2 ^ 32 then n + 1 else n)
  else hbmWrite s (base + 256 * set + 0x40 + 16 * w) (leBytes 16 m1)
/-- The state of a sweep before the release records go: the lines of the domain without the slot, and every clock without its entry. -/
def sweepClocks (d k : Nat) (s : State) : State :=
  (List.range 256).foldl (fun s j => modSlot s d j fun r => { r with vc := vcPut r.vc k 0 })
    (if raceAreas s then ((liveTags s).filter fun e => bitsOf e.2 62 61 == d).foldl (sweepTag (metaSet s 0) d k) s else s)

theorem slotSweep_eq (d k : Nat) (s : State) : execSlotSweep d k s = .next (wakeSlots (modSlot
    (if raceAreas (sweepClocks d k s) then { sweepClocks d k s with
      hbm := memWrite (sweepClocks d k s).hbm (recordAt (sweepClocks d k s) d k 0) (List.replicate 65536 0) } else sweepClocks d k s) d k
    fun r => { r with floor := 0, vc := [], sweeping := false })) := rfl

theorem Swept.tag {s t : State} {base d k : Nat} (h : Swept s t) (hd : d < 4) (e : Nat × Nat) : Swept s (sweepTag base d k t e) := by
  simp only [sweepTag]
  split
  · exact h
  · split
    · exact (h.hbm _ (memWf_memWrite _ _ _ h.wf)).poke hd _
    · exact h.hbm _ (memWf_memWrite _ _ _ h.wf)

theorem sweepClocks_swept {s : State} {d : Nat} (k : Nat) (hd : d < 4) (hwf : memWf s.hbm = true) : Swept s (sweepClocks d k s) := by
  have hstart : Swept s s := ⟨hwf, rfl, rfl⟩
  refine List.foldlRecOn (motive := Swept s) _ _ ?_ fun t h j _ => ⟨h.wf, h.metaArea, h.recordArea⟩
  split
  · exact List.foldlRecOn (motive := Swept s) _ _ hstart fun t h e _ => h.tag hd e
  · exact hstart

theorem wakeSlots_hbm (s : State) : (wakeSlots s).hbm = s.hbm := by
  unfold wakeSlots
  split
  · rfl
  · exact pushEvOnce_hbm _ _

/-- A swept slot's release records read zero (R337, R339). -/
theorem slotSweep_records {s : State} {d : Nat} (k : Nat) (hd : d < 4) (hareas : raceAreas s = true) (hwf : memWf s.hbm = true) :
    ∃ t, execSlotSweep d k s = .next t ∧ memWf t.hbm = true ∧
      ∀ a, recordAt s d k 0 ≤ a → a < recordAt s d k 0 + 65536 → hbmByte t a = 0 := by
  obtain ⟨hwf', hmeta, hrecord⟩ := sweepClocks_swept k hd hwf
  have hareas' : raceAreas (sweepClocks d k s) = true := by
    rw [← hareas]
    simp only [raceAreas, csrBits, hmeta, hrecord]
    rfl
  have hat : recordAt (sweepClocks d k s) d k 0 = recordAt s d k 0 := by simp only [recordAt, csrBits, hrecord]
  refine ⟨_, slotSweep_eq d k s, ?_⟩
  rw [if_pos hareas', hat, wakeSlots_hbm]
  refine ⟨memWf_memWrite _ _ _ hwf', fun a hlo hhi => ?_⟩
  rw [hbmByte, wakeSlots_hbm]
  refine (memByte_memWrite _ _ _ a).trans ?_
  rw [if_pos ⟨hlo, by rw [List.length_replicate]; exact hhi⟩, List.getD_eq_getElem?_getD, List.getElem?_replicate]
  split <;> rfl

/-! Monitors (R378, R393, R395, R6). -/

/-- A clamped watch time (R378). -/
theorem watchTime_clamped (v : Nat) : (if v < 1000 then 1000 else if 10 ^ 9 < v then 10 ^ 9 else v) = max 1000 (min (10 ^ 9) v) := by
  split
  · omega
  · split <;> omega

theorem shardWatch_tells {s : State} {h : Shard} {kind obj addr : Nat} {ten : Option Nat}
    (hh : s.shards.find? (fun h => h.kind == kind && h.obj == obj) = some h) (hstall : shardStalls s kind obj = some (ten, addr))
    (harmed : csrBits s 0x3D9 31 0 ≠ 0) (htold : h.told = false) (hlate : max 1000 (min (10 ^ 9) (csrBits s 0x3D9 31 0)) ≤ s.now - h.since) :
    let s1 := { s with shards := mapWhere (fun g => g.kind == kind && g.obj == obj) (fun g => { g with told := true }) s.shards }
    execShardWatchExpiry kind obj s = .next (pushEvOnce (match ten with
      | some t => tenRecord s1 { recOf 0x387 with addr := addr, ten := t }
      | none => pfEvent s1 { recOf 0x387 with addr := addr }) (.shardWatchExpiry kind obj)) := by
  have hnow : ¬ (csrBits s 0x3D9 31 0 = 0 ∨ h.told = true ∨
      s.now - h.since < if csrBits s 0x3D9 31 0 < 1000 then 1000 else if 10 ^ 9 < csrBits s 0x3D9 31 0 then 10 ^ 9 else csrBits s 0x3D9 31 0) := by
    rw [watchTime_clamped]
    rintro (hoff | hsaid | hearly)
    · exact harmed hoff
    · exact Bool.false_ne_true (htold.symm.trans hsaid)
    · exact absurd hlate (Nat.not_le.mpr hearly)
  simp only [execShardWatchExpiry, hh, hstall]
  exact congrArg Host.Outcome.next (if_neg hnow)

/-- While the Counter Area is valid a listed count is swept (R393). -/
theorem sweeps_listed {s : State} {e : Nat} (hvalid : csrBits s 0x3F0 0 0 = 1) (hlist : eventListed e = true) :
    ¬ (csrBits s 0x3F0 0 0 = 0 ∨ (!eventListed e) = true) := by
  rw [hvalid, hlist]
  decide

theorem counterSweep_device {s : State} {e : Nat} (c : Nat) (hvalid : csrBits s 0x3F0 0 0 = 1) (hlist : eventListed e = true)
    (hdev : devEvent e = true) :
    execCounterSweep c e s = .next (hbmPutDbl { s with devCounts := tabDrop s.devCounts e } (devTotalAt s e)
      (if isGauge e then max (hbmDbl s (devTotalAt s e)) (tabGet (fun _ => 0) s.devCounts e)
        else (hbmDbl s (devTotalAt s e) + tabGet (fun _ => 0) s.devCounts e) % 2 ^ 64)) :=
  congrArg Host.Outcome.next ((if_neg (sweeps_listed hvalid hlist)).trans (if_pos hdev))

theorem counterSweep_context {s : State} {c e : Nat} {x : Ctx} (hvalid : csrBits s 0x3F0 0 0 = 1) (hlist : eventListed e = true)
    (hdev : devEvent e = false) (hx : ctxAt s c = some x) :
    execCounterSweep c e s = .next (setCtx s c { x with
      counts := tabDrop x.counts e
      totals := tabSet (fun _ => 0) x.totals e ((tabGet (fun _ => 0) x.totals e + tabGet (fun _ => 0) x.counts e) % 2 ^ 64) }) := by
  refine congrArg Host.Outcome.next ((if_neg (sweeps_listed hvalid hlist)).trans ((if_neg (ne_true_of_eq_false hdev)).trans ?_))
  simp only [hx]

/-- A count and a record of the device for each of `n` crossings. -/
def reports (n : Nat) (r : Rec) (s : State) : State := (List.range n).foldl (fun s _ => pfEvent (devCount s 0x20A 1) r) s
theorem reports_one (r : Rec) (s : State) : reports 1 r s = pfEvent (devCount s 0x20A 1) r := rfl

/-- The readings that rise above their limits are each counted and reported (R6). -/
theorem monitor_crosses {s : State} {power temp : BitVec 16} {n : Nat}
    (hn : (if csrBits s 0x3F5 47 32 ≤ csrBits s 0x3F6 47 32 ∧ csrBits s 0x3F6 47 32 < power.toNat then 1 else 0) +
      (if csrBits s 0x3F5 15 0 ≤ csrBits s 0x3F6 15 0 ∧ csrBits s 0x3F6 15 0 < temp.toNat then 1 else 0) = n) :
    execMonitorLimitCross power temp s = .next (reports n { recOf 0x3E2 with aux := power.toNat * 2 ^ 32 + temp.toNat }
      (csrPoke (csrPoke s 0x3F5 47 32 power.toNat) 0x3F5 15 0 temp.toNat)) := by
  subst hn
  rfl

/-- Settles O46: the checker's housekeeping, then the monitors. -/
theorem raceCheckerAndMonitors : Obligations.RaceCheckerAndMonitors := by
  refine ⟨fun s => ⟨fun d _ => rfl, fun d hd hareas hwf => ?_, fun c x d k hwait hx hdom hactor hfree => ?_, fun d k hd _ hareas hwf => ?_,
    fun hnow => ?_, fun hnow hbudget => ?_⟩, fun s => ⟨fun h kind obj ten addr hh hstall harmed htold hlate => ?_,
    fun hvalid => ⟨fun c e hlist hdev => ?_, fun c e x hlist hdev hx => ?_⟩, rfl, fun power temp => ⟨fun hp ht => ?_, fun hp hp' ht => ?_⟩⟩⟩
  · exact metadataClearDone_clears d hareas hwf
  · exact actorSlotAcquire_takes hwait hx hdom hactor hfree
  · exact slotSweep_records k hd hareas hwf
  · exact congrArg Host.Outcome.next ((if_neg hnow).trans (if_neg hnow))
  · exact congrArg Host.Outcome.next ((if_pos hnow).trans (if_neg (by simpa using hbudget)))
  · exact shardWatch_tells hh hstall harmed htold hlate
  · exact counterSweep_device c hvalid hlist hdev
  · exact counterSweep_context hvalid hlist hdev hx
  · exact @monitor_crosses s power temp 0 (by rw [if_neg (by omega), if_neg (by omega)])
  · rw [← reports_one]
    exact monitor_crosses (by rw [if_pos ⟨hp, hp'⟩, if_neg (by omega)])


end Sys2Proof.Machine
end

section
/-! PROOFS. What a record in its ring leaves alone: the contexts, and whose each kept record is (R355 to R364). -/

namespace Sys2Proof.Machine

/-- The contexts are those of `u`, and every record that `u` keeps is still kept, of the same context and as done as it was. -/
def Kept (u s : State) : Prop :=
  s.ctxs = u.ctxs ∧ ∀ k r, tabFind u.records k = some r → ∃ q, tabFind s.records k = some q ∧ q.ctx = r.ctx ∧ q.done = r.done

theorem kept_refl (s : State) : Kept s s := ⟨rfl, fun _ r hr => ⟨r, hr, rfl, rfl⟩⟩
theorem kept_same {u s t : State} (h : Kept u s) (hctxs : t.ctxs = s.ctxs) (hrecords : t.records = s.records) : Kept u t :=
  ⟨hctxs.trans h.1, by rw [hrecords]; exact h.2⟩
theorem kept_fst {u t : State} {α : Type} {p : State × α} {a : α} (h : Kept u p.1) (he : p = (t, a)) : Kept u t := by
  subst he
  exact h
theorem kept_foldl {u : State} {α : Type} {g : State → α → State} (hg : ∀ s, Kept u s → ∀ a, Kept u (g s a)) {l : List α} {s : State}
    (h : Kept u s) : Kept u (l.foldl g s) :=
  List.foldlRecOn l g h fun s hs a _ => hg s hs a

theorem kept_pushWork {u s w} (h : Kept u s) : Kept u (pushWork s w) :=
  kept_same h rfl rfl

theorem kept_pushEv {u s i} (h : Kept u s) : Kept u (pushEv s i) :=
  kept_pushWork h

theorem kept_pushEvOnce {u s i} (h : Kept u s) : Kept u (pushEvOnce s i) := by
  unfold pushEvOnce
  split
  · exact h
  · exact kept_pushEv h

theorem kept_csrSet {u s num v} (h : Kept u s) : Kept u (csrSet s num v) :=
  kept_same h rfl rfl

theorem kept_csrPoke {u s num hi lo x} (h : Kept u s) : Kept u (csrPoke s num hi lo x) :=
  kept_csrSet h

theorem kept_hostSees {u s o} (h : Kept u s) : Kept u (hostSees s o) :=
  kept_same h rfl rfl

theorem kept_hostPut {u s link pasid a bs} (h : Kept u s) : Kept u (hostPut s link pasid a bs) :=
  kept_same h rfl rfl

theorem kept_setRing {u s k r} (h : Kept u s) : Kept u (setRing s k r) :=
  kept_same h rfl rfl

theorem kept_ringDeliver {u s k size bs force} (h : Kept u s) : Kept u (ringDeliver s k size bs force) := by
  grind -ring -linarith [ringDeliver, kept_hostSees, kept_setRing, kept_hostPut]

theorem kept_setEventQueue {u s f q} (h : Kept u s) : Kept u (setEventQueue s f q) :=
  kept_same h rfl rfl

theorem kept_eventPut {u s f bs force} (h : Kept u s) : Kept u (eventPut s f bs force) := by
  grind -ring -linarith [eventPut, kept_ringDeliver, kept_hostSees, kept_setEventQueue, kept_csrPoke]

theorem kept_setFaultQueue {u s ten q} (h : Kept u s) : Kept u (setFaultQueue s ten q) :=
  kept_same h rfl rfl

theorem kept_recordFailed {u s ten bs} (h : Kept u s) : Kept u (recordFailed s ten bs) :=
  kept_eventPut h

theorem kept_dropRemote {u s owner} (h : Kept u s) : Kept u (dropRemote s owner) := by
  unfold dropRemote
  split
  · exact h
  · exact kept_same h rfl rfl

theorem kept_dropFail {u s owner} (h : Kept u s) : Kept u (dropFail s owner) := by
  unfold dropFail
  split
  · exact h
  · exact kept_same h rfl rfl

theorem kept_hbmFresh {u s pa n} (h : Kept u s) : Kept u (hbmFresh s pa n) := by
  unfold hbmFresh
  split
  · exact h
  · exact kept_same h rfl rfl

theorem kept_markPte {u s at' pte w} (h : Kept u s) : Kept u (markPte s at' pte w) := by
  unfold markPte
  split
  · exact h
  · exact kept_same h rfl rfl

theorem kept_setPress {u s p v} (h : Kept u s) : Kept u (setPress s p v) :=
  kept_same h rfl rfl

theorem kept_setGroup {u s g v} (h : Kept u s) : Kept u (setGroup s g v) :=
  kept_same h rfl rfl

theorem kept_modPress {u s p f} (h : Kept u s) : Kept u (modPress s p f) :=
  kept_setPress h

theorem kept_modGroup {u s g f} (h : Kept u s) : Kept u (modGroup s g f) :=
  kept_setGroup h

theorem kept_tlbFill {u s press group ten va pte at' size} (h : Kept u s) : Kept u (tlbFill s press group ten va pte at' size) := by
  grind -ring -linarith [tlbFill, kept_modPress, kept_modGroup]

theorem kept_spotsMark {u s via ten w l} (h : Kept u s) : Kept u (spotsMark s via ten w l) := by
  grind -ring -linarith [spotsMark, kept_foldl, kept_markPte, kept_modGroup, kept_modPress, kept_tlbFill]

theorem kept_setLink {u s n l} (h : Kept u s) : Kept u (setLink s n l) :=
  kept_same h rfl rfl

theorem kept_modLink {u s n f} (h : Kept u s) : Kept u (modLink s n f) :=
  kept_setLink h

theorem kept_sendPilot {u s n kind payload} (h : Kept u s) : Kept u (sendPilot s n kind payload) := by
  unfold sendPilot
  dsimp only
  split
  · exact h
  · exact kept_same h rfl rfl

theorem kept_sendLinkctl {u s n} (h : Kept u s) : Kept u (sendLinkctl s n) := by
  unfold sendLinkctl
  dsimp only
  exact kept_modLink (kept_sendPilot h)

theorem kept_bufferFreed {u s came} (h : Kept u s) : Kept u (bufferFreed s came) := by
  unfold bufferFreed
  split
  · exact h
  · split
    · exact h
    · exact kept_sendLinkctl (kept_modLink h)

theorem kept_flitsLeave {u s n fs} (h : Kept u s) : Kept u (flitsLeave s n fs) := by
  unfold flitsLeave
  refine kept_foldl (fun _ hs _ => ?_) h
  exact kept_modLink (kept_same hs rfl rfl)

theorem kept_markSent {u s f} (h : Kept u s) : Kept u (markSent s f) := by
  unfold markSent
  split
  · exact h
  · exact kept_same h rfl rfl

theorem kept_dealFlit {u s n f} (h : Kept u s) : Kept u (dealFlit s n f) := by
  unfold dealFlit
  dsimp only
  exact kept_pushEvOnce (kept_markSent (kept_flitsLeave (kept_setLink h)))

theorem kept_pumpOver {u s n kept todo} (h : Kept u s) : Kept u (pumpOver s n kept todo).1 := by
  unfold pumpOver
  split
  · exact h
  · dsimp only
    split
    · exact kept_pumpOver h
    · exact kept_pumpOver (kept_bufferFreed (kept_dealFlit h))

theorem kept_linkPump {u s n} (h : Kept u s) : Kept u (linkPump s n) := by
  unfold linkPump
  dsimp only
  split
  · exact h
  · exact kept_modLink (kept_pumpOver h)

theorem kept_sendFrom {u s n f came} (h : Kept u s) : Kept u (sendFrom s n f came) :=
  kept_linkPump (kept_modLink h)

theorem kept_sendFlit {u s n f} (h : Kept u s) : Kept u (sendFlit s n f) :=
  kept_sendFrom h

theorem kept_sendFlits {u s n fs} (h : Kept u s) : Kept u (sendFlits s n fs) :=
  kept_linkPump (kept_modLink h)

theorem kept_addXfer {u s xtag peer ctx k entry lsid need} (h : Kept u s) : Kept u (addXfer s xtag peer ctx k entry lsid need) :=
  kept_pushEvOnce (kept_same h rfl rfl)

theorem kept_staleFills {u s g hit} (h : Kept u s) : Kept u (staleFills s g hit) := by
  unfold staleFills
  split
  · exact h
  · exact kept_same h rfl rfl

theorem kept_dropLinesOf {u s g peer pa n} (h : Kept u s) : Kept u (dropLinesOf s g peer pa n) := by
  unfold dropLinesOf
  dsimp only
  split
  · exact kept_staleFills h
  · exact kept_modGroup (kept_staleFills h)

theorem kept_remoteRead {u k s owner peer pa n} (h : Kept u s) : Kept u (remoteRead k s owner peer pa n).1 := by
  unfold remoteRead
  split
  · exact h
  · split
    · exact h
    · dsimp only
      split
      · split
        · exact kept_fst (kept_remoteRead h) ‹_›
        · exact kept_remoteRead h
      · split
        · exact h
        · split
          · exact h
          · split
            · exact h
            · exact kept_sendFlit (kept_addXfer h)

theorem kept_spotRead {u s owner p va n} (h : Kept u s) : Kept u (spotRead s owner p va n).1 := by
  grind -ring -linarith [spotRead, kept_remoteRead]

theorem kept_spotsRead {u s owner l} (h : Kept u s) : Kept u (spotsRead s owner l).1 := by
  unfold spotsRead
  split
  · exact h
  · split
    · split
      · exact kept_fst (kept_spotsRead (kept_fst (kept_spotRead h) ‹_›)) ‹_›
      · exact kept_spotsRead (kept_fst (kept_spotRead h) ‹_›)
    · exact kept_spotRead h

theorem kept_vaKeep {u s via owner ten w va n} (h : Kept u s) : Kept u (vaKeep s via owner ten w va n).1 := by
  grind -ring -linarith [vaKeep, kept_dropRemote, kept_dropFail, kept_spotsRead, kept_spotsMark]

theorem kept_vaRead {u s via owner ten w va n} (h : Kept u s) : Kept u (vaRead s via owner ten w va n).1 := by
  unfold vaRead
  split
  · exact kept_fst (kept_vaKeep h) ‹_›
  · exact kept_dropRemote (kept_fst (kept_vaKeep h) ‹_›)

theorem kept_unitRead {u s owner ten va n} (h : Kept u s) : Kept u (unitRead s owner ten va n).1 :=
  kept_vaRead h

theorem kept_remoteWrite {u s via c owner ten peer pa kind bs} (h : Kept u s) : Kept u (remoteWrite s via c owner ten peer pa kind bs).1 := by
  unfold remoteWrite
  split
  · exact h
  · split
    · exact h
    · dsimp only
      refine kept_sendFlits (kept_addXfer ?_)
      split
      · exact h
      · exact kept_dropLinesOf h

theorem kept_spotsWrite {u s via c owner ten bs l} (h : Kept u s) : Kept u (spotsWrite s via c owner ten bs l).1 := by
  unfold spotsWrite
  split
  · exact h
  · split
    · split
      · exact h
      · exact kept_spotsWrite (kept_hbmFresh (kept_same h rfl rfl))
    · split
      · exact kept_spotsWrite (kept_fst (kept_remoteWrite h) ‹_›)
      · exact kept_fst (kept_remoteWrite h) ‹_›
      · exact kept_fst (kept_remoteWrite h) ‹_›

theorem kept_vaWrite {u s via c owner ten va bs} (h : Kept u s) : Kept u (vaWrite s via c owner ten va bs).1 := by
  grind -ring -linarith [vaWrite, kept_spotsWrite, kept_spotsMark]

theorem kept_unitWrite {u s owner ten va bs} (h : Kept u s) : Kept u (unitWrite s owner ten va bs).1 :=
  kept_vaWrite h

theorem kept_memRingPut {u s ten k bs} (h : Kept u s) : Kept u (memRingPut s ten k bs).1 := by
  unfold memRingPut
  dsimp only
  split
  · exact h
  · split
    · exact kept_fst (kept_unitRead h) ‹_›
    · exact kept_fst (kept_unitRead h) ‹_›
    · split
      · exact kept_fst (kept_unitRead h) ‹_›
      · split
        · exact kept_fst (kept_unitWrite (kept_fst (kept_unitRead h) ‹_›)) ‹_›
        · exact kept_fst (kept_unitWrite (kept_fst (kept_unitRead h) ‹_›)) ‹_›
        · split
          · exact kept_fst (kept_unitWrite (kept_fst (kept_unitWrite (kept_fst (kept_unitRead h) ‹_›)) ‹_›)) ‹_›
          · exact kept_fst (kept_unitWrite (kept_fst (kept_unitWrite (kept_fst (kept_unitRead h) ‹_›)) ‹_›)) ‹_›
          · exact kept_fst (kept_unitWrite (kept_fst (kept_unitWrite (kept_fst (kept_unitRead h) ‹_›)) ‹_›)) ‹_›

theorem kept_walkerTakes {u s a} (h : Kept u s) : Kept u (walkerTakes s a) := by
  unfold walkerTakes
  dsimp only
  exact kept_pushEv (kept_same h rfl rfl)

theorem kept_walkerPut {u s cls ten agent stim op ack} (h : Kept u s) : Kept u (walkerPut s cls ten agent stim op ack) :=
  kept_walkerTakes h

theorem kept_deviceStim {u s bs card} (h : Kept u s) : Kept u (deviceStim s bs card) :=
  kept_walkerPut h

theorem kept_stewardStim {u s ten bs va} (h : Kept u s) : Kept u (stewardStim s ten bs va) :=
  kept_deviceStim h

/-- The place of a record in its ring is noted in the record that is kept. -/
theorem kept_recordAt {u s : State} (key va : Nat) (h : Kept u s) :
    Kept u { s with records := tabUpdate s.records key fun r => { r with va := va } } := by
  refine ⟨h.1, fun k r hr => ?_⟩
  obtain ⟨q, hq, hctx, hdone⟩ := h.2 k r hr
  by_cases hk : k = key
  · subst hk
    exact ⟨{ q with va := va }, by rw [tabFind_tabUpdate, if_pos rfl, hq]; rfl, hctx, hdone⟩
  · exact ⟨q, by simp [tabFind_tabUpdate, hk, hq], hctx, hdone⟩

theorem kept_recordWritten {u s ten bs va} (h : Kept u s) : Kept u (recordWritten s ten bs va) := by
  unfold recordWritten
  split
  · dsimp only
    split
    · exact kept_recordAt _ _ h
    · exact kept_stewardStim (kept_recordAt _ _ h)
  · exact h

theorem kept_faultPut {u s ten bs} (h : Kept u s) : Kept u (faultPut s ten bs) := by
  grind -ring -linarith [faultPut, kept_pushEvOnce, kept_setFaultQueue, kept_eventPut, kept_csrPoke, kept_memRingPut,
      kept_recordFailed, kept_recordWritten]

theorem kept_escalate {u s ten bs} (h : Kept u s) : Kept u (escalate s ten bs) :=
  kept_csrPoke (kept_eventPut h)

/-! Faults and resumes (R357, R359, R361, R363, R367). -/

/-- A fault of a context that runs freezes it and files its record; everything else that it does keeps both (R359, R363). -/
theorem takeFault_files {s : State} {c : Nat} {x : Ctx} (cause : Nat) (i : FaultInfo) (again : Option Work) (hx : ctxAt s c = some x)
    (hrun : x.frozen = none) : ∃ bs, Kept { s with
      ctxs := tabPut s.ctxs c { x with
        frozen := some { cause := BitVec.ofNat 10 cause, seq := recSeq s x.ten, again := again, since := s.now } }
      records := tabPut s.records (2 ^ 24 * x.ten + recSeq s x.ten) { ctx := c, va := 0, bytes := bs, done := false } }
      (takeFault s c cause i again) := by
  have hfree : ¬ x.frozen.isSome = true := by simp [hrun]
  refine ⟨recBytes (faultRecord s x cause (recSeq s x.ten) i), ?_⟩
  simp only [takeFault, hx]
  rw [if_neg hfree]
  split
  · exact kept_escalate (kept_same (kept_refl _) rfl rfl)
  · exact kept_faultPut (kept_same (kept_refl _) rfl rfl)

theorem freeHeld_ctxs (s : State) (c : Nat) (x : Ctx) (cause : BitVec 10) : (freeHeld s c x cause).ctxs = s.ctxs := by
  unfold freeHeld; dsimp only; split <;> rfl
theorem freeHeld_queue (s : State) (c : Nat) (x : Ctx) (cause : BitVec 10) : (freeHeld s c x cause).queue = s.queue := by
  unfold freeHeld; dsimp only; split <;> rfl

/-- A count adds to the queue at most a sweep at its end (R393). -/
theorem ctxCount_queue (s : State) (c e k : Nat) : ∃ r, (ctxCount s c e k).queue = s.queue ++ r := by
  unfold ctxCount
  split
  · exact ⟨[], (List.append_nil _).symm⟩
  · dsimp only
    split
    · rcases pushEvOnce_cases (setCtx s c _) (.counterSweep c e) with h | h <;> rw [h]
      · exact ⟨[], (List.append_nil _).symm⟩
      · exact ⟨_, rfl⟩
    · exact ⟨[], (List.append_nil _).symm⟩

/-- A thawed context runs, with nothing kept; what it kept goes before everything else (R367). -/
theorem thaw_resumes {s : State} {c : Nat} {x : Ctx} {z : Frozen} (hx : ctxAt s c = some x) (hz : x.frozen = some z) :
    ∃ y r, ctxAt (thaw s c) c = some y ∧ y.frozen = none ∧ y.parked = [] ∧
      (thaw s c).queue = againOf z ++ x.parked ++ s.queue ++ r := by
  let x1 : Ctx := { x with frozen := none, parked := [], startedAt := x.startedAt + (s.now - z.since) }
  let s1 := freeHeld (setCtx s c x1) c x z.cause
  let s2 : State := { s1 with queue := againOf z ++ x.parked ++ s1.queue }
  have hthaw : thaw s c = ctxCount s2 c 0x008 (cyclesOf (s.now - z.since)) := by
    simp only [thaw, hx, hz]
    rfl
  have hs2 : ctxAt s2 c = some x1 := by
    show tabFind s1.ctxs c = some x1
    rw [freeHeld_ctxs]
    exact (ctxAt_setCtx s c c x1).trans (if_pos rfl)
  obtain ⟨counts, hctx, -⟩ := ctxCount_step 0x008 (cyclesOf (s.now - z.since)) hs2
  obtain ⟨r, hr⟩ := ctxCount_queue s2 c 0x008 (cyclesOf (s.now - z.since))
  refine ⟨_, r, hthaw ▸ hctx, rfl, rfl, ?_⟩
  rw [hthaw, hr]
  show againOf z ++ x.parked ++ s1.queue ++ r = _
  rw [freeHeld_queue]
  rfl

/-- Settles O58: a fault by what it files, a resume by what it puts before the queue. -/
theorem faultsFreezeAndResume : Obligations.FaultsFreezeAndResume := by
  refine ⟨fun s c cause i again x hx => ⟨fun hrun => ?_, fun hfrozen => ?_⟩, fun s c x z hx hz => ?_⟩
  · obtain ⟨bs, hctxs, hrecords⟩ := takeFault_files cause i again hx hrun
    refine ⟨?_, fun d hd => ?_, ?_⟩
    · rw [ctxAt, hctxs, tabFind_tabPut, if_pos rfl]
    · rw [ctxAt, hctxs, tabFind_tabPut, if_neg hd, ctxAt]
    · obtain ⟨q, hq, hctx, hdone⟩ := hrecords _ _ ((tabFind_tabPut _ _ _ _).trans (if_pos rfl))
      exact ⟨q, hq, hctx, hdone⟩
  · cases again <;> simp [takeFault, hx, hfrozen]
  · exact thaw_resumes hx hz

end Sys2Proof.Machine
end

section
/-! PROOFS. Host windows, keys and attestation (R66 to R73, R80 to R84). -/

namespace Sys2Proof.Machine

/-! W4 (R68, R69). -/

theorem hostUp_boots {s : State} {link : Nat} (h : hostUp s link = true) : bootFailed s = false := by
  simp only [hostUp, booted, Bool.and_eq_true, Bool.not_eq_true'] at h
  exact h.1.2

theorem w4Write_passes {s : State} {link func addr : Nat} {bytes : List Byte} {l : List (Spot × Nat × Nat)} (hup : hostUp s link = true)
    (hspots : w4Spots s func (w4Base s func + addr) bytes.length .write = .ok l) (hcan : spotsCan s (tagsFree s) l = .ok ())
    (hpartial : partialBad s l = none) : execW4Write func link addr bytes s =
      .next (spotsWrite (w4Mark s func .write l) none 0 (hostOwner func link) (func - 1) bytes l).1 := by
  simp [execW4Write, hup, hspots, hcan, hpartial]

theorem w4Read_passes {s s1 : State} {link func addr n : Nat} {bs : List Byte} {l : List (Spot × Nat × Nat)} (hup : hostUp s link = true)
    (hwaits : readWaits s func link addr n = false) (hspots : w4Spots s func (w4Base s func + addr) n .read = .ok l)
    (hgood : ∀ e ∈ l, e.1.mode = 0 → hbmBad s e.1.pa e.2.2 = none) (hfail : remoteFail s (hostOwner func link) = none)
    (hread : spotsRead (w4Mark s func .read l) (hostOwner func link) l = (s1, .ok bs)) :
    execW4Read func link addr n s = .next (readEnds s1 func link (.read bs)) := by
  have hnone : (l.findSome? fun e => if e.1.mode = 0 then hbmBad s e.1.pa e.2.2 else none) = none := by
    rw [List.findSome?_eq_none_iff]
    intro e he
    split
    · exact hgood e he ‹_›
    · rfl
  simp [execW4Read, hup, hostUp_boots hup, hwaits, hspots, hnone, hfail, hread]

/-- Where an access of the PF lies: in one local part (R68). -/
def pfSpots (at' n : Nat) : List (Spot × Nat × Nat) :=
  [({ pa := at', mode := 0, peer := 0, kind := 0, checked := false, pte := 2 ^ 37 + 2 ^ 36, pteAddr := 0, size := 65536 }, at', n)]

theorem w4Spots_pf (s : State) {at' n : Nat} (w : Way) (h : at' + n ≤ Config.hbmBytes) : w4Spots s 0 at' n w = .ok (pfSpots at' n) := by
  have hbytes : Config.hbmBytes ≤ 2 ^ 56 := by decide
  rw [w4Spots, if_neg (by omega), if_pos rfl, if_neg (by omega), pfSpots]

/-- Beyond HBM an access of the PF is refused (R69). -/
theorem w4Spots_beyond (s : State) {at' n : Nat} (w : Way) (h : Config.hbmBytes < at' + n) : ∃ c, w4Spots s 0 at' n w = .bad c 0 at' := by
  rw [w4Spots, if_pos rfl, if_pos h]
  split
  · exact ⟨_, rfl⟩
  · exact ⟨_, rfl⟩

/-- W4_WRITE by the PF, with its memory ready and its partial granules sound (R69). -/
theorem w4Write_pf {s : State} {link addr : Nat} {bytes : List Byte} (hup : hostUp s link = true)
    (hin : w4Base s 0 + addr + bytes.length ≤ Config.hbmBytes) (hready : stackReady s (w4Base s 0 + addr) = true)
    (hgood : ∀ g ∈ granules (w4Base s 0 + addr) bytes.length, g ∉ wholeGranules (w4Base s 0 + addr) bytes.length → 2 * g ∉ s.spoiled) :
    execW4Write 0 link addr bytes s =
      .next (hbmFresh (hbmWrite s (w4Base s 0 + addr) bytes) (w4Base s 0 + addr) bytes.length) := by
  have hcan : spotsCan s (tagsFree s) (pfSpots (w4Base s 0 + addr) bytes.length) = .ok () := by simp [pfSpots, spotsCan, hready]
  have hpartial : partialBad s (pfSpots (w4Base s 0 + addr) bytes.length) = none := by
    simpa [partialBad, pfSpots] using hgood
  rw [w4Write_passes hup (w4Spots_pf s .write hin) hcan hpartial]
  simp [w4Mark, pfSpots, spotsWrite, hready]

theorem dropFail_dropRemote_frame (s : State) (owner : Nat) :
    (dropFail (dropRemote s owner) owner).hostOut = s.hostOut ∧ sameMemory s (dropFail (dropRemote s owner) owner) := by
  unfold dropFail dropRemote
  split <;> split <;> exact ⟨rfl, sameMemory_of_eq _ _ rfl rfl rfl⟩

/-- The end of a read is an observation of the host and leaves memory alone. -/
theorem readEnds_observes (s : State) (func link : Nat) (o : HostOut) :
    (readEnds s func link o).hostOut = s.hostOut ++ [o] ∧ sameMemory s (readEnds s func link o) := by
  obtain ⟨hout, hsame⟩ := dropFail_dropRemote_frame s (hostOwner func link)
  exact ⟨congrArg (· ++ [o]) hout, hsame⟩

/-- W4_READ by the PF of memory that is ready and sound (R69). -/
theorem w4Read_pf {s : State} {link addr n : Nat} (hup : hostUp s link = true) (hin : w4Base s 0 + addr + n ≤ Config.hbmBytes)
    (hready : stackReady s (w4Base s 0 + addr) = true) (hgood : hbmBad s (w4Base s 0 + addr) n = none)
    (hfail : remoteFail s (hostOwner 0 link) = none) (hwaits : readWaits s 0 link addr n = false) :
    execW4Read 0 link addr n s = .next (readEnds s 0 link (.read (hbmRead s (w4Base s 0 + addr) n))) := by
  refine w4Read_passes hup hwaits (w4Spots_pf s .read hin) ?_ hfail ?_
  · simpa [pfSpots] using hgood
  · simp [w4Mark, pfSpots, spotsRead, spotRead, hready, hgood]

/-- A write makes granules sound again and spoils none (R376). -/
theorem hbmFresh_state (s : State) (pa n : Nat) : ∃ l, hbmFresh s pa n = { s with spoiled := l } ∧ ∀ g ∈ l, g ∈ s.spoiled := by
  unfold hbmFresh
  split
  · exact ⟨s.spoiled, rfl, fun _ h => h⟩
  · exact ⟨_, rfl, fun _ h => (List.mem_filter.mp h).1⟩

theorem hbmBad_none_iff (s : State) (pa n : Nat) : hbmBad s pa n = none ↔ ∀ g ∈ granules pa n, 2 * g ∉ s.spoiled := by
  simp [hbmBad]

/-- `s` with bytes of HBM written and the spoiled granules `l`. -/
def written (s : State) (pa : Nat) (bs : List Byte) (l : List Nat) : State := { hbmWrite s pa bs with spoiled := l }

/-- Settles O59: the write is in HBM, and nothing that a read of it looks at has changed for the worse. -/
theorem hostReadsWhatItWrote : Obligations.HostReadsWhatItWrote := by
  intro s t link addr bytes hwf hup hwaits at' hin hready hfail hgood hwrite
  have hsound := (hbmBad_none_iff s at' bytes.length).mp hgood
  have hgo := w4Write_pf hup hin hready fun g hg _ => hsound g hg
  obtain ⟨l, hl, hsub⟩ := hbmFresh_state (hbmWrite s at' bytes) at' bytes.length
  have ht : written s at' bytes l = t := by
    rw [written, ← hl]
    exact Host.Outcome.next.inj (hgo.symm.trans hwrite)
  subst ht
  have hgood' : hbmBad (written s at' bytes l) at' bytes.length = none :=
    (hbmBad_none_iff _ _ _).mpr fun g hg hin => hsound g hg (hsub _ hin)
  have hread : execW4Read 0 link addr bytes.length (written s at' bytes l) =
      .next (readEnds (written s at' bytes l) 0 link (.read (hbmRead (written s at' bytes l) at' bytes.length))) :=
    w4Read_pf hup hin hready hgood' hfail hwaits
  have hsame : hbmRead (written s at' bytes l) at' bytes.length = bytes := hbmRead_hbmWrite s at' bytes
  rw [hsame] at hread
  exact ⟨_, hread, readEnds_observes _ 0 link _⟩

end Sys2Proof.Machine
end

section
/-! PROOFS. Register windows, the key table and attestation (R66 to R74, R80 to R83). -/

namespace Sys2Proof.Machine

/-! The windows W0 and W2 (R66, R70 to R74). -/

theorem registerWrite_w2 {s : State} {link off : Nat} (func : Nat) (v : Dbl) (hup : hostUp s link = true) (halign : off % 8 = 0) :
    execRegisterWrite .w2 func link off v s = .next (w2Write s func link off v) := by
  have hoff : off / 8 * 8 = off := by omega
  simp [execRegisterWrite, hup, hoff]

theorem w2Write_csr (s : State) (func link : Nat) {num : Nat} (v : Dbl) (h : num < 0x1000) : w2Write s func link (8 * num) v =
    if func = 0 ∨ 0x400 + 8 * (func - 1) ≤ num ∧ num < 0x408 + 8 * (func - 1) ∨ num = 0x480 + (func - 1) then csrWrite s num v else s := by
  have hoff : 8 * num / 8 = num := by omega
  rw [w2Write, if_pos (by omega), hoff]
  simp [w2MayWrite, or_assoc]

theorem pf_or_iff (func f : Nat) : (func == 0 || f == func) = true ↔ func = 0 ∨ func = f := by
  rw [Bool.or_eq_true, beq_iff_eq, beq_iff_eq, @eq_comm _ f func]

theorem w2Write_eventRing (s : State) (func link : Nat) {f d : Nat} (v : Dbl) (hf : f < 17) (hd : d < 4) :
    w2Write s func link (0x20000 + 0x20 * f + 8 * d) v = if func = 0 ∨ func = f then ringWrite s (128 + f) d link v else s := by
  have hring : (0x20000 + 0x20 * f + 8 * d - 0x20000) / 0x20 = f := by omega
  have hdbl : (0x20000 + 0x20 * f + 8 * d) % 0x20 / 8 = d := by omega
  simp only [w2Write]
  rw [if_neg (by omega), if_pos (by omega), hring, hdbl]
  exact if_congr (pf_or_iff _ _) rfl rfl

theorem w2Write_sinkRing (s : State) (func link : Nat) {t e d : Nat} (v : Dbl) (ht : t < 16) (he : e < 8) (hd : d < 4) :
    w2Write s func link (0x30000 + 0x100 * t + 0x20 * e + 8 * d) v =
      if func = 0 ∨ func = t + 1 then ringWrite s (8 * t + e) d link v else s := by
  have hten : (0x30000 + 0x100 * t + 0x20 * e + 8 * d - 0x30000) / 0x100 = t := by omega
  have hring : (0x30000 + 0x100 * t + 0x20 * e + 8 * d) % 0x100 / 0x20 = e := by omega
  have hdbl : (0x30000 + 0x100 * t + 0x20 * e + 8 * d) % 0x20 / 8 = d := by omega
  simp only [w2Write]
  rw [if_neg (by omega), if_neg (by omega), if_pos (by omega), hten, hring, hdbl]
  exact if_congr (pf_or_iff _ _) rfl rfl

theorem w2Write_nonce (s : State) (func link : Nat) {d : Nat} (v : Dbl) (hd : d < 4) : w2Write s func link (0x40000 + 8 * d) v =
    if func = 0 then { s with attest := memWrite s.attest (8 * d) (leBytes 8 v.toNat) } else s := by
  have hoff : 0x40000 + 8 * d - 0x40000 = 8 * d := by omega
  simp only [w2Write]
  rw [if_neg (by omega), if_neg (by omega), if_neg (by omega), if_pos (by omega), hoff]
  simp

theorem w2Write_ask (s : State) (func link : Nat) (v : Dbl) :
    w2Write s func link 0x40020 v = if func = 0 ∧ v = 1 then attestAsk s else s := by
  simp [w2Write]

theorem w2Write_key (s : State) (func link : Nat) {slot d : Nat} (v : Dbl) (hs : slot < 8) (hd : d < 16) :
    w2Write s func link (0x50000 + 0x80 * slot + 8 * d) v = if func = 0 then keyWrite s link slot (8 * d) v else s := by
  have hslot : (0x50000 + 0x80 * slot + 8 * d - 0x50000) / 0x80 = slot := by omega
  have hoff : (0x50000 + 0x80 * slot + 8 * d) % 0x80 = 8 * d := by omega
  simp only [w2Write]
  rw [if_neg (by omega), if_neg (by omega), if_neg (by omega), if_neg (by omega), if_neg (by omega), if_pos (by omega), hslot, hoff]
  simp

theorem w2Write_lock (s : State) (func link : Nat) (v : Dbl) :
    w2Write s func link 0x50400 v = if func = 0 ∧ v.getLsbD 0 = true then { s with keyLock := true } else s := by
  simp [w2Write]

theorem w2Write_bind (s : State) (func link : Nat) {port : Nat} (v : Dbl) (hp : port < 4096) :
    w2Write s func link (0x100000 + 16 * port) v = if func = 0 then bindPort s link port v else s := by
  have hport : (0x100000 + 16 * port - 0x100000) / 16 = port := by omega
  simp only [w2Write]
  rw [if_neg (by omega), if_neg (by omega), if_neg (by omega), if_neg (by omega), if_neg (by omega), if_neg (by omega), if_neg (by omega),
    if_pos (by omega), hport, if_pos (show (0x100000 + 16 * port) % 16 = 0 by omega)]
  by_cases hf : func = 0 <;> simp [hf]

/-- A field of a double in its place is what a mask with its bits leaves. -/
theorem field_mask (v mask : Dbl) (hi lo : Nat) (hm : ∀ i : Fin 64, mask.getLsbD i = decide (lo ≤ i.val ∧ i.val ≤ hi)) :
    BitVec.ofNat 64 (bitsOf v.toNat hi lo * 2 ^ lo) = v &&& mask := by
  apply BitVec.eq_of_getLsbD_eq
  intro i hi64
  have hbit := hm ⟨i, hi64⟩
  simp only at hbit
  rw [BitVec.getLsbD_and, hbit, BitVec.getLsbD_ofNat, Nat.testBit_mul_two_pow, testBit_bitsOf]
  by_cases hlo : lo ≤ i
  · rw [Nat.add_sub_cancel' hlo]
    by_cases hhi : i ≤ hi
    · simp [hi64, hlo, hhi, show i - lo < hi + 1 - lo by omega, BitVec.getLsbD]
    · simp [hhi, show ¬ i - lo < hi + 1 - lo by omega]
  · simp [hlo]

theorem w2Write_bound (s : State) (func link : Nat) {port : Nat} (v : Dbl) (hp : port < 4096) :
    w2Write s func link (0x100000 + 16 * port + 8) v =
      if func = 0 then setPort s port { portAt s port with b1 := v &&& 0x00FFFFFFFFFFC000 } else s := by
  have hport : (0x100000 + 16 * port + 8 - 0x100000) / 16 = port := by omega
  have hmask : BitVec.ofNat 64 (bitsOf v.toNat 55 14 * 16384) = v &&& 0x00FFFFFFFFFFC000 := field_mask v _ 55 14 (by decide)
  simp only [w2Write]
  rw [if_neg (by omega), if_neg (by omega), if_neg (by omega), if_neg (by omega), if_neg (by omega), if_neg (by omega), if_neg (by omega),
    if_pos (by omega), hport, if_neg (show ¬ (0x100000 + 16 * port + 8) % 16 = 0 by omega), hmask]
  by_cases hf : func = 0 <;> simp [hf]

theorem w2Write_base (s : State) (func link : Nat) (v : Dbl) : w2Write s func link 0x7FF000 v =
    { s with w4base := tabSet (fun _ => 0) s.w4base func (v &&& 0x00FFFFFFC0000000) } := by
  rw [← field_mask v 0x00FFFFFFC0000000 55 30 (by decide)]
  simp [w2Write]

/-- A register that is its writer's own takes the write; that of another stays as it is. -/
theorem own_cases {s t : State} {link func off : Nat} {v : Dbl} {mine : Prop} [Decidable mine] (hup : hostUp s link = true)
    (halign : off % 8 = 0) (h : w2Write s func link off v = if mine then t else s) :
    (mine → exec (.registerWrite .w2 func link off v) s = .next t) ∧ (¬ mine → exec (.registerWrite .w2 func link off v) s = .next s) := by
  have hgo := registerWrite_w2 func v hup halign
  rw [h] at hgo
  exact ⟨fun hmine => hgo.trans (congrArg Host.Outcome.next (if_pos hmine)), fun hmine => hgo.trans (congrArg Host.Outcome.next (if_neg hmine))⟩

theorem registerWrite_w0 {s : State} {link : Nat} (func off : Nat) (v : Dbl) (hup : hostUp s link = true) :
    execRegisterWrite .w0 func link off v s = .next (w0Write s func link off v) := by
  simp [execRegisterWrite, hup]

theorem w0Write_prod (s : State) (func link : Nat) {port : Nat} (v : Dbl) (hp : port < 4096) :
    w0Write s func link (4096 * port + 0x800) v = publish s func link port v := by
  have hport : (4096 * port + 0x800) / 4096 = port := by omega
  have hoff : (4096 * port + 0x800) % 4096 = 0x800 := by omega
  simp only [w0Write, hport, hoff]
  rw [if_neg (by omega), if_pos trivial]

theorem w0Write_slot {s : State} {func port o : Nat} (link : Nat) (v : Dbl) (hp : port < 4096) (ho : o < 0x800) (halign : o % 8 = 0)
    (hmine : portMine (portAt s port) func = true) : w0Write s func link (4096 * port + o) v =
      setPort s port { portAt s port with slots := memWrite (portAt s port).slots o (leBytes 8 v.toNat) } := by
  have hport : (4096 * port + o) / 4096 = port := by omega
  have hoff : (4096 * port + o) % 4096 = o := by omega
  have hword : o / 8 * 8 = o := by omega
  simp only [w0Write, hport, hoff, hmine, hword]
  rw [if_neg (by omega), if_neg (by omega), if_neg (by simp), if_pos ho]

/-! The key table and attestation (R80 to R83). -/

theorem keySlotWrite_writes {s : State} {link slot : Nat} (off : Nat) (v : Dbl) (hl : link < 2) (hup : hostUp s link = true) (hs : slot < 8) :
    execKeySlotWrite (8 * link + slot) off v s = .next (keyWrite s link slot off v) := by
  have hlink : (8 * link + slot) / 8 = link := by omega
  have hslot : (8 * link + slot) % 8 = slot := by omega
  have hgo : ¬ (hostUp s ((8 * link + slot) / 8) = false ∨ 16 ≤ 8 * link + slot) := by
    rw [hlink, hup]
    rintro (hdown | hfar)
    · cases hdown
    · omega
  rw [execKeySlotWrite, if_neg hgo, hlink, hslot]

/-- Settles O45: the windows register by register, then the key table and attestation. -/
theorem hostWindowsKeysAndAttestation : Obligations.HostWindowsKeysAndAttestation := by
  refine ⟨fun s link hup => ⟨fun func addr bytes l => w4Write_passes hup, fun func addr n l s1 bs => w4Read_passes hup,
    fun addr => ⟨fun bytes => w4Write_pf hup, fun n hin hready hgood hfail hwaits => ?_, fun bytes hout => ?_, fun n hout hwaits => ?_⟩,
    fun v => ⟨fun func num h => ?_, fun func f d hf hd => ?_, fun func t e d ht he hd => ?_, fun func d hd => ?_, fun func => ?_,
      fun func slot d hs hd => ?_, fun func => ?_, fun func port hp => ⟨?_, ?_⟩, fun func => ?_, fun func port hp => ⟨?_, fun o ho halign hmine => ?_⟩⟩⟩,
    fun s => ⟨fun link slot off v hl hup hs => ⟨fun hlock => ?_, fun hlock hoff => ?_, fun hlock hoff => ?_⟩, fun hboot => ⟨?_, ?_⟩, fun hask => ?_⟩⟩
  · exact ⟨_, w4Read_pf hup hin hready hgood hfail hwaits, readEnds_observes s 0 link _⟩
  · obtain ⟨c, hc⟩ := w4Spots_beyond s .write hout
    show execW4Write 0 link addr bytes s = _
    simp only [execW4Write, hup, hc]
    rfl
  · obtain ⟨c, hc⟩ := w4Spots_beyond s .read hout
    show execW4Read 0 link addr n s = _
    simp only [execW4Read, hup, hostUp_boots hup, hwaits, hc]
    rfl
  · exact own_cases hup (by omega) (w2Write_csr s func link v h)
  · exact own_cases hup (by omega) (w2Write_eventRing s func link v hf hd)
  · exact own_cases hup (by omega) (w2Write_sinkRing s func link v ht he hd)
  · exact own_cases hup (by omega) (w2Write_nonce s func link v hd)
  · exact own_cases hup (by omega) (w2Write_ask s func link v)
  · exact own_cases hup (by omega) (w2Write_key s func link v hs hd)
  · exact own_cases hup (by omega) (w2Write_lock s func link v)
  · exact own_cases hup (by omega) (w2Write_bind s func link v hp)
  · exact own_cases hup (by omega) (w2Write_bound s func link v hp)
  · exact own_cases hup (by omega) ((w2Write_base s func link v).trans (if_pos trivial).symm)
  · exact (registerWrite_w0 func _ v hup).trans (congrArg Host.Outcome.next (w0Write_prod s func link v hp))
  · exact (registerWrite_w0 func _ v hup).trans (congrArg Host.Outcome.next (w0Write_slot link v hp ho halign hmine))
  · exact (keySlotWrite_writes off v hl hup hs).trans (by simp [keyWrite, hlock])
  · exact (keySlotWrite_writes off v hl hup hs).trans (by simp [keyWrite, hlock, hoff])
  · exact (keySlotWrite_writes off v hl hup hs).trans (by simp [keyWrite, hlock, hoff])
  · show execKeyTableLock s = _
    rw [execKeyTableLock, if_pos hboot]
  · show execAttestationRequest s = _
    rw [execAttestationRequest, if_pos hboot, attestAsk]
  · show execAttestationComplete s = _
    rw [execAttestationComplete, if_neg (not_not.mpr hask)]
    rfl

end Sys2Proof.Machine
end

section
/-! PROOFS. Reset, and the tile instructions (R216 to R218, R238 to R240). -/

namespace Sys2Proof.Machine

/-- Settles O53: each field of the state at reset, by evaluation. -/
theorem resetLeaves : Obligations.ResetLeaves := by
  unfold Obligations.ResetLeaves
  refine ⟨?_, ?_, ?_, ?_, ?_, ?_, ?_, ?_, ?_, ?_, ?_, ?_, ?_, ?_, ?_, ?_, ?_, ?_, ?_⟩
  all_goals intros; rfl

/-! Tile instructions (R238 to R240). -/

/-- The owner's check passes on an Empty slot and on one of the tenancy's own, that is no plate tile where rings may be named (R217). -/
theorem ownerFault_none {s : State} {x : Ctx} {k : Nat} {plates : Bool}
    (h : (tileAt s x.group k).state = 0 ∨ (tileAt s x.group k).ten.toNat = x.ten ∧ (plates = true → (tileAt s x.group k).pl = false)) :
    ownerFault s x k plates = none := by
  rw [ownerFault]
  obtain h | ⟨hten, hpl⟩ := h
  · rw [if_pos h]
  · split
    · rfl
    · rw [if_neg (fun h => h hten), if_neg]
      cases plates <;> simp_all

section
variable {m : FireMode} {tid : BitVec 10} {t : Target} {v : Dbl} {s s1 : State} {f : Firing} {x : Ctx} {k : Nat} {r : Option Nat} {d : List Dbl}

/-- The fault that a tile instruction finds at its slot (R217). -/
def slotBad (f : Firing) (tid v c : Nat) (s : State) : State := fireFault s f c { infoAt v 0 with iter := f.iter, tid := tid }

/-- A tile instruction whose handle names a slot that its tenancy may use, with a readable tensor entry, goes on (R217). -/
theorem tileFiring_goes {n : Nat} {rings fills : Bool} (go : State → Ctx → Nat → Option Nat → List Dbl → (Nat → State → State) → State)
    (h : Acting m s f) (hv : oneValue f .w64 v) (hx : ctxAt s f.ctx = some x) (hslot : handleSlot x v.toNat rings fills = .ok (k, r))
    (hten : tensorRead s x (tensorOwner f.ctx f.inst) n = (s1, .ok d)) (hown : ownerFault s1 x k rings = none) :
    tileFiring s m f t n rings fills go = go s1 x k r d (slotBad f n v.toNat) := by
  obtain ⟨-, -, hfirst⟩ := oneValue_elem m f _ _ h.fires hv
  simp only [tileFiring, oneElem_ok f _ _ hv, hx, hfirst, hslot, withTensor, hten, hown]
  rfl

theorem tileStat_delivers (h : Acting m s f) (hv : oneValue f .w64 v) (hx : ctxAt s f.ctx = some x)
    (hslot : handleSlot x v.toNat false false = .ok (k, r)) (hown : ownerFault s x k false = none) :
    execTileStat m t s = .next (deliverWide s m f t (tileDouble (tileAt s x.group k))) := by
  obtain ⟨-, -, hfirst⟩ := oneValue_elem m f _ _ h.fires hv
  exact (onFire_acts m s f _ _ _ h).trans (by simp only [oneElem_ok f _ _ hv, hx, hfirst, hslot, hown])

/-- What a tile instruction does to the ring that its handle went through. -/
def ringMoves (s : State) (c : Nat) (r : Option Nat) (g : Ring → Ring) : State :=
  match r with
  | none => s
  | some n => modRing s c n g

theorem tileFill_fills (h : Acting m s f) (hv : oneValue f .w64 v) (hx : ctxAt s f.ctx = some x)
    (hslot : handleSlot x v.toNat true true = .ok (k, r)) (hten : tensorRead s x (tensorOwner f.ctx f.inst) tid.toNat = (s1, .ok d))
    (hempty : (tileAt s1 x.group k).state = 0) :
    execTileFill m tid t s = .next (deliverWide (ringMoves (slotFill s1 x k (((r.bind (ringOf x)).map (·.tid)).getD tid.toNat)) f.ctx r
      fun q => produced q 1) m f t (slotHandle k)) := by
  refine (onFire_acts m s f _ _ _ h).trans (congrArg Host.Outcome.next ?_)
  rw [tileFiring_goes _ h hv hx hslot hten (ownerFault_none (.inl hempty)), if_neg (fun hne => hne hempty)]
  cases r.bind (ringOf x) <;> cases r <;> rfl

theorem tileReady_readies (h : Acting m s f) (hv : oneValue f .w64 v) (hx : ctxAt s f.ctx = some x)
    (hslot : handleSlot x v.toNat false false = .ok (k, r)) (hten : tensorRead s x (tensorOwner f.ctx f.inst) tid.toNat = (s1, .ok d))
    (hfilling : (tileAt s1 x.group k).state = 1) (hown : (tileAt s1 x.group k).ten.toNat = x.ten)
    (htid : (tileAt s1 x.group k).tid = tid) (hfirst : f.done = 0) (hstores : slotStores s1 f.ctx x.group k = []) :
    execTileReady m tid t s = .next (deliverWide (slotState s1 x.group k 2) m f t v.toNat) := by
  obtain ⟨-, -, hval⟩ := oneValue_elem m f _ _ h.fires hv
  refine (onFire_acts m s f _ _ _ h).trans (congrArg Host.Outcome.next ?_)
  rw [tileFiring_goes _ h hv hx hslot hten (ownerFault_none (.inr ⟨hown, nofun⟩))]
  simp only [hfilling, htid, hfirst, hstores, hval, ne_eq, not_true_eq_false, if_false, if_true, List.isEmpty_nil]

/-- A Ready slot does not keep a reader waiting (R217). -/
theorem slotAwaits_ready {e : Tile} (h : e.state = 2) (r : Option Nat) : slotAwaits e r = false := by
  rw [slotAwaits, h]
  cases r <;> rfl

theorem tileDrain_queues (h : Acting m s f) (hv : oneValue f .w64 v) (hx : ctxAt s f.ctx = some x)
    (hslot : handleSlot x v.toNat true false = .ok (k, r)) (hten : tensorRead s x (tensorOwner f.ctx f.inst) tid.toNat = (s1, .ok d))
    (hready : (tileAt s1 x.group k).state = 2) (hown : (tileAt s1 x.group k).ten.toNat = x.ten) (hpl : (tileAt s1 x.group k).pl = false)
    (htid : (tileAt s1 x.group k).tid = tid) (hroom : queueFull s1 x.press 6 = false) :
    let o := openReply (ringMoves (slotState s1 x.group k 3) f.ctx r fun q => { consumed q 1 with drains := q.drains + 1 }) m f [t]
    execTileDrain m tid t s = .next (enqueue { o.1 with nextId := o.1.nextId + 1 } x.press
      { newOp o.1.nextId f.ctx 6 tid.toNat (.drain k r (((r.bind (ringOf x)).map (·.drains)).getD 0)) o.2 with
        data := d.flatMap fun v => leBytes 8 v.toNat }) := by
  refine (onFire_acts m s f _ _ _ h).trans (congrArg Host.Outcome.next ?_)
  rw [tileFiring_goes _ h hv hx hslot hten (ownerFault_none (.inr ⟨hown, fun _ => hpl⟩))]
  simp only [slotAwaits_ready hready, hready, htid, hroom, ne_eq, not_true_eq_false, if_false, Bool.false_eq_true]
  cases r.bind (ringOf x) <;> cases r <;> rfl

theorem tileFree_frees (h : Acting m s f) (hv : oneValue f .w64 v) (hx : ctxAt s f.ctx = some x)
    (hslot : handleSlot x v.toNat true false = .ok (k, r)) (hten : tensorRead s x (tensorOwner f.ctx f.inst) tid.toNat = (s1, .ok d))
    (hready : (tileAt s1 x.group k).state = 2) (hown : (tileAt s1 x.group k).ten.toNat = x.ten) (hpl : (tileAt s1 x.group k).pl = false)
    (htid : (tileAt s1 x.group k).tid = tid) (hreads : slotReads s1 x.group k = false) :
    execTileFree m tid t s =
      .next (deliverWide (ringMoves (slotState s1 x.group k 0) f.ctx r fun q => consumed q 1) m f t v.toNat) := by
  obtain ⟨-, -, hval⟩ := oneValue_elem m f _ _ h.fires hv
  refine (onFire_acts m s f _ _ _ h).trans (congrArg Host.Outcome.next ?_)
  rw [tileFiring_goes _ h hv hx hslot hten (ownerFault_none (.inr ⟨hown, fun _ => hpl⟩))]
  simp only [slotAwaits_ready hready, hready, htid, hreads, hval, ne_eq, not_true_eq_false, if_false, Bool.false_eq_true]
  cases r <;> rfl

end

/-- Settles O24: each tile instruction by its own lemma. -/
theorem tileInstructions : Obligations.TileInstructions := by
  intro m tid t v s f x k r h hv hx
  refine ⟨fun hslot hown => ?_, fun s1 d hten => ⟨fun hslot hempty => ?_, fun hslot hfilling hown htid hfirst hstores => ?_,
    fun hslot hready hown hpl htid => ⟨fun hroom => ?_, fun hreads => ?_⟩⟩⟩
  · exact tileStat_delivers h hv hx hslot (ownerFault_none (hown.imp_right (⟨·, nofun⟩)))
  · exact (tileFill_fills h hv hx hslot hten hempty).trans (by cases r <;> rfl)
  · exact tileReady_readies h hv hx hslot hten hfilling hown htid hfirst hstores
  · exact (tileDrain_queues h hv hx hslot hten hready hown hpl htid hroom).trans (by cases r <;> rfl)
  · exact (tileFree_frees h hv hx hslot hten hready hown hpl htid hreads).trans (by cases r <;> rfl)

end Sys2Proof.Machine
end

section
/-! PROOFS. Waiters, drains, copies and the engine queues (R220, R241, R242, R256). -/

namespace Sys2Proof.Machine

/-! Waiters: the firings act in ascending order of tag and instruction. -/

/-- A list whose keys rise strictly is what sorting any arrangement of it gives. -/
theorem mergeSort_of_keys_lt {α : Type} (key : α → Nat) {l m : List α} (hperm : l.Perm m) (hlt : l.Pairwise fun a b => key a < key b) :
    (m.mergeSort fun a b => decide (key a ≤ key b)) = l := by
  have hsorted : (m.mergeSort fun a b => decide (key a ≤ key b)).Pairwise fun a b => key a ≤ key b :=
    (List.pairwise_mergeSort (fun a b c hab hbc => by simp at *; omega) (fun a b => by simp; omega) m).imp fun h => of_decide_eq_true h
  have hnodup : (l.map key).Nodup := List.pairwise_map.mpr (hlt.imp Nat.ne_of_lt)
  have hsame := (List.mergeSort_perm m fun a b => decide (key a ≤ key b)).trans hperm.symm
  exact hsame.eq_of_pairwise (fun a b ha hb hab hba => List.inj_on_of_nodup_map hnodup (hsame.mem_iff.mp ha) hb (Nat.le_antisymm hab hba))
    hsorted (hlt.imp Nat.le_of_lt)

theorem waiterKey_ctx {s : State} {w : Waiter} {x : Ctx} (hx : ctxAt s w.firing.ctx = some x) (hi : w.firing.inst < 128) :
    waiterKey s w = x.tag * 128 + w.firing.inst := by
  simp [waiterKey, hx, Nat.mod_eq_of_lt hi]

theorem waiters_sorted {s : State} {l : List Waiter} (hperm : l.Perm s.waiters)
    (hrises : l.Pairwise fun v w => ∀ x y, ctxAt s v.firing.ctx = some x → ctxAt s w.firing.ctx = some y → x.tag < y.tag ∨
      x.tag = y.tag ∧ v.firing.inst < w.firing.inst)
    (hthere : ∀ w ∈ s.waiters, w.firing.inst < 128 ∧ ∃ x, ctxAt s w.firing.ctx = some x) :
    (s.waiters.mergeSort fun v w => decide (waiterKey s v ≤ waiterKey s w)) = l := by
  refine mergeSort_of_keys_lt (waiterKey s) hperm (hrises.imp_of_mem fun {v w} hv hw h => ?_)
  obtain ⟨hvi, x, hx⟩ := hthere v (hperm.mem_iff.mp hv)
  obtain ⟨hwi, y, hy⟩ := hthere w (hperm.mem_iff.mp hw)
  rw [waiterKey_ctx hx hvi, waiterKey_ctx hy hwi]
  have := h x y hx hy
  omega

theorem tryWaiter_acts {s t : State} {w : Waiter} {x : Ctx} {i : Instr} (hx : ctxAt s w.firing.ctx = some x) (hrun : x.frozen = none)
    (hi : decodeInstr (wordFor x.image w.firing.inst w.firing.iter).1 = .ok i)
    (ht : refire i { s with waiters := s.waiters.filter (fun v => v.id != w.id), cur := some w.firing } = .next t) :
    tryWaiter s w = afterFire t i w.firing := by
  simp only [tryWaiter, hx, hrun, hi, ht]
  rfl

/-! Drains (R220, R242). -/

/-- A granule is read from the slot and written to the tensor. -/
theorem drain_granule {s s1 s2 : State} {p k base : Nat} {o : EngOp} {x : Ctx} {bs : List Byte} (done : State → State) (hmore : o.pos < 255)
    (hread : engFetch s x (opOwner o.id) (slotHandle k + 64 * o.pos) 64 o.waive = (s1, .ok bs))
    (hwrite : engStore s1 x o.ctx (opOwner o.id) (base + 64 * o.pos) bs o.waive = (s2, .ok ())) :
    drainFrom 1 s p o x k base done = opAgain (modOp s2 p o.id fun _ => { o with pos := o.pos + 1, waive := none }) p
      { o with pos := o.pos + 1, waive := none } := by
  have hlast : ¬256 ≤ o.pos + 1 := by omega
  rw [drainFrom, if_neg (by omega), hread]
  simp only [hwrite, drainFrom, hlast, if_false]

theorem drain_written {n : Nat} {s : State} {p k base : Nat} {o : EngOp} {x : Ctx} (done : State → State) (hall : 256 ≤ o.pos) :
    drainFrom n s p o x k base done = done s := by
  cases n with
  | zero => rw [drainFrom, if_pos hall]
  | succ n => rw [drainFrom, if_pos hall]

/-- Writes at peers that have not failed and are done let an operation end. -/
theorem opSettled_done {s : State} {p : Nat} {o : EngOp} (done : State → State) (hfail : remoteFail s (opOwner o.id) = none)
    (hwriting : opWriting s o = false) : opSettled s p o done = done s := by
  simp [opSettled, hfail, hwriting]

/-- An operation's drain into a tensor that may be written (R242). -/
theorem tileDrain_goes {s : State} {id p k di : Nat} {r : Option Nat} {o : EngOp} {x : Ctx} (ho : opAt s id = some (p, o))
    (hx : ctxAt s o.ctx = some x) (hrun : x.frozen = none) (hstall : o.stalled = false) (hk : o.kind = .drain k r di)
    (hwritable : tdtReadOnly (dblsOf o.data) = false) :
    execTileDrainComplete id s = .next (drainFrom 1 s p o x k ((tdtDbl (dblsOf o.data) 0 + 16384 * di) % 2 ^ 64) fun s1 =>
      opSettled s1 p { o with pos := 256 } fun s2 =>
        if slotReads s2 x.group k then opAgain s2 p o
        else settle (answer (opGone (slotState s2 x.group k 0) p o) o.reply
          (r.elim (slotHandle k) (0xF0 * 2 ^ 56 + ·)) .w64) o.ctx) := by
  refine (withOp_acts _ ho hx hrun hstall).trans (congrArg Host.Outcome.next ?_)
  have hmay : (tdtReadOnly (dblsOf o.data) && o.waive != some 0x122) = false := by rw [hwritable, Bool.false_and]
  split
  case h_1 h =>
    obtain ⟨⟩ := hk.symm.trans h
    refine (if_neg (ne_true_of_eq_false hmay)).trans ?_
    cases r <;> rfl
  case h_2 h => exact absurd hk (h k r di)

/-! Copies (R241, R256). -/

theorem copyFault_begun {s : State} {x : Ctx} {o : EngOp} {dst src len : Nat} {rem : Bool} (h : o.data ≠ []) :
    copyFault s x o dst src len rem = none := by
  rw [copyFault, if_pos]
  simp [h]

/-- A source that is all read is not read again. -/
theorem copyRead_all {n : Nat} {s : State} {p src len : Nat} {o : EngOp} {x : Ctx} (done : State → EngOp → State) (h : len ≤ o.data.length) :
    copyRead n s p o x src len done = done s o := by
  cases n with
  | zero => rfl
  | succ n => rw [copyRead, if_pos h]

theorem copyWrite_granule {s s1 : State} {p dst mb : Nat} {o : EngOp} {x : Ctx} (done : State → EngOp → State)
    (hmore : o.pos + ((o.data.drop o.pos).take 64).length < o.data.length)
    (hwrite : engWrite s x o o.reply.iter (dst + o.pos) ((o.data.drop o.pos).take 64) = (s1, .ok ())) :
    copyWrite 1 s p o x dst mb done =
      opAgain (modOp s1 p o.id fun _ => { o with pos := o.pos + ((o.data.drop o.pos).take 64).length, waive := none }) p
        { o with pos := o.pos + ((o.data.drop o.pos).take 64).length, waive := none } := by
  rw [copyWrite, if_neg (by omega)]
  simp only [hwrite, copyWrite]
  rw [if_neg (by omega)]

theorem copyWrite_all {n : Nat} {s : State} {p dst mb : Nat} {o : EngOp} {x : Ctx} (done : State → EngOp → State)
    (h : o.data.length ≤ o.pos) : copyWrite n s p o x dst mb done = done s o := by
  cases n with
  | zero => rw [copyWrite, if_pos h]
  | succ n => rw [copyWrite, if_pos h]

/-- A copy to a peer ends once nothing that it sent is unacknowledged. -/
theorem remoteRest_ends {s : State} {p dst len : Nat} {o : EngOp} {x : Ctx} (hall : len ≤ o.pos) (hfail : remoteFail s (opOwner o.id) = none)
    (hwriting : opWriting s o = false) (hacks : ∀ t ∈ s.xfers, t.kind = .copy o.id → t.acc = true) :
    remoteRest s p o x dst len = copyDone s p o len := by
  have hnone : (s.xfers.any fun t => t.kind == .copy o.id && !t.acc) = false := by
    rw [List.any_eq_false]
    intro t ht h
    simp only [Bool.and_eq_true, beq_iff_eq, Bool.not_eq_true'] at h
    rw [hacks t ht h.1] at h
    exact Bool.noConfusion h.2
  simp [remoteRest, hall, hfail, hnone, hwriting]

section
variable {s : State} {id p dst src len : Nat} {o : EngOp} {x : Ctx}

/-- A copy whose source is read writes (R241). -/
theorem copy_goes (ho : opAt s id = some (p, o)) (hx : ctxAt s o.ctx = some x) (hrun : x.frozen = none) (hstall : o.stalled = false)
    (hk : o.kind = .copy dst src len) (hbegun : o.data ≠ []) (hread : len ≤ o.data.length) :
    execCopyComplete id s =
      .next (copyWrite 1 s p o x dst 0 fun s1 o1 => opSettled s1 p o1 fun s2 => copyDone s2 p o1 len) := by
  refine (withOp_acts _ ho hx hrun hstall).trans (congrArg Host.Outcome.next ?_)
  split
  case h_1 h =>
    obtain ⟨⟩ := hk.symm.trans h
    simp only [copyFault_begun hbegun, copyRead_all _ hread]
  case h_2 h | h_3 h => exact absurd (hk.symm.trans h) nofun
  case h_4 h _ _ => exact absurd hk (h dst src len)

theorem remoteCopy_goes (ho : opAt s id = some (p, o)) (hx : ctxAt s o.ctx = some x) (hrun : x.frozen = none) (hstall : o.stalled = false)
    (hk : o.kind = .remoteCopy dst src len) (hbegun : o.data ≠ []) (hread : len ≤ o.data.length) :
    execCopyComplete id s = .next (remoteRest s p o x dst len) := by
  refine (withOp_acts _ ho hx hrun hstall).trans (congrArg Host.Outcome.next ?_)
  split
  case h_2 h =>
    obtain ⟨⟩ := hk.symm.trans h
    simp only [copyFault_begun hbegun, copyRead_all _ hread]
  case h_1 h | h_3 h => exact absurd (hk.symm.trans h) nofun
  case h_4 _ h _ => exact absurd hk (h dst src len)

theorem restWrite_goes (ho : opAt s id = some (p, o)) (hx : ctxAt s o.ctx = some x) (hrun : x.frozen = none) (hstall : o.stalled = false)
    (hk : o.kind = .restWrite dst o.data) :
    execCopyComplete id s =
      .next (copyWrite 1 s p o x dst o.ringed fun s1 o1 => opSettled s1 p o1 fun s2 => settle (opGone s2 p o1) o.ctx) := by
  refine (withOp_acts _ ho hx hrun hstall).trans (congrArg Host.Outcome.next ?_)
  split
  case h_3 h =>
    obtain ⟨⟩ := hk.symm.trans h
    rfl
  case h_1 h | h_2 h => exact absurd (hk.symm.trans h) nofun
  case h_4 _ _ h => exact absurd hk (h dst o.data)

end

/-- Settles O25: the waiters in their order, then each kind of engine operation by its granule and by its end. -/
theorem waitersDrainsAndCopies : Obligations.WaitersDrainsAndCopies := by
  refine ⟨⟨fun s l hperm hrises hthere => ?_, fun s t w x i hx hrun hi ht => tryWaiter_acts hx hrun hi ht,
    fun s id p k di r o x ho hx hrun hstall hk hwritable => ?_⟩, fun s id p dst src len o x ho hx hrun hstall => ?_⟩
  · show execTileWaitSatisfied s = _
    simp only [execTileWaitSatisfied, waiters_sorted hperm hrises hthere]
  · rw [show exec (.tileDrainComplete id) s = _ from tileDrain_goes ho hx hrun hstall hk hwritable]
    refine ⟨fun s1 s2 bs hmore hread hwrite => ?_, fun hall hfail hwriting hreads => ?_⟩
    · rw [drain_granule _ hmore hread hwrite]
    · rw [drain_written _ hall]
      rw [@opSettled_done s p { o with pos := 256 } _ hfail hwriting, if_neg (ne_true_of_eq_false hreads)]
      cases r <;> rfl
  · have hbegun : 0 < o.data.length → o.data ≠ [] := List.ne_nil_of_length_pos
    refine ⟨fun s1 hkind hmore hwrite => ?_, fun hk hlen hread hall hfail hwriting => ?_, fun hk hlen hread hall hfail hwriting hacks => ?_⟩
    · obtain ⟨hk, hread⟩ | hk := hkind
      · exact (copy_goes ho hx hrun hstall hk (hbegun (by omega)) hread.ge).trans (congrArg _ (copyWrite_granule _ hmore hwrite))
      · exact (restWrite_goes ho hx hrun hstall hk).trans (congrArg _ (copyWrite_granule _ hmore hwrite))
    · refine (copy_goes ho hx hrun hstall hk (hbegun (by omega)) hread.ge).trans (congrArg _ ?_)
      rw [copyWrite_all _ (by omega), opSettled_done _ hfail hwriting]
      rfl
    · exact (remoteCopy_goes ho hx hrun hstall hk (hbegun (by omega)) hread.ge).trans
        (congrArg _ (remoteRest_ends hall.ge hfail hwriting hacks))

/-! Rings and queues (R219, R220). -/

section
variable {m : FireMode} {s : State} {f : Firing} {x : Ctx}

/-- Where its queue has room an operation goes behind those of its queue (R220). -/
theorem queueOp_enqueues {q tid : Nat} {k : EngKind} (ts : List Target) (hx : ctxAt s f.ctx = some x) (hroom : queueFull s x.press q = false) :
    queueOp s m f ts q tid k =
      let o := openReply s m f ts
      let n := newOp o.1.nextId f.ctx q tid k o.2
      enqueue { o.1 with nextId := o.1.nextId + 1 } x.press
        (if isMarker n then { n with ringed := (boundFired s x.press q f.ctx).1, pos := (boundFired s x.press q f.ctx).2 } else n) := by
  simp only [queueOp, hx, hroom, Bool.false_eq_true, if_false]
  rfl

theorem ringDef_defines {tid : BitVec 10} {t : Target} {v : Dbl} {s1 : State} {d : List Dbl} (h : Acting m s f) (hv : oneValue f .w64 v)
    (hx : ctxAt s f.ctx = some x) (hten : tensorRead s x (tensorOwner f.ctx f.inst) tid.toNat = (s1, .ok d))
    (hhigh : bitsOf v.toNat 59 56 = 0) (hlow : bitsOf v.toNat 39 0 = 0) (hfits : bitsOf v.toNat 49 40 + bitsOf v.toNat 55 50 ≤ 1023)
    (hover : ringOverlap s f.ctx x.group (bitsOf v.toNat 63 60) (bitsOf v.toNat 49 40)
      (bitsOf v.toNat 49 40 + bitsOf v.toNat 55 50) = false) (hbusy : ringBusy s f.ctx x (bitsOf v.toNat 63 60) = false)
    (hroom : (ringOf x (bitsOf v.toNat 63 60)).isSome = true ∨ ringEntriesUsed s1 x.press < Config.ringEntries) :
    let q : Ring := ⟨bitsOf v.toNat 49 40, bitsOf v.toNat 55 50 + 1, 0, 0, 0, tid.toNat⟩
    let o := openReply (modCtx s1 f.ctx fun x => { x with rings := tabPut x.rings (bitsOf v.toNat 63 60) q }) m f [t]
    execRingDef m tid t s = .next (answer o.1 o.2 (bitsOf v.toNat 63 60) .w32) := by
  obtain ⟨-, -, hfirst⟩ := oneValue_elem m f _ _ h.fires hv
  refine (onFire_acts m s f _ _ _ h).trans (congrArg Host.Outcome.next ?_)
  have hnotfull : ¬((ringOf x (bitsOf v.toNat 63 60)).isNone ∧ Config.ringEntries ≤ ringEntriesUsed s1 x.press) := by
    rintro ⟨hnone, hfull⟩
    obtain hsome | hfew := hroom
    · rw [Option.isNone_iff_eq_none] at hnone
      rw [hnone] at hsome
      exact Bool.noConfusion hsome
    · omega
  have hlegal : ¬(bitsOf v.toNat 59 56 ≠ 0 ∨ bitsOf v.toNat 39 0 ≠ 0 ∨ 1023 < bitsOf v.toNat 49 40 + bitsOf v.toNat 55 50 ∨
      ringOverlap s f.ctx x.group (bitsOf v.toNat 63 60) (bitsOf v.toNat 49 40) (bitsOf v.toNat 49 40 + bitsOf v.toNat 55 50) = true ∨
      ringBusy s f.ctx x (bitsOf v.toNat 63 60) = true) := by
    rw [hhigh, hlow, hover, hbusy]
    simp
    omega
  have hcount : ∀ a b : Nat, a + b - a + 1 = b + 1 := by omega
  simp only [oneElem_ok f _ _ hv, hx, hfirst]
  rw [if_neg hlegal]
  simp only [withTensor, hten, hnotfull, if_false, hcount]

theorem engCmd_queues {t : Target} {q : BitVec 3} {v : Dbl} (h : Acting m s f) (hv : oneValue f .w32 v) (hx : ctxAt s f.ctx = some x)
    (hroom : queueFull s x.press q.toNat = false) :
    let o := openReply s m f [t]
    execEngCmd m t q s = .next (enqueue { o.1 with nextId := o.1.nextId + 1 } x.press
      { newOp o.1.nextId f.ctx q.toNat 0 (.marker (BitVec.ofNat 64 (v.toNat % 2 ^ 32))) o.2 with
        ringed := (boundFired s x.press q.toNat f.ctx).1, pos := (boundFired s x.press q.toNat f.ctx).2 }) := by
  obtain ⟨-, -, hfirst⟩ := oneValue_elem m f _ _ h.fires hv
  refine (onFire_acts m s f _ _ _ h).trans (congrArg Host.Outcome.next ?_)
  simp only [oneElem_ok f _ _ hv, hfirst]
  rw [queueOp_enqueues _ hx hroom]
  rfl

end

/-- Settles O26: the ring by its word's fields, the queues by their own branches. -/
theorem ringsAndEngineQueues : Obligations.RingsAndEngineQueues := by
  refine ⟨fun m tid t v s s1 f x d h hv hx hten hhigh hlow hfits hover hbusy hroom => ?_,
    fun m t q v s f x h hv hx hroom => engCmd_queues h hv hx hroom, fun s p q o => ⟨fun hmark => ?_, fun hmark hback hbusy hnext => ?_⟩,
    fun s id p o x v ho hx hrun hstall hk => ?_⟩
  · have hr : (v.extractLsb' 60 4).toNat = bitsOf v.toNat 63 60 := extract_bitsOf v 63 60
    have hf : (v.extractLsb' 40 10).toNat = bitsOf v.toNat 49 40 := extract_bitsOf v 49 40
    have hl : (v.extractLsb' 50 6).toNat = bitsOf v.toNat 55 50 := extract_bitsOf v 55 50
    rw [hr, hf, hl, ← Nat.add_assoc, Nat.add_sub_cancel] at hover
    rw [hr] at hbusy hroom
    rw [hr, hf, hl]
    rw [hf, hl] at hfits
    exact ringDef_defines h hv hx hten ((bitsOf_eq_zero v 59 56).mpr hhigh) ((bitsOf_eq_zero v 39 0).mpr hlow) (by omega) hover hbusy hroom
  · show execEngineOpStart p q s = _
    simp only [execEngineOpStart, hmark]
  · show execEngineOpStart p q s = _
    simp only [execEngineOpStart, hmark, hback, hbusy, hnext, Bool.false_eq_true, if_false]
  · have acts : execEngCmdDeliver id s = _ := withOp_acts _ ho hx hrun hstall
    exact acts.trans (by simp only [hk])

end Sys2Proof.Machine
end

section
/-! PROOFS. What instructions ask of the engines (R220, R243, R249, R254, R256). -/

namespace Sys2Proof.Machine

/-- The low six bits of a descriptor's address are zero (R118). -/
theorem descriptor_aligned {v : Dbl} (h : v.extractLsb' 0 6 = 0) : v.toNat % 64 = 0 ∧ v.toNat / 64 * 64 = v.toNat := by
  have hlow : v.toNat % 64 = 0 := by
    have := congrArg BitVec.toNat h
    rwa [BitVec.extractLsb'_toNat] at this
  omega

/-- A copy's operands are doubles. -/
theorem copyArgs_ok {f : Firing} (hw : hasWidths f .w64 .w64 .w64) (hone : manyElems f = false) : copyArgs f = none := by
  have hp := operandFault_none f (fun q => if q == Port.p then none else some .w64) [] .pass
    (widthBad_none f _ _ _ _ hw (.inl rfl) (.inl rfl) (.inl rfl)) rfl
  simp only [copyArgs, hp, hone, Bool.false_and, Bool.false_eq_true, if_false]

section
variable {m : FireMode} {s : State} {f : Firing} {x : Ctx} (h : Acting m s f) (hx : ctxAt s f.ctx = some x)

/-- The state in which the operation of a firing that asks an engine has joined its queue (R220). -/
def asked (s : State) (m : FireMode) (f : Firing) (t : Target) (press q tid : Nat) (k : EngKind) : State :=
  let o := openReply s m f [t]
  enqueue { o.1 with nextId := o.1.nextId + 1 } press (newOp o.1.nextId f.ctx q tid k o.2)

include hx in
/-- An operation that is no marker goes behind those of its queue as it is. -/
theorem queueOp_asks {q tid : Nat} {k : EngKind} (t : Target) (hroom : queueFull s x.press q = false) (hk : ∀ v, k ≠ .marker v) :
    queueOp s m f [t] q tid k = asked s m f t x.press q tid k := by
  rw [queueOp_enqueues _ hx hroom]
  cases k with
  | marker v => exact absurd rfl (hk v)
  | _ => rfl

include h hx in
theorem mxDef_asks {tid : BitVec 10} {t : Target} {unit : Bool} {v : Dbl} (hv : oneValue f .w64 v) (halign : v.extractLsb' 0 6 = 0)
    (hroom : queueFull s x.press (if unit then 1 else 0) = false) :
    execMxDef m tid t unit s =
      .next (asked s m f t x.press (if unit then 1 else 0) tid.toNat (.matrix v.toNat (if unit then 1 else 0))) := by
  obtain ⟨-, -, hfirst⟩ := oneValue_elem m f _ _ h.fires hv
  obtain ⟨hlow, hsame⟩ := descriptor_aligned halign
  refine (onFire_acts m s f _ _ _ h).trans (congrArg Host.Outcome.next ?_)
  simp only [oneElem_ok f _ _ hv, hfirst, hlow, hsame]
  exact queueOp_asks hx t hroom nofun

include h hx in
theorem gvAsk_asks {tid g : Nat} {t : Target} {ind : Bool} {v : Dbl} (hv : oneValue f .w64 v) (halign : v.extractLsb' 0 6 = 0)
    (hroom : queueFull s x.press (2 + g) = false) :
    gvAsk m tid t g ind s f = asked s m f t x.press (2 + g) tid (.graverConfig v.toNat ind) := by
  obtain ⟨-, -, hfirst⟩ := oneValue_elem m f _ _ h.fires hv
  obtain ⟨hlow, hsame⟩ := descriptor_aligned halign
  have hb : { f with b := none } = f := by
    obtain ⟨-, hb, -⟩ := hv
    exact hb ▸ rfl
  simp only [gvAsk, hb, oneElem_ok f _ _ hv, hfirst, hlow, hsame]
  exact queueOp_asks hx t hroom nofun

include h in
/-- A firing of `gv.ind` with its descriptor configures; its later tokens give indices (R251). -/
theorem gvInd_configures {tid : BitVec 10} {t : Target} {g : BitVec 2} {v : Dbl} (hv : oneValue f .w64 v) :
    execGvInd m tid t g s = .next (indexGive (gvAsk m tid.toNat t g.toNat true s f) f.ctx f.inst) := by
  obtain ⟨-, hb, -⟩ := hv
  have hconf : ¬(f.a.isNone && f.b.isSome) = true := by simp [hb]
  simp only [execGvInd, h.cur, hconf]
  exact onFire_acts m s f _ _ _ h

include h hx in
theorem gvGo_runs {t : Target} {g : BitVec 2} {v : Dbl} (hv : oneValue f .w32 v) (hroom : queueFull s x.press (2 + g.toNat) = false)
    (hopen : openStream s f.ctx f.inst = none) (hmode : goMode s f.ctx (2 + g.toNat) ≠ some (true, false)) :
    execGvGo m t g s = .next (asked s m f t x.press (2 + g.toNat) 0
      (.graverRun (goMode s f.ctx (2 + g.toNat) == some (true, true)) none (v.toNat % 65536))) := by
  obtain ⟨-, -, hfirst⟩ := oneValue_elem m f _ _ h.fires hv
  have hruns : ¬((openStream s f.ctx f.inst).isSome || goMode s f.ctx (2 + g.toNat) == some (true, false)) = true := by simp [hopen, hmode]
  simp only [execGvGo, h.cur, hruns]
  refine (onFire_acts m s f _ _ _ h).trans (congrArg Host.Outcome.next ?_)
  simp only [oneElem_ok f _ _ hv, hfirst]
  exact queueOp_asks hx t hroom nofun

include h hx in
/-- The first tokens of a storer's stream open its run (R254). -/
theorem gvGo_streams {t : Target} {g : BitVec 2} (hmode : goMode s f.ctx (2 + g.toNat) = some (true, false))
    (hroom : queueFull s x.press (2 + g.toNat) = false) (hopen : openStream s f.ctx f.inst = none) :
    let o := openReply s m f [t]
    execGvGo m t g s = .next (enqueue { o.1 with nextId := o.1.nextId + 1 } x.press
      { newOp o.1.nextId f.ctx (2 + g.toNat) 0 (.graverRun true none 0)
          { o.2 with iter := streamStart x.image, runs := [(0, 1)], standing := false, sb := tokenBits f.p } with
        stream := streamPieces m f f.a }) := by
  have hstream : ((openStream s f.ctx f.inst).isSome || goMode s f.ctx (2 + g.toNat) == some (true, false)) = true := by simp [hmode]
  simp only [execGvGo, h.cur]
  refine (if_pos hstream).trans (congrArg Host.Outcome.next ?_)
  simp only [goStream, hx, hopen, hroom, h.value, Option.isSome_none, Bool.false_and, Bool.false_eq_true, if_false]
  rfl

include hx in
theorem copyAsk_copies {n : Nat} {t : Target} (hw : hasWidths f .w64 .w64 .w64) (hone : manyElems f = false)
    (hroom : queueFull s x.press 6 = false) :
    copyAsk m n t false s f = asked s m f t x.press 6 0
      (.copy (elemAt f.a ((firedElems m f).headD 0)) (elemAt f.b ((firedElems m f).headD 0)) (64 * (n + 1))) := by
  simp only [copyAsk, copyArgs_ok hw hone, Bool.false_eq_true, if_false]
  exact queueOp_asks hx t hroom nofun

include hx in
theorem copyAsk_sends {n : Nat} {t : Target} (hw : hasWidths f .w64 .w64 .w64) (hone : manyElems f = false)
    (hroom : queueFull s x.press 7 = false) :
    copyAsk m n t true s f = asked s m f t x.press 7 0
      (.remoteCopy (elemAt f.a ((firedElems m f).headD 0)) (elemAt f.b ((firedElems m f).headD 0)) (64 * (n + 1))) := by
  simp only [copyAsk, copyArgs_ok hw hone, if_true]
  exact queueOp_asks hx t hroom nofun

include h hx in
theorem mxUnbind_answers {t : Target} {unit : Bool}
    (hfree : ∀ e ∈ (pressAt (openReply s m f [t]).1 x.press).units, e.2.op.ctx = f.ctx → e.2.op.queue ≠ if unit then 1 else 0) :
    execMxUnbind m t unit s = .next (answer (openReply s m f [t]).1 (openReply s m f [t]).2 0 .w32) := by
  have hnone : ((pressAt (openReply s m f [t]).1 x.press).units.find? fun e =>
      e.2.op.ctx == f.ctx && e.2.op.queue == if unit then 1 else 0) = none := by
    rw [List.find?_eq_none]
    intro e he hsame
    simp only [Bool.and_eq_true, beq_iff_eq] at hsame
    exact hfree e he hsame.1 hsame.2
  exact (onFire_acts m s f _ _ _ h).trans (by simp only [hx, hnone])

include h hx in
theorem mxUnbind_marks {t : Target} {unit : Bool} {k : Nat} {b : MxBound}
    (hbound : (pressAt (openReply s m f [t]).1 x.press).units.find? (fun e =>
      e.2.op.ctx == f.ctx && e.2.op.queue == if unit then 1 else 0) = some (k, b)) :
    execMxUnbind m t unit s = .next (pushEvOnce (modUnit (openReply s m f [t]).1 x.press k fun v =>
      { v with unbinding := true, unbinders := v.unbinders ++ [(openReply s m f [t]).2] }) (.mxFiring x.press k)) :=
  (onFire_acts m s f _ _ _ h).trans (by simp only [hx, hbound])

end

/-- Settles O27: each instruction by its own lemma. -/
theorem engineOperationsAreAsked : Obligations.EngineOperationsAreAsked := by
  intro m tid n t unit g s f x h hx
  refine ⟨fun v hv halign => ⟨fun hroom => mxDef_asks h hx hv halign hroom, fun hroom => ⟨?_, ?_⟩⟩,
    fun v hv hroom hopen hmode => gvGo_runs h hx hv hroom hopen hmode, fun hmode hroom hopen => gvGo_streams h hx hmode hroom hopen,
    fun hw hone => ⟨fun hroom => ?_, fun hroom => ?_⟩, mxUnbind_answers h hx, fun k b hbound => mxUnbind_marks h hx hbound⟩
  · exact (onFire_acts m s f _ _ _ h).trans (congrArg _ (gvAsk_asks h hx hv halign hroom))
  · refine (gvInd_configures h hv).trans ?_
    rw [gvAsk_asks h hx hv halign hroom]
    rfl
  · exact (onFire_acts m s f _ _ _ h).trans (congrArg _ (copyAsk_copies hx hw hone hroom))
  · exact (onFire_acts m s f _ _ _ h).trans (congrArg _ (copyAsk_sends hx hw hone hroom))

end Sys2Proof.Machine
end

section
/-! PROOFS. Plates (R257 to R259). -/

namespace Sys2Proof.Machine

/-! The request instructions (R257). -/

/-- The value of a one-bit field. -/
theorem bit_eq_one {n : Nat} (v : BitVec n) (k : Nat) : v.extractLsb' k 1 = 1 ↔ (bitsOf v.toNat k k == 1) = true := by
  rw [beq_iff_eq, bitsOf, Nat.add_sub_cancel_left, ← BitVec.toNat_inj, BitVec.extractLsb'_toNat]
  simp [Nat.shiftRight_eq_div_pow]

/-- The value on port a, as a word. -/
theorem word_first (w : Word) : (w.setWidth 64).toNat % 2 ^ 32 = w.toNat := by
  have := w.isLt
  rw [BitVec.toNat_setWidth]
  omega

/-- A field of a word. -/
theorem extract_wordBits (w : Word) (hi lo : Nat) : (w.extractLsb' lo (hi + 1 - lo)).toNat = bitsOf w.toNat hi lo := by
  simp [bitsOf, Nat.shiftRight_eq_div_pow]

section
variable {m : FireMode} {s : State} {f : Firing} {x : Ctx} {t u : Target} {v : Dbl} {w : Word}

/-- The plate that a double asks for, and the Group that it asks (R257). -/
def loadNum (v : Dbl) : Nat := (v.extractLsb' 48 16).toNat
def loadImage (v : Dbl) : Nat := (v.extractLsb' 0 42).toNat * 16384
def loadGroup (x : Ctx) (v : Dbl) : Nat := if v.extractLsb' 42 1 = 1 then (v.extractLsb' 43 5).toNat else x.group

theorem loadGroup_eq (x : Ctx) (v : Dbl) : plateGroup x (bitsOf v.toNat 42 42 == 1) (bitsOf v.toNat 47 43) = loadGroup x v := by
  rw [plateGroup, loadGroup, ← extract_bitsOf v 47 43]
  simp only [bit_eq_one]

/-- The refusal of a load, with its record in the tenancy's ring (R257). -/
def loadRefused (s : State) (m : FireMode) (f : Firing) (x : Ctx) (t u : Target) (image cause : Nat) : State :=
  let o := openReply s m f [t, u]
  answer (tenRecord o.1 { faultRecord s x cause 0 { infoAt image 0 with inst := f.inst, iter := f.iter } with
    cls := 1, ntok := 0, items := [] }) o.2 cause .w32

theorem plateLd_decides (h : Acting m s f) (hx : ctxAt s f.ctx = some x) (hv : oneValue f .w64 v) :
    execPlateLd m t u s = .next (
      if !groupReady s (loadGroup x v) then loadRefused s m f x t u (loadImage v) 0x217
      else if (loadOf s (loadGroup x v) x.ten (loadNum v)).isNone && plateHere s (loadGroup x v) x.ten (loadNum v) then
        loadRefused s m f x t u (loadImage v) 0x203
      else askLoad (openReply s m f [t, u]).1 (loadGroup x v) x.ten (loadNum v) (loadImage v) [] false [(openReply s m f [t, u]).2]) := by
  obtain ⟨-, -, hfirst⟩ := oneValue_elem m f _ _ h.fires hv
  have hnum : bitsOf v.toNat 63 48 = loadNum v := (extract_bitsOf v 63 48).symm
  have himage : bitsOf v.toNat 41 0 * 16384 = loadImage v := congrArg (· * 16384) (extract_bitsOf v 41 0).symm
  refine (onFire_acts m s f _ _ _ h).trans (congrArg Host.Outcome.next ?_)
  simp only [hx, oneElem_ok f _ _ hv, hfirst, loadGroup_eq, hnum, himage]
  rfl

/-- The Group that the word of `plate.ev` and `plate.q` names. -/
def plateOf (x : Ctx) (w : Word) : Nat := if w.extractLsb' 21 1 = 1 then (w.extractLsb' 16 5).toNat else x.group

theorem plateReq_goes (go : Ctx → Nat → Nat → State) (h : Acting m s f) (hx : ctxAt s f.ctx = some x) (hv : oneValue f .w32 (w.setWidth 64))
    (hhigh : w.extractLsb' 22 10 = 0) : plateReq s m f go = go x (plateOf x w) (w.extractLsb' 0 16).toNat := by
  obtain ⟨-, -, hfirst⟩ := oneValue_elem m f _ _ h.fires hv
  have hzero : bitsOf w.toNat 31 22 = 0 := by
    rw [← extract_wordBits w 31 22, hhigh]
    rfl
  have hnum : bitsOf w.toNat 15 0 = (w.extractLsb' 0 16).toNat := (extract_wordBits w 15 0).symm
  have hgroup : bitsOf w.toNat 20 16 = (w.extractLsb' 16 5).toNat := (extract_wordBits w 20 16).symm
  simp only [plateReq, hx, oneElem_ok f _ _ hv, hfirst, word_first, hzero, plateGroup, plateOf, bit_eq_one, hnum, hgroup]
  rfl

end

/-! Loads (R258). -/

/-- A load that is on its way and whose Group has enough Empty slots takes them. -/
theorem plateLoadStart_takes {s : State} {g id : Nat} {l : Load} (hl : loadAt s g id = some l) (hslots : l.slots = []) (hrun : l.running = true)
    (hhead : l.head ≠ []) :
    execPlateLoadStart g id s = .next (loadSlots (modLoad s g id fun _ => l) g l) := by
  have hmore : l.head.isEmpty = false := by simpa using hhead
  simp only [execPlateLoadStart, hl, hslots, hrun, hmore, List.isEmpty_nil, Bool.not_true, Bool.false_and, Bool.false_eq_true, if_false, if_true]

/-- A Group with a load keeps its tiles when the load changes. -/
theorem emptySlots_modLoad {s : State} {g id : Nat} {l : Load} (hl : loadAt s g id = some l) (c : Load → Load) :
    emptySlots (modLoad s g id c) g = emptySlots s g := by
  have hloads : (groupAt s g).loads ≠ [] := List.ne_nil_of_mem (List.mem_of_find?_eq_some hl)
  have hgroup : groupAt (modLoad s g id c) g =
      { groupAt s g with loads := mapWhere (fun l => l.id == id) c (groupAt s g).loads } :=
    tabGet_tabSet_ne _ _ _ fun hempty => hloads (List.map_eq_nil_iff.mp (congrArg Group.loads hempty))
  have htile : ∀ k, tileAt (modLoad s g id c) g k = tileAt s g k := fun k => by
    rw [tileAt, hgroup]
    rfl
  simp only [emptySlots, htile]

theorem loadSlots_takes {s : State} {g : Nat} {l : Load} (h : l.tiles ≤ (emptySlots s g).length) :
    loadSlots s g l =
      let take := (emptySlots s g).take l.tiles
      pushEv (modLoad (take.foldl (fun s k => watchShard
        (setTile s g k { tileReset with state := 1, ten := BitVec.ofNat 4 l.ten, tid := 2, pl := true }) 0 (1024 * g + k)) s) g l.id fun l =>
          { l with slots := take, startedAt := s.now }) (.plateLoadComplete g l.id) := if_pos h

/-- Whether an image that has come is whole and signed (R259). -/
theorem plateLoadComplete_ends {s s1 : State} {g id : Nat} {l : Load} {rest : List Byte} (hl : loadAt s g id = some l) (hslots : l.slots ≠ [])
    (hread : imageRead s l (256 + 16 * l.tiles) (tilesAt l.tiles + 16384 * l.tiles - (256 + 16 * l.tiles)) = (s1, .ok rest)) :
    execPlateLoadComplete g id s = .next (
      match imageSpoiled (dropRemote s1 (loadOwner id)) l 0 (256 + 16 * l.tiles) with
      | some (aux, a) => loadFails (dropRemote s1 (loadOwner id)) g l 0x385 aux a
      | none =>
        if imageSigned l (l.head.drop 256 ++ rest) then
          loadDone (dropRemote s1 (loadOwner id)) g l (rest.drop (tilesAt l.tiles - (256 + 16 * l.tiles)))
        else loadFails (dropRemote s1 (loadOwner id)) g l 0x201 0 l.image) := by
  have hsome : l.slots.isEmpty = false := by simpa using hslots
  simp only [execPlateLoadComplete, hl, hsome, hread, Bool.false_eq_true, if_false] <;> rfl

theorem plateEviction_leaves {s : State} {g ten num : Nat} {p : Plate} (hp : plateAt s g ten num = some p) (hmarked : p.marked = true)
    (hbusy : plateBusy s g p = false) (hreads : ∀ k ∈ p.slots, slotReads s g k = false) :
    execPlateEvictionComplete g ten num s = .next (kickGroup (answerAll (p.slots.foldl (fun s k => slotEmptied s g k)
      (modGroup s g fun q => { q with plates := q.plates.filter fun r => !(r.ten == ten && r.num == num) })) p.evictors 0) g) := by
  have hnone : p.slots.any (slotReads s g) = false := List.any_eq_false.mpr fun k hk => by simp [hreads k hk]
  simp only [execPlateEvictionComplete, hp, hmarked, hbusy, hnone, Bool.not_true, Bool.or_self, Bool.false_eq_true, if_false]

/-- Settles O30: the requests by the fields of their operand, the loads and the eviction by their branches. -/
theorem plates : Obligations.Plates := by
  refine ⟨fun m t u v s f x h hx => ⟨fun hv => ?_, fun w hv hhigh => ?_⟩, fun s g id l hl hslots hrun hhead hroom => ?_,
    fun s s1 g id l rest hl hslots hread => ?_, fun s g ten num p hp hmarked hbusy hreads => plateEviction_leaves hp hmarked hbusy hreads⟩
  · have decides : exec (.plateLd m t u) s = _ := plateLd_decides h hx hv
    refine ⟨fun hready => ?_, fun hready hnone hhere => ?_, fun hready hmay => ?_⟩ <;> rw [decides]
    · exact congrArg _ (if_pos (by rw [show groupReady s (loadGroup x v) = false from hready]; rfl))
    · have hready' : ¬(!groupReady s (loadGroup x v)) = true := by rw [show groupReady s (loadGroup x v) = true from hready]; exact nofun
      refine congrArg _ ((if_neg hready').trans (if_pos ?_))
      rw [show loadOf s (loadGroup x v) x.ten (loadNum v) = none from hnone,
        show plateHere s (loadGroup x v) x.ten (loadNum v) = true from hhere]
      rfl
    · have hready' : ¬(!groupReady s (loadGroup x v)) = true := by rw [show groupReady s (loadGroup x v) = true from hready]; exact nofun
      refine congrArg _ ((if_neg hready').trans (if_neg fun hboth => ?_))
      rw [Bool.and_eq_true] at hboth
      obtain ⟨hnone, hhere⟩ := hboth
      obtain hsome | hnot := hmay
      · rw [Option.isNone_iff_eq_none] at hnone
        exact absurd (hnone ▸ hsome : (none : Option Load).isSome = true) nofun
      · exact absurd (hhere.symm.trans hnot) nofun
  · have evicts : exec (.plateEv m t u) s = _ := (onFire_acts m s f _ _ _ h).trans (congrArg _ (plateReq_goes _ h hx hv hhigh))
    refine ⟨fun hhere => ?_, fun l hnone hload => ?_, fun hnone hload => ?_,
      (onFire_acts m s f _ _ _ h).trans (congrArg _ (plateReq_goes _ h hx hv hhigh))⟩ <;> rw [evicts]
    · obtain ⟨p, hp⟩ := Option.isSome_iff_exists.mp hhere
      simp only [show plateAt s (plateOf x w) x.ten (w.extractLsb' 0 16).toNat = some p from hp]
      rfl
    · simp only [show plateAt s (plateOf x w) x.ten (w.extractLsb' 0 16).toNat = none from hnone,
        show loadOf s (plateOf x w) x.ten (w.extractLsb' 0 16).toNat = some l from hload]
      rfl
    · simp only [show plateAt s (plateOf x w) x.ten (w.extractLsb' 0 16).toNat = none from hnone,
        show loadOf s (plateOf x w) x.ten (w.extractLsb' 0 16).toNat = none from hload]
  · have hself : (fun _ : Load => l) = fun _ => { l with running := true } := by rw [← hrun]
    rw [show exec (.plateLoadStart g id) s = _ from plateLoadStart_takes hl hslots hrun hhead, loadSlots_takes
      ((emptySlots_modLoad hl _).symm ▸ hroom), hself]
  · have ends : exec (.plateLoadComplete g id) s = _ := plateLoadComplete_ends hl hslots hread
    refine ⟨fun aux a hbad => ?_, fun hgood hsigned => ?_, fun hgood hsigned => ?_⟩ <;> rw [ends]
    · simp only [hbad]
    · simp only [hgood, hsigned, if_true]
    · simp only [hgood, hsigned, Bool.false_eq_true, if_false]

end Sys2Proof.Machine
end

section
/-! PROOFS. Emissions (R306 to R308). -/

namespace Sys2Proof.Machine

/-! A release changes the race checker's tables, never a CSR (R336). -/

theorem foldl_csrs {α : Type} {g : State → α → State} (h : ∀ s a, (g s a).csrs = s.csrs) (l : List α) (s : State) :
    (l.foldl g s).csrs = s.csrs := by
  induction l generalizing s with
  | nil => rfl
  | cons a l ih => rw [List.foldl_cons, ih, h]

theorem joinRecord_csrs (s : State) (d k t c : Nat) : (joinRecord s d k t c).csrs = s.csrs := by
  simp only [joinRecord]
  split <;> rfl

theorem joinRecords_csrs (s : State) (d k : Nat) (recs : List (Nat × Nat)) :
    (recs.foldl (fun s r => joinRecord s d k r.1 r.2) s).csrs = s.csrs := by
  refine foldl_csrs ?_ recs s
  exact fun s r => joinRecord_csrs s d k r.1 r.2

theorem proxiesSee_csrs (s : State) (d : Nat) (ps : List Nat) : (proxiesSee s d ps).csrs = s.csrs := by
  rw [proxiesSee]
  refine foldl_csrs ?_ ps s
  exact fun _ _ => rfl

theorem startActor_csrs (s : State) (c d k : Nat) (recs : List (Nat × Nat)) : (startActor s c d k recs).csrs = s.csrs := by
  unfold startActor
  split
  · rfl
  · rw [joinRecords_csrs]
    rfl

theorem actorOf_csrs {s s1 : State} {c : Nat} {a : Option (Nat × Nat)} (h : actorOf s c = some (s1, a)) : s1.csrs = s.csrs := by
  unfold actorOf at h
  split at h
  · obtain ⟨⟩ := h; rfl
  · split at h
    · obtain ⟨⟩ := h; rfl
    · split at h
      · obtain ⟨⟩ := h; rfl
      · split at h
        · exact absurd h nofun
        · obtain ⟨⟩ := h
          exact startActor_csrs _ _ _ _ _

theorem hbmFresh_csrs (s : State) (pa n : Nat) : (hbmFresh s pa n).csrs = s.csrs := by
  unfold hbmFresh
  split <;> rfl

theorem releaseSlot_csrs {s s1 : State} {d k scope : Nat} (h : releaseSlot s d k scope = some s1) : s1.csrs = s.csrs := by
  unfold releaseSlot at h
  dsimp only at h
  split at h
  · exact absurd h nofun
  · obtain ⟨⟩ := h
    split
    · rw [proxiesSee_csrs]
      exact hbmFresh_csrs _ _ _
    · exact hbmFresh_csrs _ _ _

theorem ctxRelease_csrs {s s1 : State} {c scope : Nat} {r : Option (Nat × Nat × Nat)} (h : ctxRelease s c scope = (.ok s1, r)) :
    s1.csrs = s.csrs := by
  unfold ctxRelease at h
  split at h
  · exact absurd (congrArg Prod.fst h) nofun
  · rename_i hactor
    obtain ⟨⟩ := h
    exact actorOf_csrs hactor
  · rename_i hactor
    split at h
    · exact absurd (congrArg Prod.fst h) nofun
    · rename_i hrelease
      obtain ⟨⟩ := h
      exact (releaseSlot_csrs hrelease).trans (actorOf_csrs hactor)

theorem deviceNumber_congr {s t : State} (h : s.csrs = t.csrs) : deviceNumber s = deviceNumber t := by
  rw [deviceNumber, csrBits, csrGet, h]
  rfl
theorem emitStamp_congr {s t : State} (h : s.csrs = t.csrs) (bs : List Byte) : emitStamp s bs = emitStamp t bs := by
  rw [emitStamp, deviceNumber_congr h, emitStamp]
theorem stimFlits_congr {s t : State} (h : s.csrs = t.csrs) (d xtag : Nat) (bs : List Byte) : stimFlits s d xtag bs = stimFlits t d xtag bs := by
  simp only [stimFlits, mkFlit, deviceNumber_congr h]

/-! An emission, by its three stages. -/

/-- Operands of the width asked for on port a and a word on port b meet the checks of a request (R304). -/
theorem onesFault_none {f : Firing} {a b : Token} {wa : Width} (ha : f.a = some a) (hw : a.ew = wa) (hb : f.b = some b) (hwb : b.ew = .w32)
    (hone : manyElems f = false) : onesFault f wa = none := by
  have hbad : widthBad f (portWidths wa) = false := by
    cases hc : f.c <;> simp [widthBad, operand, portWidths, ha, hw, hb, hwb, hc]
  simp [onesFault, operandFault_none f _ [] .pass hbad rfl, hone]

section
variable {m : FireMode} {ts : List Target} {s s1 s2 s3 s4 : State} {f : Firing} {x : Ctx} {w : StepRec} {form : EmitForm}
  {h bs : List Byte} {dest : Nat} {clock : Option (Nat × Nat × Nat)}

theorem emitPassed_none (hwaive : f.waive = none) (c : Nat) : emitPassed f c = false := by
  rw [emitPassed, hwaive]
  rfl

/-- The packet is read whole and goes on to its checks (R307). -/
theorem emitGo_reads (hwaive : f.waive = none) (hnew : f.done ≠ 1) (hx : ctxAt s f.ctx = some x) (halign : aFirst m f % 16 = 0)
    (hready : emitReady s f.ctx x (aFirst m f) = true)
    (hhead : packetRead s x (emitOwner f.ctx f.inst) (aFirst m f) 16 = (s1, .ok h))
    (hread : packetRead s1 x (emitOwner f.ctx f.inst + 2 ^ 50) (aFirst m f) ((stimLen h + 1) * 16) = (s2, .ok bs))
    (hrace : raceAccess s2 f.ctx (emitRace f (aFirst m f)) true (engLines s2 x (aFirst m f) bs.length .read) = .ok s3) :
    emitGo form m ts s f = emitCheck form m ts s3 (keepBytes f bs) x := by
  simp only [emitGo, hx, hnew, halign, hready, hhead, hread, emitPassed_none hwaive, Bool.not_false, hrace]
  rfl

/-- A copy that is well formed, of its own tenancy and for a destination is placed (R307). -/
theorem emitCheck_places {sink : Bool} (form : EmitForm) (hsink : (form == .sink) = sink)
    (hgood : stimBad (emitSeen sink (keptBytes f)) = false) (hten : stimTen (keptBytes f) = x.ten)
    (hdest : emitDest s sink (bFirst m f) = some dest) :
    emitCheck form m ts s f x = emitPlace form m ts s f x (keptBytes f) dest := by
  simp [emitCheck, hsink, hgood, hten, hdest]

/-- The copy with its word 2 and check word, as a stimulus. -/
def emitted (s : State) (bs : List Byte) (clock : Option (Nat × Nat × Nat)) : Stim := { bytes := emitStamp s bs, clock := clock, card := none }

/-- Where the held area has room a held form keeps its copy there (R308). -/
theorem emitPlace_held (hwaive : f.waive = none) (hstep : stepAt s x.stp = some w) (hroom : w.held.length < Config.heldArea)
    (hform : form ≠ .through)
    (hrelease : ctxRelease s f.ctx (if form = .sink ∨ dest ≠ deviceNumber s then 4 else 3) = (.ok s1, clock)) :
    let o := openReply s1 m f ts
    let e : Held := { stim := emitted s1 bs clock, dev := dest, sink := if form = .sink then some dest else none }
    emitPlace form m ts s f x bs dest =
      answer (modStep o.1 x.stp fun q => { q with held := q.held ++ [e] }) o.2 bs.length .w32 := by
  have hfits : decide (Config.heldArea ≤ w.held.length) = false := decide_eq_false (by omega)
  simp only [emitPlace, emitPassed_none hwaive, hstep, hfits, hrelease, hform, emitted, emitStamp_congr (ctxRelease_csrs hrelease)]
  cases form with
  | through => exact absurd rfl hform
  | _ => rfl

/-- The scope of the release of `emit` (R307). -/
theorem heldScope (dest here : Nat) :
    (if dest = here then 3 else 4) = if EmitForm.held = .sink ∨ dest ≠ here then 4 else 3 := by
  by_cases h : dest = here
  · rw [if_pos h, if_neg (by simp [h])]
  · rw [if_neg h, if_pos (.inr h)]

/-- `emit.t` for its own device, once the earlier accesses are performed (R308). -/
theorem emitPlace_local (hwaive : f.waive = none) (hearlier : earlierDone s f.ctx (x.entry + 1) 0 3 = true)
    (hrelease : ctxRelease s f.ctx 3 = (.ok s1, clock)) :
    let o := openReply s1 m f ts
    emitPlace .through m ts s f x bs (deviceNumber s) =
      walkerPut o.1 2 x.ten (stimAgent (emitStamp s1 bs)) (some (emitted s1 bs clock)) none (some o.2) := by
  simp [emitPlace, emitPassed_none hwaive, hearlier, hrelease, emitted, emitStamp_congr (ctxRelease_csrs hrelease)]

/-- `emit.t` for another device leaves through its link (R308). -/
theorem emitPlace_far {l tag : Nat} (hwaive : f.waive = none) (hfar : dest ≠ deviceNumber s)
    (hearlier : earlierDone s f.ctx (x.entry + 1) 0 4 = true) (hrelease : ctxRelease s f.ctx 4 = (.ok s1, clock)) (hlink : linkTo s dest = some l)
    (hfree : freeXtag s ≠ none) (htag : freeXtag (openReply s1 m f ts).1 = some tag) :
    let o := openReply s1 m f ts
    emitPlace .through m ts s f x bs dest =
      sendFlits (addXfer o.1 tag dest f.ctx (.emitNow o.2 f) 0 0 0) l (stimFlits s1 dest tag (emitStamp s1 bs)) := by
  simp [emitPlace, emitPassed_none hwaive, hearlier, hrelease, hfar, hlink, hfree, htag, emitStamp_congr (ctxRelease_csrs hrelease),
    stimFlits_congr (ctxRelease_csrs hrelease)]

end

/-- Settles O31: the packet is read, checked and placed, each by its lemma. -/
theorem emissions : Obligations.Emissions := by
  intro m t u s s1 s2 s3 s4 f x w a b h bs clock hact hwaive hnew hx ha hwa hb hwb hone v y owner halign hready hhead hread hrace kept raw copy o
    st hten hstep hroom
  have goes : ∀ form, onRequest m [t, u] s .w64 (emitGo form m [t, u] s) = .next (emitCheck form m [t, u] s3 kept x) := fun form => by
    rw [onRequest_acts m _ s f _ _ hact, onesFault_none ha hwa hb hwb hone]
    exact congrArg _ (emitGo_reads hwaive hnew hx halign hready hhead hread hrace)
  have hwaive' : kept.waive = none := hwaive
  refine ⟨fun dest hgood hdest hrelease => ⟨?_, fun hearlier => ⟨fun hlocal => ?_, fun l tag hfar hlink hlink' hfree htag => ?_⟩⟩,
    fun hgood hsink hrelease => ?_⟩
  · refine (goes .held).trans (congrArg _ ((emitCheck_places .held rfl hgood hten hdest).trans ?_))
    exact emitPlace_held hwaive' hstep hroom nofun (heldScope dest (deviceNumber s3) ▸ hrelease)
  · refine (goes .through).trans (congrArg _ ((emitCheck_places .through rfl hgood hten hdest).trans ?_))
    subst hlocal
    rw [if_pos rfl] at hrelease hearlier
    exact emitPlace_local hwaive' hearlier hrelease
  · refine (goes .through).trans (congrArg _ ((emitCheck_places .through rfl hgood hten hdest).trans ?_))
    rw [if_neg hfar] at hrelease hearlier
    exact emitPlace_far hwaive' hfar hearlier hrelease hlink hfree htag
  · refine (goes .sink).trans (congrArg _ ((emitCheck_places .sink rfl hgood hten (if_pos hsink)).trans ?_))
    exact emitPlace_held hwaive' hstep hroom nofun hrelease

end Sys2Proof.Machine
end

section
/-! PROOFS. Children, and what is asked of agents (R106, R107, R309, R311 to R313). -/

namespace Sys2Proof.Machine

/-! Children (R106, R107, R309). -/

/-- The operands of `spawn` are words (R309). -/
theorem spawnOperands_ok {f : Firing} (hw : hasWidths f .w32 .w32 .w32) : operandFault f (portWidths .w32) [] .pass = none :=
  operandFault_none f _ _ _ (widthBad_none f _ _ _ _ hw (.inl rfl) (.inl rfl) (.inr rfl)) rfl

theorem spawn_asks {m : FireMode} {t : Target} (k : BitVec 14) {s : State} {f : Firing} {x : Ctx} (h : Acting m s f)
    (hx : ctxAt s f.ctx = some x) (hw : hasWidths f .w32 .w32 .w32) :
    execSpawn m t k s =
      .next (spawnKick (setSpawns s x.press (· ++ (firedElems m f).map fun j => (cutFiring f j 1, s.now))) x.press) :=
  (onFire_acts m s f _ _ _ h).trans (by simp only [spawnOperands_ok hw, hx])

theorem ctxAt_setSpawns (s : State) (p : Nat) (c : List (Firing × Nat) → List (Firing × Nat)) (k : Nat) :
    ctxAt (setSpawns s p c) k = ctxAt s k := rfl

/-- A request whose child's header is read and allows it starts its child (R309). -/
theorem spawnTry_starts {s s1 s2 : State} {p tag : Nat} {f : Firing} {x y : Ctx} {bs : List Byte} {rec : Option (Nat × Nat × Nat)}
    (hnew : f.waive = none) (hread : vaRead s (some (x.press, x.group)) (spawnOwner f.ctx) x.ten .exec (spawnAt x f).1 16 = (s1, .ok bs))
    (hmay : blkSpawn (wordsOf bs) = true) (hslot : ∀ d, domOf s1 x.ten = some d → freeSlot s1 d ≠ none)
    (hrelease : ctxRelease s1 f.ctx 1 = (.ok s2, rec)) (hy : ctxAt s2 f.ctx = some y) :
    spawnTry s p f x tag = spawnKick (childStart (setSpawns s2 p (dropFirst fun d => d.1 == f)) y f tag (spawnAt x f).1 (spawnAt x f).2 rec) p := by
  have hwants : ((match domOf s1 x.ten with
      | none => false
      | some d => (freeSlot s1 d).isNone) : Bool) = false := by
    cases hd : domOf s1 x.ten with
    | none => rfl
    | some d => exact Option.isNone_eq_false_iff.mpr (Option.ne_none_iff_isSome.mp (hslot d hd))
  have hnot : (f.waive = some (0x287 : BitVec 10)) = False := by simp [hnew]
  simp only [spawnTry, hread, hmay, Bool.not_true, Bool.false_and, hnot, if_false, hrelease, hy]
  exact if_neg (ne_true_of_eq_false hwants)

theorem spawnStart_starts {s : State} {p tag : Nat} {e : Firing × Nat} {x : Ctx}
    (hlive : (pressAt s p).spawns.find? (fun e => !ctxFrozen s e.1.ctx) = some e) (htag : freeTag s p true = some tag)
    (hx : ctxAt s e.1.ctx = some x) : execSpawnStart p s = .next (spawnTry s p e.1 x tag) := by
  simp only [execSpawnStart, hlive, htag, hx]

/-- Requests that have waited long enough fault, and their count restarts (R107). -/
theorem spawnStarve_faults {s : State} {p : Nat} {e : Firing × Nat} {r : List (Firing × Nat)} {x : Ctx} (hwait : (pressAt s p).spawns = e :: r)
    (hx : ctxAt s e.1.ctx = some x) (hlong : csrBits s 0x307 30 0 ≤ cyclesOf (starvedFor s p)) :
    execSpawnStarve p s = .next (pushEvOnce (takeFault (starveRestart s p) e.1.ctx 0x070
      { noInfo with inst := e.1.inst, iter := e.1.iter, word := (wordFor x.image e.1.inst e.1.iter).1, ntok := (spawnHolders s p).length,
                    items := (spawnHolders s p).take 8 } none) (.spawnStarve p)) := by
  simp only [execSpawnStarve, hwait, hx]
  exact congrArg _ (if_neg (Nat.not_lt.mpr hlong))

/-- Settles O32: the request, its start and its starving. -/
theorem childrenAreSpawned : Obligations.ChildrenAreSpawned := by
  refine ⟨fun m t k s f x h hx hw => spawn_asks k h hx hw,
    fun s s1 s2 p tag e x y bs rec hlive htag hx hnew hread hmay hslot hrelease hy => ?_,
    fun s p e r x hwait hx hlong => spawnStarve_faults hwait hx hlong⟩
  exact (spawnStart_starts hlive htag hx).trans (congrArg _ (spawnTry_starts hnew hread hmay hslot hrelease hy))

/-! `rest` (R311). -/

section
variable {m : FireMode} {s : State} {f : Firing} {x : Ctx}

/-- Members that exist, none of them named before, are all kept. -/
theorem restName_keeps {ms : List Nat} (hne : ms ≠ [])
    (hgood : ∀ k, (h : k < ms.length) → ms[k] < memberCount s x ∧ ms[k] ∉ x.rests ++ ms.take k) :
    restName s f x ms = sinkBits (modCtx s f.ctx fun x => { x with rests := x.rests ++ ms }) f.ctx (inputBits f) := by
  have hall : ms.filter (fun m => decide (m < memberCount s x)) = ms := by
    rw [List.filter_eq_self]
    intro a ha
    obtain ⟨k, hk, rfl⟩ := List.getElem_of_mem ha
    exact decide_eq_true (hgood k hk).1
  cases ms with
  | nil => exact absurd rfl hne
  | cons a l =>
    simp only [restName]
    rw [List.find?_eq_none.mpr, ite_self, hall]
    intro k hk
    obtain ⟨hlt, hnew⟩ := hgood k (List.mem_range.mp hk)
    rw [List.getElem?_eq_getElem (List.mem_range.mp hk)]
    simp only [Bool.or_eq_true, decide_eq_true_eq, List.contains_iff_mem, not_or]
    exact ⟨by omega, hnew⟩

/-! `bind`, `hint` and `aq` (R312, R313). -/

/-- What a well-formed request asks goes to the home Walker (R304). -/
theorem agentAsk_asks {ts : List Target} {bad : Bool} {agent : Nat} {op : AgentOp} (hx : ctxAt s f.ctx = some x) (hgood : bad = false) :
    agentAsk m ts s f bad agent op =
      walkerPut (openReply s m f ts).1 2 x.ten agent none (some (op, (openReply s m f ts).2)) none := by
  simp only [agentAsk, hx, hgood, Bool.false_and, Bool.false_eq_true, if_false]

/-- One double on port a alone meets the checks of the requests (R304). -/
theorem onesFault_one {v : Dbl} {wa : Width} (hv : oneValue f wa v) : onesFault f wa = none := by
  obtain ⟨-, hb, hc, a, ha, hw, -, hone⟩ := hv
  have hbad : widthBad f (portWidths wa) = false := by simp [widthBad, operand, portWidths, ha, hb, hc, hw]
  simp [onesFault, operandFault_none f _ [] .pass hbad rfl, hone]

end

/-- A request whose operands meet the checks goes on. -/
theorem onRequest_goes {m : FireMode} {s : State} {f : Firing} {wa : Width} (ts : List Target) (go : Firing → State) (h : Acting m s f)
    (hok : onesFault f wa = none) : onRequest m ts s wa go = .next (go f) := by
  rw [onRequest_acts m ts s f wa go h, hok]

theorem bit_beq_one (v : Dbl) (k : Nat) : (bitsOf v.toNat k k == 1) = (v.extractLsb' k 1 == 1) :=
  Bool.eq_iff_iff.mpr ((bit_eq_one v k).symm.trans beq_iff_eq.symm)

section
variable {m : FireMode} {s : State} {f : Firing} {x : Ctx} {t u : Target} (h : Acting m s f) (hx : ctxAt s f.ctx = some x)

/-- The state in which what a firing asks has gone to the home Walker of its agent (R304). -/
def agentAsked (s : State) (m : FireMode) (f : Firing) (x : Ctx) (t u : Target) (agent : Nat) (op : AgentOp) : State :=
  walkerPut (openReply s m f [t, u]).1 2 x.ten agent none (some (op, (openReply s m f [t, u]).2)) none

include h hx in
theorem bind_asks {w : Word} {a b : Token} (ha : f.a = some a) (hwa : a.ew = .w32) (hvals : a.vals = [w.setWidth 64]) (hlen : f.len = 1)
    (hone : manyElems f = false) (hb : f.b = some b) (hwb : b.ew = .w32) (hhigh : w.extractLsb' 28 4 = 0)
    (hbhigh : bitsOf (bFirst m f) 31 16 = 0) :
    execBind m t u s = .next (agentAsked s m f x t u (w.extractLsb' 0 28).toNat (.bind (bitsOf (bFirst m f) 15 0))) := by
  have hfirst : aFirst m f = w.toNat := by
    have halone : manyElems { f with b := none, c := none } = false := by
      simp only [manyElems, ha, List.any_cons, Bool.or_eq_false_iff] at hone
      simp only [manyElems, ha, List.any_cons, hone.1]
      rfl
    obtain ⟨-, -, hval⟩ := oneValue_elem m { f with b := none, c := none } .w32 (w.setWidth 64) h.fires
      ⟨hlen, rfl, rfl, a, ha, hwa, hvals, halone⟩
    have := w.isLt
    rw [BitVec.toNat_setWidth, Nat.mod_eq_of_lt (by omega)] at hval
    exact hval
  have hbad : (bitsOf w.toNat 31 28 != 0 || bitsOf (bFirst m f) 31 16 != 0) = false := by
    rw [← extract_wordBits w 31 28, hhigh, hbhigh]
    rfl
  have hagent : bitsOf w.toNat 27 0 = (w.extractLsb' 0 28).toNat := (extract_wordBits w 27 0).symm
  refine (onRequest_goes _ _ h (onesFault_none ha hwa hb hwb hone)).trans (congrArg Host.Outcome.next ?_)
  simp only [hfirst, hagent]
  exact agentAsk_asks hx hbad

include h hx in
theorem hint_asks {v : Dbl} (hv : oneValue f .w64 v) (hhigh : v.extractLsb' 40 24 = 0) (hmid : v.extractLsb' 28 5 = 0) :
    execHint m t u s = .next (agentAsked s m f x t u (v.extractLsb' 0 28).toNat
      (.hint (v.extractLsb' 39 1 == 1) (v.extractLsb' 38 1 == 1) (v.extractLsb' 33 5).toNat)) := by
  obtain ⟨-, -, hfirst⟩ := oneValue_elem m f _ _ h.fires hv
  have hbad : (bitsOf v.toNat 63 40 != 0 || bitsOf v.toNat 32 28 != 0) = false := by
    rw [(bitsOf_eq_zero v 63 40).mpr hhigh, (bitsOf_eq_zero v 32 28).mpr hmid]
    rfl
  have hagent : bitsOf v.toNat 27 0 = (v.extractLsb' 0 28).toNat := (extract_bitsOf v 27 0).symm
  have hgroup : bitsOf v.toNat 37 33 = (v.extractLsb' 33 5).toNat := (extract_bitsOf v 37 33).symm
  refine (onRequest_goes _ _ h (onesFault_one hv)).trans (congrArg Host.Outcome.next ?_)
  simp only [hfirst, hagent, hgroup, bit_beq_one]
  exact agentAsk_asks hx hbad

include h hx in
theorem aq_asks {v : Dbl} (hv : oneValue f .w64 v) (htop : v.extractLsb' 63 1 = 0) (hmid : v.extractLsb' 28 33 = 0) :
    execAq m t u s = .next (agentAsked s m f x t u (v.extractLsb' 0 28).toNat
      (.query (v.extractLsb' 62 1 == 1) (v.extractLsb' 61 1 == 1))) := by
  obtain ⟨-, -, hfirst⟩ := oneValue_elem m f _ _ h.fires hv
  have hbad : (bitsOf v.toNat 63 63 != 0 || bitsOf v.toNat 60 28 != 0) = false := by
    rw [(bitsOf_eq_zero v 63 63).mpr htop, (bitsOf_eq_zero v 60 28).mpr hmid]
    rfl
  have hagent : bitsOf v.toNat 27 0 = (v.extractLsb' 0 28).toNat := (extract_bitsOf v 27 0).symm
  refine (onRequest_goes _ _ h (onesFault_one hv)).trans (congrArg Host.Outcome.next ?_)
  simp only [hfirst, hagent, bit_beq_one]
  exact agentAsk_asks hx hbad

end

/-- Settles O33: the members kept, and the three requests by the fields of their words. -/
theorem restAndAgentRequests : Obligations.RestAndAgentRequests := by
  intro m t u s f x h hx
  refine ⟨fun ms hms hne hgood => ?_, fun w b ha hlen hone hb hwb hhigh hbhigh => ?_,
    fun v hv => ⟨fun hhigh hmid => hint_asks h hx hv hhigh hmid, fun htop hmid => aq_asks h hx hv htop hmid⟩⟩
  · refine (onFire_acts m s f _ _ _ h).trans (congrArg Host.Outcome.next ?_)
    simp only [hx]
    rw [← hms]
    exact restName_keeps hne hgood
  · obtain ⟨a, ha, hsame⟩ := Option.map_eq_some_iff.mp ha
    obtain ⟨hwa, hvals⟩ := Prod.mk.inj hsame
    exact bind_asks h hx ha hwa hvals hlen hone hb hwb hhigh hbhigh

end Sys2Proof.Machine
end

section
/-! PROOFS. Cohorts (R314 to R318). -/

namespace Sys2Proof.Machine

/-! The instructions (R314 to R316). -/

section
variable {m : FireMode} {ts : List Target} {s s1 : State} {f : Firing} {x : Ctx} {xop : Nat} {r : Option (Nat × Nat × Nat)}

/-- The home of the cohort that a firing names, and the scope of a release to it. -/
def firingHome (s : State) (m : FireMode) (f : Firing) : Nat := cohHome s (elemAt f.a ((firedElems m f).headD 0))
def homeScope (s : State) (m : FireMode) (f : Firing) : Nat := if firingHome s m f = deviceNumber s then 3 else 4

/-- The state in which a firing's operation has left for its home, as `s` sees the firing and `s1` the rest (R314). -/
def cohSent (s s1 : State) (m : FireMode) (ts : List Target) (f : Firing) (x : Ctx) (xop : Nat) : State :=
  let o := openReply s1 m f ts
  let word := elemAt f.a ((firedElems m f).headD 0)
  cohSend { o.1 with nextId := o.1.nextId + 1 }
    { id := o.1.nextId, dev := deviceNumber s, ten := x.ten, xop := xop, agents := (firedElems m f).map fun j => cohAgent (elemAt f.a j),
      vals := (firedElems m f).map fun j => BitVec.ofNat 32 (elemAt f.b j), sb := inputBits f, coh := bitsOf word 11 0,
      ch := bitsOf word 48 46, reply := some o.2, firing := some f, waive := none, xtag := 0 } (firingHome s m f) x.entry

/-- The release that an arrival makes, and another operation does not (R316). -/
def arrives (s s1 : State) (m : FireMode) (f : Firing) (x : Ctx) (xop : Nat) : Prop :=
  if cohArrives xop then arrivalReady s f.ctx x (homeScope s m f) = true ∧ (ctxRelease s f.ctx (homeScope s m f)).1 = .ok s1 else s1 = s

theorem cohPiece_sends (hx : ctxAt s f.ctx = some x) (hrun : x.frozen = none) (hnew : f.waive = none)
    (hreach : firingHome s m f ≠ deviceNumber s → linkTo s (firingHome s m f) ≠ none ∧ freeXtag s ≠ none) (hrelease : arrives s s1 m f x xop) :
    cohPiece m ts xop s f = cohSent s s1 m ts f x xop := by
  have hnotFrozen : ¬ctxFrozen s f.ctx = true := by simp [ctxFrozen, hx, hrun]
  have hlink : ¬(firingHome s m f ≠ deviceNumber s ∧ linkTo s (firingHome s m f) = none) := fun h => (hreach h.1).1 h.2
  have htag : ¬(firingHome s m f ≠ deviceNumber s ∧ freeXtag s = none) := fun h => (hreach h.1).2 h.2
  have hfrees : (cohArrives xop && !passed f.waive 0x280) = cohArrives xop := by rw [hnew, show passed none 0x280 = false from rfl, Bool.not_false,
    Bool.and_true]
  rw [cohPiece, if_neg hnotFrozen, hx]
  simp only [hfrees]
  refine (if_neg hlink).trans ((if_neg ?_).trans ?_)
  · rintro (hwait | hfull)
    · cases hop : cohArrives xop with
      | false => rw [hop] at hwait; exact Bool.noConfusion hwait
      | true =>
        rw [arrives, if_pos hop] at hrelease
        rw [hop, Bool.true_and, Bool.not_eq_true'] at hwait
        exact Bool.noConfusion (hwait.symm.trans hrelease.1)
    · exact htag hfull
  · have hreleased : (if cohArrives xop = true then (ctxRelease s f.ctx (homeScope s m f)).1 else .ok s) = Raced.ok s1 := by
      rw [arrives] at hrelease
      split
      · rw [if_pos ‹_›] at hrelease
        exact hrelease.2
      · rw [if_neg ‹_›] at hrelease
        rw [hrelease]
    rw [homeScope, firingHome] at hreleased
    simp only [hreleased, cohSent, hnew]
    rfl

/-- A firing of one cohort leaves as one operation (R314). -/
theorem cohort_sends (h : Acting m s f) (hx : ctxAt s f.ctx = some x) (hrun : x.frozen = none) (hnew : f.waive = none)
    (hone : cohPieces (fun j => cohHome s (elemAt f.a j) * 4096 + bitsOf (elemAt f.a j) 11 0) (firedElems m f) = [(0, f.len)])
    (hreach : firingHome s m f ≠ deviceNumber s → linkTo s (firingHome s m f) ≠ none ∧ freeXtag s ≠ none) (hrelease : arrives s s1 m f x xop)
    (hgood : cohFault s m f x xop = none) : cohort xop m ts s = .next (cohSent s s1 m ts f x xop) := by
  refine (onFire_acts m s f _ _ _ h).trans (congrArg Host.Outcome.next ?_)
  simp only [hx, hgood, hone, List.foldl_cons, List.foldl_nil, if_true]
  exact cohPiece_sends hx hrun hnew hreach hrelease

end

/-! The operations at their home (R315 to R318). -/

section
variable {s : State} {op : CohortOp} {c : Cohort} {agent : Nat} {v : Word}

/-- The oldest operation at its home, of this device and not refused, is applied and answered (R315). -/
theorem cohortOpAtHome_applies (hfirst : s.cohortOps.find? (fun o => o.dev != deviceNumber s || o.xtag == 0) = some op)
    (hown : op.dev = deviceNumber s) (hgood : cohRefuses { s with cohortOps := s.cohortOps.filter fun o => o.id != op.id } op = none) :
    execCohortOpAtHome s =
      let r := cohApply { s with cohortOps := s.cohortOps.filter fun o => o.id != op.id } op
      .next (cohAnswered r.1 op r.2) := by
  simp only [execCohortOpAtHome, hfirst, hgood]
  exact congrArg _ (if_pos hown)

theorem cohApply_joins (hc : cohortAt s op.coh = c) (hop : op.xop = 0) (hagents : op.agents = [agent]) (hsome : c.members ≠ [])
    (hnew : (op.dev, agent) ∉ c.members) (hroom : c.members.length < 65536) :
    cohApply s op = (setCohort s op.coh { c with members := c.members ++ [(op.dev, agent)] }, c.members.length + 1) := by
  have hnotFull : ¬65536 ≤ c.members.length := by omega
  simp [cohApply, hop, hagents, hc, hsome, hnew, hnotFull]

/-- The member that leaves makes room for the last (R315). -/
theorem length_cohLeave (l : List (Nat × Nat)) (mb : Nat × Nat) : (cohLeave l mb).length = l.length - 1 := by
  unfold cohLeave
  cases h : l.getLast? with
  | none => simp [List.getLast?_eq_none_iff.mp h]
  | some e => cases hsame : e == mb <;> simp [hsame, mapWhere]

theorem cohApply_leaves (hc : cohortAt s op.coh = c) (hop : op.xop = 1) (hagents : op.agents = [agent]) (hin : (op.dev, agent) ∈ c.members)
    (htwo : 2 ≤ c.members.length) (hround : c.round = none) :
    cohApply s op = (setCohort s op.coh { c with members := cohLeave c.members (op.dev, agent) }, c.members.length - 1) := by
  have hsame : { c with members := cohLeave c.members (op.dev, agent) } =
      { c with members := cohLeave c.members (op.dev, agent), round := none } := by rw [← hround]
  have hrest : cohLeave c.members (op.dev, agent) ≠ [] := fun hempty => by
    have := length_cohLeave c.members (op.dev, agent)
    rw [hempty, List.length_nil] at this
    omega
  rw [hsame]
  simp [cohApply, hop, hagents, hc, hin, hround, hrest, length_cohLeave, roundDone]

theorem cohApply_queries (hc : cohortAt s op.coh = c) (hop : op.xop = 3) : cohApply s op = (s, cohStatus c) := by
  simp [cohApply, hop, hc]

/-- The operations that arrive (R316). -/
theorem cohApply_arrives (hc : cohortAt s op.coh = c) (hop : op.xop = 2 ∨ 8 ≤ op.xop) : cohApply s op = (cohArrive s op c, c.gen.toNat) := by
  unfold cohApply
  rw [hc]
  split
  · omega
  · omega
  · omega
  · rfl

/-- The round of a cohort for an operation, and its arrivals with one more. -/
def roundOf (c : Cohort) (op : CohortOp) : Round := c.round.getD { xop := op.xop, arrived := [] }
def arrivals (c : Cohort) (op : CohortOp) (agent : Nat) (v : Word) : List (Nat × Word × BitVec 5) :=
  (roundOf c op).arrived ++ [(cohKey op.dev agent, v, op.sb)]

theorem cohArrive_records (hsame : (roundOf c op).xop = op.xop) (hagents : op.agents = [agent]) (hvals : op.vals = [v])
    (hin : (op.dev, agent) ∈ c.members) (hnew : ∀ e ∈ (roundOf c op).arrived, e.1 ≠ cohKey op.dev agent) :
    let c1 := { c with round := some { roundOf c op with arrived := arrivals c op agent v } }
    cohArrive s op c = roundDone (setCohort s op.coh c1) op.coh c1 := by
  have hnot : ((roundOf c op).arrived.any fun e => e.1 == cohKey op.dev agent) = false := by simpa using hnew
  rw [roundOf] at hsame hnot
  simp only [cohArrive, hsame, hagents, hvals, List.zip_cons_cons, List.zip_nil_right, List.foldl_cons, List.foldl_nil, hnot]
  simp [hin, arrivals, roundOf, hsame]

/-- A round in which a member is yet to arrive stays open (R316). -/
theorem roundDone_waits {n : Nat} {r : Round} (hr : c.round = some r) (hlacks : ∃ k ∈ c.members, ∀ e ∈ r.arrived, e.1 ≠ cohKey k.1 k.2) :
    roundDone s n c = s := by
  obtain ⟨k, hk, hnone⟩ := hlacks
  have : (c.members.any fun m => (r.arrived.find? fun a => a.1 == cohKey m.1 m.2).isNone) = true := by
    rw [List.any_eq_true]
    exact ⟨k, hk, by simpa using hnone⟩
  simp only [roundDone, hr, this, if_true]

/-- With the last member's arrival the round ends (R316, R317). -/
theorem roundDone_ends {n : Nat} {r : Round} (hr : c.round = some r) (hall : ∀ k ∈ c.members, ∃ e ∈ r.arrived, e.1 = cohKey k.1 k.2) :
    roundDone s n c =
      let v := cohFold r.xop (c.members.filterMap fun m => (r.arrived.find? fun a => a.1 == cohKey m.1 m.2).map fun a => (a.2.1.toNat, a.2.2))
      c.members.foldl (fun s m => releaseStim s 4 c.ten m.1 { bytes := cohStim s n c r.xop m.2 v, clock := none, card := none })
        (setCohort s n { c with gen := c.gen + 1, round := none }) := by
  have : (c.members.any fun m => (r.arrived.find? fun a => a.1 == cohKey m.1 m.2).isNone) = false := by
    rw [List.any_eq_false]
    intro k hk
    obtain ⟨e, he, hkey⟩ := hall k hk
    rw [Option.isNone_iff_eq_none, List.find?_eq_none]
    exact fun hnone => hnone e he (beq_iff_eq.mpr hkey)
  simp only [roundDone, hr, this, Bool.false_eq_true, if_false]

end

/-- Settles O34: what leaves for the home, and what is applied there. -/
theorem cohortOperations : Obligations.CohortOperations := by
  constructor
  · intro m t u s s1 f x c h hx hrun hnew word home hone hreach
    have sends : ∀ s1 xop, arrives s s1 m f x xop → cohFault s m f x xop = none →
        cohort xop m [t, u] s = .next (cohSent s s1 m [t, u] f x xop) :=
      fun s1 xop hrelease hgood => cohort_sends h hx hrun hnew hone hreach hrelease hgood
    refine ⟨⟨sends s 0 rfl, sends s 1 rfl, sends s 3 rfl⟩, fun hready hrelease => ?_⟩
    have released : ∀ xop, cohArrives xop = true → arrives s s1 m f x xop := fun xop hop => by
      rw [arrives, if_pos hop]
      exact ⟨hready, congrArg Prod.fst hrelease⟩
    exact ⟨sends s1 2 (released 2 rfl), sends s1 8 (released 8 rfl), sends s1 9 (released 9 rfl), sends s1 10 (released 10 rfl),
      sends s1 11 (released 11 rfl), sends s1 12 (released 12 rfl), sends s1 13 (released 13 rfl)⟩
  · intro s op agent v hfirst hown hagents hvals s1 c r l hgood
    have hc : cohortAt s1 op.coh = c := rfl
    have applies : exec .cohortOpAtHome s = _ := cohortOpAtHome_applies hfirst hown hgood
    refine ⟨fun hop hsome hnotIn hroom => ?_, fun hop hin htwo hround => ?_, fun hop => ?_, fun hop hsame hin hnotYet => ?_⟩
    · rw [applies, cohApply_joins hc hop hagents hsome hnotIn hroom]
    · rw [applies, cohApply_leaves hc hop hagents hin htwo hround]
    · rw [applies, cohApply_queries hc hop]
    · rw [applies, cohApply_arrives hc hop]
      have records : cohArrive s1 op c = _ := cohArrive_records hsame hagents hvals hin hnotYet
      refine ⟨fun hlacks => ?_, fun hall => ?_⟩
      · rw [records, roundDone_waits rfl hlacks]
        rfl
      · rw [records, roundDone_ends rfl hall]
        rw [← hsame]
        rfl

end Sys2Proof.Machine
end

section
/-! PROOFS. Leases, wavelengths and stripes (R285 to R303, R319). -/

namespace Sys2Proof.Machine

/-! Leases (R289 to R291, R319). -/

section
variable {m : FireMode} {s : State} {f : Firing} {x : Ctx} {v : Dbl} {ts : List Target} {illegal : Nat → Bool} {allowed : Ctx → Bool}

/-- A legal request of a permitted tenancy is made (R319). -/
theorem leaseAsk_makes {denied : Nat} (go : State → Firing → Reply → Nat → State) (h : Acting m s f) (hv : oneValue f .w32 v)
    (hx : ctxAt s f.ctx = some x) (hlegal : illegal v.toNat = false) (hallowed : allowed x = true) :
    leaseAsk m ts s illegal allowed denied go = .next (go (openReply s m f ts).1 f (openReply s m f ts).2 v.toNat) := by
  obtain ⟨-, -, hfirst⟩ := oneValue_elem m f _ _ h.fires hv
  refine (onRequest_goes _ _ h (onesFault_one hv)).trans (congrArg Host.Outcome.next ?_)
  simp only [hx, hfirst, hlegal, hallowed]
  rfl

theorem leaseAllowed_of (h : csrBits s 0x0F8 (16 + x.ten) (16 + x.ten) = 1) : leaseAllowed s x = true := beq_iff_eq.mpr h

theorem leaseReq_pends {t u : Target} (h : Acting m s f) (hv : oneValue f .w32 v) (hx : ctxAt s f.ctx = some x)
    (hlegal : reqIllegal s v.toNat = false) (hmay : csrBits s 0x0F8 (16 + x.ten) (16 + x.ten) = 1) :
    let o := openReply s m f [t, u]
    let q : LeaseReq := ⟨o.1.nextId, o.2, f, bitsOf v.toNat 7 0, bitsOf v.toNat 31 20, 0, false, false, o.1.now⟩
    execLeaseReq m t u s = .next (pushEvOnce (pushEvOnce { o.1 with leases := o.1.leases ++ [q], nextId := o.1.nextId + 1 } .leaseArbitrate)
      .leaseAgeExpiry) :=
  @leaseAsk_makes m s f x v [t, u] (reqIllegal s) (leaseAllowed s) 0x312 _ h hv hx hlegal (leaseAllowed_of hmay)

theorem leaseGive_drops {t u : Target} (h : Acting m s f) (hv : oneValue f .w32 v) (hx : ctxAt s f.ctx = some x)
    (hlegal : giveIllegal s v.toNat = false) (hmay : csrBits s 0x0F8 (16 + x.ten) (16 + x.ten) = 1) :
    execLeaseGive m t u s = .next (leaseDrop (openReply s m f [t, u]).1 (bitsOf v.toNat 7 0) (bitsOf v.toNat 31 20)
      (some (openReply s m f [t, u]).2)) := by
  rw [← leaseNbr, ← leaseCount]
  exact @leaseAsk_makes m s f x v [t, u] (giveIllegal s) (leaseAllowed s) 0x312 _ h hv hx hlegal (leaseAllowed_of hmay)

theorem leaseRev_drops {t u : Target} (h : Acting m s f) (hv : oneValue f .w32 v) (hx : ctxAt s f.ctx = some x)
    (hlegal : giveIllegal s v.toNat = false) (hmay : supervisor s x = true) :
    execLeaseRev m t u s = .next (leaseDrop (openReply s m f [t, u]).1 (bitsOf v.toNat 7 0) (bitsOf v.toNat 31 20)
      (some (openReply s m f [t, u]).2)) := by
  rw [← leaseNbr, ← leaseCount]
  exact @leaseAsk_makes m s f x v [t, u] (giveIllegal s) (supervisor s) 0x311 _ h hv hx hlegal hmay

theorem leaseQ_tells {t u : Target} (h : Acting m s f) (hv : oneValue f .w32 v) (hhigh : bitsOf v.toNat 31 8 = 0) :
    execLeaseQ m t u s = .next (answer (openReply s m f [t, u]).1 (openReply s m f [t, u]).2 (leaseStatus s (bitsOf v.toNat 7 0)) .w64) := by
  obtain ⟨-, -, hfirst⟩ := oneValue_elem m f _ _ h.fires hv
  refine (onRequest_goes _ _ h (onesFault_one hv)).trans (congrArg Host.Outcome.next ?_)
  simp only [hfirst, hhigh]
  rfl

end

/-- A request past its age takes from the neighbour with most surplus (R291). -/
theorem leaseAge_drops {s : State} {q : LeaseReq} {n k : Nat} (hq : s.leases.find? (fun q => decide (csrBits s 0x375 31 0 < s.now - q.since)) = some q)
    (hmost : mostSurplus s = some (n, k)) (harmed : csrBits s 0x3D8 4 4 = 1) (hfabric : fabricState s = 1)
    (hretires : ∀ r ∈ s.retires, r.reply.isSome = true) (hwaves : ∀ w ∈ s.waves, w.2 ≠ .retiring) :
    execLeaseAgeExpiry s = .next (leaseDrop (pushEvOnce s .leaseAgeExpiry) n (min q.owes k) none) := by
  have hsome : s.leases.isEmpty = false := by
    rw [List.isEmpty_eq_false_iff]
    exact List.ne_nil_of_mem (List.mem_of_find?_eq_some hq)
  have hquiet : ((s.retires.any fun r => r.reply.isNone) || s.waves.any fun w => w.2 == .retiring) = false := by
    rw [Bool.or_eq_false_iff, List.any_eq_false, List.any_eq_false]
    exact ⟨fun r hr => by have := hretires r hr; revert this; cases r.reply <;> simp, fun w hw => by simpa using hwaves w hw⟩
  simp only [execLeaseAgeExpiry, hsome, hq, hmost, hquiet, harmed, hfabric]
  rfl

/-- Settles O35: the requests, the arbiter, a peer's ask and the age limit. -/
theorem leases : Obligations.Leases := by
  refine ⟨fun m t u v s f x h hv hx => ⟨fun hlegal hmay => ?_, fun hlegal hmay => ?_, fun hlegal hmay => ?_, fun hhigh => leaseQ_tells h hv hhigh⟩,
    fun s hfabric => ?_, fun s n g hpilot hask => ?_,
    fun s q n k hq hmost harmed hfabric hretires hwaves => leaseAge_drops hq hmost harmed hfabric hretires hwaves⟩
  · rw [show exec (.leaseReq m t u) s = _ from leaseReq_pends h hv hx hlegal hmay]
  · rw [show exec (.leaseGive m t u) s = _ from leaseGive_drops h hv hx hlegal hmay]
  · rw [show exec (.leaseRev m t u) s = _ from leaseRev_drops h hv hx hlegal hmay]
  · exact congrArg Host.Outcome.next (if_neg fun h => h hfabric)
  · show execLease n g s = _
    simp only [execLease, hpilot, hask]
    rfl

/-! Wavelengths (R285 to R288). -/

theorem wavelengthLocked_notes {s : State} {j : Nat} (hlocking : waveAt s j = .locking)
    (hgranted : (linkAt s (waveNbr s j)).grow &&& waveBit s j ≠ 0) (hready : waveReady s j = true) :
    execWavelengthLocked j s = .next (stripeNext (modLink s (waveNbr s j) fun l => { l with locked := l.locked ||| waveBit s j }) (waveNbr s j)) := by
  have hmay : ¬(waveAt s j != .locking || (linkAt s (waveNbr s j)).grow &&& waveBit s j == 0) = true := by
    rw [hlocking, beq_eq_false_iff_ne.mpr hgranted]
    exact nofun
  refine congrArg Host.Outcome.next ((if_neg hmay).trans (if_neg ?_))
  rw [hready]
  exact nofun

theorem wavelengthDark_darkens {s : State} {j : Nat} (hretiring : waveAt s j = .retiring) :
    execWavelengthDark j s = .next (litFell (setWave s j .dark)) :=
  congrArg Host.Outcome.next (if_neg (by rw [hretiring]; exact nofun))

theorem lightRestored_darkens {s : State} {j : Nat} (hfailed : waveAt s j = .failed) :
    let s1 := setWave s j .dark
    let n := waveNbr s j
    let t := pfEvent s1 (linkRec s1 0x331 n 0 (dataWaves s1 n).length none (waveBit s1 j) (linkAt s1 n).live)
    execLightRestored j s = .next (if t.leases = [] then t else pushEvOnce t .leaseArbitrate) := by
  refine congrArg Host.Outcome.next ((if_neg (by rw [hfailed]; exact nofun)).trans ?_)
  simp only [List.isEmpty_iff]

/-! Loss of light (R300, R301). -/

section
variable {s : State} {n : Nat} {lost : Dbl} {els : Option Nat}

/-- The wavelengths of those lost that are of the kind `p`, as a mask. -/
def lossMask (s : State) (n : Nat) (lost : Dbl) (els : Option Nat) (p : Nat → Bool) : BitVec 64 :=
  waveMask (fabricOf s) n fun j => (lossWaves s n lost els).contains j && p j

theorem lossMask_all : (waveMask (fabricOf s) n fun j => (lossWaves s n lost els).contains j) = lossMask s n lost els fun _ => true := by
  simp only [lossMask, Bool.and_true]

theorem lossMask_filter (p : Nat → Bool) :
    (waveMask (fabricOf s) n fun j => ((lossWaves s n lost els).filter p).contains j) = lossMask s n lost els p := by
  refine congrArg (waveMask (fabricOf s) n) (funext fun j => Bool.eq_iff_iff.mpr ?_)
  simp only [List.contains_iff_mem, List.mem_filter, Bool.and_eq_true]

/-- The state in which the lost wavelengths are FAILED and the peer has been told of those that were LOCKING. -/
def lossTold (s : State) (n : Nat) (lost : Dbl) (els : Option Nat) : State :=
  let m := lossMask s n lost els fun _ => true
  let told := lossMask s n lost els fun j => waveAt s j == .locking
  let s0 := modLink (setWaves s (lossWaves s n lost els) .failed) n fun l => { l with grow := l.grow &&& ~~~m, locked := l.locked &&& ~~~m }
  if told = 0 then s0 else sendPilot s0 n 0x12 (leasePayload 4 (litCount s0) told)

/-- What the loss of some wavelengths of a link that is up comes to (R300, R301). -/
theorem lossOfLight_decides (hlive : nbrLive s n = true) (hup : (linkAt s n).down = false) (hsome : lossWaves s n lost els ≠ []) :
    execLossOfLight n lost els s = .next (
      if (lossWaves s n lost els).any (fun j => nbrPilot (fabricOf s) n == some j) ||
          (!((lossWaves s n lost els).filter fun j => waveAt s j != .locking).isEmpty && csrBits s 0x3D8 0 0 == 0) then
        litFell (retiresDone (linkDown (lossTold s n lost els) n (lossMask s n lost els fun _ => true) els))
      else if ((lossWaves s n lost els).filter fun j => waveAt s j != .locking).isEmpty then stripeNext (litFell (lossTold s n lost els)) n
      else retiresDone (stripeNext (litFell (modLink (lossTold s n lost els) n fun l =>
        { l with lost := l.lost ++ [(lossMask s n lost els fun j => waveAt s j != .locking, els)], stopped := true })) n)) := by
  have hmay : ¬(!nbrLive s n || (linkAt s n).down || (lossWaves s n lost els).isEmpty) = true := by
    rw [hlive, hup, List.isEmpty_eq_false_iff.mpr hsome]
    exact nofun
  refine congrArg Host.Outcome.next ((if_neg hmay).trans ?_)
  simp only [grantDrops, lossMask_all, lossMask_filter]
  rfl

/-- Whether a lost wavelength carried the pilot, or carried data. -/
def losesPilot (s : State) (n : Nat) (lost : Dbl) (els : Option Nat) : Prop := ∃ j ∈ lossWaves s n lost els, nbrPilot (fabricOf s) n = some j
def losesData (s : State) (n : Nat) (lost : Dbl) (els : Option Nat) : Prop := ∃ j ∈ lossWaves s n lost els, waveAt s j ≠ .locking

theorem losesPilot_iff : ((lossWaves s n lost els).any fun j => nbrPilot (fabricOf s) n == some j) = true ↔ losesPilot s n lost els := by
  simp only [List.any_eq_true, beq_iff_eq, losesPilot]

theorem losesData_iff : ((lossWaves s n lost els).filter fun j => waveAt s j != .locking).isEmpty = false ↔ losesData s n lost els := by
  rw [List.isEmpty_eq_false_iff, ne_eq, List.filter_eq_nil_iff]
  simp only [losesData, bne_iff_ne, not_forall, not_not, exists_prop]

theorem lossOfLight_ends (hlive : nbrLive s n = true) (hup : (linkAt s n).down = false) (hsome : lossWaves s n lost els ≠ [])
    (h : losesPilot s n lost els ∨ losesData s n lost els ∧ csrBits s 0x3D8 0 0 = 0) :
    execLossOfLight n lost els s =
      .next (litFell (retiresDone (linkDown (lossTold s n lost els) n (lossMask s n lost els fun _ => true) els))) := by
  refine (lossOfLight_decides hlive hup hsome).trans (congrArg Host.Outcome.next (if_pos ?_))
  rw [Bool.or_eq_true, losesPilot_iff]
  refine h.imp_right fun ⟨hdata, hunarmed⟩ => ?_
  rw [losesData_iff.mpr hdata, hunarmed]
  rfl

theorem lossOfLight_locking (hlive : nbrLive s n = true) (hup : (linkAt s n).down = false) (hsome : lossWaves s n lost els ≠ [])
    (hpilot : ¬losesPilot s n lost els) (hdata : ¬losesData s n lost els) :
    execLossOfLight n lost els s = .next (stripeNext (litFell (lossTold s n lost els)) n) := by
  have hnone : ((lossWaves s n lost els).filter fun j => waveAt s j != .locking).isEmpty = true :=
    (Bool.eq_false_or_eq_true _).resolve_right fun h => hdata (losesData_iff.mp h)
  refine (lossOfLight_decides hlive hup hsome).trans (congrArg Host.Outcome.next ((if_neg ?_).trans (if_pos hnone)))
  rw [Bool.or_eq_true, losesPilot_iff, hnone]
  rintro (h | h)
  · exact hpilot h
  · exact Bool.noConfusion h

theorem lossOfLight_restripes (hlive : nbrLive s n = true) (hup : (linkAt s n).down = false) (hsome : lossWaves s n lost els ≠ [])
    (hpilot : ¬losesPilot s n lost els) (hdata : losesData s n lost els) (harmed : csrBits s 0x3D8 0 0 = 1) :
    execLossOfLight n lost els s = .next (retiresDone (stripeNext (litFell (modLink (lossTold s n lost els) n fun l =>
      { l with lost := l.lost ++ [(lossMask s n lost els fun j => waveAt s j != .locking, els)], stopped := true })) n)) := by
  have hcarried := losesData_iff.mpr hdata
  refine (lossOfLight_decides hlive hup hsome).trans (congrArg Host.Outcome.next ((if_neg ?_).trans (if_neg (ne_true_of_eq_false hcarried))))
  rw [Bool.or_eq_true, losesPilot_iff, hcarried, harmed]
  rintro (h | h)
  · exact hpilot h
  · exact Bool.noConfusion h

end

/-! Restripes (R294 to R299). -/

section
variable {s : State} {n : Nat} {g : Flit}

/-- The link as a RESTRIPE leaves it, with what it acknowledges. -/
def stripeLink (s : State) (n : Nat) (g : Flit) : Link := linkAcked (linkAt s n) s.now (BitVec.ofNat 24 (payNat g 24 8))

theorem restripe_answers (hpilot : pilotOk s n g = true) (hasked : (stripeLink s n g).asked = none)
    (howed : lockOwed s n (BitVec.ofNat 64 (payNat g 8 8)) = false) :
    execRestripe n g s = .next (stripeSwitch (sendPilot (setLink s n (stripeLink s n g)) n 0x11 (stripePayload (payNat g 0 4)
      (BitVec.ofNat 24 (payNat g 4 4)) (BitVec.ofNat 64 (payNat g 8 8)) (BitVec.ofNat 64 (payNat g 16 8)) (stripeLink s n g).expect))
      n (payNat g 0 4) (BitVec.ofNat 64 (payNat g 8 8)) (BitVec.ofNat 64 (payNat g 16 8)) (payNat g 4 4)) := by
  rw [stripeLink] at hasked
  simp only [execRestripe, hpilot, hasked, howed]
  rfl

theorem restripe_waits (hpilot : pilotOk s n g = true) (hasked : (stripeLink s n g).asked = none)
    (howed : lockOwed s n (BitVec.ofNat 64 (payNat g 8 8)) = true) :
    execRestripe n g s = .next (pushEvOnce (setLink s n (stripeLink s n g)) (.restripe n g)) := by
  rw [stripeLink] at hasked
  simp only [execRestripe, hpilot, hasked, howed]
  rfl

/-- The answer to this end's own request takes effect. -/
theorem restripe_takes {els : Option Nat} (hpilot : pilotOk s n g = true)
    (hasked : (stripeLink s n g).asked = some (BitVec.ofNat 64 (payNat g 8 8), els, BitVec.ofNat 64 (payNat g 16 8))) :
    execRestripe n g s = .next (stripeSwitch (setLink s n (stripeLink s n g)) n (payNat g 0 4) (BitVec.ofNat 64 (payNat g 8 8))
      (BitVec.ofNat 64 (payNat g 16 8)) (payNat g 4 4)) := by
  rw [stripeLink] at hasked
  simp only [execRestripe, hpilot, hasked, and_self]
  rfl

theorem realignComplete_replays (hstopped : (linkAt s n).stopped = true) (hup : (linkAt s n).down = false) (hasked : (linkAt s n).asked = none) :
    execRealignComplete n s = .next (linkPump (linkReplay (setLink s n { linkAt s n with stopped := false }) n) n) := by
  simp only [execRealignComplete, hstopped, hup, hasked]
  rfl

end

/-- Settles O36: the single wavelengths, the losses by what they carried, and the restripes by what had been asked. -/
theorem wavelengthsAndStripes : Obligations.WavelengthsAndStripes := by
  refine ⟨?_, ?_, ?_, fun s n hstopped hup hasked => realignComplete_replays hstopped hup hasked⟩
  · intro s j n
    exact ⟨wavelengthLocked_notes, wavelengthDark_darkens, lightRestored_darkens⟩
  · intro s n lost els hlive hup f dark js mask m told gone s0 s1 carried pilot hsome
    exact ⟨lossOfLight_ends hlive hup hsome, lossOfLight_locking hlive hup hsome, lossOfLight_restripes hlive hup hsome⟩
  · intro s n g hpilot epoch first live lost l
    exact ⟨restripe_answers hpilot, restripe_waits hpilot, fun els => restripe_takes hpilot⟩

end Sys2Proof.Machine
end

section
/-! PROOFS. Commits, traps and returns (R128, R129, R320, R321). -/

namespace Sys2Proof.Machine

section
variable {s : State} {c : Nat} {x y z : Ctx} {e : ExitFired} {r : List ExitFired} {d : Divert} {dest : Nat}

/-- The successor that the exit which fired chose. -/
def normalDest (e : ExitFired) : Nat := e.dest.getD (2 ^ 64 - 1)

/-- A commit without a diversion goes to the successor of its exit. -/
theorem commit_goes (hx : ctxAt s c = some x) (hready : commitReady s c = true) (hexit : x.exits = e :: r) (hdivert : x.divert = none) :
    execCommit c s = .next (commitBlock s c x (normalDest e)) := by
  simp only [execCommit, hx, hready, hexit, hdivert]
  rfl

/-- With a diversion it goes where that says. -/
theorem commit_diverts (hx : ctxAt s c = some x) (hready : commitReady s c = true) (hexit : x.exits = e :: r) (hdivert : x.divert = some d)
    (htarget : trapTarget s x (normalDest e) d = some (y, dest)) : execCommit c s = .next (commitBlock s c y dest) := by
  rw [normalDest] at htarget
  simp only [execCommit, hx, hready, hexit, hdivert, htarget]
  rfl

/-- A return address that is not legal faults. -/
theorem commit_faults (hx : ctxAt s c = some x) (hready : commitReady s c = true) (hexit : x.exits = e :: r) (hdivert : x.divert = some d)
    (htarget : trapTarget s x (normalDest e) d = none) : execCommit c s =
      .next (takeFault (setCtx s c { x with divert := some .tretAny }) c 0x044 { noInfo with addr := x.tra } (some (.event (.commit c)))) := by
  rw [normalDest] at htarget
  simp only [execCommit, hx, hready, hexit, hdivert, htarget]
  rfl

/-- What a block that names no member to rest leaves at its commit. -/
theorem commitBlock_leaves (hrests : y.rests = []) (hz : ctxAt (ctxCount s c 0x002 1) c = some z) :
    let after := { clearEntry { z with g := commitG y, b := commitB y, th := y.th, tnum := y.tnum, tra := y.tra, entry := y.entry + 1 } with
                   region := y.region }
    commitBlock s c y dest = turnWake (
      if dest = 2 ^ 64 - 1 then pushEvOnce (setCtx (ctxCount s c 0x002 1) c { after with phase := .ending }) (.retirement y.stp)
      else pushEv (setCtx (ctxCount s c 0x002 1) c { clearEntry after with block := dest, phase := .fetching }) (.blockFetch c))
      y.press y.region := by
  have hnone : commitRests (ctxCount s c 0x002 1) c y = ctxCount s c 0x002 1 := by rw [commitRests, hrests, List.foldl_nil]
  simp only [commitBlock, hnone, hz]
  split <;> rfl

/-- Trap Return Address at the end of the step (R321). -/
theorem trapTarget_ends (normal : Nat) (htra : x.tra = 0xFFFFFFFFFFFFFFFF) :
    trapTarget s x normal .tret = some ({ x with th := false }, 2 ^ 64 - 1) := by
  have hends : x.tra.toNat = 2 ^ 64 - 1 := congrArg BitVec.toNat htra
  simp only [trapTarget, hends]
  rfl

theorem trapTarget_legal (normal : Nat) (htop : x.tra.extractLsb' 56 8 = 0) (hlow : x.tra.extractLsb' 0 4 = 0) :
    trapTarget s x normal .tret = some ({ x with th := false }, x.tra.toNat) := by
  have hhigh : bitsOf x.tra.toNat 63 56 = 0 := (bitsOf_eq_zero x.tra 63 56).mpr htop
  have hzero : bitsOf x.tra.toNat 3 0 = 0 := (bitsOf_eq_zero x.tra 3 0).mpr hlow
  have hlt := x.tra.isLt
  have hsmall : x.tra.toNat < 2 ^ 56 := by
    simp only [bitsOf] at hhigh
    omega
  have haligned : x.tra.toNat % 2 ^ 56 / 16 * 16 = x.tra.toNat := by
    simp only [bitsOf] at hzero
    omega
  have hinside : x.tra.toNat ≠ 2 ^ 64 - 1 := by omega
  have hgood : ¬(x.tra.toNat ≠ 2 ^ 64 - 1 ∧ (bitsOf x.tra.toNat 63 56 ≠ 0 ∨ bitsOf x.tra.toNat 3 0 ≠ 0)) := by
    rintro ⟨-, h | h⟩
    · exact h hhigh
    · exact h hzero
  exact (if_neg hgood).trans (congrArg (fun dest => some (_, dest)) ((if_neg hinside).trans haligned))

theorem trapTarget_illegal (normal : Nat) (htra : x.tra ≠ 0xFFFFFFFFFFFFFFFF)
    (hbad : x.tra.extractLsb' 56 8 ≠ 0 ∨ x.tra.extractLsb' 0 4 ≠ 0) : trapTarget s x normal .tret = none := by
  have hends : x.tra.toNat ≠ 2 ^ 64 - 1 := fun h => htra (BitVec.eq_of_toNat_eq h)
  have hbits : bitsOf x.tra.toNat 63 56 ≠ 0 ∨ bitsOf x.tra.toNat 3 0 ≠ 0 :=
    hbad.imp (mt (bitsOf_eq_zero x.tra 63 56).mp) (mt (bitsOf_eq_zero x.tra 3 0).mp)
  exact if_pos ⟨hends, hbits⟩

end

/-- Settles O38: where each diversion leads, and what the block leaves on its way there. -/
theorem commitsTrapsAndReturns : Obligations.CommitsTrapsAndReturns := by
  intro s c x e r hx hready hexit hrests s1 ends normal leaves
  refine ⟨fun hdivert z hz => ?_, fun n hdivert z hz => ?_, fun hdivert htra z hz => ?_, fun hdivert htop hlow z hz => ?_,
    fun hdivert htra hbad => ?_⟩
  · exact (commit_goes hx hready hexit hdivert).trans (congrArg _ (commitBlock_leaves hrests hz))
  · exact (commit_diverts hx hready hexit hdivert rfl).trans (congrArg _ (commitBlock_leaves hrests hz))
  · exact (commit_diverts hx hready hexit hdivert (trapTarget_ends _ htra)).trans (congrArg _ (commitBlock_leaves hrests hz))
  · exact (commit_diverts hx hready hexit hdivert (trapTarget_legal _ htop hlow)).trans (congrArg _ (commitBlock_leaves hrests hz))
  · exact commit_faults hx hready hexit hdivert (trapTarget_illegal _ htra hbad)

/-! Probes and ages (R97, R99, R103). -/

section
variable {s : State} {g : Nat} {e : Entry}

theorem probeClear_clears (hentry : entryOf s (csrBits s 0x310 35 32) (csrBits s 0x310 27 0) = some (g, e)) :
    execProbeClear s = .next (pushEv (modEntry s g (csrBits s 0x310 35 32) (csrBits s 0x310 27 0) fun e =>
      { e with age := 0, overdue := false, agedTo := ageBoundaries s })
      (if csrBits s 0x310 61 61 = 1 then .probeUnblock else .probeResult)) := by
  simp only [execProbeClear, clearAge, probeKey, hentry]

theorem probeUnblock_unblocks (hentry : entryOf s (csrBits s 0x310 35 32) (csrBits s 0x310 27 0) = some (g, e)) (hq : e.hq = false) :
    execProbeUnblock s = .next (pushEv (entryTouch (modEntry s g (csrBits s 0x310 35 32) (csrBits s 0x310 27 0) fun e =>
      { e with blocked := false, stuck := false }) g (csrBits s 0x310 35 32) (csrBits s 0x310 27 0)) .probeResult) := by
  simp only [execProbeUnblock, unblock, probeKey, hentry, hq]
  rfl

theorem probeResult_leaves {st : Stim} {r : List Stim} (hentry : entryOf s (csrBits s 0x310 35 32) (csrBits s 0x310 27 0) = some (g, e))
    (hqueue : e.queue = st :: r) : execProbeResult s = .next (csrSet (csrSet
      (csrSet s 0x311 (BitVec.ofNat 64 (probeDouble s (csrBits s 0x310 35 32) (csrBits s 0x310 27 0)))) 0x312
      (BitVec.ofNat 64 (e.seq.toNat * 2 ^ 32))) 0x313 (BitVec.ofNat 64 (routineOf e st))) := by
  simp only [execProbeResult, probeKey, hentry, hqueue]

/-- The entries of every Group that wait, with their Groups. -/
def waitingEntries (s : State) : List (Nat × Entry) := s.groups.flatMap fun q => (q.2.entries.filter (·.waiting)).map fun e => (q.1, e)

/-- An entry with the age that the boundaries passed give it (R97). -/
def aged (s : State) (g : Nat) (e : Entry) (late : Bool) : State :=
  modEntry s g e.ten e.agent fun d =>
    { d with age := min 255 (e.age + (ageBoundaries s - e.agedTo)), agedTo := ageBoundaries s, overdue := d.overdue || late }

theorem ageEntry_ages (hfresh : e.overdue = false) :
    ageEntry s g e =
      if 0 < ageBoundaries s - e.agedTo ∧ csrBits s 0x301 7 0 ≤ min 255 (e.age + (ageBoundaries s - e.agedTo)) then
        overdueActions (aged s g e true) g e.ten e.agent
      else aged s g e false := by
  by_cases hlate : 0 < ageBoundaries s - e.agedTo ∧ csrBits s 0x301 7 0 ≤ min 255 (e.age + (ageBoundaries s - e.agedTo))
  · have hl : (decide (0 < ageBoundaries s - e.agedTo) && decide (csrBits s 0x301 7 0 ≤ min 255 (e.age + (ageBoundaries s - e.agedTo))) &&
        !e.overdue) = true := by rw [hfresh, decide_eq_true hlate.1, decide_eq_true hlate.2]; rfl
    rw [if_pos hlate, ageEntry]
    simp only [hl]
    rfl
  · have hl : (decide (0 < ageBoundaries s - e.agedTo) && decide (csrBits s 0x301 7 0 ≤ min 255 (e.age + (ageBoundaries s - e.agedTo))) &&
        !e.overdue) = false := by rw [hfresh, ← Bool.decide_and, decide_eq_false hlate]; rfl
    rw [if_neg hlate, ageEntry]
    simp only [hl]
    rfl

theorem ageTick_ages (hone : waitingEntries s = [(g, e)]) (hin : entryIn s g e.ten e.agent = some e) (hwaits : e.waiting = true) :
    execAgeTick s = .next (if waitingEntries (ageEntry s g e) = [] then ageEntry s g e else pushEvOnce (ageEntry s g e) .ageTick) := by
  rw [waitingEntries] at hone
  simp only [execAgeTick, hone, List.foldl_cons, List.foldl_nil, hin, hwaits, if_true, List.isEmpty_iff]
  rfl

end

/-- Settles O42: the four parts of a probe, and the age of the one entry that waits. -/
theorem probesAndAge : Obligations.ProbesAndAge := by
  intro s ten agent
  refine ⟨rfl, fun g e hentry => probeClear_clears hentry, fun g e hentry hq => probeUnblock_unblocks hentry hq,
    fun g e st r hentry hqueue => probeResult_leaves hentry hqueue, ?_⟩
  intro g e hone hin hwaits hfresh n ages late
  rw [show exec .ageTick s = _ from ageTick_ages hone hin hwaits, ageEntry_ages hfresh]
  rfl

end Sys2Proof.Machine
end

section
/-! PROOFS. Walkers and Group Schedulers (R85 to R93, R100 to R108, R313). -/

namespace Sys2Proof.Machine

/-! Arrivals (R85). -/

theorem devCount_cases (s : State) (e k : Nat) : ∃ t, devCount s e k = t ∧ t.groups = s.groups ∧ t.steps = s.steps := by
  refine ⟨_, rfl, ?_⟩
  unfold devCount
  dsimp only
  split
  · exact ⟨pushEvOnce_groups _ _, pushEvOnce_steps _ _⟩
  · exact ⟨rfl, rfl⟩

theorem entryOf_devCount (s : State) (e k ten agent : Nat) : entryOf (devCount s e k) ten agent = entryOf s ten agent := by
  obtain ⟨t, ht, hgroups, -⟩ := devCount_cases s e k
  rw [ht, entryOf, hgroups, entryOf]

theorem stimUsed_devCount (s : State) (e k g : Nat) : stimUsed (devCount s e k) g = stimUsed s g := by
  obtain ⟨t, ht, hgroups, hsteps⟩ := devCount_cases s e k
  rw [ht, stimUsed, groupAt, hgroups, hsteps, stimUsed, groupAt]

section
variable {s : State} {w g : Nat} {a : Arrival} {rest : List Arrival} {e : Entry} {st : Stim}

/-- A stimulus for an awake agent whose queue on chip has room joins it (R85, R86). -/
theorem takeStim_joins (hgood : stimBad st.bytes = false) (hready : readyGroups s ≠ []) (hportfolio : (portfolioLog s (stimTen st.bytes)).isSome = true)
    (hkind : stimKind st.bytes ≠ 0xF0) (hentry : entryOf s (stimTen st.bytes) (stimAgent st.bytes) = some (g, e)) (hq : e.hq = false)
    (hroom : e.queue.length < 8) (hslots : stimUsed s g < Config.stimulusSlots) (hok : stimOk st.bytes = true) :
    takeStim s st false = (entryTouch (modEntry (devCount s 0x200 1) g e.ten e.agent fun e => { e with queue := e.queue ++ [st] })
      g e.ten e.agent, true) := by
  have hsome : (portfolioLog s (stimTen st.bytes)).isNone = false := Option.isNone_eq_false_iff.mpr hportfolio
  have hgroups : (readyGroups s).isEmpty = false := List.isEmpty_eq_false_iff.mpr hready
  simp [takeStim, hgood, hsome, hgroups, hkind, entryOf_devCount, hentry, forwardStim, hq, hroom, stimUsed_devCount, hslots, joinQueue, hok]

/-- The first arrival that a Walker looks at and can take leaves its list. -/
theorem takeFirst_takes (s1 : State) {mine : Arrival → Bool} {go : State → Arrival → State × Bool} (hmine : mine a = true)
    (hgo : go s a = (s1, true)) : takeFirst s w mine go [] (a :: rest) = (dropArrival s1 w a, true) := by
  simp [takeFirst, hmine, hgo]

theorem stimulusArrival_joins (hready : walkerReady s w = true) (hfirst : arrivalsAt s w = a :: rest) (hstim : a.stim = some st)
    (hack : a.ack = none) (hpeer : a.peer = none) {s1 : State} (htake : takeStim s st false = (s1, true)) :
    execStimulusArrival w s = .next (dropArrival s1 w a) := by
  simp only [execStimulusArrival, hready, hfirst]
  rw [takeFirst_takes s1 (by rw [hstim]; rfl) (by simp [hstim, hack, hpeer, htake])]
  rfl

theorem agentOp_tells {r : Reply} (hready : walkerReady s w = true) (hfirst : arrivalsAt s w = a :: rest)
    (hop : a.op = some (.query false false, r)) : execAgentOpAtWalker w s =
      .next (dropArrival (settle (answer s r (probeDouble s a.ten a.agent) .w64) r.ctx) w a) := by
  simp only [execAgentOpAtWalker, hready, hfirst]
  rw [takeFirst_takes (settle (answer s r (probeDouble s a.ten a.agent) .w64) r.ctx) (by rw [hop]; rfl) (by simp [hop, agentOpTake])]
  rfl

end

/-! Refills, demotions and moves (R87 to R93). -/

section
variable {s s1 : State} {ten agent g : Nat} {e : Entry}

theorem queueRefill_brings {bs : List Byte} (hentry : entryOf s ten agent = some (g, e)) (hq : e.hq = true) (hstuck : e.stuck = false)
    (hroom : e.queue.length < 8) (hslots : stimUsed s g < Config.stimulusSlots)
    (hread : unitRead s (agentOwner ten agent) ten (slotVa e e.qhead) 256 = (s1, .ok bs)) :
    execQueueRefill ten agent s = .next (pushEvOnce (entryTouch (joinQueue (modEntry (fromSlot s1 e e.qhead bs).1 g ten agent fun e =>
      { e with qhead := e.qhead + 1, hq := e.qhead + 1 != e.qtail }) g e (fromSlot s1 e e.qhead bs).2) g ten agent) (.queueRefill ten agent)) := by
  have hmay : (!e.hq || e.stuck || decide (8 ≤ e.queue.length)) = false := by
    rw [hq, hstuck, decide_eq_false (Nat.not_le.mpr hroom)]
    rfl
  simp only [execQueueRefill, hentry, hmay, Bool.false_eq_true, if_false, hread]
  exact congrArg _ (if_neg (Nat.not_le.mpr hslots))

theorem demotion_demotes {t delay : Nat} (hentry : entryOf s ten agent = some (g, e)) (hlacks : e.lacksSince = some (t, delay))
    (hlong : delay < s.now - t) (hdemote : demote s g e = (s1, some true)) : execDemotion ten agent s = .next s1 := by
  simp only [execDemotion, hentry, hlacks, hdemote]
  exact congrArg _ (if_neg (Nat.not_le.mpr hlong))

theorem entryMove_tries {h : Nat} {d : Entry} (hentry : entryOf s ten agent = some (g, e))
    (hafter : entryOf (tryMove s g ten agent) ten agent = some (h, d)) :
    execEntryMove ten agent s = .next (if d.moveTo.isSome then pushEvOnce (tryMove s g ten agent) (.entryMove ten agent)
      else tryMove s g ten agent) := by
  simp only [execEntryMove, hentry, hafter]

end

/-- Settles O41: each part of a Walker's work by its own branch. -/
theorem walkers : Obligations.Walkers := by
  refine ⟨fun s w g a rest st e hwalker hfirst hstim hack hpeer hgood hready hportfolio hkind hentry hq hroom hslots hok => ?_,
    fun s w a rest r hready hfirst hop => agentOp_tells hready hfirst hop,
    fun s ten agent g e hentry => ⟨fun s1 bs hq hstuck hroom hslots hread => queueRefill_brings hentry hq hstuck hroom hslots hread,
      fun t delay s1 hlacks hlong hdemote => demotion_demotes hentry hlacks hlong hdemote, fun h d hafter => entryMove_tries hentry hafter⟩,
    fun s => rfl⟩
  exact stimulusArrival_joins hwalker hfirst hstim hack hpeer
    (takeStim_joins hgood hready hportfolio hkind hentry hq hroom hslots hok)

/-! Group Schedulers (R100 to R108). -/

section
variable {s s1 : State} {g : Nat} {e : Entry} {st : Stim} {rest : List Stim}

/-- The state in which a Scheduler looks for its best entry: what is due has closed (R100). -/
def gatherFrom (s : State) (g : Nat) : State := closeDue (askPlates s g) g
/-- The open impressions of a Group, and the one of an entry's key. -/
def openImps (s : State) (g : Nat) : List Imp := (groupAt s g).imps.filter fun i => !i.closed
def keyImp (s : State) (g : Nat) (e : Entry) (st : Stim) : Option Imp :=
  (openImps s g).find? fun i => i.ten == e.ten && i.plate == e.plate && i.routine == routineOf e st && i.ch == entryCh e && i.headsz == e.headsz

/-- What follows the gathering of an entry. -/
def gathered (s : State) (g : Nat) : State := if (groupAt s g).entries.filter (entryReady s g) = [] then s else kickGroup s g

theorem impressionGather_joins {i : Imp} (hbest : bestEntry ((groupAt (gatherFrom s g) g).entries.filter (entryReady (gatherFrom s g) g)) = some e)
    (hqueue : e.queue = st :: rest) (hready : groupReady (gatherFrom s g) g = true) (hmine : keyImp (gatherFrom s g) g e st = some i) :
    execImpressionGather g s = .next (gathered (joinImp (gatherFrom s g) g i e) g) := by
  rw [keyImp, openImps] at hmine
  simp only [gatherFrom] at hbest hready hmine ⊢
  simp only [execImpressionGather, hbest, hqueue, hready, hmine, List.isEmpty_iff, gathered]
  rfl

theorem impressionGather_opens (hbest : bestEntry ((groupAt (gatherFrom s g) g).entries.filter (entryReady (gatherFrom s g) g)) = some e)
    (hqueue : e.queue = st :: rest) (hready : groupReady (gatherFrom s g) g = true) (hmine : keyImp (gatherFrom s g) g e st = none)
    (hfew : (openImps (gatherFrom s g) g).length < Config.openImpressions) :
    execImpressionGather g s = .next (gathered (openImp (gatherFrom s g) g e (routineOf e st)) g) := by
  rw [keyImp, openImps] at hmine
  rw [openImps] at hfew
  simp only [gatherFrom] at hbest hready hmine hfew ⊢
  simp only [execImpressionGather, hbest, hqueue, hready, hmine, List.isEmpty_iff, gathered, hfew, if_true]
  rfl

theorem batchWindow_closes {id : Nat} {i : Imp} (hi : impAt s g id = some i) (hopen : i.closed = false) (hdue : i.due ≤ s.now) :
    execBatchWindowExpiry g id s = .next (closeImp s g id) := by
  simp only [execBatchWindowExpiry, hi, hopen]
  exact congrArg _ (if_pos hdue)

/-- The one closed impression is admitted to the Press chosen for it (R102, R104). -/
theorem admission_admits {p tag : Nat} {i : Imp} {l : List (Entry × List Byte)} (henabled : csrBits s 0x323 0 0 = 1)
    (hready : groupReady s g = true) (hclosed : closedImps s g = [i]) (hpress : choosePress s g i.words = some p)
    (htag : freeTag s p false = some tag) (hplate : (plateAt s g i.ten i.plate).isSome = true)
    (hstage : stageHeads s g i i.members = (s1, some l)) : execAdmission g s =
      .next (if (groupAt (admitTo s1 g i p tag l) g).imps.any (·.closed) then pushEvOnce (admitTo s1 g i p tag l) (.admission g)
        else admitTo s1 g i p tag l) := by
  have hhere : (plateAt s g i.ten i.plate).isNone = false := Option.isNone_eq_false_iff.mpr hplate
  simp [execAdmission, henabled, hready, hclosed, admitAll, admitOne, hpress, htag, hhere, hstage]

theorem shareTableSwap_swaps {p : Nat} (hwrapped : (pressAt s p).shareAt / 64 < cycleNow s / 64) :
    execShareTableSwap p s = .next (modPress s p fun q => { q with shareLive := q.shareShadow }) := by
  have h : shareWrapped (pressAt s p).shareAt (cycleNow s) = true := decide_eq_true hwrapped
  exact congrArg Host.Outcome.next ((if_pos h).trans (if_pos h))

theorem cardDeal_deals {c : Card} (hcard : s.cards.find? (fun c => decide (c.next < c.count)) = some c) (hready : groupReady s g = true)
    (hfew : ((groupAt s g).entries.filter (·.waiting)).length < 64) : execCardDeal g s =
      let t := cardEnds (dealRecords (max 1 ((c.count - c.next + 63) / 64)) s c.id) c.id
      .next (if t.cards.any fun c => decide (c.next < c.count) then pushEvOnce t (.cardDeal g) else t) := by
  have hmay : (groupReady s g && decide (((groupAt s g).entries.filter (·.waiting)).length < 64)) = true := by
    rw [hready, decide_eq_true hfew]
    rfl
  simp only [execCardDeal, hcard, hmay, if_true]

end

/-- Settles O43: each part of a Scheduler's work by its own branch. -/
theorem groupSchedulers : Obligations.GroupSchedulers := by
  refine ⟨?_, fun s g id i hi hopen hdue => batchWindow_closes hi hopen hdue,
    fun s s1 g p tag i l henabled hready hclosed hpress htag hplate hstage =>
      admission_admits henabled hready hclosed hpress htag hplate hstage,
    fun s p hwrapped => shareTableSwap_swaps hwrapped, fun s g c hcard hready hfew => cardDeal_deals hcard hready hfew⟩
  intro s g e st rest s0 hbest hqueue hready goes mine
  exact ⟨fun i hmine => impressionGather_joins hbest hqueue hready hmine, fun hmine hfew => impressionGather_opens hbest hqueue hready hmine hfew⟩

end Sys2Proof.Machine
end

section
/-! PROOFS. Bring-up and ingress ports (R66, R71 to R79). -/

namespace Sys2Proof.Machine

/-! Bring-up (R76 to R79). -/

section
variable {s : State}

theorem resetBoot_tests (hfirst : csrBits s 0x0F1 63 63 = 0) (hvalid : Config.firmwareVerifies = true) :
    execResetBoot s = .next (pushEv (pushEvs (csrPoke s 0x0F1 63 63 1)
      ((List.range 134).map fun k => .selfTestDone (256 + k) (Config.selfTestPasses (256 + k)))) (.pressPowerUp 0)) := by
  have hnew : ¬csrBits s 0x0F1 63 63 = 1 := by omega
  refine congrArg Host.Outcome.next ((if_neg hnew).trans ((if_pos hvalid).trans ?_))
  rw [testedAtOnce, List.map_map]
  rfl

theorem resetBoot_refuses (hfirst : csrBits s 0x0F1 63 63 = 0) (hbad : Config.firmwareVerifies = false) :
    execResetBoot s = .next (csrPoke (csrPoke s 0x0F1 63 63 1) 0x0F1 9 0 0x3E0) := by
  have hnew : ¬csrBits s 0x0F1 63 63 = 1 := by omega
  exact congrArg Host.Outcome.next ((if_neg hnew).trans (if_neg (ne_true_of_eq_false hbad)))

theorem bootFailed_none (h : csrBits s 0x0F1 9 0 = 0) : bootFailed s = false := by
  rw [bootFailed, h]
  rfl

/-- What waits for a function that is ready is only woken. -/
theorem nowReady_ready (s : State) (bit : Nat) : (nowReady s bit).ready = s.ready ∧ (nowReady s bit).failed = s.failed := by
  unfold nowReady kickGroup
  dsimp only
  split
  · exact ⟨pushEvOnce_ready _ _, pushEvOnce_failed _ _⟩
  · split
    · split <;> simp
    · exact ⟨rfl, rfl⟩

theorem selfTest_decides {bit : Nat} (passes : Bool) (hbooted : csrBits s 0x0F1 63 63 = 1) (hgood : csrBits s 0x0F1 9 0 = 0) (hbit : bit < 390)
    (hready : s.ready.getLsbD bit = false) (hfailed : s.failed.getLsbD bit = false) (hramped : bit < 256 → bit ∈ s.ramped) :
    execSelfTestDone bit passes s = .next (if passes then nowReady { s with ready := s.ready ||| (1#512 <<< bit) } bit
      else pfEvent { s with failed := s.failed ||| (1#512 <<< bit) } { recOf 0x3E1 with addr := bit }) := by
  have hup : booted s = true := by rw [booted, hbooted, bootFailed_none hgood]; rfl
  have hruns : ¬(booted s = false ∨ 390 ≤ bit ∨ readyBit s bit = true ∨ s.failed.getLsbD bit = true) := by
    rw [hup, readyBit, hready, hfailed]
    simp
    omega
  have htested : ¬(bit < 256 ∧ s.ramped.contains bit = false) := by
    rintro ⟨hpress, hnot⟩
    rw [List.contains_eq_mem, decide_eq_false_iff_not] at hnot
    exact hnot (hramped hpress)
  exact congrArg Host.Outcome.next ((if_neg hruns).trans (if_neg htested))

theorem pressPowerUp_starts {p : Nat} (hgood : csrBits s 0x0F1 9 0 = 0) (hp : p < 256) (hdue : p = 0 ∨ s.wakeAt + 500 ≤ s.now) :
    execPressPowerUp p s = .next { s with
      wakeAt := s.now
      queue := s.queue ++ [.event (.matrixRampDone p)] ++ if p < 255 then [.event (.pressPowerUp (p + 1))] else [] } := by
  have hruns : ¬(bootFailed s = true ∨ Config.presses ≤ p) := by
    rw [bootFailed_none hgood]
    rintro (h | h)
    · exact Bool.noConfusion h
    · exact absurd h (Nat.not_le.mpr hp)
  refine congrArg Host.Outcome.next ((if_neg hruns).trans ((if_neg (by omega)).trans ?_))
  by_cases hlast : p < 255
  · rw [if_pos hlast]
    exact if_pos (show p + 1 < 256 by omega)
  · rw [if_neg hlast, List.append_nil]
    exact if_neg (show ¬p + 1 < 256 by omega)

theorem matrixRamp_ends {p : Nat} (hgood : csrBits s 0x0F1 9 0 = 0) (hp : p < 256) (hnew : p ∉ s.ramped)
    (hlong : 64 ≤ cyclesOf (s.now - s.wakeAt)) : execMatrixRampDone p s = .next { s with
      ramped := s.ramped ++ [p]
      queue := s.queue ++ [.event (.selfTestDone p (Config.selfTestPasses p))] } := by
  have hruns : ¬(bootFailed s = true ∨ s.ramped.contains p = true ∨ Config.presses ≤ p) := by
    rw [bootFailed_none hgood, List.contains_iff_mem]
    rintro (h | h | h)
    · exact Bool.noConfusion h
    · exact hnew h
    · exact absurd h (Nat.not_le.mpr hp)
  exact congrArg Host.Outcome.next ((if_neg hruns).trans (if_neg (Nat.not_lt.mpr hlong)))

end

/-! Ports (R71 to R73). -/

/-- Fields copied from `v` one after another: each bit of a field is that of `v`. -/
theorem testBit_copyFields (v : Nat) (l : List (Nat × Nat)) (a i : Nat) :
    (l.foldl (fun a f => putBits a f.1 f.2 (bitsOf v f.1 f.2)) a).testBit i =
      if l.any (fun f => decide (f.2 ≤ i ∧ i ≤ f.1)) then v.testBit i else a.testBit i := by
  induction l generalizing a with
  | nil => rfl
  | cons f l ih =>
    rw [List.foldl_cons, ih, List.any_cons, testBit_putBits]
    by_cases hin : f.2 ≤ i ∧ i ≤ f.1
    · rw [if_pos hin, testBit_bitsOf, Nat.add_sub_cancel' hin.1, decide_eq_true (show i - f.2 < f.1 + 1 - f.2 by omega), decide_eq_true hin,
        Bool.true_and, Bool.true_or, if_pos rfl, ite_self]
    · rw [if_neg hin, decide_eq_false hin, Bool.false_or]

/-- The fields of a port's binding, as a mask (R71). -/
def bindingFields : List (Nat × Nat) := [(63, 63), (62, 60), (59, 56), (32, 32), (15, 0)]

theorem bindingFields_mask (v : Dbl) :
    BitVec.ofNat 64 (bindingFields.foldl (fun a f => putBits a f.1 f.2 (bitsOf v.toNat f.1 f.2)) 0) = v &&& 0xFF0000010000FFFF := by
  have hmask : ∀ i : Fin 64, (0xFF0000010000FFFF : Dbl).getLsbD i = bindingFields.any fun f => decide (f.2 ≤ i.val ∧ i.val ≤ f.1) := by decide
  refine BitVec.eq_of_getLsbD_eq fun i hi => ?_
  rw [BitVec.getLsbD_and, hmask ⟨i, hi⟩, BitVec.getLsbD_ofNat, testBit_copyFields, decide_eq_true hi, Bool.true_and, Nat.zero_testBit, BitVec.getLsbD]
  cases (bindingFields.any fun f => decide (f.2 ≤ i ∧ i ≤ f.1)) <;> simp

section
variable {s : State} {port link func : Nat} {v : Dbl}

theorem portBinding_begins (hup : hostUp s link = true) (hport : port < 4096) (hempty : (portAt s port).published = []) :
    execPortBindingWrite link port v s = .next (setPort s port { portAt s port with
      b0 := v &&& 0xFF0000010000FFFF, prod := 0, cons := 0, routine := none, fetching := [], published := [] }) := by
  have hmay : ¬(hostUp s link = false ∨ 4096 ≤ port) := by rw [hup]; simp; omega
  refine congrArg Host.Outcome.next ((if_neg hmay).trans ?_)
  rw [bindPort, hempty, List.foldl_nil, ← bindingFields_mask]
  rfl

theorem prodWrite_publishes (hup : hostUp s link = true) (hport : port < 4096) : execProdWrite func link port v s = .next (publish s func link port v) :=
  congrArg Host.Outcome.next (if_neg (by rw [hup]; simp; omega))

/-- What a port publishes: the slots from its producer count on (R72). -/
def publishedSlots (s : State) (p : InPort) (link n : Nat) : List Published :=
  (List.range n).map fun k => { bytes := portSlot p (p.prod.toNat + k), link := link, tags := (s.xfers.filter (hostWriting link)).map (·.xtag) }

/-- What a write of PROD comes to, by the number `n` of slots that it asks for (R72). -/
theorem publish_decides {n : Nat} (hn : (v.toNat % 2 ^ 32 + 2 ^ 32 - (portAt s port).prod.toNat) % 2 ^ 32 = n) :
    publish s func link port v =
      if !portMine (portAt s port) func then portRefused s 0x3D0 func link (4096 * port + 0x800) (portAt s port)
      else if n = 0 ∨ 8 < n + ((portAt s port).prod - (portAt s port).cons).toNat then
        portRefused s 0x3D1 func link (4096 * port + 0x800) (portAt s port)
      else pushEvs (setPort s port { portAt s port with
        prod := (portAt s port).prod + BitVec.ofNat 32 n
        published := (portAt s port).published ++ publishedSlots s (portAt s port) link n }) (List.replicate n (.ingressAccept port)) := by
  subst hn
  rfl

theorem publish_slots {n : Nat} (hmine : portMine (portAt s port) func = true) (hpos : 0 < n)
    (hfit : n + ((portAt s port).prod - (portAt s port).cons).toNat ≤ 8) (hv : v.toNat % 2 ^ 32 = ((portAt s port).prod.toNat + n) % 2 ^ 32) :
    publish s func link port v = pushEvs (setPort s port { portAt s port with
      prod := BitVec.ofNat 32 v.toNat
      published := (portAt s port).published ++ publishedSlots s (portAt s port) link n }) (List.replicate n (.ingressAccept port)) := by
  have hn : (v.toNat % 2 ^ 32 + 2 ^ 32 - (portAt s port).prod.toNat) % 2 ^ 32 = n := by
    have := (portAt s port).prod.isLt
    omega
  have hprod : (portAt s port).prod + BitVec.ofNat 32 n = BitVec.ofNat 32 v.toNat := by
    apply BitVec.eq_of_toNat_eq
    rw [BitVec.toNat_add, BitVec.toNat_ofNat, BitVec.toNat_ofNat, hv]
    omega
  have hroom : ¬(n = 0 ∨ 8 < n + ((portAt s port).prod - (portAt s port).cons).toNat) := by omega
  rw [publish_decides hn, hprod, if_neg (by rw [hmine]; exact nofun), if_neg hroom]

theorem publish_foreign (hmine : portMine (portAt s port) func = false) :
    publish s func link port v = portRefused s 0x3D0 func link (4096 * port + 0x800) (portAt s port) := by
  obtain ⟨n, hn⟩ : ∃ n, (v.toNat % 2 ^ 32 + 2 ^ 32 - (portAt s port).prod.toNat) % 2 ^ 32 = n := ⟨_, rfl⟩
  rw [publish_decides hn, if_pos (by rw [hmine]; rfl)]

theorem publish_nothing (hmine : portMine (portAt s port) func = true) (hv : v.toNat % 2 ^ 32 = (portAt s port).prod.toNat) :
    publish s func link port v = portRefused s 0x3D1 func link (4096 * port + 0x800) (portAt s port) := by
  have hn : (v.toNat % 2 ^ 32 + 2 ^ 32 - (portAt s port).prod.toNat) % 2 ^ 32 = 0 := by omega
  rw [publish_decides hn, if_neg (by rw [hmine]; exact nofun), if_pos (.inl rfl)]

/-! A published stimulus (R73 to R75). -/

/-- Only a stimulus that begins an object has something prefetched. -/
theorem prefetch_begins (s : State) (port : Nat) (p : InPort) (bs : List Byte) :
    prefetch s port p bs = if stimO bs then prefetch s port p bs else s := by
  split
  · rfl
  · rename_i hplain
    exact if_pos (by rw [Bool.eq_false_iff.mpr hplain]; rfl)

theorem ingressAccept_takes {raw : Published} {rest : List Published} (hfetching : (portAt s port).fetching = [])
    (hfirst : (portAt s port).published = raw :: rest) (hgroups : readyGroups s ≠ []) (hwrites : ∀ t ∈ s.xfers, t.xtag ∉ raw.tags)
    (hwalker : walkerReady s (homeWalker s (stimTen (ingressStamp s (portAt s port) raw.bytes))
      (stimAgent (ingressStamp s (portAt s port) raw.bytes))) = true) :
    let bs := ingressStamp s (portAt s port) raw.bytes
    let st : Stim := { bytes := bs, clock := none, card := none }
    let took := { portAt s port with published := rest, cons := (portAt s port).cons + 1 }
    execIngressAccept port s = .next (
      if stimBad bs then refuseStim (setPort s port { took with refused := (portAt s port).refused + 1 }) st 0x212 (stimTen bs)
        (stimAgent bs) (4096 * port) 0
      else walkerTakes (prefetch (setPort s port took) port took bs)
        { cls := 1, rank := 4096 * raw.link + port, order := cycleNow s, ten := stimTen bs, agent := stimAgent bs, stim := some st,
          op := none, ack := none, peer := none }) := by
  have hnext : prefetchNext s port = s := by simp only [prefetchNext, hfetching]
  have hwait : ingressWaits s raw (ingressStamp s (portAt s port) raw.bytes) = false := by
    have hnone : (s.xfers.any fun t => raw.tags.contains t.xtag && hostWriting raw.link t) = false := by
      rw [List.any_eq_false]
      intro t ht h
      rw [Bool.and_eq_true, List.contains_iff_mem] at h
      exact hwrites t ht h.1
    rw [ingressWaits, List.isEmpty_eq_false_iff.mpr hgroups, hwalker, hnone]
    rfl
  simp only [execIngressAccept, hnext, hfirst, hwait, Bool.false_eq_true, if_false]

end

/-- Settles O44: bring-up by its four events, ports by their writes. -/
theorem bringUpAndIngressPorts : Obligations.BringUpAndIngressPorts := by
  refine ⟨fun s => ⟨fun hfirst => ⟨resetBoot_tests hfirst, resetBoot_refuses hfirst⟩, fun hgood => ⟨fun hbooted bit hbit hready hfailed hramped => ?_,
    fun p hp hdue => pressPowerUp_starts hgood hp hdue, fun p hp hnew hlong => matrixRamp_ends hgood hp hnew hlong⟩⟩,
    fun s port hport => ?_⟩
  · exact ⟨⟨_, selfTest_decides true hbooted hgood hbit hready hfailed hramped, nowReady_ready _ bit⟩,
      selfTest_decides false hbooted hgood hbit hready hfailed hramped⟩
  · intro p
    refine ⟨fun link v hup hempty => portBinding_begins hup hport hempty,
      fun func link v n hup hmine hpos hfit hv => (prodWrite_publishes hup hport).trans (congrArg _ (publish_slots hmine hpos hfit hv)),
      fun func link v hup hmine => (prodWrite_publishes hup hport).trans (congrArg _ (publish_foreign hmine)),
      fun func link v hup hmine hv => (prodWrite_publishes hup hport).trans (congrArg _ (publish_nothing hmine hv)), ?_⟩
    intro raw rest hfetching hfirst hgroups hwrites bs st took hwalker
    have takes : exec (.ingressAccept port) s = _ := ingressAccept_takes hfetching hfirst hgroups hwrites hwalker
    refine ⟨fun hgood => takes.trans (congrArg _ ((if_neg (ne_true_of_eq_false hgood)).trans ?_)),
      fun hbad => takes.trans (congrArg _ (if_pos hbad))⟩
    exact congrArg (walkerTakes · _) (prefetch_begins _ _ _ _)

end Sys2Proof.Machine
end

section
/-! PROOFS. Fabric images and distribution (R262 to R266, R282 to R284). -/

namespace Sys2Proof.Machine

/-! What a link does changes no CSR. -/

theorem sendPilot_frame (s : State) (n kind : Nat) (payload : List Byte) : (sendPilot s n kind payload).csrs = s.csrs ∧
    (sendPilot s n kind payload).fabric = s.fabric ∧ (sendPilot s n kind payload).nextFabric = s.nextFabric := by
  simp only [sendPilot]
  split <;> exact ⟨rfl, rfl, rfl⟩

theorem sendLinkctl_csrs (s : State) (n : Nat) : (sendLinkctl s n).csrs = s.csrs :=
  (sendPilot_frame s n 0x10 _).1

theorem bufferFreed_csrs (s : State) (came : Option (Nat × Nat)) : (bufferFreed s came).csrs = s.csrs := by
  unfold bufferFreed
  split
  · rfl
  · split
    · rfl
    · exact sendLinkctl_csrs _ _

theorem flitsLeave_csrs (s : State) (n : Nat) (fs : List Flit) : (flitsLeave s n fs).csrs = s.csrs := by
  rw [flitsLeave]
  refine foldl_csrs ?_ fs s
  exact fun _ _ => rfl

theorem markSent_csrs (s : State) (f : Flit) : (markSent s f).csrs = s.csrs := by
  unfold markSent
  split <;> rfl

theorem dealFlit_csrs (s : State) (n : Nat) (f : Flit) : (dealFlit s n f).csrs = s.csrs := by
  rw [dealFlit, pushEvOnce_csrs, markSent_csrs, flitsLeave_csrs]
  rfl

theorem pumpOver_csrs (s : State) (n : Nat) (kept todo : List Outgoing) : (pumpOver s n kept todo).1.csrs = s.csrs := by
  induction todo generalizing s kept with
  | nil => rfl
  | cons o r ih =>
    simp only [pumpOver]
    split
    · exact ih _ _
    · rw [ih, bufferFreed_csrs, dealFlit_csrs]

theorem linkPump_csrs (s : State) (n : Nat) : (linkPump s n).csrs = s.csrs := by
  simp only [linkPump]
  split
  · rfl
  · exact pumpOver_csrs s n [] _

theorem fabricState_congr {s t : State} (h : t.csrs = s.csrs) : fabricState t = fabricState s := by
  rw [fabricState, csrBits, csrGet, h]
  rfl

/-- The device sets its fabric state to another value than that of reset. -/
theorem fabricState_set (s : State) {k : Nat} (hpos : 0 < k) (hk : k < 8) : fabricState (setFabricState s k) = k :=
  csrBits_csrPoke s (by decide) hk (show (0 : Nat) ≠ k by omega)

/-! Loading and reconfiguring (R265, R266, R282). -/

section
variable {s : State}

/-- The place of the image to be read, and the image (R264). -/
def imageBase (s : State) : Nat := csrBits s 0x370 47 12 * 4096
def imageOf (s : State) : Fabric := fabricImage s (imageBase s)

/-- An image in memory that can be read is checked, and taken if it is valid (R264). -/
theorem withImage_reads (again : Instr) (go : State → Fabric → State) (hin : imageBase s + 0x15000 ≤ Config.hbmBytes)
    (hready : stackReady s (imageBase s) = true) (hgood : hbmBad s (imageBase s) 0x15000 = none) :
    withImage s again go = if imageBad s (imageBase s) (imageOf s) then csrPoke s 0x371 9 0 0x340 else go (csrPoke s 0x371 9 0 0) (imageOf s) := by
  rw [imageBase] at hin hready hgood
  simp only [withImage, if_neg (Nat.not_lt.mpr hin), hready, hgood, Bool.not_true, Bool.false_eq_true, if_false]
  rfl

/-- The affected neighbours hold what they have and are sent the marker (R282). -/
def drainNbrs (f : Fabric) (ns : List Nat) (s : State) : State :=
  (ns.filter (nbrValid f)).foldl (fun s n =>
    sendPilot (modLink s n fun l => { l with held := true, drained := false }) n 0x13 (drainPayload false)) s

theorem drainNbrs_frame (f : Fabric) (ns : List Nat) (s : State) : (drainNbrs f ns s).csrs = s.csrs ∧
    (drainNbrs f ns s).fabric = s.fabric ∧ (drainNbrs f ns s).nextFabric = s.nextFabric := by
  rw [drainNbrs]
  induction ns.filter (nbrValid f) generalizing s with
  | nil => exact ⟨rfl, rfl, rfl⟩
  | cons n l ih =>
    obtain ⟨hcsrs, hfabric, hnext⟩ := ih (sendPilot (modLink s n fun l => { l with held := true, drained := false }) n 0x13 (drainPayload false))
    obtain ⟨hcsrs', hfabric', hnext'⟩ := sendPilot_frame (modLink s n fun l => { l with held := true, drained := false }) n 0x13 (drainPayload false)
    exact ⟨hcsrs.trans hcsrs', hfabric.trans hfabric', hnext.trans hnext'⟩

theorem csrPoke_fabric (s : State) (num hi lo x : Nat) : (csrPoke s num hi lo x).fabric = s.fabric := rfl

theorem fabricReconfigure_drains (hin : imageBase s + 0x15000 ≤ Config.hbmBytes) (hready : stackReady s (imageBase s) = true)
    (hgood : hbmBad s (imageBase s) 0x15000 = none) (hvalid : imageBad s (imageBase s) (imageOf s) = false) (hstate : fabricState s = 1) :
    ∃ t, execFabricReconfigure s = .next t ∧ fabricState t = 2 ∧ t.fabric = s.fabric ∧ t.nextFabric = some (imageOf s) ∧
      t.queue.contains (.event .reconfDrainDone) = true := by
  let s1 := setFabricState { csrPoke s 0x371 9 0 0 with nextFabric := some (imageOf s) } 2
  let s2 := drainNbrs (fabricOf (csrPoke s 0x371 9 0 0)) (nbrsChanged (fabricOf (csrPoke s 0x371 9 0 0)) (imageOf s)) s1
  obtain ⟨hcsrs, hfabric, hnext⟩ := drainNbrs_frame (fabricOf (csrPoke s 0x371 9 0 0))
    (nbrsChanged (fabricOf (csrPoke s 0x371 9 0 0)) (imageOf s)) s1
  refine ⟨pushEvOnce s2 .reconfDrainDone, ?_, ?_, ?_, ?_, List.contains_iff_mem.mpr (pushEvOnce_has _ _)⟩
  · refine congrArg Host.Outcome.next ((if_neg fun h => h hstate).trans ?_)
    rw [withImage_reads _ _ hin hready hgood, if_neg (ne_true_of_eq_false hvalid)]
    rfl
  · rw [fabricState_congr ((pushEvOnce_csrs _ _).trans hcsrs)]
    exact fabricState_set _ (by decide) (by decide)
  · exact (pushEvOnce_fabric _ _).trans (hfabric.trans ((csrPoke_fabric _ _ _ _ _).trans (csrPoke_fabric s 0x371 9 0 0)))
  · exact (pushEvOnce_nextFabric _ _).trans (hnext.trans rfl)

theorem fabricLoad_loads (hin : imageBase s + 0x15000 ≤ Config.hbmBytes) (hready : stackReady s (imageBase s) = true)
    (hgood : hbmBad s (imageBase s) 0x15000 = none) (hstate : fabricState s = 0) :
    execFabricLoad s = .next (if imageBad s (imageBase s) (imageOf s) then csrPoke s 0x371 9 0 0x340
      else pushEvOnce ((imageNbrs (imageOf s)).foldl (fun t n => lightPilot (imageOf s) t n 0)
        { csrPoke s 0x371 9 0 0 with fabric := some (imageOf s), waves := [], links := [] }) .pilotsLocked) := by
  refine congrArg Host.Outcome.next ((if_neg fun h => h hstate).trans ?_)
  rw [withImage_reads _ _ hin hready hgood]

/-! The fabric runs (R265, R282). -/

/-- The neighbours that wait, for their pilot or to drain. -/
def heldNbrs (s : State) : List Nat := (nbrNums s).filter fun n => (linkAt s n).held

/-- The state in which the pilots of those that waited carry data. -/
def pilotsLive (s : State) : State :=
  (heldNbrs s).foldl (fun t n =>
    let js := (maskWaves (fabricOf s) n (linkAt t n).live).filter fun j => waveAt t j == .locking
    modLink (setWaves t js .live) n fun l =>
      { l with held := false, drained := false, live := waveMask (fabricOf s) n fun j => js.contains j }) s

theorem heldNbrs_mem {n : Nat} (h : n ∈ heldNbrs s) : n ∈ nbrNums s ∧ (linkAt s n).held = true := List.mem_filter.mp h

theorem pilotsLocked_runs (hfabric : s.fabric ≠ none) (hstate : fabricState s = 0 ∨ fabricState s = 4)
    (hlocked : ∀ n ∈ nbrNums s, (linkAt s n).held = true → ∀ j, nbrPilot (fabricOf s) n = some j →
      waveAt s j = .locking ∧ waveReady s j = true ∨ waveAt s j = .live) :
    ∃ t, execPilotsLocked s = .next t ∧ fabricState t = 1 ∧ t.queue.contains (.event .linkctlBeacon) = true := by
  have hmay : ¬(s.fabric.isNone = true ∨ ¬(fabricState s = 0 ∨ fabricState s = 4)) := by
    rw [Option.isNone_iff_eq_none]
    exact not_or.mpr ⟨hfabric, not_not.mpr hstate⟩
  have hquiet : ((heldNbrs s).any fun n => match nbrPilot (fabricOf s) n with
      | none => false
      | some j => !((waveAt s j == .locking && waveReady s j) || waveAt s j == .live)) = false := by
    rw [List.any_eq_false]
    intro n hn
    obtain ⟨hnbr, hheld⟩ := heldNbrs_mem hn
    cases hp : nbrPilot (fabricOf s) n with
    | none => exact nofun
    | some j =>
      obtain ⟨hlocking, hwave⟩ | hlive := hlocked n hnbr hheld j hp
      · simp [hlocking, hwave]
      · simp [hlive]
  let s3 := (heldNbrs s).foldl linkPump (setFabricState (pilotsLive s) 1)
  have hs3 : fabricState s3 = 1 := by
    rw [fabricState_congr (foldl_csrs linkPump_csrs (heldNbrs s) (setFabricState (pilotsLive s) 1))]
    exact fabricState_set _ (by decide) (by decide)
  refine ⟨pushEvOnce (if s3.leases.isEmpty then s3 else pushEvOnce s3 .leaseArbitrate) .linkctlBeacon, ?_, ?_,
    List.contains_iff_mem.mpr (pushEvOnce_has _ _)⟩
  · exact congrArg Host.Outcome.next ((if_neg hmay).trans (if_neg (ne_true_of_eq_false hquiet)))
  · rw [fabricState_congr (pushEvOnce_csrs _ _)]
    split
    · exact hs3
    · rw [fabricState_congr (pushEvOnce_csrs _ _)]
      exact hs3

/-! Draining and resuming (R282). -/

theorem reconfDrain_ends (hstate : fabricState s = 2) (hdone : ∀ n ∈ nbrNums s, (linkAt s n).held = true →
    (linkAt s n).down = true ∨ (linkAt s n).drained = true ∧ (linkAt s n).replay = []) :
    ∃ t, execReconfDrainDone s = .next t ∧ fabricState t = 3 := by
  have hall : ((heldNbrs s).all fun n => (linkAt s n).down || ((linkAt s n).drained && (linkAt s n).replay.isEmpty)) = true := by
    rw [List.all_eq_true]
    intro n hn
    obtain ⟨hnbr, hheld⟩ := heldNbrs_mem hn
    obtain hdown | ⟨hdrained, hreplay⟩ := hdone n hnbr hheld
    · rw [hdown, Bool.true_or]
    · rw [hdrained, hreplay]
      simp
  have hgoes : ¬(!(heldNbrs s).all fun n => (linkAt s n).down || ((linkAt s n).drained && (linkAt s n).replay.isEmpty)) = true := by
    rw [hall]
    exact nofun
  exact ⟨_, congrArg Host.Outcome.next ((if_neg fun h => h hstate).trans (if_neg hgoes)), fabricState_set _ (by decide) (by decide)⟩

theorem fabricResume_resumes {g : Fabric} (hstate : fabricState s = 3) (hnext : s.nextFabric = some g) :
    ∃ t, execFabricResume s = .next t ∧ t.queue.contains (.event .pilotsLocked) = true := by
  have hresumes : ∃ u, execFabricResume s = .next (pushEvOnce u .pilotsLocked) := by
    simp only [execFabricResume, hnext, hstate]
    exact ⟨_, rfl⟩
  obtain ⟨u, hu⟩ := hresumes
  exact ⟨_, hu, List.contains_iff_mem.mpr (pushEvOnce_has _ _)⟩

theorem fabricResume_unchanged {g : Fabric} (hstate : fabricState s = 3) (hnext : s.nextFabric = some g)
    (hnone : nbrsChanged (fabricOf s) g = []) : execFabricResume s =
      .next (pushEvOnce (leaseGone (csrPoke { s with fabric := some g, nextFabric := none } 0x371 60 58 4)) .pilotsLocked) := by
  simp only [execFabricResume, hnext, hstate, hnone, List.flatMap_nil, List.foldl_nil]
  rfl

/-! Distribution (R283, R284). -/

/-- A descriptor that has been read (R283): its place, its bytes and what it says. -/
def distAt (s : State) : Nat := csrBits s 0x378 47 6 * 64
def distBytes (s : State) : List Byte := hbmRead s (distAt s) 1088
def distOf (s : State) : Dist :=
  let d := distBytes s
  { desc := distAt s, src := headNat d 0 8, chunks := headNat d 8 8 / 65536, next := 0, sent := false
    ten := bitsOf (headNat d 16 8) 3 0, num := bitsOf (headNat d 16 8) 31 16
    chain := (chunksOf 16 (bitsOf (headNat d 16 8) 39 32) (d.drop 64)).map fun e => (headNat e 0 8, none) }
/-- The state in which a distribution's status is clear. -/
def distCleared (s : State) : State := csrPoke (csrPoke { s with dist := none } 0x379 62 62 0) 0x379 9 0 0

theorem distributionStart_decides (hready : stackReady s (distAt s) = true) (hgood : hbmBad s (distAt s) 64 = none) :
    execDistributionStart s = .next (if distBroken s (distBytes s) then csrPoke (distCleared s) 0x379 9 0 0x350
      else distPump { distCleared s with dist := some (distOf s) }) := by
  rw [distAt] at hready hgood
  simp only [execDistributionStart, hready, hgood, Bool.not_true, Bool.false_eq_true, if_false]
  rfl

theorem distributionReport_ends {r : Dist} {e res : Nat} (hdist : s.dist = some r) (hchain : r.chain = [(e, none)]) :
    execDistributionReport (chainDev e) res s =
      .next (csrPoke { hbmPutDbl s (r.desc + 0x48) (2 ^ 63 + res % 1024) with dist := none } 0x379 62 62 1) := by
  have hfirst : ([(e, (none : Option Nat))].findIdx? fun d => chainDev d.1 == chainDev e && d.2.isNone) = some 0 := by
    simp [List.findIdx?_cons]
  simp only [execDistributionReport, distResult, hdist, hchain, hfirst, Nat.mul_zero, Nat.add_zero, mapWhere, List.map_cons, List.map_nil, beq_self_eq_true,
    if_true, List.all_cons, List.all_nil, Option.isSome_some, Bool.and_self]

end

/-- Settles O47: the fabric's operations by its states, the distribution by its descriptor. -/
theorem fabricImagesAndDistribution : Obligations.FabricImagesAndDistribution := by
  refine ⟨fun s => ?_, fun s => ?_⟩
  · intro base f refused
    refine ⟨fun h => congrArg Host.Outcome.next (if_pos h), fun h => congrArg Host.Outcome.next (if_pos h),
      fun h => congrArg Host.Outcome.next (if_pos h), fun hin hready hgood => ⟨fun hbad hstate => ?_, fun hvalid hstate => ?_,
        fun hvalid hstate => fabricReconfigure_drains hin hready hgood hvalid hstate⟩,
      fun hfabric hstate hlocked => pilotsLocked_runs hfabric hstate hlocked, fun hstate hdone => reconfDrain_ends hstate hdone,
      fun g hstate hnext => ⟨fabricResume_resumes hstate hnext, fun hnone => fabricResume_unchanged hstate hnext hnone⟩⟩
    · exact (fabricLoad_loads hin hready hgood hstate).trans (congrArg _ (if_pos hbad))
    · exact (fabricLoad_loads hin hready hgood hstate).trans (congrArg _ (if_neg (ne_true_of_eq_false hvalid)))
  · intro pa d s0
    refine ⟨fun hready hgood => ?_, fun r e res hdist hchain => distributionReport_ends hdist hchain⟩
    exact ⟨fun hbroken => (distributionStart_decides hready hgood).trans (congrArg _ (if_pos hbroken)),
      fun hsound => (distributionStart_decides hready hgood).trans (congrArg _ (if_neg (ne_true_of_eq_false hsound)))⟩

end Sys2Proof.Machine
end

section
/-! PROOFS. Links and the answers that come over them (R272 to R281). -/

namespace Sys2Proof.Machine

/-! Flits of a virtual channel (R274 to R279). -/

section
variable {s s1 : State} {n : Nat} {f : Flit}

/-- What a link looks at before it takes a flit (R274, R275). -/
def flitGood (s : State) (n : Nat) (f : Flit) : Prop :=
  nbrLive s n = true ∧ (linkAt s n).down = false ∧ flitCrc f = f.crc ∧ f.seq = (linkAt s n).expect ∧ buffersTaken s n (flitVc f) < 512

/-- A link once it has taken a flit for another device: the buffer is kept (R279). -/
def transitTaken (s : State) (n : Nat) (f : Flit) : State :=
  let l := linkAt s n
  sendLinkctl (setLink s n { l with
    expect := l.expect + 1
    freedOut := tabSet (fun _ => 0) l.freedOut (flitVc f) (tabGet (fun _ => 0) l.freedOut (flitVc f) + 0) }) n

theorem flitGood_iff : flitGood s n f ↔ (!nbrLive s n || (linkAt s n).down || flitCrc f != f.crc || f.seq != (linkAt s n).expect ||
    decide (512 ≤ buffersTaken s n (flitVc f))) = false := by
  simp only [flitGood, Bool.or_eq_false_iff, Bool.not_eq_false', bne_eq_false_iff_eq, decide_eq_false_iff_not, not_le, and_assoc]

theorem linkTake_transit (hdst : f.dst.toNat ≠ deviceNumber s) (hgood : flitGood s n f) : linkTake s n f = some (transitTaken s n f) := by
  simp only [linkTake, flitGood_iff.mp hgood, Bool.false_eq_true, if_false, hdst]
  rfl

theorem linkTake_refuses (hbad : ¬flitGood s n f) : linkTake s n f = none :=
  if_pos ((Bool.eq_false_or_eq_true _).resolve_right fun h => hbad (flitGood_iff.mpr h))

theorem receiveFlit_transit (k : State → State) (hdst : f.dst.toNat ≠ deviceNumber s) (hgood : flitGood s n f) :
    receiveFlit s n f k = forwardFlit (transitTaken s n f) f (some (n, flitVc f)) := by
  simp only [receiveFlit, linkTake_transit hdst hgood, hdst, if_false]

theorem receiveFlit_refuses (k : State → State) (hbad : ¬flitGood s n f) : receiveFlit s n f k = s := by
  simp only [receiveFlit, linkTake_refuses hbad]

theorem receiveFlit_arrives (k : State → State) (htake : linkTake s n f = some s1) (hdst : f.dst.toNat = deviceNumber s) :
    receiveFlit s n f k = k s1 := by
  simp only [receiveFlit, htake, hdst, if_true]

/-- The instructions of the flits of a virtual channel. -/
def flitInstrs : List (Nat → Flit → Instr) :=
  [.write, .data, .loadreq, .loadrsp, .amoreq, .amorsp, .ack, .nak, .stim, .plate, .flitTransit]

theorem atTarget_foreign {pa : Nat} {ev : Instr} (k : State → State) (hdst : f.dst.toNat ≠ deviceNumber s) :
    atTarget s n f pa ev k = .next (receiveFlit s n f k) := by
  simp only [atTarget, hdst, decide_false, Bool.false_and, Bool.false_eq_true, if_false]

theorem execData_foreign (hdst : f.dst.toNat ≠ deviceNumber s) : ∃ k, execData n f s = .next (receiveFlit s n f k) := by
  unfold execData
  split
  · exact ⟨_, rfl⟩
  · exact ⟨_, atTarget_foreign _ hdst⟩

theorem execAmoreq_foreign (hdst : f.dst.toNat ≠ deviceNumber s) : ∃ k, execAmoreq n f s = .next (receiveFlit s n f k) := by
  simp only [execAmoreq]
  split
  · exact ⟨_, rfl⟩
  · exact ⟨_, atTarget_foreign _ hdst⟩

/-- Each of them is received, whatever it then does at its target. -/
theorem flitInstrs_receive (n : Nat) (hdst : f.dst.toNat ≠ deviceNumber s) :
    ∀ mk ∈ flitInstrs, ∃ k, exec (mk n f) s = .next (receiveFlit s n f k) := by
  simp only [flitInstrs, List.mem_cons, List.not_mem_nil, or_false]
  rintro mk (rfl | rfl | rfl | rfl | rfl | rfl | rfl | rfl | rfl | rfl | rfl)
  · exact ⟨_, atTarget_foreign _ hdst⟩
  · exact execData_foreign hdst
  · exact ⟨_, atTarget_foreign _ hdst⟩
  · exact ⟨_, rfl⟩
  · exact execAmoreq_foreign hdst
  · exact ⟨_, rfl⟩
  · exact ⟨_, rfl⟩
  · exact ⟨_, rfl⟩
  · exact ⟨_, rfl⟩
  · exact ⟨_, rfl⟩
  · exact ⟨_, rfl⟩

/-! The flits of the pilot (R276, R282). -/

theorem pilotOk_of (hlive : nbrLive s n = true) (hup : (linkAt s n).down = false) (hcrc : flitCrc f = f.crc) : pilotOk s n f = true := by
  rw [pilotOk, hlive, hup, hcrc, beq_self_eq_true]
  rfl

theorem linkctl_frees (hok : pilotOk s n f = true) : execLinkctl n f s = .next (linkPump (setLink s n
    ((List.range 8).foldl (freedTake f) (linkAcked (linkAt s n) s.now (BitVec.ofNat 24 (payNat f 0 4))))) n) :=
  congrArg Host.Outcome.next (if_neg (by rw [hok]; exact nofun))

theorem drain_marks (hok : pilotOk s n f = true) (hanswer : payNat f 0 4 = 1) :
    execDrain n f s = .next (setLink s n { linkAt s n with drained := true }) :=
  congrArg Host.Outcome.next ((if_neg (by rw [hok]; exact nofun)).trans (if_pos hanswer))

theorem drain_answers (hok : pilotOk s n f = true) (hmarker : payNat f 0 4 ≠ 1) :
    execDrain n f s = .next (sendPilot s n 0x13 (drainPayload true)) :=
  congrArg Host.Outcome.next ((if_neg (by rw [hok]; exact nofun)).trans (if_neg hmarker))

theorem reservedFlit_pilot (hlive : nbrLive s n = true) :
    execReservedTypeFlit n true f s = .next (setLink s n { linkAt s n with discards := (linkAt s n).discards + 1 }) :=
  congrArg Host.Outcome.next ((if_neg (by rw [hlive]; exact nofun)).trans (if_pos rfl))

theorem nbrLive_of_take (htake : linkTake s n f = some s1) : nbrLive s n = true := by
  by_contra hdead
  rw [linkTake_refuses fun hgood => hdead hgood.1] at htake
  exact absurd htake nofun

theorem reservedFlit_channel (htake : linkTake s n f = some s1) (hkind : pilotKind f = false) (hdst : f.dst.toNat = deviceNumber s) :
    execReservedTypeFlit n false f s = .next (setLink s1 n { linkAt s1 n with discards := (linkAt s1 n).discards + 1 }) := by
  simp only [execReservedTypeFlit, nbrLive_of_take htake, hkind, htake, hdst]
  rfl

/-! Replays and beacons (R275, R276). -/

theorem replayTimeout_replays (hup : linksUp s = [n]) (hsent : (linkAt s n).replay ≠ []) (hstopped : (linkAt s n).stopped = false)
    (hasked : (linkAt s n).asked = none) (hlong : csrBits s 0x376 31 16 ≤ s.now - (linkAt s n).lastAck) :
    execReplayTimeout s = .next (if (linksUp (linkReplay s n)).any fun m => !(linkAt (linkReplay s n) m).replay.isEmpty then
      pushEvOnce (linkReplay s n) .replayTimeout else linkReplay s n) := by
  have hlate : (!(linkAt s n).replay.isEmpty && !(linkAt s n).stopped && (linkAt s n).asked.isNone &&
      decide (csrBits s 0x376 31 16 ≤ s.now - (linkAt s n).lastAck)) = true := by
    rw [List.isEmpty_eq_false_iff.mpr hsent, hstopped, hasked, decide_eq_true hlong]
    rfl
  simp only [execReplayTimeout, hup, List.foldl_cons, List.foldl_nil, hlate, if_true]

theorem linkctlBeacon_sends (hup : linksUp s = [n]) (hdue : 256 ≤ s.now - (linkAt s n).beacon) (hstays : linksUp (sendLinkctl s n) = [n]) :
    execLinkctlBeacon s = .next (pushEvOnce (sendLinkctl s n) .linkctlBeacon) := by
  simp only [execLinkctlBeacon, hup, List.foldl_cons, List.foldl_nil, hdue, if_true, hstays]
  rfl

end

/-- Settles O48: whether a flit is taken decides what each instruction of a virtual channel does; the rest by their branches. -/
theorem linksTakeAndKeepFlits : Obligations.LinksTakeAndKeepFlits := by
  refine ⟨?_, fun s n f => ?_⟩
  · intro s n f l taken good hdst mk hmk
    obtain ⟨k, hk⟩ := flitInstrs_receive n hdst mk hmk
    exact ⟨fun hgood => hk.trans (congrArg _ (receiveFlit_transit k hdst hgood)), fun hbad => hk.trans (congrArg _ (receiveFlit_refuses k hbad))⟩
  · refine ⟨fun hlive hup hcrc => ?_, fun s1 htake hkind hdst => reservedFlit_channel htake hkind hdst,
      fun hup hsent hstopped hasked hlong => replayTimeout_replays hup hsent hstopped hasked hlong,
      fun hup hdue hstays => linkctlBeacon_sends hup hdue hstays⟩
    have hok := pilotOk_of hlive hup hcrc
    exact ⟨linkctl_frees hok, drain_marks hok, drain_answers hok, reservedFlit_pilot hlive⟩

/-! Answers (R274, R280, R281). -/

section
variable {s s1 : State} {n : Nat} {f : Flit} {x : Xfer} (htake : linkTake s n f = some s1) (hdst : f.dst.toNat = deviceNumber s)
  (hx : xferAt s1 f.xtag.toNat = some x)

include htake hdst hx in
theorem loadrsp_goes : execLoadrsp n f s = .next (match x.kind with
    | .load acc => partGot s1 x acc f.payload
    | .lineFill acc line stale => lineGiven s1 x acc line stale (padTo 64 f.payload)
    | .unitRead owner =>
      { dropXfer s1 x.xtag with remoteBuf := (dropXfer s1 x.xtag).remoteBuf ++ [(owner, x.peer, x.entry, padTo x.lsid f.payload)] }
    | _ => s1) := by
  rw [execLoadrsp, receiveFlit_arrives _ htake hdst]
  simp only [hx] <;> rfl

include htake hdst hx in
theorem amorsp_atomic {acc : Nat} {a : Access} (hk : x.kind = .atomic acc) (ha : accAt s1 acc = some a) :
    execAmorsp n f s = .next (partGot s1 x acc (padTo a.size f.payload)) := by
  rw [execAmorsp, receiveFlit_arrives _ htake hdst]
  simp only [hx, hk, ha]

include htake hdst hx in
theorem amorsp_cohort {id : Nat} {op : CohortOp} (hk : x.kind = .cohort id) (hop : s1.cohortOps.find? (fun o => o.id == id) = some op) :
    execAmorsp n f s = .next (cohAnswered
      { dropXfer s1 x.xtag with cohortOps := (dropXfer s1 x.xtag).cohortOps.filter fun o => o.id != id } op (payNat f 0 8)) := by
  rw [execAmorsp, receiveFlit_arrives _ htake hdst]
  simp only [hx, hk, hop]

include htake hdst hx in
theorem ack_goes (hpeer : x.peer = f.src.toNat) : execAck n f s = .next (
    if payNat f 0 4 = 1 then (if x.acc then xferSeen (dropXfer s1 x.xtag) x else s1)
    else if x.acc then s1
    else if accEnds x.kind then dropXfer s1 x.xtag
    else xferAcked { s1 with xfers := mapWhere (fun y => y.xtag == x.xtag) (fun y => { y with acc := true }) s1.xfers } x) := by
  rw [execAck, receiveFlit_arrives _ htake hdst]
  simp only [hx, hpeer, ne_eq, not_true_eq_false, if_false]

theorem bitsOf_low (v hi : Nat) : bitsOf v hi 0 = v % 2 ^ (hi + 1) := by
  simp [bitsOf]

include htake hdst in
theorem nak_response (hresponse : payNat f 8 8 = 1) : execNak n f s = .next s1 := by
  rw [execNak, receiveFlit_arrives _ htake hdst]
  simp only [hresponse, if_true]

include htake hdst hx in
theorem nak_fails (hrequest : payNat f 8 8 ≠ 1) (hmine : x.peer = f.src.toNat ∨ payNat f 0 4 % 2 ^ 10 = 0x300) :
    execNak n f s = .next (xferFails s1 x (payNat f 0 4 % 2 ^ 10) (payNat f 4 4 % 2 ^ 8)) := by
  rw [execNak, receiveFlit_arrives _ htake hdst]
  simp only [hrequest, if_false, hx, bitsOf_low]
  exact congrArg _ (if_neg fun h => hmine.elim h.1 h.2)

end

/-! Timeouts (R281). -/

section
variable {s : State} {x : Xfer}

/-- What waits for a tag finds nothing to send. -/
theorem pumps_idle (s : State) (hunsent : s.unsent = []) (hdist : s.dist = none) (hchunks : s.chunks = []) (k : Nat) :
    chunkPump k (distPump (stimsOut s.unsent.length s)) = s := by
  have hstims : stimsOut s.unsent.length s = s := by rw [hunsent]; rfl
  have hdistP : distPump s = s := by simp only [distPump, hdist]
  rw [hstims, hdistP]
  cases k with
  | zero => rfl
  | succ k => simp only [chunkPump, hchunks, List.find?_nil]

theorem remoteTimeout_waits (hone : s.xfers = [x]) (hunsent : s.unsent = []) (hdist : s.dist = none) (hchunks : s.chunks = [])
    (hlate : xferLate s x = false) : execRemoteTimeout s = .next (pushEvOnce s .remoteTimeout) := by
  have hnone : s.xfers.filter (xferLate s) = [] := by rw [hone, List.filter_cons, hlate]; rfl
  simp only [execRemoteTimeout, hnone, List.foldl_nil, pumps_idle s hunsent hdist hchunks]
  rw [hone]
  rfl

theorem remoteTimeout_fails {owner : Nat} (hone : s.xfers = [x]) (hunsent : s.unsent = []) (hdist : s.dist = none) (hchunks : s.chunks = [])
    (hlate : xferLate s x = true) (hk : x.kind = .unitRead owner) : execRemoteTimeout s =
      .next { s with xfers := [], remoteBad := s.remoteBad ++ [(owner, 0x303, xferAux x 0, x.entry)] } := by
  have hfirst : s.xfers.filter (xferLate s) = [x] := by rw [hone, List.filter_cons, hlate]; rfl
  have hin : s.xfers.contains x = true := by rw [hone]; simp
  have hdrop : dropXfer s x.xtag = { s with xfers := [] } := by
    have hgone : s.xfers.filter (fun y => y.xtag != x.xtag) = [] := by rw [hone]; simp
    rw [dropXfer, hgone]
    exact pumps_idle { s with xfers := [] } hunsent hdist hchunks 8
  have hfails : xferFails s x 0x303 0 =
      { s with xfers := [], remoteBad := s.remoteBad ++ [(owner, 0x303, xferAux x 0, x.entry)] } := by
    simp only [xferFails, hdrop, hk, unitFails]
  have hidle := pumps_idle { s with xfers := [], remoteBad := s.remoteBad ++ [(owner, 0x303, xferAux x 0, x.entry)] } hunsent hdist hchunks 8
  simp only [execRemoteTimeout, hfirst, List.foldl_cons, List.foldl_nil, hin, if_true, hfails, hidle]
  rfl

end

/-- Settles O50: the answers by the transfers that they are for, and the timeout of one that is late. -/
theorem answersReachTheirTransfers : Obligations.AnswersReachTheirTransfers := by
  refine ⟨fun s s1 n f x htake hdst hx => ?_, fun s x hone hunsent hdist hchunks =>
    ⟨fun hlate => remoteTimeout_waits hone hunsent hdist hchunks hlate,
     fun owner hlate hk => remoteTimeout_fails hone hunsent hdist hchunks hlate hk⟩⟩
  have loads : exec (.loadrsp n f) s = _ := loadrsp_goes htake hdst hx
  have acks : x.peer = f.src.toNat → exec (.ack n f) s = _ := ack_goes htake hdst hx
  refine ⟨fun acc hk => ?_, fun acc line stale hk => ?_, fun owner hk => ?_, fun acc a hk ha => amorsp_atomic htake hdst hx hk ha,
    fun id op hk hop => amorsp_cohort htake hdst hx hk hop, fun hpeer hvis hacc => ?_, fun hpeer hvis hacc hends => ?_,
    fun hpeer hvis hacc hends => ?_, nak_response htake hdst, nak_fails htake hdst hx⟩
  · rw [loads, hk]
  · rw [loads, hk]
  · rw [loads, hk]
  · exact (acks hpeer).trans (congrArg _ ((if_pos hvis).trans (if_pos hacc)))
  · exact (acks hpeer).trans (congrArg _ ((if_neg (by omega)).trans ((if_neg (ne_true_of_eq_false hacc)).trans (if_pos hends))))
  · exact (acks hpeer).trans (congrArg _ ((if_neg (by omega)).trans ((if_neg (ne_true_of_eq_false hacc)).trans
      (if_neg (ne_true_of_eq_false hends)))))

end Sys2Proof.Machine
end

section
/-! PROOFS. Flits at their target (R273 to R284). -/

namespace Sys2Proof.Machine

section
variable {s s1 : State} {n : Nat} {f : Flit} (htake : linkTake s n f = some s1) (hdst : f.dst.toNat = deviceNumber s)

include htake hdst in
/-- A flit for memory that is ready is taken and acts (R274). -/
theorem atTarget_acts {pa : Nat} {ev : Instr} (k : State → State) (hready : stackReady s pa = true) : atTarget s n f pa ev k = .next (k s1) := by
  have hgo : ¬(decide (f.dst.toNat = deviceNumber s) && decide (pa < Config.hbmBytes) && !stackReady s pa) = true := by
    rw [hready, Bool.not_true, Bool.and_false]
    exact nofun
  exact congrArg Host.Outcome.next ((if_neg hgo).trans (receiveFlit_arrives k htake hdst))

/-! Writes (R273, R280). -/

/-- What a peer's access looks like to the race checker's proxies (R338). -/
def through (s : State) (n kind pa len : Nat) (writes stores sync rel : Bool) : State :=
  proxyAccess s n (peerRace kind pa writes stores sync) rel pa len

theorem peerWrite_refuses {pa flags : Nat} {bs : List Byte} (hout : windowOk s pa bs.length = false) :
    peerWrite s n f pa flags bs = sendNak s f 0x302 := by
  rw [peerWrite, hout]
  rfl

theorem peerWrite_writes {s2 s3 : State} {pa flags : Nat} {bs : List Byte} (hin : windowOk s pa bs.length = true)
    (hfits : mergePut s pa bs = .ok s2)
    (hput : mergePut (through s n (if flags.testBit 2 then 5 else 1) pa bs.length true true (flags.testBit 2)
      (flags.testBit 2 && flags.testBit 3)) pa bs = .ok s3) :
    peerWrite s n f pa flags bs = sendAck (sendAck s3 f false) f true := by
  rw [through] at hput
  simp only [peerWrite, hin, Bool.not_true, Bool.false_eq_true, if_false, hfits, hput]

theorem testBit_mod_16 (v : Nat) {i : Nat} (hi : i < 4) : (v % 16).testBit i = v.testBit i := by
  rw [show 16 = 2 ^ 4 from rfl, Nat.testBit_mod_two_pow, decide_eq_true hi, Bool.true_and]

include htake hdst in
theorem write_goes (hready : stackReady s (payNat f 0 8) = true) : execWrite n f s = .next (
    if payNat f 8 4 % 2 ^ 17 ≤ 112 then
      peerWrite s1 n f (payNat f 0 8) (payNat f 12 4 % 16) ((padTo 128 f.payload).drop 16 |>.take (payNat f 8 4 % 2 ^ 17))
    else inBegin s1 n f (payNat f 0 8) (payNat f 8 4 % 2 ^ 17) (payNat f 12 4 % 16) []) := by
  rw [← bitsOf_low _ 16]
  exact atTarget_acts htake hdst _ hready

/-! Loads (R280). -/

include htake hdst in
theorem loadreq_refuses (hready : stackReady s (payNat f 0 8) = true)
    (hbad : payNat f 8 4 = 0 ∨ 128 < payNat f 8 4 ∨ windowOk s1 (payNat f 0 8) (payNat f 8 4) = false) :
    execLoadreq n f s = .next (sendNak s1 f 0x302) :=
  (atTarget_acts htake hdst _ hready).trans (congrArg _ (if_pos hbad))

include htake hdst in
theorem loadreq_answers (hready : stackReady s (payNat f 0 8) = true) (hpos : 0 < payNat f 8 4) (hfits : payNat f 8 4 ≤ 128)
    (hin : windowOk s1 (payNat f 0 8) (payNat f 8 4) = true) :
    let s2 := through s1 n (if (payNat f 12 4).testBit 2 then 4 else 0) (payNat f 0 8) (payNat f 8 4) false false ((payNat f 12 4).testBit 2) false
    hbmBad s2 (payNat f 0 8) (payNat f 8 4) = none →
    execLoadreq n f s = .next (sendAnswer s2 f 0x04 (hbmRead s2 (payNat f 0 8) (payNat f 8 4))) := by
  intro s2 hgood
  have hok : ¬(payNat f 8 4 = 0 ∨ 128 < payNat f 8 4 ∨ windowOk s1 (payNat f 0 8) (payNat f 8 4) = false) := by
    rintro (h | h | h)
    · omega
    · omega
    · exact Bool.noConfusion (hin.symm.trans h)
  refine (atTarget_acts htake hdst _ hready).trans (congrArg Host.Outcome.next ((if_neg hok).trans ?_))
  show (match hbmBad s2 (payNat f 0 8) (payNat f 8 4) with
    | some g => egressBad s2 f.src.toNat g
    | none => sendAnswer s2 f 0x04 (hbmRead s2 (payNat f 0 8) (payNat f 8 4))) = _
  rw [hgood]

/-! Atomics (R280). -/

/-- The kind of an atomic is told by the length of its request. -/
theorem amoAsked_kind {k : AccKind} {len : Nat} (h : amoAsked f = some (k, len)) :
    (match k with
      | .cas _ => 3
      | _ => 2) = if 24 < f.payload.length then 3 else 2 := by
  unfold amoAsked at h
  dsimp only at h
  split at h
  · obtain ⟨⟩ := h
    rw [if_pos ‹_›]
  · rw [if_neg ‹_›]
    split at h
    · exact absurd h nofun
    · split at h
      case h_6 => exact absurd h nofun
      all_goals
        obtain ⟨⟩ := h
        rfl

/-- What an atomic writes, if it writes (R280). -/
def atomicWrites (s : State) (pa len : Nat) (new : Option Nat) : State :=
  match new with
  | none => s
  | some v => hbmWrite s pa (leBytes len v)

theorem peerAtomic_answers {k : AccKind} {len : Nat} (hasked : amoAsked f = some (k, len)) (hin : windowOk s (payNat f 0 8) len = true)
    (hgood : hbmBad s (payNat f 0 8) len = none) :
    let pa := payNat f 0 8
    let old := leNat (hbmRead s pa len)
    let new := amoResult k (BitVec.ofNat 5 (bitsOf (payNat f 8 8) 13 9)) len old (payNat f 16 8) (payNat f 24 8)
    peerAtomic s n f = sendAnswer (atomicWrites (through s n (if 24 < f.payload.length then 3 else 2) pa len true new.isSome true
      (amoReleases f)) pa len new) f 0x06 (leBytes 8 old) := by
  simp only [peerAtomic, hasked, hin, hgood, Bool.not_true, Bool.false_eq_true, if_false, ← amoAsked_kind hasked]
  rfl

include htake hdst in
theorem amoreq_atomic (hnone : inAt s f = none) (hbit : bitsOf (payNat f 8 4) 31 31 = 0) (hready : stackReady s (payNat f 0 8) = true) :
    execAmoreq n f s = .next (peerAtomic s1 n f) := by
  have hno : ¬((inAt s f).isSome || bitsOf (payNat f 8 4) 31 31 == 1) = true := by rw [hnone, hbit]; exact nofun
  exact (if_neg hno).trans (atTarget_acts htake hdst _ hready)

/-! Requests of more than one flit (R280, R273). -/

theorem length_gathered_lt (got more : List Byte) (total : Nat) :
    ((got ++ more).take total).length < total ↔ got.length + more.length < total := by
  rw [List.length_take, List.length_append]
  omega

include htake hdst in
theorem data_goes {x : InXfer} (hx : inAt s f = some x) (hready : stackReady s x.pa = true) (hidx : f.idx.toNat * 128 = x.got.length)
    (hplain : x.flags.toNat < 2 ^ 31) : execData n f s = .next (
      if x.got.length + f.payload.length < x.total then inMore s1 f f.payload
      else peerWrite (dropIn s1 f) n f x.pa x.flags.toNat ((x.got ++ f.payload).take x.total)) := by
  have hnotPlate : ¬plateFlag ≤ x.flags.toNat := Nat.not_le.mpr hplain
  simp only [execData, hx, atTarget_acts htake hdst _ hready, hidx, ne_eq, not_true_eq_false, if_false, hnotPlate, length_gathered_lt]

include htake hdst in
theorem amoreq_cohort (hnone1 : inAt s1 f = none) (hbit : bitsOf (payNat f 8 4) 31 31 = 1) :
    execAmoreq n f s = .next (
      if cohortTotal f ≤ 128 then peerCohort s1 f f.payload else inBegin s1 n f 0 (cohortTotal f) 0 f.payload) := by
  have hyes : ((inAt s f).isSome || bitsOf (payNat f 8 4) 31 31 == 1) = true := by rw [hbit, beq_self_eq_true, Bool.or_true]
  refine (if_pos hyes).trans (congrArg Host.Outcome.next ((receiveFlit_arrives _ htake hdst).trans ?_))
  simp only [hnone1]

include htake hdst in
theorem amoreq_more {x : InXfer} (hx : inAt s f = some x) (hx1 : inAt s1 f = some x) : execAmoreq n f s = .next (
    if x.got.length + f.payload.length < x.total then inMore s1 f f.payload else peerCohort (dropIn s1 f) f (x.got ++ f.payload)) := by
  have hyes : ((inAt s f).isSome || bitsOf (payNat f 8 4) 31 31 == 1) = true := by rw [hx]; rfl
  refine (if_pos hyes).trans (congrArg Host.Outcome.next ((receiveFlit_arrives _ htake hdst).trans ?_))
  simp only [hx1, List.length_append]

/-! Stimuli (R273). -/

include htake hdst in
theorem stim_whole (hnone : inAt s1 f = none) (hlen : (stimLen f.payload + 1) * 16 = f.payload.length) :
    execStim n f s = .next (peerStim s1 f f.payload) := by
  refine congrArg Host.Outcome.next ((receiveFlit_arrives _ htake hdst).trans ?_)
  have hall : max 16 ((stimLen f.payload + 1) * 16) = f.payload.length := by omega
  simp only [hnone]
  rw [if_pos (.inl hlen.le), hall, List.take_length]

include htake hdst in
theorem stim_begins (hnone : inAt s1 f = none) (hfirst : f.idx = 0) (hmore : f.payload.length < (stimLen f.payload + 1) * 16) :
    execStim n f s = .next (inBegin s1 n f 0 ((stimLen f.payload + 1) * 16) 0 f.payload) := by
  refine congrArg Host.Outcome.next ((receiveFlit_arrives _ htake hdst).trans ?_)
  have hpart : ¬((stimLen f.payload + 1) * 16 ≤ f.payload.length ∨ f.idx ≠ 0) := by
    rintro (h | h)
    · omega
    · exact h hfirst
  simp only [hnone]
  exact if_neg hpart

include htake hdst in
theorem stim_more {x : InXfer} (hx : inAt s1 f = some x) : execStim n f s = .next (
    if x.got.length + f.payload.length < x.total then inMore s1 f f.payload
    else peerStim (dropIn s1 f) f ((x.got ++ f.payload).take x.total)) := by
  refine congrArg Host.Outcome.next ((receiveFlit_arrives _ htake hdst).trans ?_)
  simp only [hx, length_gathered_lt]

/-! Plate chunks (R283, R284). -/

/-- The head of a chunk, with what an earlier flit of it has brought. -/
def chunkHead (s : State) (f : Flit) : List Byte :=
  (match s.chunks.find? fun c => c.1 == arrivalKey f.src.toNat f.xtag.toNat with
    | some (_, _, h) => if f.idx = 0 then [] else h
    | none => []) ++ f.payload

theorem chunkHead_first (hfirst : f.idx = 0) : chunkHead s f = f.payload := by
  unfold chunkHead
  split
  · rw [if_pos hfirst, List.nil_append]
  · exact List.nil_append _

theorem chunkHead_later {key c : Nat} {h : List Byte} (hlater : f.idx ≠ 0)
    (hfound : s.chunks.find? (fun e => e.1 == arrivalKey f.src.toNat f.xtag.toNat) = some (key, c, h)) : chunkHead s f = h ++ f.payload := by
  simp only [chunkHead, hfound, hlater, if_false]

/-- The state with the head of a chunk kept; a first chunk may be forwarded again. -/
def chunkKept (s : State) (f : Flit) (head : List Byte) : State :=
  let key := arrivalKey f.src.toNat f.xtag.toNat
  let c := headNat head 8 4
  { s with
    chunks := s.chunks.filter (fun e => e.1 != key) ++ [(key, c, head)]
    chainStopped := if c = 0 then s.chainStopped.filter (fun k => k != chunkOf head) else s.chainStopped }

theorem chunkKept_eq (s : State) (f : Flit) (head : List Byte) : chunkKept s f head =
    let s0 := if headNat head 8 4 = 0 then { s with chainStopped := s.chainStopped.filter fun k => k != chunkOf head } else s
    { dropChunk s0 (arrivalKey f.src.toNat f.xtag.toNat) with
      chunks := (dropChunk s0 (arrivalKey f.src.toNat f.xtag.toNat)).chunks ++
        [(arrivalKey f.src.toNat f.xtag.toNat, headNat head 8 4, head)] } := by
  by_cases hc : headNat head 8 4 = 0
  · simp only [chunkKept, hc, if_true]
    rfl
  · simp only [chunkKept, hc, if_false]
    rfl

include htake hdst in
theorem plate_reports (hend : bitsOf (headNat (chunkHead s1 f) 0 8) 40 34 = 0) : execPlate n f s =
    .next (pushEv s1 (.distributionReport (headNat (chunkHead s1 f) 8 4) (headNat (chunkHead s1 f) 12 4))) := by
  refine congrArg Host.Outcome.next ((receiveFlit_arrives _ htake hdst).trans ?_)
  exact if_pos hend

include htake hdst in
theorem plate_keeps (hmore : 0 < bitsOf (headNat (chunkHead s1 f) 0 8) 40 34) : execPlate n f s = .next (
    if (chunkHead s1 f).length < 16 + 8 * bitsOf (headNat (chunkHead s1 f) 0 8) 40 34 then chunkKept s1 f (chunkHead s1 f)
    else inBegin (chunkKept s1 f (chunkHead s1 f)) n f
      (chainPa ((chunkChain (chunkHead s1 f)).headD 0) + 65536 * headNat (chunkHead s1 f) 8 4) 65536 plateFlag []) := by
  have hcount : ¬bitsOf (headNat (chunkHead s1 f) 0 8) 40 34 = 0 := by omega
  rw [chunkKept_eq]
  exact congrArg Host.Outcome.next ((receiveFlit_arrives _ htake hdst).trans (if_neg hcount))

end

/-- Settles O49: each flit at its target by its own branch, once the link has taken it. -/
theorem flitsAtTheirTarget : Obligations.FlitsAtTheirTarget := by
  intro s s1 n f htake hdst pa total rel thr
  refine ⟨fun hready => ⟨?_, fun hlong => ?_, ?_, ?_⟩, fun x hx hready hidx hplain => data_goes htake hdst hx hready hidx hplain,
    fun _ hnone1 hbit => amoreq_cohort htake hdst hnone1 hbit, fun x hx hx1 => amoreq_more htake hdst hx hx1,
    fun hnone => ⟨stim_whole htake hdst hnone, stim_begins htake hdst hnone⟩, fun x hx => stim_more htake hdst hx, fun hfirst hend => ?_, ?_⟩
  · intro bs hshort hbs
    have goes : exec (.write n f) s = .next (peerWrite s1 n f pa (payNat f 12 4 % 16) bs) := by
      subst hbs
      exact (write_goes htake hdst hready).trans (congrArg _ (if_pos hshort))
    refine ⟨fun hout => goes.trans (congrArg _ (peerWrite_refuses hout)), fun s2 s3 hin hfits hput => goes.trans (congrArg _ ?_)⟩
    refine peerWrite_writes hin hfits ?_
    rw [testBit_mod_16 _ (by decide), testBit_mod_16 _ (by decide)]
    exact hput
  · exact (write_goes htake hdst hready).trans (congrArg _ (if_neg (Nat.not_le.mpr hlong)))
  · rintro len rfl
    exact ⟨loadreq_refuses htake hdst hready, loadreq_answers htake hdst hready⟩
  · intro k len hnone hbit hasked hin hgood
    exact (amoreq_atomic htake hdst hnone hbit hready).trans (congrArg _ (peerAtomic_answers hasked hin hgood))
  · have hhead : chunkHead s1 f = f.payload := chunkHead_first hfirst
    rw [← hhead] at hend ⊢
    exact plate_reports htake hdst hend
  · intro key head hhead count c s2 hpos
    have hsame : chunkHead s1 f = head := by
      obtain ⟨hfirst, rfl⟩ | ⟨hlater, c, h, hfound, rfl⟩ := hhead
      · exact chunkHead_first hfirst
      · exact chunkHead_later hlater hfound
    subst hsame
    exact plate_keeps htake hdst hpos

end Sys2Proof.Machine
end

section
/-! PROOFS. The step of the model (log entries 1, 195 and 200). -/

namespace Sys2Proof.Machine

/-- The oldest item of a queue is the oldest of its lane. -/
theorem laneHead_first (w : Work) (rest : List Work) : laneHead (w :: rest) 0 = 0 := by
  unfold laneHead
  split
  · rfl
  · rename_i l hl
    have hlane : laneOf w = some l := hl
    rw [List.findIdx_cons, hlane, beq_self_eq_true]
    rfl

section
variable {s s1 : State} {f : Firing} {x : Ctx} {i : Instr} {rest : List Work}

theorem runAt_event (hqueue : s.queue = .event i :: rest) : runAt s 0 = runEvent { s with queue := rest } i := by
  simp only [runAt, hqueue, laneHead_first, List.getElem?_cons_zero, List.eraseIdx_cons_zero]

theorem runAt_fire (hqueue : s.queue = .fire f :: rest) : runAt s 0 = runFiring { s with queue := rest } f := by
  simp only [runAt, hqueue, laneHead_first, List.getElem?_cons_zero, List.eraseIdx_cons_zero]

/-- With an empty schedule the oldest item moves, 1 ns later. -/
theorem step_oldest (hscript : s.script = []) : step s = runAt { s with now := s.now + 1 } 0 := by
  rw [step, runNext, hscript]

theorem runFiring_acts (hx : ctxAt s f.ctx = some x) (hrun : x.frozen = none) (hbegun : x.begun = [])
    (hturn : shareTurn s x.press x.ten = some s1) (hi : decodeInstr (wordFor x.image f.inst f.iter).1 = .ok i) :
    runFiring s f = runInstr (takeCycle s1 (meetsOfFiring x f)) i f := by
  simp [runFiring, hx, hrun, hbegun, hturn, hi]

theorem runFiring_parks (hx : ctxAt s f.ctx = some x) (hheld : x.frozen.isSome = true ∨ x.begun ≠ []) :
    runFiring s f = .next (parkWork s f.ctx (.fire f)) := by
  have h : (x.frozen.isSome || !x.begun.isEmpty) = true := by
    rw [Bool.or_eq_true, Bool.not_eq_true', List.isEmpty_eq_false_iff]
    exact hheld
  simp only [runFiring, hx, h, if_true]

end

/-! Picks of the schedule. -/

section
variable {s : State} {p : Pick} {r : List Pick} {i : Instr}

theorem step_picks (hscript : s.script = p :: r) : step s = runPick { s with now := s.now + p.dt, script := r } p := by
  rw [step, runNext, hscript]

/-- A posted write of a link on which others wait goes behind them (R72). -/
theorem runPick_posts {l : Nat} (hext : p.ext = some i) (hout : outside i = true) (hwf : i.wf = true) (hlink : hostLink i = some l)
    (hwaits : s.queue.any (postedBy l) = true) : runPick s p = .next (pushEv s i) := by
  simp only [runPick, hext, hout, hwf, hlink, hwaits, Bool.and_self, Bool.not_true, Bool.false_eq_true, if_false, if_true]

/-- Another pick from outside is that event. -/
theorem runPick_happens (hext : p.ext = some i) (hout : outside i = true) (hwf : i.wf = true)
    (hfree : ∀ l, hostLink i = some l → s.queue.any (postedBy l) = false) : runPick s p = runEvent s i := by
  simp only [runPick, hext, hout, hwf, Bool.and_self, Bool.not_true, Bool.false_eq_true, if_false]
  cases hlink : hostLink i with
  | none => exact if_neg nofun
  | some l => exact if_neg (ne_true_of_eq_false (hfree l hlink))

end

/-- Settles O54: the oldest item by its kind, and a pick by the link it comes over. -/
theorem stepRunsDecoded : Obligations.StepRunsDecoded := by
  intro s
  refine ⟨fun f x s1 i rest hscript hqueue hx hrun hbegun hturn hi => ?_, fun f x rest hscript hqueue hx hheld => ?_,
    fun i rest hscript hqueue => (step_oldest hscript).trans (runAt_event hqueue),
    fun p r i hscript hext hout hwf => ⟨fun ⟨l, hlink, hwaits⟩ => (step_picks hscript).trans (runPick_posts hext hout hwf hlink hwaits),
      fun hfree => (step_picks hscript).trans (runPick_happens hext hout hwf hfree)⟩⟩
  · exact ((step_oldest hscript).trans (runAt_fire hqueue)).trans (runFiring_acts hx hrun hbegun hturn hi)
  · exact ((step_oldest hscript).trans (runAt_fire hqueue)).trans (runFiring_parks hx hheld)

end Sys2Proof.Machine
end
